-- ==== Sys2Proof/Word.lean ====
section
/-! DEFINITION. The word types of the block: physical addresses, lines, byte masks, array words and flits
(spec 02 R24, 03 R66, R68, R89). -/

namespace Sys2Proof

/-- A physical byte address PA[51:0] (03 R68). -/
abbrev PA := BitVec 52

/-- A 64-byte line; byte b is bits [8b+7:8b] (03 R89). -/
abbrev Line := BitVec 512

/-- A byte mask of a line, bit n for byte n (03 Table 03-4). -/
abbrev Mask := BitVec 64

/-- An array entry of four 18-bit words (02 R24). -/
abbrev Entry := BitVec 72

/-- A header flit (03 R66). -/
abbrev HdrFlit := BitVec 144

/-- A data flit (03 R89). -/
abbrev DatFlit := BitVec 288

/-- One byte. -/
abbrev Byte := BitVec 8

/-- A 64-bit word. -/
abbrev W64 := BitVec 64

end Sys2Proof
end

