-- ==== Sys2Proof/Config.lean ====
section
/-! DEFINITION. What an integration fixes (spec 01 R11, Table 01-2; 11 R275; 13 R347; 14 R371) and the values the
spec leaves open, as constants with no body. -/

namespace Sys2Proof

/-- A calibration set of a slice (17 R439, Table 17-9): read-margin trims (bytes 8 to 31), margin-monitor
offsets (bytes 32 to 47) and ledger coefficients. -/
structure CalSet where
  /-- TRIM_FINE, TRIM_LOAF, TRIM_HLCD, TRIM_HLCT, TRIM_TRK: record bytes 8 to 31, byte 8 lowest. -/
  trims : BitVec 192
  /-- MOFS of monitors 0 to 7, 16 bits each, monitor 0 lowest. -/
  mofs : BitVec 128
  atom : BitVec 16
  data : BitVec 16
  nodata : BitVec 16
  lookup : BitVec 16
  scan : BitVec 16
  leak : BitVec 32
  /-- SLC_CAL_STATUS.WRITTEN, held with the set (18 R446). -/
  written : Bool
  deriving DecidableEq, Repr

/-- The integration parameters and straps. -/
structure Params where
  /-- N_SLICE, 36 to 68. -/
  nSlice : Nat
  /-- N_ACTIVE, 32 to min(64, N_SLICE - 4). -/
  nActive : Nat
  /-- N_MPORT, 1 to 16. -/
  nMport : Nat
  /-- N_FUNC, 1 to 16. -/
  nFunc : Nat
  /-- HCLK DVFS points, 1 to 8. -/
  nDvfs : Nat
  /-- Strapped agents by shim index: bit a for caching agent a, bit 256 + j for non-caching agent 0x100 + j
  (01 R13, 18 R446). The shim index of an agent equals its agent ID. -/
  strapped : BitVec 288
  /-- WARDEN_A and WARDEN_B (14 R371). -/
  wardenA : Nat
  wardenB : Nat
  /-- Identity straps (11 Table 11-1). -/
  vendorId : BitVec 16
  deviceId : BitVec 16
  revisionId : BitVec 8
  classCode : BitVec 24
  subVendorId : BitVec 16
  subsystemId : BitVec 16
  /-- BAR4_SIZE strap (11 Table 11-1). -/
  bar4Size : Nat
  /-- Block revision (18 SPN_REV). -/
  blockRev : BitVec 32
  /-- Header of the base recipe: RECIPE_ID, LCP_MAX, FEAT (13 R347). -/
  baseId : BitVec 32
  baseLcp : Nat
  baseFeat : BitVec 4
  /-- Bytes of the base recipe's image (13 R346). -/
  baseLen : Nat
  deriving DecidableEq, Repr

/-- The reference configuration (00 Table 00-1, 01 Table 01-2): agents 0x000 to 0x0CF, and 32 non-caching agents.
DESIGN CHOICE (log 2): values the spec does not fix. -/
def Params.reference : Params where
  nSlice := 68
  nActive := 64
  nMport := 16
  nFunc := 16
  nDvfs := 4
  strapped := BitVec.ofNat 288 ((2 ^ 208 - 1) + (2 ^ 32 - 1) * 2 ^ 256)
  wardenA := 0
  wardenB := 1
  vendorId := 0#16
  deviceId := 0#16
  revisionId := 0#8
  classCode := 0x088000#24
  subVendorId := 0#16
  subsystemId := 0#16
  bar4Size := 6
  blockRev := 1#32
  baseId := 0#32
  baseLcp := 3
  baseFeat := 7#4
  baseLen := 16

/-- The legal ranges of Table 01-2 and R371, as R11 has Eonex check them. -/
def Params.legal (p : Params) : Bool :=
  36 ≤ p.nSlice && p.nSlice ≤ 68 && 32 ≤ p.nActive && p.nActive ≤ min 64 (p.nSlice - 4) &&
  1 ≤ p.nMport && p.nMport ≤ 16 && 1 ≤ p.nFunc && p.nFunc ≤ 16 && 1 ≤ p.nDvfs && p.nDvfs ≤ 8 &&
  p.strapped.toNat % 2 ^ 256 != 0 &&
  p.wardenA < p.nFunc && p.wardenB < p.nFunc &&
  (if p.nFunc = 1 then p.wardenA = 0 && p.wardenB = 0 else p.wardenA != p.wardenB) &&
  p.bar4Size < 7 && 1 ≤ p.baseLcp && p.baseLcp ≤ 3 &&
  1 ≤ p.baseLen && p.baseLen ≤ 1536

namespace Config

/-- The fused trims of a slice (17 R440): the spec gives no values. A free value (log 8). -/
opaque fusedTrims (slice : Nat) : BitVec 192

/-- The fused margin-monitor offsets of a slice. A free value (log 8). -/
opaque fusedMofs (slice : Nat) : BitVec 128

/-- The engine the spine chooses for a bucket that it moves to a slice without a command naming one
(08 R228 step 1: "the engine the spine chose"). A free value (log 11). -/
opaque spineEngine (bucket target : Nat) : Fin 4

/-- The image of the base recipe (13 R347): built by Eonex, not given. A free value (log 10). -/
opaque baseImage (n : Nat) : Byte

/-- The SECDED syndrome that a tray error reports (15 Table 15-5, 0x09 and 0x0A): the spec gives no code matrix
(07 R212). A free value (log 9). -/
opaque traySyndrome (slice codeword : Nat) (data : BitVec 512) : BitVec 10

/-- The bytes of poisoned line data that the block itself makes for a line in P (04 Table 04-2): lost data has no
stated value. A free value (log 14). -/
opaque lostData (line : BitVec 52) : BitVec 512

/-- How much more than 1 ns after the record before it a slice captures its statistics record, for the i-th after the first (12
R322: records of different slices are captured at different instants). A free value (log 118). -/
opaque snapshotGap (first : BitVec 64) (i : Nat) : BitVec 32

end Config

/-- The fused calibration set of a slice: reference coefficients (Table 17-6), free trims and offsets. -/
def CalSet.fused (slice : Nat) : CalSet where
  trims := Config.fusedTrims slice
  mofs := Config.fusedMofs slice
  atom := 9000#16
  data := 32000#16
  nodata := 8100#16
  lookup := 900#16
  scan := 3400#16
  leak := 50000000#32
  written := false

end Sys2Proof
end

