-- ==== Sys2Proof/Syntax.lean ====
section
/-! DEFINITION. The commands of the block: one constructor for each row of spec/opcode_table.json, in the table's
order, with the operands that its rule needs. A message arrives as the flits of spec 03 R66 and R89; what a host
returns (a descriptor, a buffer, a translation) is an operand; where the spec leaves a choice (which free tracker
is taken; which of the internal messages that have arrived is handled next), the choice is an operand, so that no
statement rests on one choice (log 12). -/

namespace Sys2Proof

/-- The flits of one message as they arrive, with the class code of the virtual channel they came on (03 R62,
R64). A message with fewer data flits leaves the others 0 and they are not read. -/
structure Flits where
  vc : BitVec 3
  hdr : HdrFlit
  d0 : DatFlit
  d1 : DatFlit
  deriving DecidableEq, Repr

/-- What a read of host memory returns (12 Table 12-4, Table 12-9): the bytes, or why it failed. -/
inductive HostRead where
  | bytes (b : List Byte)
  /-- Unsupported Request or Completer Abort, with the completion status. -/
  | completionError (status : BitVec 4)
  | poisoned
  | timeout
  /-- Translation fault at the ATC, with the untranslated address and status (10 R271). -/
  | translationFault (addr : W64) (status : BitVec 4)
  | walkBusError (addr : W64) (status : BitVec 4)
  deriving DecidableEq, Repr

/-- How the translation of a posted write to host memory ends (12 R319, R320). -/
inductive HostWrite where
  | done
  | translationFault (addr : W64) (status : BitVec 4)
  | walkBusError (addr : W64) (status : BitVec 4)
  deriving DecidableEq, Repr

/-- How a Translation Request ends (10 R271): its completion, or none within 10 ms (11 R276). -/
inductive Translation where
  | success (page : W64) (sizeLog2 : Nat) (read write : Bool)
  | unsupportedRequest
  | completerAbort
  | poisoned
  | timeout
  deriving DecidableEq, Repr

/-- Which non-posted request of a function timed out (11 R276). -/
inductive NonPosted where
  | descriptor
  | operandBuffer (idx : Nat)
  | translation (addr : W64) (speculative : Bool)
  deriving DecidableEq, Repr

/-- The scans a slice runs at the rate of R223 (08 R223, R231; 09 R246; 13 R334; 14 R359; 15 R396; 07 R208). -/
inductive ScanKind where
  | move | copy | purge | scrub | recolour | disable | tray
  deriving DecidableEq, Repr

/-- The commands. `k` says which of the internal messages that wait is taken, the oldest unless it says otherwise (01 R10);
`bar` is the BAR of an access, BAR0 unless it says otherwise (11 R278). -/
inductive Instr where
  | shimAgentMessage (sh : Nat) (f : Flits)
  | drainCopiesSend (sh : Nat)
  | shimInject (sh : Nat)
  | shimMeshMessage (sh : Nat) (f : Flits)
  | bucketMapUpdate (sh : Nat) (k : Nat := 0)
  | lostSliceNotice (sh : Nat) (k : Nat := 0)
  | agentReset (sh : Nat)
  | autoRetireStart (sh : Nat)
  | shimReset (sh : Nat)
  | shimResetApply (sh : Nat)
  | headerTake (n t : Nat) (f : Flits)
  | lineChainStart (n t : Nat)
  | transactionDecision (n t : Nat)
  | censusWalkStart (n t b : Nat)
  | spineControlOrder (n t job : Nat)
  | snDone (n : Nat) (f : Flits)
  | cnsLine (n t : Nat) (f : Flits)
  | datWb (n : Nat) (f : Flits)
  | seal (n : Nat) (f : Flits)
  | stashTake (n : Nat) (f : Flits)
  | stashRefuse (n : Nat) (f : Flits)
  | memDat (n : Nat) (f : Flits)
  | memAck (n : Nat) (f : Flits)
  | mbIssue (n e : Nat)
  | trayAccess (n : Nat) (f : Flits)
  | trayScrub (n : Nat)
  | snoopResponseTimeout (n t : Nat)
  | evictionSnoopTimeout (n t : Nat)
  | censusWalkTimeout (n t : Nat)
  | sealTimeout (n t : Nat)
  | memoryReadTimeout (n t : Nat)
  | stashAnswerTimeout (n t : Nat)
  | holdExpiry (n : Nat) (line : PA)
  | anvilIdleExit (n : Nat) (line : PA)
  | anvilCooldownEnd (n : Nat) (line : PA)
  | stealIdleStart (n e : Nat)
  | stealFlip (n : Nat)
  | stealAbandon (n : Nat)
  | stealHoldoffEnd (n b : Nat)
  | recipeBankSwap (n : Nat)
  | moveScanSlot (n t : Nat) (k : ScanKind)
  | copyEntryReceive (n t : Nat) (k : Nat := 0)
  | copyRefusalReceive (n t : Nat) (k : Nat := 0)
  | copyAckReceive (n : Nat) (k : Nat := 0)
  | bucketFlip (b : Nat)
  | spineMapAck (k : Nat := 0)
  | purgeScanEnd (n : Nat)
  | temperWindowEnd
  | seedEnd (n : Nat)
  | slicePowerRemoved (n : Nat)
  | slicePowerRestored (n : Nat)
  | salvageStart (n : Nat)
  | portNoticeAnswer (p n : Nat)
  | portQuiesceTimeout (n : Nat)
  | autoEvacuate (n : Nat)
  | wayDisableWalkEnd (n : Nat)
  | memportMemRd (p : Nat) (f : Flits)
  | memportWriteHalf (p : Nat) (f : Flits)
  | memportReadReturn (p n t : Nat) (data : Line) (poison : Bool)
  | memportWriteDone (p n e : Nat)
  | tlbInv (f : Flits)
  | tlbAck (f : Flits)
  | tlbSync (f : Flits)
  | relayTimeout (e : Nat)
  | bar4Request (fn : Nat) (write : Bool) (offset len : Nat) (data : List Byte) (enables : List Bool) (ep : Bool)
  | spineRequesterAnswer (fn : Nat) (f : Flits)
  | registerWrite (fn off size : Nat) (v : W64) (bar : Nat := 0) (ts : W64 := 0)
  | sqDataRead (fn off size : Nat)
  | setupLockSet (fn off size : Nat) (v : W64)
  | traySegWrite (fn off size : Nat) (v : W64)
  | firstErrorClear (fn off size : Nat) (v : W64)
  | assayStatusClear (fn off size : Nat) (v : W64)
  | faultInjectArm (fn off size : Nat) (v : W64)
  | errOutWrite (fn off size : Nat) (v : W64)
  | nmiAck
  | doorbellCmdPidx (fn : Nat) (v : BitVec 32)
  | doorbellCplCidx (fn : Nat) (v : BitVec 32)
  | doorbellEvtCidx (fn : Nat) (v : BitVec 32)
  | cmdResume (fn off size : Nat) (v : W64)
  | cplResume (fn off size : Nat) (v : W64)
  | evtResume (fn off size : Nat) (v : W64)
  | ringEnable (fn off size : Nat) (v : W64) (ts : W64 := 0)
  | ringDisable (fn off size : Nat) (v : W64)
  | msixUnmask (fn vec : Nat) (functionMask : Bool)
  | functionLevelReset (fn : Nat)
  | powerStateChange (fn : Nat) (d3hot : Bool)
  | busMasterEnableChange (fn : Nat) (busMaster memorySpace ats : Bool) (functionMask : Bool := false)
  | atsInvalidationRequest (fn : Nat) (addr : W64) (len : Nat)
  | atsTranslationCompletion (fn : Nat) (addr : W64) (needWrite speculative : Bool) (r : Translation)
  | nonPostedTimeout (fn : Nat) (what : NonPosted)
  | commandFetch (fn : Nat) (r : HostRead)
  | descriptorRefetch (fn : Nat) (r : HostRead)
  | completionWrite (fn : Nat) (w : HostWrite)
  | nop (fn idx : Nat)
  | flushRange (fn idx : Nat)
  | cleanRange (fn idx : Nat)
  | invalRange (fn idx : Nat)
  | censusRange (fn idx : Nat)
  | lineRestore (fn idx t : Nat) (r : HostRead)
  | bucketMove (fn idx : Nat)
  | sliceEvacuate (fn idx : Nat)
  | sliceCopy (fn idx : Nat)
  | sliceAdmit (fn idx : Nat)
  | sliceReset (fn idx : Nat)
  | recipeLoad (fn idx : Nat) (r : HostRead)
  | trayConfigure (fn idx : Nat)
  | trayConvertEnd (n : Nat)
  | anvilConfig (fn idx : Nat)
  | timeoutSet (fn idx : Nat)
  | modeSet (fn idx : Nat)
  | hallmarkConfig (fn idx : Nat)
  | windowSync (fn idx : Nat)
  | agentAdmit (fn idx : Nat) (agentRstN : Bool) (shimRstN : Bool := true)
  | admitHandshake (sh : Nat) (cap : BitVec 3)
  | admitOpen (sh : Nat)
  | admitWaitTimeout (sh : Nat)
  | agentRetire (fn idx : Nat)
  | retireSilence (sh : Nat)
  | retireScrubEnd (sh : Nat)
  | calRead (fn idx : Nat) (w : HostWrite)
  | calWrite (fn idx : Nat) (r : HostRead)
  | calApplyEnd (n : Nat)
  | touchmark (fn idx : Nat) (r : HostRead)
  | countermark (fn idx : Nat)
  | recolourScanEnd (n : Nat)
  | wardenWindowLapse (pid : Nat)
  | atcLock (fn idx : Nat) (r : Translation)
  | atcUnlock (fn idx : Nat)
  | statsSnapshot (fn idx : Nat) (w : HostWrite) (ts : W64)
  | summaryEdge (part : Nat) (ts : W64 := 0)
  | chipResetRequest (late : Bool := false)
  | errOutPulseEnd
  | dualRailMismatch (part pairs : Nat)
  | dualRailMaintRead (part : Nat)
  | engineWatchdog (n e : Nat)
  | marginCheck (n m : Nat) (reading : BitVec 12)
  | ledgerLeakTick (n : Nat)
  | hallmarkCollect (node : Nat) (ts : W64)
  | tokenRefill (code : Nat) (ts : W64)
  | eventRingWrite (fn : Nat) (w : HostWrite) (ts : W64 := 0)
  | powerFailWarning (ts : W64)
  | lastGaspWrite (ts : W64)
  | coldReset
  | chipReset
  | dvfsRequest (pt : Nat)
  | dvfsReady
  | dvfsRelease
  | throttleChange (lvl : Nat)
  | dualRailEpisodeEnd (part : Nat)
  | registerRead (fn off size : Nat) (bar : Nat := 0)
  | readyForConfigurationRequests (fn : Nat)
  deriving DecidableEq, Repr

end Sys2Proof
end

