-- ==== Sys2Proof/Decode.lean ====
section
/-! DEFINITION. Words that spell commands: spec/opcode_table.json gives no row any bits, since a command is an event at the
block, so no word spells one. -/

namespace Sys2Proof

/-- The command that a word of nbits bits spells: none. -/
def decodeTableWord (nbits w : Nat) : Option Instr :=
  match nbits, w with
  | _, _ => none

end Sys2Proof
end

