-- ==== Sys2Proof/Machine/State.lean ====
section
/-! DEFINITION. The state of the block: every register, array, queue, counter, mode and pin that the spec gives its
parts, as plain data, and the queue of waiting commands. Large arrays and part tables are sparse lists (`Map`) in
one canonical form: keys strictly rising, no entry equal to what an unlisted key reads as. -/

namespace Sys2Proof.Machine

/-- A sparse table by number: (key, value) pairs, keys strictly rising. -/
abbrev Map (α : Type) := List (Nat × α)

/-! ### Messages -/

/-- The message opcodes (03 Tables 03-8, 03-9, 03-10, 03-12). -/
inductive Op where
  | rdShare | rdOwn | rdOnce | upgrade | wrFull | wrPart | wrStash | atomOp | pfHint | drainW | tlbInvReq | tlbSync
  /-- Spine control, OPC 0x18 + k: internal to the block (03 Table 03-8). -/
  | spineCtl (k : Fin 8)
  | wbDirty | wbClean | drop
  | snShare | snOwn | snFwdShare | snFwdOwn | snKill | snCensus | snStash | tlbInvSnp
  | grant | seal | rest | snDone | stashTake | stashRefuse | tlbAck | cnsLine | memRd | memWr | memAck
  | datS | datX | datO | datWb | datFwd | datAtom | memWd | memDat
  deriving DecidableEq, Repr

/-- A message, field by field (03 Tables 03-2 to 03-4, 03-13, 03-14). Fields its opcode does not use are 0. -/
structure Msg where
  op : Op
  src : BitVec 9 := 0
  dst : BitVec 9 := 0
  htrk : BitVec 8 := 0
  rqtx : BitVec 10 := 0
  /-- SUB in form A, STATE in form C. -/
  sub : BitVec 3 := 0
  aux : BitVec 4 := 0
  peer : BitVec 9 := 0
  gen : BitVec 6 := 0
  soft : Bool := false
  hold : Bool := false
  tid : BitVec 12 := 0
  ord : BitVec 2 := 0
  fwd : Bool := false
  addr : PA := 0
  bmask : Mask := 0
  data : Line := 0
  /-- Enabled bytes as the BE bits of the flits give them: bit 16 f + w is BE[w] of flit f. -/
  be : BitVec 32 := 0
  poison : Bool := false
  deriving DecidableEq, Repr

/-- Internal messages between parts that have no flit format: map updates and acknowledgments (08 R229, R230),
copied entries, mirrored writes, refusals and their acknowledgments (08 R224, R225), lost-slice notices (13 R338). -/
inductive Wire where
  | mapUpdate (sh b slice engine : Nat) (gen : BitVec 6) (needAck : Bool)
  | mapAck (sh b : Nat) (gen : BitVec 6)
  | copyFine (src dst set way : Nat) (old e : Entry) (exact mirror : Bool)
  | copyLoaf (src dst set way : Nat) (old e : Entry) (exact mirror : Bool)
  | copyRefuse (src dst set : Nat) (isLoaf : Bool) (e : Entry)
  | copyAck (src dst set : Nat) (isLoaf : Bool) (b : Nat)
  | lostNotice (sh slice : Nat) (rqtxs : List (BitVec 10 × Nat))
  | ackNone
  deriving DecidableEq, Repr

/-- What the block drives towards agents, memory controllers and hosts. -/
inductive Out where
  | toAgent (sh : Nat) (m : Msg)
  | admitted (sh : Nat) (on : Bool) (rev : Nat)
  | ctrlRead (port : Nat) (line : PA) (slice htrk : Nat)
  | ctrlWrite (port : Nat) (line : PA) (data : Line) (mask : Mask) (poison : Bool)
  | readDone (fn : Nat) (completerAbort : Bool) (v : W64)
  | windowRead (fn : Nat) (bytes : List Byte) (poison : List Bool)
  | unsupported (fn : Nat)
  | aerCompleterAbort (fn : Nat)
  | hostWrite (fn : Nat) (addr : W64) (bytes : List Byte)
  | msix (fn vec : Nat) (addr : W64) (data : BitVec 32)
  | invalidationDone (fn : Nat)
  | hostRead (fn : Nat) (addr : W64) (len : Nat)
  | translationRequest (fn : Nat) (page : W64) (write : Bool)
  deriving DecidableEq, Repr

/-! ### Filters -/

/-- A fine-filter entry (02 Table 02-3), parity bits aside. -/
structure FineEntry where
  ptag : BitVec 17 := 0
  taghi : BitVec 16 := 0
  sfmt : Bool := false
  hstate : BitVec 3 := 0
  colour : BitVec 4 := 0
  stash : Bool := false
  anvil : Bool := false
  hpf : Bool := false
  shr : BitVec 24 := 0
  deriving DecidableEq, Repr

/-- A loaf-filter entry (02 Table 02-5), parity and spare bits aside. -/
structure LoafEntry where
  ltag : BitVec 31 := 0
  lstate : BitVec 2 := 0
  pres : BitVec 8 := 0
  colour : BitVec 4 := 0
  gvec : BitVec 16 := 0
  deriving DecidableEq, Repr

/-- Lookup results (02 Table 02-6). -/
inductive LRes where
  | i | s | x | o | p | u | coarseS | coarseO
  deriving DecidableEq, Repr

/-- What a lookup found: the result, the fine way and entry, the loaf way and entry. -/
structure Look where
  res : LRes := .i
  way : Option Nat := none
  fine : FineEntry := {}
  lway : Option Nat := none
  loaf : LoafEntry := {}
  anvil : Bool := false
  deriving DecidableEq, Repr

/-! ### Trackers -/

inductive RangeKind where
  | flush | clean | inval
  deriving DecidableEq, Repr

/-- What a tracker serves: a REQ or WBK message, or the slice's own work (03 R96). -/
inductive TKind where
  | msg (op : Op)
  | range (k : RangeKind) (job : Nat)
  | restore (job : Nat)
  | walk (b : Nat)
  | scrubLine (agent : Nat)
  | evictOnly
  deriving DecidableEq, Repr

/-- Where a tracker stands: waiting in its chain, ready, past its decision step, answering a failed Range Guard
check, or ended but held by an eviction slot or quarantine. -/
inductive Stage where
  | chain | ready | live | denied | ended
  deriving DecidableEq, Repr

/-- What the requester is to receive (04 Tables 04-2 to 04-6): nothing, line data by a message and STATE, DatX M
when a snoop returned data and DatX E otherwise, a Grant with a STATE, or the DatAtom of an AtomOp. -/
inductive Give where
  | nothing
  | line (op : Op) (st : BitVec 3)
  | lineEM
  | grant (st : BitVec 3)
  | atom
  deriving DecidableEq, Repr

inductive Pool where
  | shared | wbk | own
  deriving DecidableEq, Repr

/-- One snoop target's answer: STATE and AUX of its SnDone (03 R85). -/
structure Answer where
  agent : Nat
  st : BitVec 3
  aux : BitVec 4
  deriving DecidableEq, Repr

/-- A snoop round (04 R108): targets with the snoop each gets, snoops not yet sent (05 R140), SnDones and DatWbs
awaited, and the answers. -/
structure Round where
  all : List (Nat × Op) := []
  todo : List (Nat × Op) := []
  sent : List Nat := []
  owed : List Nat := []
  early : List Nat := []
  answers : List Answer := []
  data : Option (Line × Bool) := none
  /-- The snoop target whose DatWb the data is. -/
  dataFrom : Nat := 0
  /-- Retired targets whose answer hangs on what the other targets return (05 Table 05-11, third row). -/
  gone : List Nat := []
  deriving DecidableEq, Repr

/-- One victim line of an eviction slot. -/
structure EvLine where
  line : PA
  round : Round
  /-- The line enters P when its eviction ends (04 R136). -/
  toP : Bool := false
  deriving DecidableEq, Repr

/-- An eviction slot (02 R50): the victim's record and its lines. -/
structure Evict where
  isLoaf : Bool
  loaf : LoafEntry := {}
  fine : FineEntry := {}
  lines : List EvLine := []
  timer : Bool := false
  quarantined : Bool := false
  deriving DecidableEq, Repr

/-- What a quarantined tracker or slot still waits for (04 R135): a SnDone, with its DatWb if flagged; a SnDone whose
DatWb has come; a DatWb; a MemDat; a stash answer; the requester's Seal or DatWb. -/
inductive Owed where
  | snDone | snDoneOnly | datWb | memDat | stash | seal | reqDatWb
  deriving DecidableEq, Repr

/-- The write data of a tracker: line bytes, mask and poison. -/
structure WriteData where
  data : Line
  mask : Mask
  poison : Bool
  /-- The write fills the HLC on a miss (07 Table 07-2). -/
  fills : Bool
  /-- Its entering the buffer is the end that the transaction waits for (04 Table 04-8). -/
  own : Bool
  deriving DecidableEq, Repr

/-- The reservation of a decision step (04 R105). -/
inductive Resv where
  | none | way (w : Nat) | loaf (w : Nat)
  deriving DecidableEq, Repr

/-- A colour's allocation masks (14 Table 14-3). -/
structure ColourMask where
  fine : BitVec 16 := 0xFFFF
  loaf : BitVec 8 := 0xFF
  hlc : BitVec 8 := 0xFF
  deriving DecidableEq, Repr

/-- A tracker record. -/
structure Tracker where
  kind : TKind
  pool : Pool
  age : Nat
  src : BitVec 9 := 0
  rqtx : BitVec 10 := 0
  tid : BitVec 12 := 0
  colour : BitVec 4 := 0
  addr : PA := 0
  soft : Bool := false
  hold : Bool := false
  sub : BitVec 3 := 0
  aux : BitVec 4 := 0
  peer : BitVec 9 := 0
  operand : BitVec 256 := 0
  opPoison : Bool := false
  stage : Stage := .chain
  look : Look := {}
  round : Round := {}
  give : Give := .nothing
  /-- The snoop round has ended, or the transaction has none. -/
  rdone : Bool := true
  /-- Merging-buffer bytes read with the line, to be merged over its data: bytes, mask, poison (07 R201). -/
  merge : Line × Mask × Bool := (0, 0, false)
  /-- A memory read waits for a read credit (03 R98). -/
  wantRead : Bool := false
  /-- The DatX of a stash was sent to PEER (04 R120 step 3). -/
  stashed : Bool := false
  /-- The write data is in the merging buffer or discarded (04 Table 04-8). -/
  datDone : Bool := false
  snoopTimer : Bool := false
  sealTimer : Bool := false
  memTimer : Bool := false
  stashTimer : Bool := false
  /-- Node a MemRd is outstanding at. -/
  memNode : Option (BitVec 9) := none
  /-- Line buffer: data and poison. -/
  buf : Option (Line × Bool) := none
  /-- The line buffer's parity fails (15 source 0x08). -/
  bufBad : Bool := false
  /-- The answer sent to the requester: message and STATE. -/
  ans : Option (Op × BitVec 3) := none
  /-- A forwarding snoop was sent and its target's data counts as the answer (04 R116). -/
  fwding : Bool := false
  sealGot : Bool := false
  waitSeal : Bool := false
  waitDat : Bool := false
  waitStash : Bool := false
  /-- The requester's partition was in LOCAL mode when the tracker was allocated (06 R163, R166). -/
  lcl : Bool := false
  /-- The early grant of LOCAL mode was sent (06 R163). -/
  early : Bool := false
  /-- The AtomOp was performed at the home (17 Table 17-6 ATOM). -/
  atomDone : Bool := false
  /-- Writes that wait for a FREE merging-buffer entry, with their lines (07 R199). -/
  pendWr : List (PA × WriteData) := []
  resv : Resv := .none
  /-- Loaf (set * 8 + way) this tracker allocated and holds (02 R454). -/
  heldLoaf : Option Nat := none
  /-- The line enters P when the transaction ends (04 R136, 02 R110). -/
  toP : Bool := false
  /-- The memory request matched no route, or met a tray hole (01 R16, 07 R210). -/
  unrouted : Bool := false
  /-- The requester is retiring and gets nothing more (09 R247). -/
  silent : Bool := false
  /-- Data served came from an HLC way with PFU 1 (07 R197). -/
  fromPfu : Bool := false
  /-- Line data moved in this transaction (17 Table 17-6 DATA). -/
  usedData : Bool := false
  /-- HLC way reserved by a prefetch hint. -/
  pfWay : Option Nat := none
  evict : Option Evict := none
  quar : List (Nat × Owed) := []
  /-- HCLK count at allocation, for LAT (08 R233). -/
  start : Nat := 0
  /-- It waited while its bucket was stolen: such trackers of a bucket start in age order (08 R219, R220). -/
  parked : Bool := false
  /-- The tables under which the request allocates and is served, as they stood at its allocation (14 R375): the masks of
  its colour and the flags of the Range Guard entry that applied. -/
  masks : ColourMask := {}
  noSoft : Bool := false
  noStash : Bool := false
  noAnvil : Bool := false
  /-- The state record's parity fails (15 source 0x1B). -/
  bad : Bool := false
  deriving DecidableEq, Repr

/-! ### Slices -/

/-- SLC_MODE's base phase: OFF, RETAIN, SEED, one of the four serving modes, HOLD (13 Table 13-1). -/
inductive Phase where
  | off | retain | seed | service | hold
  deriving DecidableEq, Repr

/-- What a slice in SEED enters next (13 Table 13-3). -/
inductive SeedNext where
  | retain | track | copyTarget (job : Nat) | coldReset | resetRetain
  deriving DecidableEq, Repr

/-- The modes of Table 13-1. -/
inductive Mode where
  | off | retain | seed | track | proof | broadcast | limp | hold
  deriving DecidableEq, Repr

/-- The phase and condition bits behind SLC_MODE (13 Table 13-2). -/
structure Conds where
  phase : Phase
  seedNext : SeedNext := .retain
  pMove : Bool := false
  pCopy : Bool := false
  pRecipe : Bool := false
  pCal : Bool := false
  pTray : Bool := false
  lCensus : Bool := false
  lWays : Bool := false
  lFront : Bool := false
  bLost : Bool := false
  hSalv : Bool := false
  deriving DecidableEq, Repr

inductive MbSt where
  | free | opened | sent
  deriving DecidableEq, Repr

/-- A merging-buffer entry (07 Table 07-3). -/
structure MbEntry where
  st : MbSt := .free
  line : PA := 0
  target : BitVec 9 := 0
  poison : Bool := false
  age : Nat := 0
  dpar : BitVec 8 := 0
  mpar : Bool := false
  mask : Mask := 0
  data : Line := 0
  /-- The line is about to enter P, or a range command flushes it: issue at once (07 R200, 12 R311). -/
  urgent : Bool := false
  deriving DecidableEq, Repr

/-- An HLC way: the two tag words and the data (07 R192). -/
structure HlcWay where
  tagw : BitVec 36 := 0
  data : Line := 0
  deriving DecidableEq, Repr

inductive BKind where
  | none | owned | frozen | stub
  deriving DecidableEq, Repr

/-- SLC_BKT[b] (08 Table 08-2), with whether the stored entry's parity fails (15 source 0x1A). -/
structure BktEntry where
  kind : BKind := .none
  engine : Nat := 0
  gen : BitVec 6 := 0
  peer : Nat := 0
  incoming : Bool := false
  purge : Bool := false
  bad : Bool := false
  deriving DecidableEq, Repr

structure Hold where
  line : PA
  agent : Nat
  deriving DecidableEq, Repr

/-- A contention table entry (06 R184), least recently counted first in the table. -/
structure Contention where
  line : PA
  count : Nat
  start : Nat
  deriving DecidableEq, Repr

/-- The census record of an unknown loaf: lines reported, lines owner-reported, reporters' groups (02 Table 02-8). -/
structure LoafReport where
  region : PA
  lines : BitVec 8
  owners : BitVec 8
  groups : BitVec 16
  deriving DecidableEq, Repr

/-- The suspect-set records of a filter (02 R58): up to 8 sets, and whether every set is suspect; each with the buckets
whose census is still to complete. -/
structure Suspects where
  recs : List (Nat × List Nat) := []
  all : Option (List Nat) := none
  deriving DecidableEq, Repr

/-- A census of one bucket (02 R59 to R61, 12 R312). -/
structure Census where
  bucket : Nat
  colour : BitVec 4 := 0
  /-- CENSUS_RANGE's job and address range, when a command started it. -/
  job : Option Nat := none
  lo : Nat := 0
  hi : Nat := 0
  /-- The function whose pages alone the command covers (12 R306). -/
  owner : Nat := 0
  /-- Own request of the slice (R59). -/
  own : Bool := true
  started : Bool := false
  waiting : List Nat := []
  unanswered : List Nat := []
  reports : List LoafReport := []
  /-- Lines this census placed in a loaf. -/
  placed : List PA := []
  /-- Once every agent has reported: the U lines left to the trackers that block them (02 R61). -/
  left : List PA := []
  deriving DecidableEq, Repr

/-- Why a local steal runs: idle engine, BUCKET_MOVE job, recipe activation. -/
inductive StealWhy where
  | idle | command (job : Nat) | recipe
  deriving DecidableEq, Repr

structure Steal where
  bucket : Nat
  victim : Nat
  thief : Nat
  why : StealWhy
  deriving DecidableEq, Repr

/-- A bucket of a move scan with its target and engine. -/
structure Mv where
  b : Nat
  target : Nat
  engine : Nat
  deriving DecidableEq, Repr

/-- A scan in progress at a slice; `pos` is the next set (fine sets first, then loaf sets, then HLC sets). -/
structure Scan where
  kind : ScanKind
  pos : Nat := 0
  stop : Nat
  period : BitVec 2
  /-- HCLK from which the next slot is due, and slots taken in this window (08 R223). -/
  due : Nat := 0
  used : Nat := 0
  moves : List Mv := []
  /-- Buckets of a move scan that have flipped; they keep PURGE until its purge scan ends. -/
  flipped : List Mv := []
  /-- Nothing is copied: a takeover (13 R332). -/
  takeover : Bool := false
  job : Nat := 0
  agent : Nat := 0
  fineW : BitVec 16 := 0
  loafW : BitVec 8 := 0
  hlcW : BitVec 8 := 0
  deriving DecidableEq, Repr

/-- A recipe activation in progress (13 R349). -/
structure RecipeAct where
  engines : List Nat
  digests : List (Nat × BitVec 256)
  current : Option Nat := none
  /-- Buckets moved away from the current engine with the sibling that has them, and failures so far. -/
  out : List (Nat × Nat) := []
  fails : Nat := 0
  returning : Bool := false
  failed : Bool := false
  /-- The bucket whose abandoned steal waits for its hold-off. -/
  retry : Option Nat := none
  deriving DecidableEq, Repr

/-- A recipe bank (13 Table 13-8) and its image. -/
structure Bank where
  id : BitVec 32 := 0
  lcp : Nat := 0
  feat : BitVec 4 := 0
  valid : Bool := false
  image : List Byte := []
  /-- A word fails parity, and which. -/
  bad : Bool := false
  badAt : BitVec 11 := 0
  deriving DecidableEq, Repr

/-- Check state of one stored codeword of a tray line (07 R212): good, one bit wrong, or uncorrectable (as a
poisoned line's inverted check field is). -/
inductive CwState where
  | good | single | bad
  deriving DecidableEq, Repr

/-- A tray line: 64 bytes and the check state of its codewords (8 in fine ways, 2 in an HLC way). -/
structure TrayLine where
  data : Line := 0
  cw : List CwState := []
  deriving DecidableEq, Repr

/-- A first-error record (15 Table 15-4). -/
structure FirstRec where
  valid : Bool := false
  ovf : Bool := false
  sev : BitVec 2 := 0
  source : BitVec 8 := 0
  syndrome : BitVec 16 := 0
  node : BitVec 9 := 0
  addr : PA := 0
  deriving DecidableEq, Repr

/-- An injection register (15 Table 15-12). -/
structure Inj where
  source : BitVec 8 := 0
  count : BitVec 8 := 0
  mode : Bool := false
  deriving DecidableEq, Repr

/-- The Assay registers of one part. -/
structure Assay where
  status : W64 := 0
  first : FirstRec := {}
  /-- The part's cycle, plus 1, in which the record was captured (15 R382). -/
  since : Nat := 0
  inj : Inj := {}
  deriving DecidableEq, Repr

/-- A check-bit error counter of a way (15 R395). -/
structure WayCount where
  count : Nat := 0
  start : Nat := 0
  deriving DecidableEq, Repr

/-- Energy ledger and event counts (17 R437, 12 Table 12-13). -/
structure Ledger where
  energy : W64 := 0
  nAtom : W64 := 0
  nData : W64 := 0
  nNodata : W64 := 0
  nLookup : W64 := 0
  nScan : W64 := 0
  pfFill : W64 := 0
  pfUsed : W64 := 0
  pfEvict : W64 := 0
  deriving DecidableEq, Repr

/-- SLC_TEMPER and the accumulators of the window in progress (08 R233). -/
structure Temper where
  occ : Nat := 0
  lat : Nat := 0
  slow : Bool := false
  run : Nat := 0
  /-- Sum and number of OCC samples, of transaction times, and of ready-queue samples of engines 0 to 3. -/
  occSum : Nat := 0
  occN : Nat := 0
  latSum : Nat := 0
  latN : Nat := 0
  qSum : List Nat := [0, 0, 0, 0]
  qDepth : List Nat := [0, 0, 0, 0]
  /-- Trackers allocated for each bucket in this window and in the last. -/
  bktNow : Map Nat := []
  bktLast : Map Nat := []
  /-- Windows since the last shed scan. -/
  sinceShed : Nat := 0
  shed : Bool := false
  /-- Buckets chosen to be shed whose move 08 R221 forbade (08 R236). -/
  deferred : List Nat := []
  deriving DecidableEq, Repr

/-- Steal settings (18 SLC_STEAL_CFG). -/
structure StealCfg where
  idle : Nat := 256
  minq : Nat := 8
  drain : Nat := 16
  holdoff : Nat := 10
  deriving DecidableEq, Repr

/-- The arrays and replacement state of a slice. -/
structure Arrays where
  fine : Map Entry := []
  loaf : Map Entry := []
  fineTree : Map (BitVec 15) := []
  loafTree : Map (BitVec 7) := []
  hlcTree : Map (BitVec 7) := []
  hlc : Map HlcWay := []
  hlcFlags : Map (BitVec 16) := []
  trayFine : Map TrayLine := []
  trayHlc : Map TrayLine := []
  trayScrub : Nat := 0
  deriving DecidableEq, Repr

/-- Half of a memory write: the address of a MemWr or the body of a MemWd (03 R88). -/
structure PortHalf where
  src : BitVec 9
  slot : BitVec 8
  addr : Option PA
  body : Option Msg
  deriving DecidableEq, Repr

/-- A home slice. -/
structure Slice where
  conds : Conds
  arr : Arrays := {}
  mb : Map MbEntry := []
  trk : Map Tracker := []
  fences : Map (BitVec 9 × BitVec 10) := []
  allocSeq : Nat := 0
  /-- WBK's turn when headers of both classes wait (05 R138). -/
  wbkTurn : Bool := true
  /-- Headers that have arrived and wait in the mesh channel for a tracker or for their class's turn. -/
  waiting : List Msg := []
  /-- RSP and DAT messages accepted and not yet handled: in a pause (13 R352), and census reports that wait for a
  tracker (03 R95). -/
  inBuf : List Flits := []
  /-- HCLK, plus 1, of the last lookup slot used, and of each engine's (01 R21). -/
  lastSlot : Nat := 0
  engSlot : Map Nat := []
  /-- The engine whose turn it is in the round-robin (01 R21). -/
  rrNext : Nat := 0
  bkt : Map BktEntry := []
  adm : Map Nat := []
  susFine : Suspects := {}
  susLoaf : Suspects := {}
  holds : List Hold := []
  contention : List Contention := []
  cooldowns : List PA := []
  census : List Census := []
  steal : Option Steal := none
  holdoffs : List Nat := []
  idleFor : Map Nat := []
  scans : List Scan := []
  /-- Mirrored writes not acknowledged: filter, set, bucket (08 R224, 13 R336). -/
  mirrored : List (Bool × Nat × Nat) := []
  /-- Mirrored writes that wait at the source until fewer than 32 are unacknowledged, oldest first (13 R336). -/
  mirrorQ : List ((Bool × Nat × Nat) × Wire) := []
  /-- Frontiers of taken-over buckets: bucket, first fine set and first loaf set not copied (13 R332). -/
  frontiers : List (Nat × Nat × Nat) := []
  salvList : List (Bool × Nat) := []
  stealCfg : StealCfg := {}
  temper : Temper := {}
  /-- Rise control (17 R435): HCLK in the window, slots started in it and in the one before, cap T. -/
  winClk : Nat := 0
  slots : Nat := 0
  prevSlots : Nat := 0
  cap : Nat := 64
  /-- The cap from the next window on (17 R436). -/
  capNext : Nat := 64
  hclk : Nat := 0
  ledger : Ledger := {}
  assay : Assay := {}
  wayErr : Map WayCount := []
  fineDis : BitVec 16 := 0
  loafDis : BitVec 8 := 0
  hlcDis : BitVec 8 := 0
  /-- Ways whose disable walk runs. -/
  fineDising : BitVec 16 := 0
  loafDising : BitVec 8 := 0
  hlcDising : BitVec 8 := 0
  /-- Colours that fell back to every enabled way (15 R397). -/
  fbFine : BitVec 16 := 0
  fbLoaf : BitVec 16 := 0
  fbHlc : BitVec 16 := 0
  act : Map Bank := []
  shd : Map Bank := []
  recipe : Option RecipeAct := none
  /-- Halves of tray writes received (07 R211). -/
  trayHalves : List PortHalf := []
  /-- Read and write credits in use toward each memory port or tray slice node. -/
  rdCredits : Map Nat := []
  wrCredits : Map Nat := []
  /-- 1 us ticks seen. -/
  us : Nat := 0
  deriving DecidableEq, Repr

/-! ### Shims and memory ports -/

inductive ShimSt where
  | idle | admitting | admitted | fenced
  deriving DecidableEq, Repr

/-- A message in a shim queue and the MCLK it has waited behind higher classes (09 R238). -/
structure QMsg where
  m : Msg
  wait : Nat := 0
  deriving DecidableEq, Repr

/-- A REQ or WBK header taken from the agent that has had no first answer. -/
structure Outst where
  rqtx : BitVec 10
  op : Op
  bucket : Nat
  /-- Order in which the shim took it from its agent. -/
  seq : Nat
  /-- When its header was built from the bucket map; none while it is held (06 R171). -/
  built : Option Nat
  deriving DecidableEq, Repr

/-- A drain in progress (06 R168); `gone`: its message was discarded, and the Grants of the copies that had been injected are still
the shim's (09 R246, R251). -/
structure Drain where
  rqtx : BitVec 10
  held : Option Msg
  seq : Nat
  sent : Bool := false
  /-- Slices whose copy has yet to be put in the REQ queue, and slices whose Grant is awaited, those included. -/
  todo : List Nat := []
  waiting : List Nat := []
  bits : BitVec 68 := 0
  gone : Bool := false
  deriving DecidableEq, Repr

/-- A map update not yet acknowledged: bucket, generation, and when it was installed; the headers of the bucket built
before then are those counted (05 R151). -/
structure MapUpd where
  bucket : Nat
  gen : BitVec 6
  seq : Nat
  deriving DecidableEq, Repr

/-- A stride stream entry (07 R203). -/
structure Stream where
  tid : BitVec 12
  la : BitVec 46
  st : Int
  cf : Nat
  nh : BitVec 46
  bad : Bool := false
  deriving DecidableEq, Repr

/-- SHM_BMAP[b] (08 Table 08-3). -/
structure BMapEntry where
  slice : Nat
  engine : Nat
  gen : BitVec 6
  bad : Bool := false
  deriving DecidableEq, Repr

/-- A port shim. -/
structure Shim where
  st : ShimSt := .idle
  cap : BitVec 3 := 0
  neg : Nat := 0
  func : Nat := 0
  allow : BitVec 3 := 0
  mapLoaded : Bool := false
  admittedPin : Bool := false
  /-- After retire step 2 the agent's traffic is discarded (09 R246). -/
  silenced : Bool := false
  /-- A shim reset waits for the retire (17 R432). -/
  resetPending : Bool := false
  /-- Fenced under 09 R251: RSP and DAT messages to the agent are discarded, SNP messages held. -/
  cut : Bool := false
  reqQ : List QMsg := []
  wbkQ : List QMsg := []
  rspQ : List QMsg := []
  datQ : List QMsg := []
  /-- Mesh-to-agent queues (03 Table 03-15). -/
  snpIn : List Msg := []
  rspIn : List Msg := []
  datIn : List Msg := []
  outst : List Outst := []
  seq : Nat := 0
  drainVec : BitVec 68 := 0
  drains : List Drain := []
  bmap : Map BMapEntry := []
  upds : List MapUpd := []
  streams : Map Stream := []
  /-- Stream numbers, least recently trained first. -/
  streamLru : List Nat := List.range 16
  autoRetire : Bool := true
  /-- AUTORETIRE as sampled when the agent-reset fault was raised. -/
  retireDue : Bool := false
  pfEn : Bool := true
  pfMinConf : Nat := 2
  pfDepth : Nat := 4
  tidForce : Bool := false
  tidValue : BitVec 12 := 0
  /-- Stashes that the agent took, by slice and tracker: the DatX to come is no first answer (04 R120, 05 R151). -/
  stashes : List (Nat × BitVec 8) := []
  /-- Lost slices not yet reset, and the RQTXs that the shim answered for them (13 R340). -/
  lost : List Nat := []
  lostAns : List (Nat × BitVec 10) := []
  assay : Assay := {}
  deriving DecidableEq, Repr

structure PortRead where
  src : BitVec 9
  htrk : BitVec 8
  line : PA
  issued : Bool := false
  deriving DecidableEq, Repr

structure PortWrite where
  src : BitVec 9
  slot : BitVec 8
  line : PA
  data : Line
  mask : Mask
  poison : Bool
  issued : Bool := false
  deriving DecidableEq, Repr

/-- A memory port (01 R18, 03 R88). -/
structure Port where
  reads : List PortRead := []
  halves : List PortHalf := []
  writes : List PortWrite := []
  notices : List Nat := []
  deriving DecidableEq, Repr

/-! ### Management functions -/

/-- One ring's registers and indices (12 Table 12-3). -/
structure Ring where
  base : BitVec 40 := 0
  log2 : Nat
  en : Bool := false
  pidx : Nat := 0
  cidx : Nat := 0
  stop : Bool := false
  cause : BitVec 3 := 0
  deriving DecidableEq, Repr

/-- A command taken from the ring: its descriptor, byte 0 lowest (12 Table 12-5). `idx` numbers the commands that the
function has taken, so that one number names one command; `ring` is its command-ring index. -/
structure Taken where
  idx : Nat
  ring : Nat
  desc : BitVec 512
  started : Bool := false
  /-- Order in which the spine took it from all functions (12 R315). -/
  seq : Nat := 0
  /-- Window requests decoded when its doorbell was written (12 R316). -/
  winMark : Nat := 0
  /-- Taken before a function-level reset: its entry is not written (11 Table 11-8). -/
  orphan : Bool := false
  deriving DecidableEq, Repr

/-- A completed command whose entry is not yet written (12 Table 12-7). -/
structure Done where
  idx : Nat
  ring : Nat
  tag : BitVec 16
  code : BitVec 8
  opc : BitVec 8
  result : W64
  intr : Bool
  deriving DecidableEq, Repr

/-- FN_WTT[k] (11 Table 11-6). -/
structure Wtt where
  valid : Bool := false
  rd : Bool := false
  wr : Bool := false
  len : BitVec 9 := 0
  tbase : BitVec 40 := 0
  deriving DecidableEq, Repr

/-- One window line operation (11 R285). -/
structure WinOp where
  line : PA
  write : Bool
  data : Line := 0
  mask : Mask := 0
  poison : Bool := false
  /-- Bytes of a read: first byte and count within the line. -/
  off : Nat := 0
  len : Nat := 0
  /-- BAR4 offset of its first byte (11 R286). -/
  bar : Nat := 0
  /-- A miss or a silent refusal: zeros, or dropped (11 R286). -/
  miss : Bool := false
  deriving DecidableEq, Repr

/-- A BAR4 request in execution: its line operations and the bytes read so far. -/
structure WinReq where
  num : Nat
  write : Bool
  ops : List WinOp
  /-- Posted data credits that it takes, of 16 bytes each (11 R291). -/
  units : Nat := 0
  got : List Byte := []
  /-- For each byte of `got`, whether it came poisoned (11 R286). -/
  poison : List Bool := []
  /-- The answer is discarded after a function-level reset (11 Table 11-8). -/
  dropped : Bool := false
  /-- The completion of a register read that waits behind window operations (11 R288): Completer Abort, and value. -/
  reg : Option (Bool × W64) := none
  deriving DecidableEq, Repr

/-- State of the window line operation in flight: slices whose Grant its drain awaits, or the RQTX it was sent with. -/
inductive WinSt where
  | idle | draining (left : List Nat) | sent (rqtx : BitVec 10)
  deriving DecidableEq, Repr

/-- An MSI-X vector (11 R292). -/
structure MsixVec where
  addr : W64 := 0
  data : BitVec 32 := 0
  mask : Bool := true
  pending : Bool := false
  deriving DecidableEq, Repr

/-- The latched upper half and the staged lower half of the 64-bit register at an offset (18 R445). -/
structure HalfAcc where
  off : Nat := 0
  latch : Option (BitVec 32) := none
  stage : Option (BitVec 32) := none
  deriving DecidableEq, Repr

/-- A management function. -/
structure Fn where
  regview : BitVec 2
  wtid : BitVec 12 := 0
  rights : BitVec 9
  indKind : Bool := false
  indIndex : Nat := 0
  cmd : Ring := { log2 := 6 }
  cpl : Ring := { log2 := 8 }
  evt : Ring := { log2 := 7 }
  dberr : Bool := false
  cplVec : Nat := 0
  evtVec : Nat := 1
  errVec : Nat := 2
  asSlice : Bool := false
  asShimOwn : Bool := false
  asShimAll : Bool := false
  asSpine : Bool := false
  asVec : Nat := 3
  hmBlock : Bool := true
  wtt : Map Wtt := []
  msix : Map MsixVec := []
  functionMask : Bool := false
  busMaster : Bool := false
  memSpace : Bool := false
  ats : Bool := false
  /-- Translation Requests outstanding: page, and whether a write needs it (10 R268). -/
  transReqs : List (W64 × Bool) := []
  /-- Pages of the speculative ones (10 R270). -/
  specReqs : List (W64 × Bool) := []
  /-- Demanded translations that failed, for the access that waits: a walk bus error or not, and its status (10 R271). -/
  transFails : List ((W64 × Bool) × (Bool × BitVec 4)) := []
  /-- Base addresses of BAR0, BAR2 and BAR4, without their type bits (11 R278). -/
  barBase : List W64 := [0, 0, 0]
  /-- Uncorrectable Error Status of Advanced Error Reporting (11 Table 11-2). -/
  aer : BitVec 32 := 0
  d3hot : Bool := false
  notReady : Bool := false
  half : HalfAcc := {}
  /-- Commands taken so far: the number of the next one. -/
  nextCmd : Nat := 0
  taken : List Taken := []
  done : List Done := []
  /-- Retries of the descriptor at CIDX (12 R302). -/
  retries : Nat := 0
  /-- CMD_PIDX values not yet fetched up to, with the window requests decoded before their doorbells (12 R316). -/
  cmdMarks : List (Nat × Nat) := []
  win : List WinReq := []
  winCount : Nat := 0
  winSt : WinSt := .idle
  winDrain : BitVec 68 := 0
  winRqtx : BitVec 10 := 0
  local_ : Bool := false
  /-- MSI-X messages held while Bus Master Enable is 0 (11 R293). -/
  heldMsix : List Nat := []
  /-- Hallmark records lost for this function and not yet reported (16 R406). -/
  lostRecs : Nat := 0
  deriving DecidableEq, Repr

/-! ### Spine -/

structure MasterEntry where
  slice : Nat
  engine : Nat
  gen : BitVec 6
  moving : Bool := false
  /-- Shims that have not acknowledged the current generation. -/
  unacked : List Nat := []
  deriving DecidableEq, Repr

structure Relay where
  issuer : Nat
  rqtx : BitVec 10
  payload : BitVec 256
  poison : Bool
  targets : List Nat
  complete : Bool := false
  timer : Bool := true
  deriving DecidableEq, Repr

structure SyncWait where
  agent : Nat
  rqtx : BitVec 10
  covers : List Nat
  deriving DecidableEq, Repr

structure AtcEntry where
  fn : Nat
  page : W64
  sizeLog2 : Nat
  tpage : W64
  read : Bool
  write : Bool
  lock : Bool
  deriving DecidableEq, Repr

structure RgEntry where
  valid : Bool := false
  tray : Bool := false
  nostash : Bool := false
  noanvil : Bool := false
  nosoft : Bool := false
  owner : Nat := 0
  colours : BitVec 16 := 0
  base : BitVec 40 := 0
  limit : BitVec 40 := 0
  deriving DecidableEq, Repr

structure MrtEntry where
  valid : Bool := false
  cntlog : Nat := 0
  first : Nat := 0
  base : BitVec 22 := 0
  limit : BitVec 22 := 0
  deriving DecidableEq, Repr

structure TraySeg where
  valid : Bool := false
  slice : Nat := 0
  deriving DecidableEq, Repr

structure SrcCfg where
  sev : BitVec 2
  intr : Bool
  nmi : Bool
  srst : Bool
  crst : Bool
  exterr : Bool
  deriving DecidableEq, Repr

structure TemperCfg where
  window : Nat := 10
  ratio : Nat := 12
  occmin : Nat := 32
  consec : Nat := 16
  floor : Nat := 8
  recheck : Nat := 4
  shedEn : Bool := true
  deriving DecidableEq, Repr

structure AnvilCfg where
  enable : Bool := false
  threshold : Nat := 16
  window : Nat := 10
  idle : Nat := 100
  cooldown : Nat := 200
  deriving DecidableEq, Repr

/-- A proposal awaiting COUNTERMARK (14 R373). -/
structure Proposal where
  pid : Nat
  fn : Nat
  digest : BitVec 256
  seq : BitVec 32
  bytes : List Byte
  deriving DecidableEq, Repr

/-- The protection set (14 R370). -/
structure Protect where
  tidColour : Map (BitVec 4) := []
  masks : Map ColourMask := []
  rg : Map RgEntry := []
  rgAllow : Bool := true
  rgColours : BitVec 16 := 0xFFFF
  tmSeq : BitVec 32 := 0
  tmWindow : Nat := 1000
  proposals : List Proposal := []
  nextPid : Nat := 1
  deriving DecidableEq, Repr

/-- What a spine job does; automatic procedures have no command. -/
inductive JobKind where
  | range (k : RangeKind) (next stop : Nat) (outstanding count : Nat) (partial_ : Bool) (redo : List PA)
  | censusRange (left : List Nat) (walked : Nat) (partial_ : Bool)
  | restore
  | steal (slice b : Nat)
  | move (src b target : Nat) (gen : BitVec 6) (aborted : Bool)
  | evacuate (slice : Nat) (takeover : Bool) (moved : Nat) (reset : Bool)
  | shed (slice : Nat)
  | copy (src tgt : Nat) (flipped linesP : Nat) (lost : Bool)
  | admitSlice (slice : Nat)
  | resetSlice (slice : Nat)
  | tray (ft ht : Nat) (left flushes : List Nat)
  | modeSet (waiting : List (Nat × Nat))
  | windowSync (mark : Nat)
  | agentAdmit (sh : Nat)
  | agentRetire (sh : Nat) (placed : Nat) (auto : Bool)
  | calWrite (slice : Nat)
  /-- Slices whose recolour scan runs, and the recipe activations that follow (14 R375). -/
  | countermark (pid : Nat) (left : List Nat) (acts : List (Nat × List (Nat × BitVec 256)))
  deriving DecidableEq, Repr

structure Job where
  id : Nat
  cmd : Option (Nat × Nat)
  kind : JobKind
  deriving DecidableEq, Repr

/-- A salvage in progress (13 R338). -/
structure Salvage where
  slice : Nat
  ports : List Nat
  silent : List Nat := []
  unreadable : Bool := false
  copyJob : Option Nat := none
  toP : Nat := 0
  toU : Nat := 0
  deriving DecidableEq, Repr

/-- SPN_ERR_OUT (15 Table 15-8). -/
structure ErrOut where
  hold : Bool := false
  autohold : Bool := true
  active : Bool := false
  pulse : Nat := 100
  deriving DecidableEq, Repr

/-- The spine. -/
structure Spine where
  master : Map MasterEntry := []
  relay : Map Relay := []
  syncs : List SyncWait := []
  atc : List AtcEntry := []
  setup : Bool := false
  mrt : Map MrtEntry := []
  prot : Protect := {}
  mbWindow : Nat := 32
  scanCode : BitVec 2 := 1
  temper : TemperCfg := {}
  /-- Temper settings of the window in progress (18 SPN_TEMPER_CFG). -/
  temperNow : TemperCfg := {}
  admitWait : Nat := 10
  trayEn : Bool := false
  trayFt : Nat := 0
  trayHt : Nat := 0
  trayBase : BitVec 26 := 0
  traySeg : Map TraySeg := []
  srcCfg : Map SrcCfg := []
  assay : Assay := {}
  nmiLost : Nat := 0
  nmi : Option (BitVec 9 × BitVec 8) := none
  wayLimit : Nat := 4
  wayWindow : Nat := 1000
  errOut : ErrOut := {}
  /-- Summary levels last acted on, by node ID (15 R392). -/
  levels : Map (BitVec 6) := []
  episodes : List Nat := []
  crstDue : Bool := false
  /-- Cycles of the shims' and the spine's clocks, for detections in one cycle (15 R382). -/
  clk : Nat := 0
  chipRstReq : Bool := false
  /-- SRST reactions waiting for a slice's SEED, salvage or evacuation to end (15 R389). -/
  srst : List Nat := []
  anvil : AnvilCfg := {}
  toSnoop : Nat := 20
  toSeal : Nat := 50
  toMem : Nat := 100
  jobs : List Job := []
  nextJob : Nat := 1
  /-- Commands taken from all functions so far (12 R315). -/
  nextTake : Nat := 0
  salvage : Option Salvage := none
  salvageQ : List Nat := []
  /-- Evacuations of slices in BROADCAST not yet started (13 R345). -/
  autoEvac : List Nat := []
  cal : Map CalSet := []
  dvfsTaken : Bool := false
  dvfsRdy : Bool := false
  dvfsIgnored : Bool := false
  /-- A requested point that waits for a calibration apply to end (17 R426). -/
  dvfsHeld : Option Nat := none
  /-- pm_throttle_lvl, and hk_throttle_lvl (17 R436). -/
  throttle : Nat := 0
  throttleOut : Nat := 0
  ready : Bool := true
  /-- pm_slice_pwr_good: the slices that the power manager powers. -/
  pwr : BitVec 68 := BitVec.allOnes 68
  /-- Slices in HOLD that lost their power: the OFF row of Table 13-3 waits for the end of their salvage and for power (17 R422). -/
  offDue : List Nat := []
  deriving DecidableEq, Repr

/-! ### Hallmark -/

/-- A Hallmark record (16 Table 16-1). `fDest` and `pAgent` name the function and agent concerned for classes F
and P until the destination set is fixed at the buffer (16 R404). -/
structure HRec where
  code : BitVec 12
  sev : BitVec 4
  source : BitVec 9
  sec : Bool := false
  inj : Bool := false
  summ : Bool := false
  p0 : BitVec 48 := 0
  p1 : BitVec 48 := 0
  p2 : BitVec 48 := 0
  fDest : Option Nat := none
  pAgent : Option Nat := none
  block : Bool := false
  ts : W64 := 0
  seq : BitVec 16 := 0
  dest : BitVec 16 := 0
  pend : BitVec 16 := 0
  deriving DecidableEq, Repr

/-- A code's token bucket and suppression count (16 R409). -/
structure Bucket where
  tokens : Nat
  burst : Nat
  period : Nat
  count : Nat := 0
  first : BitVec 48 := 0
  last : BitVec 48 := 0
  dest : BitVec 16 := 0
  source : BitVec 9 := 0
  deriving DecidableEq, Repr

/-- Security records of one code that met a full feed: how many, and P1 of the first and the last (16 R405, R409). -/
structure SecLoss where
  count : Nat := 0
  first : BitVec 48 := 0
  last : BitVec 48 := 0
  deriving DecidableEq, Repr

/-- Records a part counted at a full feed (16 R405): non-security ones by function (R406), security ones by code. -/
structure FeedLoss where
  fns : Map Nat := []
  sec : Map SecLoss := []
  deriving DecidableEq, Repr

/-- A last-gasp flush in progress (16 R414). -/
structure Flush where
  reason : Nat
  recs : List HRec
  written : Nat := 0
  start : W64
  deriving DecidableEq, Repr

structure Hallmark where
  feeds : Map (List HRec) := []
  /-- The part whose feed the collector took from last (16 R405). -/
  feedTurn : Nat := 0
  feedLoss : Map FeedLoss := []
  buf : List HRec := []
  seq : BitVec 16 := 0
  /-- The latest TS written: TS does not decrease in SEQ order (16 R402). -/
  lastTs : W64 := 0
  buckets : Map Bucket := []
  lgFunc : Nat := 0
  lgEn : Bool := false
  lgBase : BitVec 40 := 0
  secDest : BitVec 16 := 1
  flush : Option Flush := none
  flushNo : BitVec 32 := 0
  /-- Fatal triggers that Hallmark has not taken (16 R414). -/
  fatalDue : Nat := 0
  /-- A power-fail trigger waits for the next write boundary of a fatal flush (16 R415). -/
  pwrFlush : Bool := false
  pwrFail : Bool := false
  sqCfg : BitVec 6 := 0x17
  sq : List (BitVec 32) := []
  sqDropped : Nat := 0
  sqPackets : Nat := 0
  /-- Words of the current head packet not yet removed. -/
  sqLeft : Nat := 0
  deriving DecidableEq, Repr

/-! ### The block -/

/-- The state of the block. -/
structure State where
  par : Params
  pending : List Instr
  out : List Out
  mesh : List Msg
  wires : List Wire
  slices : Map Slice
  shims : Map Shim
  ports : Map Port
  fns : Map Fn
  spine : Spine
  hall : Hallmark
  deriving DecidableEq, Repr

/-- Why the model stops. -/
inductive Fault where
  /-- Raised by every meaning whose command names a slice, shim, memory port, function or agent number that the
  integration does not build (01 R11, R13). Safe: nothing in the block acts on such a command. -/
  | notBuilt
  deriving DecidableEq, Repr

/-- Why a command has no meaning. -/
inductive Refusal where
  /-- Raised by an arm of `exec` whose command has no meaning yet. Safe: the model stops. -/
  | notModelled (mnemonic : String)
  deriving DecidableEq, Repr

/-- The slice state that slice n has after cold reset, where SLC_MODE is TRACK below N_ACTIVE and RETAIN above
(13 Table 13-2, 17 Table 17-4 step 5). -/
def Slice.initial (p : Params) (n : Nat) : Slice :=
  { conds := { phase := if n < p.nActive then .service else .retain } }

/-- The function state after cold reset (11 Table 11-5, 12 Table 12-3). -/
def Fn.initial (f : Nat) : Fn :=
  { regview := if f = 0 then 2 else 0, rights := if f = 0 then 0x1FF else 0x10B }

/-- The block right after reset: the cold reset sequence of 17 Table 17-4 has ended and hk_ready is 1. No part is
listed, so every part reads as its own reset value (`Slice.initial`, `Fn.initial`, the defaults of `Shim`, `Port`). -/
def State.reset : State where
  par := Params.reference
  pending := []
  out := []
  mesh := []
  wires := []
  slices := []
  shims := []
  ports := []
  fns := []
  spine := {}
  hall := {}

end Sys2Proof.Machine
end

