-- ==== Sys2Proof/Machine/Map.lean ====
section
/-! DEFINITION. Reading and writing sparse tables. A write keeps the canonical form: keys strictly rising, no entry
equal to the value an unlisted key reads as. -/

namespace Sys2Proof.Machine

/-- The value at key k; `d` is what an unlisted key reads as. -/
def mget {α : Type} (d : α) : Map α → Nat → α
  | [], _ => d
  | (j, v) :: r, k => if j = k then v else if k < j then d else mget d r k

/-- The table with value v at key k. -/
def mput {α : Type} [DecidableEq α] (d : α) : Map α → Nat → α → Map α
  | [], k, v => if v = d then [] else [(k, v)]
  | (j, w) :: r, k, v =>
    if k < j then (if v = d then (j, w) :: r else (k, v) :: (j, w) :: r)
    else if j = k then (if v = d then r else (k, v) :: r)
    else (j, w) :: mput d r k v

/-- The entry at key k, if listed: for tables in which an unlisted key holds nothing. -/
def mfind {α : Type} : Map α → Nat → Option α
  | [], _ => none
  | (j, v) :: r, k => if j = k then some v else if k < j then none else mfind r k

/-- The table with key k listed as v. -/
def mins {α : Type} : Map α → Nat → α → Map α
  | [], k, v => [(k, v)]
  | (j, w) :: r, k, v =>
    if k < j then (k, v) :: (j, w) :: r else if j = k then (k, v) :: r else (j, w) :: mins r k v

/-- The table with key k not listed. -/
def mdel {α : Type} : Map α → Nat → Map α
  | [], _ => []
  | (j, w) :: r, k => if j = k then r else (j, w) :: mdel r k

/-- The keys listed, rising. -/
def mkeys {α : Type} (m : Map α) : List Nat := m.map Prod.fst

/-- Every listed value passed through f (a value keeps its key). -/
def mmap {α : Type} (f : Nat → α → α) (m : Map α) : Map α := m.map fun kv => (kv.1, f kv.1 kv.2)

/-- Keys strictly rising, all above `lo`. -/
def mrising {α : Type} (lo : Nat) : Map α → Bool
  | [] => true
  | (k, _) :: r => decide (lo ≤ k) && mrising (k + 1) r

/-- The canonical form: keys strictly rising and no entry equal to the default of its key. -/
def mwf {α : Type} [DecidableEq α] (d : Nat → α) (m : Map α) : Bool :=
  mrising 0 m && m.all fun kv => decide (kv.2 ≠ d kv.1)

end Sys2Proof.Machine
end

