-- ==== Sys2Proof/Machine/Bits.lean ====
section
/-! DEFINITION. Bit fields, parity, byte order, address arithmetic (02 R24 to R27, 07 R190, 08 R213) and node
numbers (03 R69). -/

namespace Sys2Proof.Machine

/-- Bits [lo+w-1:lo] of x. -/
def bits {n : Nat} (x : BitVec n) (lo w : Nat) : BitVec w := x.extractLsb' lo w

/-- Bit i of x. -/
def bit {n : Nat} (x : BitVec n) (i : Nat) : Bool := x.getLsbD i

/-- x with bit i set to b. -/
def setBit {n : Nat} (x : BitVec n) (i : Nat) (b : Bool) : BitVec n :=
  if b then x ||| BitVec.ofNat n (2 ^ i) else x &&& ~~~ BitVec.ofNat n (2 ^ i)

/-- One-bit vector of a Boolean. -/
def b1 (b : Bool) : BitVec 1 := BitVec.ofBool b

/-- Number of ones among bits 0 to k-1. -/
def onesUpTo {n : Nat} (x : BitVec n) : Nat → Nat
  | 0 => 0
  | k + 1 => (if x.getLsbD k then 1 else 0) + onesUpTo x k

/-- Number of ones. -/
def ones {n : Nat} (x : BitVec n) : Nat := onesUpTo x n

/-- True when the number of ones is odd. -/
def odd {n : Nat} (x : BitVec n) : Bool := ones x % 2 = 1

/-- An 18-bit word: 17 payload bits and even parity in bit 17 (02 R24). -/
def word18 (p : BitVec 17) : BitVec 18 := b1 (odd p) ++ p

/-- The word w of a value of 18-bit words. -/
def wordOf {n : Nat} (x : BitVec n) (w : Nat) : BitVec 18 := bits x (18 * w) 18

/-- Word w fails parity. -/
def wordBad {n : Nat} (x : BitVec n) (w : Nat) : Bool := odd (wordOf x w)

/-! ### Addresses -/

/-- The 64-byte line address of a byte address. -/
def lineOf (a : PA) : PA := a &&& ~~~ 0x3F#52

/-- Byte offset within the line. -/
def offsetOf (a : PA) : Nat := (bits a 0 6).toNat

/-- PA[51:6], the number of the line. -/
def lineNo (a : PA) : BitVec 46 := bits a 6 46

/-- The line with a number. -/
def lineAt (n : BitVec 46) : PA := n ++ 0#6

/-- The 512-byte region of an address (02 R26). -/
def regionOf (a : PA) : PA := a &&& ~~~ 0x1FF#52

/-- Line i of a region. -/
def regionLine (r : PA) (i : Nat) : PA := regionOf r ||| BitVec.ofNat 52 (64 * i)

/-- PA[8:6], the line within its loaf. -/
def lineInLoaf (a : PA) : Nat := (bits a 6 3).toNat

/-- PA[51:12], the page. -/
def pageOf (a : PA) : BitVec 40 := bits a 12 40

/-- The fine tag PA[51:19] (R25). -/
def fineTag (a : PA) : BitVec 33 := bits a 19 33

/-- PTAG of a tag (R25). -/
def ptagOf (t : BitVec 33) : BitVec 17 := bits t 0 17 ^^^ (bits t 17 16).setWidth 17

/-- The fold F (R25). -/
def fineFold (a : PA) : BitVec 13 := bits a 19 13 ^^^ bits a 32 13 ^^^ (bits a 45 7).setWidth 13

/-- The fine set index (R25). -/
def fineSet (a : PA) : Nat := (bits a 6 13 ^^^ fineFold a).toNat

/-- The line of a fine entry at a set, from its partial tag and upper tag (R25). -/
def fineAddr (set : Nat) (ptag : BitVec 17) (taghi : BitVec 16) : PA :=
  let tag : BitVec 33 := taghi ++ (ptag ^^^ taghi.setWidth 17)
  let a0 : PA := tag ++ 0#19
  a0 ||| ((BitVec.ofNat 13 set ^^^ fineFold a0).setWidth 52 <<< 6)

/-- The loaf tag PA[51:21] (R26). -/
def loafTag (a : PA) : BitVec 31 := bits a 21 31

/-- The fold G (R26). -/
def loafFold (a : PA) : BitVec 12 := bits a 21 12 ^^^ bits a 33 12 ^^^ (bits a 45 7).setWidth 12

/-- The loaf set index (R26). -/
def loafSet (a : PA) : Nat := (bits a 9 12 ^^^ loafFold a).toNat

/-- The region of a loaf entry at a set. -/
def loafAddr (set : Nat) (ltag : BitVec 31) : PA :=
  let a0 : PA := ltag ++ 0#21
  a0 ||| ((BitVec.ofNat 12 set ^^^ loafFold a0).setWidth 52 <<< 9)

/-- The HLC set index H (07 R190). -/
def hlcSet (a : PA) : Nat := (bits a 6 8 ^^^ bits a 14 8).toNat

/-- The HLC tag PA[46:14] (07 R190). -/
def hlcTag (a : PA) : BitVec 33 := bits a 14 33

/-- The line of an HLC tag at a set (07 R190). -/
def hlcAddr (set : Nat) (tag : BitVec 33) : PA :=
  let h : BitVec 8 := BitVec.ofNat 8 set ^^^ bits tag 0 8
  0#5 ++ tag ++ h ++ 0#6

/-- The bucket of an address (08 R213). -/
def bucketOf (a : PA) : Nat :=
  let x := bits a 9 12
  let b := bits a 21 12
  let c := bits a 33 12
  let d := (bits a 45 7).setWidth 12
  (x ^^^ b ^^^ (b <<< 1) ^^^ c ^^^ (c >>> 1) ^^^ d).toNat

/-- XOR of the successive k-bit fields of x, lowest first, the last padded with zeros (01 R14); `fuel` fields. -/
def foldBits (k : Nat) (x : Nat) : Nat → Nat
  | 0 => 0
  | fuel + 1 => (x % 2 ^ k) ^^^ foldBits k (x / 2 ^ k) fuel

/-! ### Agents, groups, nodes -/

/-- Node ID of slice n (03 Table 03-5). -/
def sliceNode (n : Nat) : BitVec 9 := BitVec.ofNat 9 (0x140 + n)

/-- Slice number of a node ID. -/
def nodeSlice (x : BitVec 9) : Option Nat :=
  if 0x140 ≤ x.toNat ∧ x.toNat < 0x140 + 68 then some (x.toNat - 0x140) else none

/-- Node ID of memory port p. -/
def portNode (p : Nat) : BitVec 9 := BitVec.ofNat 9 (0x190 + p)

/-- Node ID of the spine requester of function f (03 Table 03-5). -/
def fnNode (f : Nat) : BitVec 9 := BitVec.ofNat 9 (0x1F0 + f)

/-- Node ID of the spine. -/
def spineNode : BitVec 9 := 0x1F0#9

/-- The node is a caching agent (01 R13). -/
def isCaching (x : Nat) : Bool := x < 0x100

/-- The node is an agent of either kind. -/
def isAgent (x : Nat) : Bool := x < 0x120

/-- The node is a spine requester (03 Table 03-5). -/
def isSpineReq (x : Nat) : Bool := 0x1F0 ≤ x && x ≤ 0x1FF

/-- The group of a caching agent, ID[7:4] (02 R29). -/
def groupOf (agent : Nat) : Nat := agent / 16 % 16

/-- A group vector with the groups of some agents. -/
def groupVec (agents : List Nat) : BitVec 16 :=
  agents.foldl (fun v a => setBit v (groupOf a) true) 0

/-- The agents of every set group. -/
def groupAgents (v : BitVec 16) : List Nat :=
  (List.range 256).filter fun a => bit v (groupOf a)

/-! ### Lines and bytes -/

/-- Byte i of a value, byte 0 lowest. -/
def byteOf {n : Nat} (x : BitVec n) (i : Nat) : Byte := bits x (8 * i) 8

/-- The bytes of a value, byte 0 first. -/
def bytesOf {n : Nat} (x : BitVec n) (k : Nat) : List Byte := (List.range k).map (byteOf x)

/-- A number from its bytes, byte 0 lowest. -/
def ofBytes : List Byte → Nat
  | [] => 0
  | b :: r => b.toNat + 256 * ofBytes r

/-- The 512-bit mask that has every bit of each enabled byte set; `k` bytes done. -/
def byteMask (m : Mask) : Nat → Line
  | 0 => 0
  | k + 1 => (if m.getLsbD k then 0xFF#512 <<< (8 * k) else 0) ||| byteMask m k

/-- `new` written over `old` under a byte mask. -/
def mergeBytes (old new : Line) (m : Mask) : Line :=
  let bm := byteMask m 64
  (old &&& ~~~ bm) ||| (new &&& bm)

/-- The mask of every byte. -/
def fullMask : Mask := BitVec.allOnes 64

/-- The mask of `len` bytes from `off`. -/
def spanMask (off len : Nat) : Mask := BitVec.ofNat 64 ((2 ^ len - 1) * 2 ^ off)

/-- Even parity of each 8-byte group, group 0 in bit 0 (07 Table 07-3 DPAR). -/
def groupParity (d : Line) : BitVec 8 :=
  (List.range 8).foldl (fun v g => setBit v g (odd (bits d (64 * g) 64))) 0

/-- Least number of a list, or `d`. -/
def leastOf (d : Nat) : List Nat → Nat
  | [] => d
  | a :: r => min a (leastOf d r)

/-- The first element of a list with the least value of f. -/
def argMin {α : Type} (f : α → Nat) : List α → Option α
  | [] => none
  | a :: r =>
    match argMin f r with
    | none => some a
    | some b => if f a ≤ f b then some a else some b

/-- The first element of a list with the greatest value of f. -/
def argMax {α : Type} (f : α → Nat) : List α → Option α
  | [] => none
  | a :: r =>
    match argMax f r with
    | none => some a
    | some b => if f b ≤ f a then some a else some b

/-- A list in rising order of f, equal elements in their first order. -/
def sortBy {α : Type} (f : α → Nat) (l : List α) : List α := l.reverse.foldl (fun r x => insertBefore f x r) []
where
  /-- x put before the first element with a value of f not below x's. -/
  insertBefore (f : α → Nat) (x : α) : List α → List α
    | [] => [x]
    | a :: r => if f x ≤ f a then x :: a :: r else a :: insertBefore f x r

/-- x added to a list without repeats. -/
def addNew {α : Type} [DecidableEq α] (l : List α) (x : α) : List α := if x ∈ l then l else l ++ [x]

/-- Saturating increment. -/
def satInc (top x : Nat) : Nat := if x < top then x + 1 else top

/-- A word from its fields: position and value. -/
def packWord (l : List (Nat × Nat)) : W64 := BitVec.ofNat 64 (l.foldl (fun v x => v + x.2 * 2 ^ x.1) 0)

/-- A Bool as a number. -/
def nb (b : Bool) : Nat := if b then 1 else 0

end Sys2Proof.Machine
end

