-- ==== Sys2Proof/Machine/Entries.lean ====
section
/-! DEFINITION. The stored forms of filter entries, HLC tag words and merging-buffer parity: 02 Tables 02-3, 02-5,
07 Tables 07-1, 07-3. -/

namespace Sys2Proof.Machine

/-- The stored words of a fine entry (02 R24, R28). -/
def encFine (e : FineEntry) : Entry :=
  word18 (bits e.shr 0 17) ++
  word18 (e.hstate ++ e.colour ++ b1 e.stash ++ b1 e.anvil ++ b1 e.hpf ++ bits e.shr 17 7) ++
  word18 (e.taghi ++ b1 e.sfmt) ++
  word18 e.ptag

/-- The fields of a stored fine entry. -/
def decFine (x : Entry) : FineEntry where
  ptag := bits x 0 17
  taghi := bits x 19 16
  sfmt := bit x 18
  hstate := bits x 50 3
  colour := bits x 46 4
  stash := bit x 45
  anvil := bit x 44
  hpf := bit x 43
  shr := bits x 36 7 ++ bits x 54 17

/-- The stored words of a loaf entry (02 R34). -/
def encLoaf (e : LoafEntry) : Entry :=
  word18 (e.gvec ++ 0#1) ++ word18 (e.pres ++ e.colour ++ 0#5) ++ word18 (bits e.ltag 17 14 ++ e.lstate ++ 0#1) ++
  word18 (bits e.ltag 0 17)

/-- The fields of a stored loaf entry. -/
def decLoaf (x : Entry) : LoafEntry where
  ltag := bits x 21 14 ++ bits x 0 17
  lstate := bits x 19 2
  pres := bits x 45 8
  colour := bits x 41 4
  gvec := bits x 55 16

/-! ### Home states and line states -/

/-- Home state codes (02 Table 02-1). -/
def hsI : BitVec 3 := 0
def hsS : BitVec 3 := 1
def hsX : BitVec 3 := 2
def hsO : BitVec 3 := 3
def hsP : BitVec 3 := 4
def hsU : BitVec 3 := 5

/-- Line state codes (03 Table 03-7). -/
def lsI : BitVec 3 := 0
def lsS : BitVec 3 := 1
def lsE : BitVec 3 := 2
def lsO : BitVec 3 := 3
def lsM : BitVec 3 := 4

/-- The state is E, O or M. -/
def ownish (st : BitVec 3) : Bool := st = lsE || st = lsO || st = lsM

/-- Loaf state codes (02 Table 02-5). -/
def lfClean : BitVec 2 := 1
def lfOwner : BitVec 2 := 2
def lfUnknown : BitVec 2 := 3

/-! ### Fine entries -/

/-- The entry is free (02 Table 02-1). -/
def FineEntry.free (e : FineEntry) : Bool := e.hstate = hsI && !e.anvil

/-- The full tag (02 R25). -/
def FineEntry.tag (e : FineEntry) : BitVec 33 := e.taghi ++ (e.ptag ^^^ e.taghi.setWidth 17)

/-- The line of an entry at a set. -/
def FineEntry.line (e : FineEntry) (set : Nat) : PA := fineAddr set e.ptag e.taghi

/-- The entry names a line's tag. -/
def FineEntry.isFor (e : FineEntry) (a : PA) : Bool := e.ptag = ptagOf (fineTag a) && e.taghi = bits (fineTag a) 17 16

/-- The entry with the tag of a line. -/
def FineEntry.withTag (e : FineEntry) (a : PA) : FineEntry :=
  { e with ptag := ptagOf (fineTag a), taghi := bits (fineTag a) 17 16 }

/-- Owner slot or owner pointer, slots A and B (02 R30, R32). -/
def FineEntry.slot0 (e : FineEntry) : Nat := (bits e.shr 16 8).toNat
def FineEntry.slotA (e : FineEntry) : Nat := (bits e.shr 8 8).toNat
def FineEntry.slotB (e : FineEntry) : Nat := (bits e.shr 0 8).toNat

/-- The group vector of format 1. -/
def FineEntry.gvec (e : FineEntry) : BitVec 16 := bits e.shr 0 16

/-- The distinct slots of format 0, in slot order. -/
def FineEntry.slots (e : FineEntry) : List Nat := addNew (addNew [e.slot0] e.slotA) e.slotB

/-- The agent named as holder or owner, in X and O. -/
def FineEntry.owner (e : FineEntry) : Option Nat :=
  if e.hstate = hsX || e.hstate = hsO then some e.slot0 else none

/-- The agents named as sharers: in format 0 the slots but the owner's, in format 1 every agent of a set group. -/
def FineEntry.sharers (e : FineEntry) : List Nat :=
  if e.sfmt then (groupAgents e.gvec).filter fun a => e.owner != some a
  else e.slots.filter fun a => e.owner != some a

/-- The sharers named exactly; none in format 1. -/
def FineEntry.exactSharers (e : FineEntry) : List Nat := if e.sfmt then [] else e.sharers

/-- The groups of sharers named only by group. -/
def FineEntry.vec (e : FineEntry) : BitVec 16 := if e.sfmt then e.gvec else 0

/-- The possible holders of a P entry (02 R33). -/
def FineEntry.possible (e : FineEntry) : List Nat :=
  if e.sfmt then addNew (groupAgents e.gvec) e.slot0 else e.slots

/-- The groups a demotion adds to GVEC (02 R48 step 4). -/
def FineEntry.groups (e : FineEntry) : BitVec 16 :=
  if e.sfmt then
    if e.hstate = hsO then setBit e.gvec (groupOf e.slot0) true else e.gvec
  else groupVec e.slots

/-- Format 0 in compact form (02 R31): at most three agents, empty slots holding the first. -/
def fmt0 (l : List Nat) : BitVec 24 :=
  let a := l.headD 0
  BitVec.ofNat 8 a ++ BitVec.ofNat 8 ((l.drop 1).headD a) ++ BitVec.ofNat 8 ((l.drop 2).headD a)

/-- Format 1: owner pointer and group vector. -/
def fmt1 (owner : Nat) (v : BitVec 16) : BitVec 24 := BitVec.ofNat 8 owner ++ v

/-- The entry with sharers named exactly (`l`) and by group (`v`), in the format R42 gives, state S; free when there
is none. -/
def FineEntry.setS (e : FineEntry) (l : List Nat) (v : BitVec 16) : FineEntry :=
  if v = 0 ∧ l.length = 0 then { e with hstate := hsI, anvil := false, stash := false, hpf := false, sfmt := false, shr := 0 }
  else if v = 0 ∧ l.length ≤ 3 then { e with hstate := hsS, sfmt := false, shr := fmt0 l }
  else { e with hstate := hsS, sfmt := true, shr := fmt1 0 (v ||| groupVec l) }

/-- The entry in O with an owner and sharers. -/
def FineEntry.setO (e : FineEntry) (o : Nat) (l : List Nat) (v : BitVec 16) : FineEntry :=
  let l := l.filter (· != o)
  if v = 0 ∧ l.length ≤ 2 then { e with hstate := hsO, sfmt := false, shr := fmt0 (o :: l) }
  else { e with hstate := hsO, sfmt := true, shr := fmt1 o (v ||| groupVec l) }

/-- The entry in X. -/
def FineEntry.setX (e : FineEntry) (o : Nat) : FineEntry :=
  { e with hstate := hsX, sfmt := false, shr := fmt0 [o] }

/-- The entry as it enters P (02 R33): its sharer field and its hints stay (04 R121), but in U the STASH bit is the
owner-seen flag and is cleared; an entry that names no holder, as in Anvil mode, is written in format 1 with SHR 0. -/
def FineEntry.inP (e : FineEntry) : FineEntry :=
  if e.anvil || e.hstate = hsI then
    { e with hstate := hsP, anvil := false, stash := false, hpf := false, sfmt := true, shr := 0 }
  else { e with hstate := hsP, anvil := false, stash := e.stash && e.hstate != hsU }

/-- The entry in P naming agents exactly and by group, in the format R42 gives (02 R33, 04 R131). -/
def FineEntry.setP (e : FineEntry) (l : List Nat) (v : BitVec 16) : FineEntry :=
  ({ e with anvil := false }.setS l v).inP

/-- U in census form (02 R56). -/
def FineEntry.setU (e : FineEntry) : FineEntry :=
  { e with hstate := hsU, sfmt := true, shr := 0, stash := false, anvil := false, hpf := false }

/-! ### Loaf entries -/

/-- The loaf's region at a set. -/
def LoafEntry.region (e : LoafEntry) (set : Nat) : PA := loafAddr set e.ltag

/-- The loaf is valid and covers a line's region. -/
def LoafEntry.isFor (e : LoafEntry) (a : PA) : Bool := e.lstate != 0 && e.ltag = loafTag a

/-- The present lines of a loaf at a set. -/
def LoafEntry.lines (e : LoafEntry) (set : Nat) : List PA :=
  ((List.range 8).filter fun i => bit e.pres i).map (regionLine (e.region set))

/-! ### HLC tag words (07 Table 07-1) -/

/-- Parity of the data with DP itself even. -/
def dpOf (d : Line) : Bool := odd d

/-- The tag words of a way holding a line. -/
def encHlc (tag : BitVec 33) (v : Bool) (d : Line) : BitVec 36 :=
  let low : BitVec 34 := b1 v ++ tag
  b1 (dpOf d) ++ b1 (odd low) ++ low

def hlcV (x : BitVec 36) : Bool := bit x 33

def hlcTagOf (x : BitVec 36) : BitVec 33 := bits x 0 33

/-- TP fails. -/
def hlcTpBad (x : BitVec 36) : Bool := odd (bits x 0 35)

/-- DP fails. -/
def hlcDpBad (x : BitVec 36) (d : Line) : Bool := bit x 35 != odd d

/-! ### Merging buffer parity -/

/-- The 8-byte groups whose DPAR fails. -/
def MbEntry.badGroups (e : MbEntry) : BitVec 8 := e.dpar ^^^ groupParity e.data

/-- MPAR fails. -/
def MbEntry.maskBad (e : MbEntry) : Bool := e.mpar != odd e.mask

/-- The entry with the parity of its data and mask. -/
def MbEntry.seal (e : MbEntry) : MbEntry := { e with dpar := groupParity e.data, mpar := odd e.mask }

end Sys2Proof.Machine
end

