-- ==== Sys2Proof/Machine/Parts.lean ====
section
/-! DEFINITION. Reaching the parts of the block and their tables: each accessor names what an unlisted key reads as,
which is the part's reset value. -/

namespace Sys2Proof.Machine

/-- The outcome of a step. -/
abbrev Res := Host.Outcome State Fault Refusal

/-! ### Parts -/

def State.slice (s : State) (n : Nat) : Slice := mget (Slice.initial s.par n) s.slices n
def State.setSlice (s : State) (n : Nat) (x : Slice) : State :=
  { s with slices := mput (Slice.initial s.par n) s.slices n x }
def State.updSlice (s : State) (n : Nat) (f : Slice → Slice) : State := s.setSlice n (f (s.slice n))

def State.shim (s : State) (sh : Nat) : Shim := mget {} s.shims sh
def State.setShim (s : State) (sh : Nat) (x : Shim) : State := { s with shims := mput {} s.shims sh x }
def State.updShim (s : State) (sh : Nat) (f : Shim → Shim) : State := s.setShim sh (f (s.shim sh))

def State.port (s : State) (p : Nat) : Port := mget {} s.ports p
def State.setPort (s : State) (p : Nat) (x : Port) : State := { s with ports := mput {} s.ports p x }
def State.updPort (s : State) (p : Nat) (f : Port → Port) : State := s.setPort p (f (s.port p))

def State.fn (s : State) (f : Nat) : Fn := mget (Fn.initial f) s.fns f
def State.setFn (s : State) (f : Nat) (x : Fn) : State := { s with fns := mput (Fn.initial f) s.fns f x }
def State.updFn (s : State) (f : Nat) (g : Fn → Fn) : State := s.setFn f (g (s.fn f))

def State.updSpine (s : State) (g : Spine → Spine) : State := { s with spine := g s.spine }
def State.updHall (s : State) (g : Hallmark → Hallmark) : State := { s with hall := g s.hall }

/-- Slice numbers, shim numbers with a strapped agent, function numbers (01 R11, R13). -/
def State.sliceNums (s : State) : List Nat := List.range s.par.nSlice
def State.hasShim (s : State) (sh : Nat) : Bool := bit s.par.strapped sh
def State.shimNums (s : State) : List Nat := (List.range 288).filter s.hasShim
def State.fnNums (s : State) : List Nat := List.range s.par.nFunc

/-- f applied for each number of a list, in order. -/
def eachOf {α : Type} (l : List α) (f : α → State → State) (s : State) : State := l.foldl (fun t x => f x t) s

/-- Every slice updated. -/
def State.updSlices (s : State) (f : Nat → Slice → Slice) : State :=
  eachOf s.sliceNums (fun n t => t.updSlice n (f n)) s

/-! ### Bucket ownership at reset (08 R215) -/

/-- Slice and engine of a bucket after cold reset. -/
def initialHome (p : Params) (b : Nat) : Nat × Nat :=
  let g := b % (4 * p.nActive)
  (g % p.nActive, g / p.nActive)

def bktInit (p : Params) (n b : Nat) : BktEntry :=
  let h := initialHome p b
  if h.1 = n then { kind := .owned, engine := h.2 } else {}

def masterInit (p : Params) (b : Nat) : MasterEntry :=
  let h := initialHome p b
  { slice := h.1, engine := h.2, gen := 0 }

def bmapInit (p : Params) (b : Nat) : BMapEntry :=
  let h := initialHome p b
  { slice := h.1, engine := h.2, gen := 0 }

/-- SLC_BKT[b] of slice n. -/
def State.bkt (s : State) (n b : Nat) : BktEntry := mget (bktInit s.par n b) (s.slice n).bkt b
def State.setBkt (s : State) (n b : Nat) (e : BktEntry) : State :=
  s.updSlice n fun sl => { sl with bkt := mput (bktInit s.par n b) sl.bkt b e }

/-- The master map. -/
def State.master (s : State) (b : Nat) : MasterEntry := mget (masterInit s.par b) s.spine.master b
def State.setMaster (s : State) (b : Nat) (e : MasterEntry) : State :=
  s.updSpine fun sp => { sp with master := mput (masterInit s.par b) sp.master b e }

/-- SHM_BMAP[b] of a shim. -/
def State.bmap (s : State) (sh b : Nat) : BMapEntry := mget (bmapInit s.par b) (s.shim sh).bmap b
def State.setBmap (s : State) (sh b : Nat) (e : BMapEntry) : State :=
  s.updShim sh fun x => { x with bmap := mput (bmapInit s.par b) x.bmap b e }

def allBuckets : List Nat := List.range 4096

/-- The buckets a slice owns or holds frozen. -/
def State.heldBuckets (s : State) (n : Nat) : List Nat :=
  allBuckets.filter fun b => (s.bkt n b).kind = .owned || (s.bkt n b).kind = .frozen

def State.ownedBuckets (s : State) (n : Nat) : List Nat := allBuckets.filter fun b => (s.bkt n b).kind = .owned

/-! ### Halves of 64-bit registers (18 R445) -/

def HalfAcc.none : HalfAcc := {}
def HalfAcc.latched (off : Nat) (hi : BitVec 32) : HalfAcc := { off, latch := some hi }
def HalfAcc.staged (off : Nat) (lo : BitVec 32) : HalfAcc := { off, stage := some lo }

/-- A function's halves; with neither kept it holds no register's. -/
def setHalf (f : Nat) (h : HalfAcc) (s : State) : State :=
  s.updFn f fun x => { x with half := if h.latch.isNone && h.stage.isNone then {} else h }

/-- An access to the register at an offset discards the halves kept for another; none: a register that has no halves. -/
def keepHalf (f : Nat) (off : Option Nat) (s : State) : State :=
  let h := (s.fn f).half
  if (h.latch.isNone && h.stage.isNone) || off = some h.off then s else setHalf f .none s

/-! ### Recipe banks (13 R347) -/

def Bank.base (p : Params) : Bank :=
  { id := p.baseId, lcp := p.baseLcp, feat := p.baseFeat, valid := true,
    image := (List.range p.baseLen).map Config.baseImage }

/-- SYNDROME of a failing word of engine e's bank (15 Table 15-5 0x1C, 0x1E); an injection inverts the first word's check. -/
def Bank.failSyn (x : Bank) (e : Nat) : BitVec 16 := (if x.bad then x.badAt else 0).setWidth 16 <<< 2 ||| BitVec.ofNat 16 (e % 4)

def State.actBank (s : State) (n e : Nat) : Bank := mget (Bank.base s.par) (s.slice n).act e
def State.setActBank (s : State) (n e : Nat) (x : Bank) : State :=
  s.updSlice n fun sl => { sl with act := mput (Bank.base s.par) sl.act e x }
def State.shdBank (s : State) (n e : Nat) : Bank := mget {} (s.slice n).shd e
def State.setShdBank (s : State) (n e : Nat) (x : Bank) : State :=
  s.updSlice n fun sl => { sl with shd := mput {} sl.shd e x }

/-- Feature bits of the engine that owns a bucket (13 R351): LOCAL, ANVIL, STASH. -/
def State.feat (s : State) (n b i : Nat) : Bool := bit (s.actBank n (s.bkt n b).engine).feat i

/-! ### Spine tables -/

def State.tidColour (s : State) (tid : BitVec 12) : BitVec 4 := mget 0 s.spine.prot.tidColour tid.toNat
def State.mask (s : State) (c : BitVec 4) : ColourMask := mget {} s.spine.prot.masks c.toNat
def State.rg (s : State) (i : Nat) : RgEntry := mget {} s.spine.prot.rg i
def State.mrtE (s : State) (i : Nat) : MrtEntry := mget {} s.spine.mrt i
def State.seg (s : State) (k : Nat) : TraySeg := mget {} s.spine.traySeg k
def State.calSet (s : State) (n : Nat) : CalSet := mget (CalSet.fused n) s.spine.cal n

/-- The protection set changed by g. -/
def State.updProt (s : State) (g : Protect → Protect) : State :=
  s.updSpine fun sp => { sp with prot := g sp.prot }

/-- The revision and partition of an agent as its shim holds them. -/
def State.agentRev (s : State) (a : Nat) : Nat := (s.shim a).neg

def Shim.live (x : Shim) : Bool := x.st = .admitted

/-! ### Arrays -/

def Slice.fineE (sl : Slice) (set way : Nat) : Entry := mget 0 sl.arr.fine (16 * set + way)
def Slice.loafE (sl : Slice) (set way : Nat) : Entry := mget 0 sl.arr.loaf (8 * set + way)
def Slice.hlcW (sl : Slice) (set way : Nat) : HlcWay := mget {} sl.arr.hlc (8 * set + way)
def Slice.pin (sl : Slice) (set way : Nat) : Bool := bit (mget 0 sl.arr.hlcFlags set) (2 * way)
def Slice.pfu (sl : Slice) (set way : Nat) : Bool := bit (mget 0 sl.arr.hlcFlags set) (2 * way + 1)

def Slice.putFine (sl : Slice) (set way : Nat) (e : Entry) : Slice :=
  { sl with arr := { sl.arr with fine := mput 0 sl.arr.fine (16 * set + way) e } }
def Slice.putLoaf (sl : Slice) (set way : Nat) (e : Entry) : Slice :=
  { sl with arr := { sl.arr with loaf := mput 0 sl.arr.loaf (8 * set + way) e } }
def Slice.putHlc (sl : Slice) (set way : Nat) (x : HlcWay) : Slice :=
  { sl with arr := { sl.arr with hlc := mput {} sl.arr.hlc (8 * set + way) x } }
def Slice.putFlags (sl : Slice) (set way : Nat) (pin pfu : Bool) : Slice :=
  let w := mget 0 sl.arr.hlcFlags set
  { sl with arr := { sl.arr with
      hlcFlags := mput 0 sl.arr.hlcFlags set (setBit (setBit w (2 * way) pin) (2 * way + 1) pfu) } }

def Slice.mbE (sl : Slice) (e : Nat) : MbEntry := mget {} sl.mb e
def Slice.putMb (sl : Slice) (e : Nat) (x : MbEntry) : Slice := { sl with mb := mput {} sl.mb e x }

def Slice.tracker (sl : Slice) (t : Nat) : Option Tracker := mfind sl.trk t
def Slice.putTrk (sl : Slice) (t : Nat) (k : Tracker) : Slice := { sl with trk := mins sl.trk t k }
def Slice.dropTrk (sl : Slice) (t : Nat) : Slice := { sl with trk := mdel sl.trk t }

/-- The tracker changed by f, if it is allocated. -/
def Slice.updTrk (sl : Slice) (t : Nat) (f : Tracker → Tracker) : Slice :=
  match sl.tracker t with
  | some k => sl.putTrk t (f k)
  | none => sl

def State.updTrk (s : State) (n t : Nat) (f : Tracker → Tracker) : State := s.updSlice n (·.updTrk t f)

def State.trk (s : State) (n t : Nat) : Option Tracker := (s.slice n).tracker t

/-- The revision of an admitted caching agent at a slice (09 R239). -/
def Slice.rev (sl : Slice) (a : Nat) : Option Nat := mfind sl.adm a
def Slice.admitted (sl : Slice) (a : Nat) : Bool := (mfind sl.adm a).isSome
def Slice.admList (sl : Slice) : List Nat := mkeys sl.adm

/-- Some admitted caching agent of a list runs revision 1. -/
def Slice.anyRev1 (sl : Slice) (l : List Nat) : Bool := l.any fun a => sl.rev a = some 1

/-! ### Outcomes -/

/-- The meaning of a step at slice n: it acts if the slice is built (01 R11). -/
def atSlice (n : Nat) (s : State) (f : State → State) : Res :=
  if n < s.par.nSlice then .next (f s) else .fault .notBuilt

def atShim (sh : Nat) (s : State) (f : State → State) : Res :=
  if s.hasShim sh then .next (f s) else .fault .notBuilt

def atPort (p : Nat) (s : State) (f : State → State) : Res :=
  if p < s.par.nMport then .next (f s) else .fault .notBuilt

def atFn (fn : Nat) (s : State) (f : State → State) : Res :=
  if fn < s.par.nFunc then .next (f s) else .fault .notBuilt

end Sys2Proof.Machine
end

