-- ==== Sys2Proof/Machine/Flags.lean ====
section
/-! DEFINITION. Modes and levels computed from state: SLC_MODE and SPN_BLOCK_MODE (13 R323, R324, R327), the source
catalogue (15 Table 15-1), the summary levels (15 R392), rise control's cap (17 R435). -/

namespace Sys2Proof.Machine

/-- The mode that SLC_MODE.MODE shows (13 R324). -/
def Conds.mode (c : Conds) : Mode :=
  match c.phase with
  | .off => .off
  | .retain => .retain
  | .seed => .seed
  | .hold => .hold
  | .service =>
    if c.bLost then .broadcast
    else if c.lCensus || c.lWays || c.lFront then .limp
    else if c.pMove || c.pCopy || c.pRecipe || c.pCal || c.pTray then .proof
    else .track

/-- Mode codes (13 Table 13-1). -/
def Mode.code : Mode → BitVec 3
  | .off => 0 | .retain => 1 | .seed => 2 | .track => 3 | .proof => 4 | .broadcast => 5 | .limp => 6 | .hold => 7

/-- The conditions of a slice that enters another phase: disabled ways, a recipe activation in progress and a calibration apply
pending go with it (13 Table 13-2). -/
def Conds.into (c : Conds) (p : Phase) : Conds := { phase := p, lWays := c.lWays, pRecipe := c.pRecipe, pCal := c.pCal }

/-- SLC_MODE (13 Table 13-2). -/
def Conds.word (c : Conds) : BitVec 32 :=
  0#18 ++ b1 c.hSalv ++ b1 c.bLost ++ b1 c.lFront ++ b1 c.lWays ++ b1 c.lCensus ++ b1 c.pTray ++ b1 c.pCal ++
  b1 c.pRecipe ++ b1 c.pCopy ++ b1 c.pMove ++ 0#1 ++ c.mode.code

def Slice.mode (sl : Slice) : Mode := sl.conds.mode

/-- The slice is active: it serves and may own buckets (13 R323). -/
def Slice.serving (sl : Slice) : Bool := sl.conds.phase = .service

/-- SPN_BLOCK_MODE (13 Table 13-4). -/
def State.blockMode (s : State) : W64 :=
  let ms := s.sliceNums.map fun n => ((s.slice n).mode, !(s.heldBuckets n).isEmpty)
  let has (p : Mode → Bool) := ms.any fun m => p m.1 && m.2
  let b : BitVec 2 := if has (· = .hold) then 3
    else if has fun m => m = .limp || m = .broadcast then 2
    else if has (· = .proof) then 1 else 0
  (List.range 8).foldl
    (fun v k => v ||| (BitVec.ofNat 64 ((ms.filter fun m => m.1.code.toNat = k).length) <<< (7 * k + 8)))
    (b.setWidth 64)

/-! ### Fault sources (15 Table 15-1) -/

/-- Default severity of a source; none for a reserved code. -/
def srcSev (c : Nat) : Option (BitVec 2) :=
  if c ≤ 0x04 then some 2 else if c ≤ 0x06 then some 1 else if c ≤ 0x08 then some 2 else if c = 0x09 then some 1
  else if c ≤ 0x0E then some 2 else if c = 0x0F then some 0 else if c ≤ 0x17 then some 2 else if c ≤ 0x19 then some 0
  else if c = 0x1A then some 1 else if c ≤ 0x1D then some 3 else if c = 0x1E then some 1 else if c < 0x40 then none
  else if c ≤ 0x44 then some 2 else if c ≤ 0x46 then some 1 else if c = 0x47 then some 0 else if c < 0x60 then none
  else if c = 0x60 then some 0 else if c ≤ 0x63 then some 2 else if c = 0x64 then some 3 else if c = 0x65 then some 2
  else if c = 0x66 then some 0 else if c = 0x67 then some 1 else if c = 0x68 then some 3 else if c = 0x69 then some 2
  else if c < 0x80 then none else if c ≤ 0x83 then some 2 else none

/-- Sources with a fixed severity, F. -/
def srcFixed (c : Nat) : Bool := c = 0x1B || c = 0x1C || c = 0x1D || c = 0x64 || c = 0x68

/-- Security sources, sec. -/
def srcSec (c : Nat) : Bool := c = 0x43 || c = 0x44 || c = 0x65 || c = 0x66

/-- Default configuration of a source. -/
def srcDefault (c : Nat) : SrcCfg :=
  let sev := (srcSev c).getD 0
  let nce := c = 0x64 || c = 0x68
  { sev, intr := c = 0x66 || (sev = 2) || (sev = 3 && !nce), nmi := nce, srst := false, crst := nce,
    exterr := sev = 3 || c = 0x65 }

def State.src (s : State) (c : Nat) : SrcCfg := mget (srcDefault c) s.spine.srcCfg c

/-- The severity in effect (15 R379). -/
def State.sevOf (s : State) (c : Nat) : BitVec 2 := if srcFixed c then 3 else (s.src c).sev

/-! ### Summary levels (15 Table 15-9) -/

/-- The six levels of a status register whose bit n is source base + n. -/
def State.levelsOf (s : State) (base : Nat) (status : W64) (hold : Bool) : BitVec 6 :=
  let set := (List.range 64).filter fun n => bit status n
  let has (p : SrcCfg → Bool) := set.any fun n => p (s.src (base + n))
  b1 (has (·.srst)) ++ b1 (has (·.crst)) ++ b1 (has (·.nmi)) ++ b1 (has (·.exterr)) ++
  b1 (hold || set.any fun n => s.sevOf (base + n) = 3) ++ b1 (has (·.intr))

/-- The levels of a part named by its node ID: a slice, a shim's agent, or the spine. -/
def State.levels (s : State) (node : Nat) : BitVec 6 :=
  match nodeSlice (BitVec.ofNat 9 node) with
  | some n => s.levelsOf 0x00 (s.slice n).assay.status ((s.slice n).conds.phase = .hold)
  | none =>
    if isAgent node then s.levelsOf 0x40 (s.shim node).assay.status false
    else s.levelsOf 0x60 s.spine.assay.status false

/-- Transaction slots that a window may start (17 R435): min(T, max(8, S(n-1) + 8)). -/
def Slice.slotCap (sl : Slice) : Nat := min sl.cap (max 8 (sl.prevSlots + 8))

end Sys2Proof.Machine
end

