-- ==== Sys2Proof/Machine/Flits.lean ====
section
/-! DEFINITION. Messages as flits: 03 Tables 03-2 to 03-4, 03-8 to 03-14, and the checks of a received message
(03 R100). -/

namespace Sys2Proof.Machine

/-- CLASS and OPC of an opcode (03 Tables 03-8, 03-9, 03-10, 03-12). -/
def Op.code : Op → Nat × Nat
  | .rdShare => (0, 0x00) | .rdOwn => (0, 0x01) | .rdOnce => (0, 0x02) | .upgrade => (0, 0x03)
  | .wrFull => (0, 0x04) | .wrPart => (0, 0x05) | .wrStash => (0, 0x06) | .atomOp => (0, 0x07)
  | .pfHint => (0, 0x08) | .drainW => (0, 0x09) | .tlbInvReq => (0, 0x0A) | .tlbSync => (0, 0x0B)
  | .spineCtl k => (0, 0x18 + k)
  | .wbDirty => (1, 0x00) | .wbClean => (1, 0x01) | .drop => (1, 0x02)
  | .snShare => (2, 0x00) | .snOwn => (2, 0x01) | .snFwdShare => (2, 0x02) | .snFwdOwn => (2, 0x03)
  | .snKill => (2, 0x04) | .snCensus => (2, 0x05) | .snStash => (2, 0x06) | .tlbInvSnp => (2, 0x07)
  | .grant => (3, 0x00) | .seal => (3, 0x01) | .rest => (3, 0x02) | .snDone => (3, 0x03)
  | .stashTake => (3, 0x04) | .stashRefuse => (3, 0x05) | .tlbAck => (3, 0x06) | .cnsLine => (3, 0x07)
  | .memRd => (3, 0x10) | .memWr => (3, 0x11) | .memAck => (3, 0x12)
  | .datS => (4, 0x00) | .datX => (4, 0x01) | .datO => (4, 0x02) | .datWb => (4, 0x03)
  | .datFwd => (4, 0x04) | .datAtom => (4, 0x05) | .memWd => (4, 0x10) | .memDat => (4, 0x11)

/-- Every opcode. -/
def Op.all : List Op :=
  [.rdShare, .rdOwn, .rdOnce, .upgrade, .wrFull, .wrPart, .wrStash, .atomOp, .pfHint, .drainW, .tlbInvReq, .tlbSync,
   .spineCtl 0, .spineCtl 1, .spineCtl 2, .spineCtl 3, .spineCtl 4, .spineCtl 5, .spineCtl 6, .spineCtl 7,
   .wbDirty, .wbClean, .drop, .snShare, .snOwn, .snFwdShare, .snFwdOwn, .snKill, .snCensus, .snStash, .tlbInvSnp,
   .grant, .seal, .rest, .snDone, .stashTake, .stashRefuse, .tlbAck, .cnsLine, .memRd, .memWr, .memAck,
   .datS, .datX, .datO, .datWb, .datFwd, .datAtom, .memWd, .memDat]

/-- The opcode with a CLASS and OPC, if it is not reserved. -/
def opOf (c o : Nat) : Option Op := Op.all.find? fun x => x.code = (c, o)

def Op.cls (o : Op) : Nat := o.code.1

/-- Words 3 to 7 are form A (03 R76, R81, Table 03-10). -/
def Op.formA (o : Op) : Bool :=
  o.cls ≤ 2 || o = .cnsLine || o = .memRd || o = .memWr

/-- Data flits of a message (03 R65). -/
def Op.dataFlits (o : Op) : Nat :=
  match o with
  | .atomOp | .tlbInvReq | .tlbInvSnp | .datAtom => 1
  | .datS | .datX | .datO | .datWb | .datFwd | .memWd | .memDat => 2
  | _ => 0

/-- SOFT is listed for the opcode (03 Table 03-8). -/
def Op.listsSoft (o : Op) : Bool := o = .rdShare || o = .rdOwn || o = .rdOnce

def Op.isReq (o : Op) : Bool := o.cls = 0

/-- Spine control (03 Table 03-8), which no agent sends and whose contents the spec does not give. -/
def Op.spine : Op → Bool
  | .spineCtl _ => true
  | _ => false

def Op.isWbk (o : Op) : Bool := o.cls = 1

/-- A REQ that starts a transaction for a line. -/
def Op.isLineReq (o : Op) : Bool :=
  o = .rdShare || o = .rdOwn || o = .rdOnce || o = .upgrade || o = .wrFull || o = .wrPart || o = .wrStash || o = .atomOp

/-- The requester's last message is a Seal (04 Table 04-8). -/
def Op.sealed (o : Op) : Bool := o = .rdShare || o = .rdOwn || o = .rdOnce || o = .upgrade || o = .atomOp

def Op.isWrite (o : Op) : Bool := o = .wrFull || o = .wrPart || o = .wrStash

/-- A first answer (05 R151). -/
def Op.isFirst (o : Op) : Bool :=
  o = .rest || o = .grant || o = .datS || o = .datX || o = .datO || o = .datFwd || o = .datAtom

/-! ### Encoding -/

/-- Payload words 3 to 7 of form A. -/
def hdrA (m : Msg) : List (BitVec 17) :=
  [m.peer ++ m.gen ++ b1 m.soft ++ b1 m.hold, m.tid ++ m.ord ++ b1 m.fwd ++ 0#1 ++ bits m.addr 51 1,
   bits m.addr 34 17, bits m.addr 17 17, bits m.addr 0 17]

/-- Payload words 3 to 7 of form C. -/
def hdrC (m : Msg) : List (BitVec 17) :=
  [bits m.bmask 0 17, bits m.bmask 17 17, bits m.bmask 34 17, 0#4 ++ bits m.bmask 51 13, m.peer ++ 0#8]

/-- Words w on of a header, word 0 lowest. -/
def packHdr : List (BitVec 17) → Nat
  | [] => 0
  | w :: r => (word18 w).toNat + 2 ^ 18 * packHdr r

/-- The header flit of a message (03 R66). -/
def encHdr (m : Msg) : HdrFlit :=
  let w0 : BitVec 17 := BitVec.ofNat 3 m.op.code.1 ++ BitVec.ofNat 5 m.op.code.2 ++ m.src
  let w1 : BitVec 17 := m.dst ++ m.htrk
  let w2 : BitVec 17 := m.rqtx ++ m.sub ++ m.aux
  BitVec.ofNat 144 (packHdr (w0 :: w1 :: w2 :: (if m.op.formA then hdrA m else hdrC m)))

/-- The bits that PAR[j] covers: bits [16:0] of words 2j and 2j + 1, and CTL[j] (03 Table 03-14). -/
def parCover (f : DatFlit) (j : Nat) : BitVec 35 :=
  bits f (36 * j) 17 ++ bits f (36 * j + 18) 17 ++ bits f (18 * j + 17) 1

/-- PAR[j] of a flit fails. -/
def parBad (f : DatFlit) (j : Nat) : Bool := odd (parCover f j) != bit f (18 * (8 + j) + 17)

/-- Words w to 15 of a data flit without PAR; `fuel` words left. -/
def packDat (d : BitVec 256) (be ctl : BitVec 16) (w : Nat) : Nat → Nat
  | 0 => 0
  | fuel + 1 =>
    (b1 (bit ctl w) ++ b1 (bit be w) ++ bits d (16 * w) 16).toNat + 2 ^ 18 * packDat d be ctl (w + 1) fuel

/-- A data flit (03 R89, R90). -/
def encDat (fidx last : Bool) (d : BitVec 256) (be : BitVec 16) (poison : Bool) : DatFlit :=
  let ctl : BitVec 16 := 0#13 ++ b1 last ++ b1 poison ++ b1 fidx
  let f0 : DatFlit := BitVec.ofNat 288 (packDat d be ctl 0 16)
  (List.range 8).foldl (fun f j => setBit f (18 * (8 + j) + 17) (odd (parCover f0 j))) f0

/-- The flits of a message on its own virtual channel. -/
def encode (m : Msg) : Flits where
  vc := BitVec.ofNat 3 m.op.cls
  hdr := encHdr m
  d0 := if m.op.dataFlits = 0 then 0
    else encDat false (m.op.dataFlits = 1) (bits m.data 0 256) (bits m.be 0 16) m.poison
  d1 := if m.op.dataFlits = 2 then encDat true true (bits m.data 256 256) (bits m.be 16 16) m.poison else 0

/-! ### Decoding -/

/-- The 32 data bytes of a flit; `fuel` words left. -/
def datBytes (f : DatFlit) (w : Nat) : Nat → Nat
  | 0 => 0
  | fuel + 1 => (bits f (18 * w) 16).toNat + 2 ^ 16 * datBytes f (w + 1) fuel

def datBe (f : DatFlit) : BitVec 16 := (List.range 16).foldl (fun v w => setBit v w (bit f (18 * w + 16))) 0

def datPoison (f : DatFlit) : Bool := bit f (18 * 1 + 17)

/-- Some PAR of a flit fails. -/
def datBad (f : DatFlit) : Bool := (List.range 8).any (parBad f)

/-- The header words that fail parity, bit w for word w. -/
def hdrBad (h : HdrFlit) : BitVec 8 := (List.range 8).foldl (fun v w => setBit v w (wordBad h w)) 0

/-- The fields of a header with a known opcode. -/
def decHdr (op : Op) (h : HdrFlit) : Msg :=
  let m : Msg := { op, src := bits h 0 9, dst := bits h 26 9, htrk := bits h 18 8, rqtx := bits h 43 10,
                   sub := bits h 40 3, aux := bits h 36 4 }
  if op.formA then
    { m with peer := bits h 62 9, gen := bits h 56 6, soft := bit h 55, hold := bit h 54, tid := bits h 77 12,
             ord := bits h 75 2, fwd := bit h 74,
             addr := bits h 72 1 ++ bits h 90 17 ++ bits h 108 17 ++ bits h 126 17 }
  else
    { m with bmask := bits h 108 13 ++ bits h 90 17 ++ bits h 72 17 ++ bits h 54 17, peer := bits h 134 9 }

/-- What a fault record says of its cause (15 Table 15-5), and whether an injected error made it. -/
structure Detail where
  syn : BitVec 16 := 0
  node : BitVec 9 := 0
  addr : PA := 0
  inj : Bool := false
  deriving DecidableEq, Repr

/-- Why a message is discarded on receipt (03 Table 03-16). -/
inductive RxErr where
  | header | protocol
  deriving DecidableEq, Repr

/-- A received message: its fields, whether its data failed PAR, and the detail of its fault records. -/
structure Rx where
  m : Msg
  datBad : Bool
  det : Detail
  deriving DecidableEq, Repr

/-- The header words that the checker finds bad; an injection inverts every word's parity bit (15 R399). -/
def hdrFails (h : HdrFlit) (inj : Bool) : BitVec 8 := if inj then ~~~ hdrBad h else hdrBad h

/-- The detail of a fault in a message (15 Table 15-5). -/
def rxDetail (f : Flits) (inj : Bool) : Detail where
  syn := hdrFails f.hdr inj ++ bits f.hdr 9 5 ++ bits f.hdr 14 3
  node := bits f.hdr 0 9
  addr := match opOf (bits f.hdr 14 3).toNat (bits f.hdr 9 5).toNat with
    | some op => (decHdr op f.hdr).addr
    | none => 0

/-- The message with its data flits read. -/
def withData (m : Msg) (f : Flits) (bad : Bool) : Msg :=
  if m.op.dataFlits = 0 then m
  else if m.op.dataFlits = 1 then
    { m with data := BitVec.ofNat 512 (datBytes f.d0 0 16), be := (0#16) ++ datBe f.d0, poison := datPoison f.d0 || bad }
  else
    { m with data := BitVec.ofNat 256 (datBytes f.d1 0 16) ++ BitVec.ofNat 256 (datBytes f.d0 0 16),
             be := datBe f.d1 ++ datBe f.d0, poison := datPoison f.d0 || datPoison f.d1 || bad }

/-- The checks of 03 R100 that every receiver makes, in the order of Table 03-16: header parity, data parity, class,
opcode. `hinj` and `dinj` say that the header and data checkers receive inverted check bits (15 R399). -/
def decode (f : Flits) (hinj dinj : Bool) : Except (RxErr × Detail) Rx :=
  let det := rxDetail f hinj
  if hdrFails f.hdr hinj ≠ 0 then .error (.header, { det with inj := hinj })
  else if bits f.hdr 14 3 ≠ f.vc then .error (.protocol, det)
  else match opOf (bits f.hdr 14 3).toNat (bits f.hdr 9 5).toNat with
    | none => .error (.protocol, det)
    | some op =>
      let n := op.dataFlits
      let bad := (1 ≤ n && datBad f.d0) || (2 ≤ n && datBad f.d1) || (1 ≤ n && dinj)
      .ok { m := withData (decHdr op f.hdr) f bad, datBad := bad, det }

/-- The BE bits that a byte mask implies (03 R91). -/
def beOf (mask : Mask) : BitVec 32 :=
  (List.range 32).foldl (fun v i => setBit v i (bit mask (2 * i) || bit mask (2 * i + 1))) 0

/-- The bytes enabled both by a mask and by BE bits (03 Table 03-16). -/
def maskBoth (mask : Mask) (be : BitVec 32) : Mask :=
  (List.range 64).foldl (fun v i => setBit v i (bit mask i && bit be (i / 2))) 0

end Sys2Proof.Machine
end

