-- ==== Sys2Proof/Machine/Ops.lean ====
section
/-! DEFINITION. Shared operations: outputs and messages, Hallmark feeds (16 R405), mode changes (13 R325), fault
detection (15 R382, R385), and writing the arrays with the mirroring of 08 R224. -/

namespace Sys2Proof.Machine

/-! ### Outputs and messages -/

def State.emit (s : State) (o : Out) : State := { s with out := s.out ++ [o] }

/-- A message handed to the mesh. -/
def State.send (s : State) (m : Msg) : State := { s with mesh := s.mesh ++ [m] }

/-- A message taken from the mesh, if it is there. -/
def State.takeMesh (s : State) (m : Msg) : State := { s with mesh := s.mesh.erase m }

def State.wire (s : State) (w : Wire) : State := { s with wires := s.wires ++ [w] }

/-- The k-th internal message that a filter picks; the mesh gives no order (01 R10). -/
def State.findWire (s : State) (k : Nat) (p : Wire → Bool) : Option Wire := (s.wires.filter p)[k]?

def State.takeWire (s : State) (w : Wire) : State := { s with wires := s.wires.erase w }

/-- A data message with every byte enabled (03 R91). -/
def Msg.full (m : Msg) : Msg := { m with be := BitVec.allOnes 32 }

/-! ### Hallmark feeds -/

/-- Codes that make no suppression (16 R409). -/
def hmExempt (code : BitVec 12) : Bool := code.toNat ≤ 3

/-- A security code (16 Table 16-2). -/
def hmSec (code : Nat) : Bool :=
  code = 0x003 || (0x200 ≤ code && code ≤ 0x208) || (0x100 ≤ code && code < 0x200 && srcSec (code - 0x100))

/-- Every code that Table 16-2 lists. -/
def hmListed (code : Nat) : Bool :=
  (1 ≤ code && code ≤ 7) || (0x100 ≤ code && code < 0x200 && (srcSev (code - 0x100)).isSome) ||
  (0x200 ≤ code && code ≤ 0x208) || (0x210 ≤ code && code ≤ 0x214) || (0x300 ≤ code && code ≤ 0x305)

/-- The token bucket of a code after cold reset (16 R410). -/
def bucketDefault (code : Nat) : Bucket :=
  if hmSec code then { tokens := 32, burst := 32, period := 8 } else { tokens := 16, burst := 16, period := 100 }

def Hallmark.bucket (h : Hallmark) (code : Nat) : Bucket := mget (bucketDefault code) h.buckets code
def Hallmark.setBucket (h : Hallmark) (code : Nat) (b : Bucket) : Hallmark :=
  { h with buckets := mput (bucketDefault code) h.buckets code b }

/-- Every function receives the code as class B (16 Table 16-2), ASSAY codes aside. -/
def hmBlock (code : Nat) : Bool :=
  (4 ≤ code && code ≤ 7) || code = 0x207 || (0x300 ≤ code && code ≤ 0x305)

/-- The agent is admitted to a partition (16 R404): until its retire has ended. -/
def Shim.inPartition (x : Shim) : Bool := x.st = .admitted || x.st = .fenced

/-- The destination functions of a record (16 R404). -/
def State.destsOf (s : State) (r : HRec) : BitVec 16 :=
  s.fnNums.foldl (fun v f =>
    setBit v f (r.fDest = some f || ((r.block || hmBlock r.code.toNat) && (s.fn f).hmBlock) ||
      (r.sec && bit s.hall.secDest f) ||
      (match r.pAgent with | some a => (s.shim a).inPartition && (s.shim a).func = f | none => false))) 0

/-- The functions of a destination set. -/
def fnsOf (d : BitVec 16) : List Nat := (List.range 16).filter fun f => bit d f

/-- A record counted at a full feed (16 R405). -/
def FeedLoss.add (x : FeedLoss) (r : HRec) (d : BitVec 16) : FeedLoss :=
  if r.sec then
    let c := mget {} x.sec r.code.toNat
    let c' : SecLoss := { count := c.count + 1, first := if c.count = 0 then r.p1 else c.first, last := r.p1 }
    { x with sec := mput {} x.sec r.code.toNat c' }
  else { x with fns := (fnsOf d).foldl (fun m f => mput 0 m f (mget 0 m f + 1)) x.fns }

/-- A record handed to a part's feed; a full feed counts it (16 R405); a code with BURST 0 makes none (R411). -/
def State.feed (s : State) (node : Nat) (r : HRec) : State :=
  let h := s.hall
  if !hmExempt r.code && (h.bucket r.code.toNat).burst = 0 then s
  else
    let l := mget [] h.feeds node
    if l.length < 8 then { s with hall := { h with feeds := mput [] h.feeds node (l ++ [r]) } }
    else { s with hall := { h with
      feedLoss := mput {} h.feedLoss node ((mget {} h.feedLoss node).add r (s.destsOf r)) } }

/-- The node number of the spine's feed. -/
def spineFeed : Nat := 0x1F0

def sliceFeed (n : Nat) : Nat := 0x140 + n

/-- A record of a code with its severity (16 Table 16-2). -/
def hrec (code : Nat) (sev : Nat) (source : BitVec 9) (p0 p1 p2 : BitVec 48) : HRec :=
  { code := BitVec.ofNat 12 code, sev := BitVec.ofNat 4 sev, source, sec := hmSec code, p0, p1, p2 }

def p48 (n : Nat) : BitVec 48 := BitVec.ofNat 48 n

/-! ### Mode changes -/

/-- Conditions changed, with the SLICE_MODE record of a mode change (13 R325, 16 Table 16-2 0x300). -/
def State.setConds (s : State) (n : Nat) (f : Conds → Conds) : State :=
  let old := (s.slice n).conds
  let new := f old
  let s := s.updSlice n fun sl => { sl with conds := new }
  if old.mode = new.mode then s
  else s.feed (sliceFeed n) (hrec 0x300 0 (sliceNode n)
    (p48 (n + 256 * old.mode.code.toNat + 4096 * new.mode.code.toNat)) (p48 (new.word.toNat % 2 ^ 14)) 0)

/-! ### Fault detection -/

/-- Steps 1 to 3 of 15 R382: status bit, first-error record, overflow. Of the sources detected in one cycle (`now`) the one
of higher severity, then of lower code, is captured; the commands between two ticks are one cycle (DESIGN CHOICE, log 83). -/
def Assay.capture (a : Assay) (now base src : Nat) (sev : BitVec 2) (d : Detail) : Assay :=
  let r : FirstRec :=
    { valid := true, sev, source := BitVec.ofNat 8 src, syndrome := d.syn, node := d.node, addr := d.addr }
  let before := a.since = now + 1 &&
    (a.first.sev.toNat < sev.toNat || (a.first.sev = sev && src < a.first.source.toNat))
  { a with
    status := setBit a.status (src - base) true
    first := if !a.first.valid then r else if before then { r with ovf := true } else { a.first with ovf := true }
    since := if a.first.valid then a.since else now + 1 }

/-- The ASSAY record of a detection (16 Table 16-2 0x100 + s). -/
def assayRec (s : State) (part : BitVec 9) (agent : Option Nat) (src : Nat) (d : Detail) : HRec :=
  { hrec (0x100 + src) (s.sevOf src).toNat part
      (p48 (d.node.toNat + 65536 * d.syn.toNat)) (bits d.addr 0 48) ((bits d.addr 48 4).setWidth 48) with
    inj := d.inj, pAgent := agent, block := agent.isNone }

/-- The reset sequence ends, and hk_ready rises, when no slice runs the SEED of step 4 any more (17 Table 17-4). -/
def endSequence (s : State) : State :=
  if s.sliceNums.any fun m => (s.slice m).conds.phase == Phase.seed && (s.slice m).conds.seedNext == SeedNext.coldReset then s
  else s.updSpine fun sp => { sp with ready := true }

/-- HOLD entered (13 R325, 15 R385); a slice already in HOLD, or OFF, stays as it is (15 R398). The spine deals with
slices in HOLD in the order of their entry; one without buckets waits for no salvage and holds none back (R398). -/
def holdSlice (n : Nat) (s : State) : State :=
  let c := (s.slice n).conds
  if c.phase = .hold || c.phase = .off then s
  else
    let s := (s.setConds n fun c => { c with phase := .hold }).updSpine fun sp => { sp with salvageQ := addNew sp.salvageQ n }
    if c.phase = .seed && c.seedNext = .coldReset then endSequence s else s

/-- A detection of severity 3 is a trigger of the last-gasp flush (16 R414), whatever becomes of its record. -/
def State.trigger (s : State) (src : Nat) : State :=
  if s.sevOf src = 3 then { s with hall := { s.hall with fatalDue := s.hall.fatalDue + 1 } } else s

/-- A fault detected at slice n (15 R382, R385). -/
def raiseSlice (n src : Nat) (d : Detail) (s : State) : State :=
  let s := s.trigger src
  let s := s.updSlice n fun sl => { sl with assay := sl.assay.capture sl.hclk 0 src (s.sevOf src) d }
  let s := s.feed (sliceFeed n) (assayRec s (sliceNode n) none src d)
  if s.sevOf src = 3 then holdSlice n s else s

/-- The message is answered to its agent: a header that the shim counts until its first answer (05 R151). -/
def Op.answered (o : Op) : Bool := !(o = .pfHint || o = .drainW || o = .tlbInvReq || o = .tlbSync)

/-- A drain of a fenced shim: the copies that were not injected are discarded; one that has lost a copy or its held message goes on
only to take the Grants of the copies that were injected (09 R246 step 1). -/
def Drain.cutShort (d : Drain) (x : Shim) : Drain :=
  let queued := (x.reqQ.filter fun q => q.m.op = .drainW && q.m.rqtx = d.rqtx).filterMap fun q => nodeSlice q.m.dst
  let lost := d.todo ++ queued
  { d with held := none, todo := [], waiting := d.waiting.filter fun n => !lost.contains n
           gone := d.gone || d.held.isSome || !lost.isEmpty }

/-- REQ and WBK messages not yet injected discarded, held messages and the copies of drains among them; STATE fenced (09 R246
step 1, R251). -/
def Shim.fence (x : Shim) : Shim :=
  let gone := ((x.reqQ ++ x.wbkQ).filter fun q => q.m.op.answered).map fun q => q.m.rqtx
  { x with st := .fenced, reqQ := [], wbkQ := [],
           drains := ((x.drains.filter (·.sent)).map fun d => d.cutShort x).filter fun d => !d.waiting.isEmpty
           outst := x.outst.filter fun o => o.built.isSome && !gone.contains o.rqtx }

/-- A shim that takes part in map acknowledgment: its agent is admitted; any other counts as having acknowledged (08 R229). -/
def Shim.acks (x : Shim) : Bool := x.st = .admitted

/-- The map updates that no counted header stands behind are acknowledged (05 R151); all, when the agent is not admitted. -/
def ackUpds (sh : Nat) (s : State) : State :=
  let x := s.shim sh
  let waits (u : MapUpd) : Bool := x.acks && x.outst.any fun o => o.bucket = u.bucket && o.built.any (· < u.seq)
  let s := eachOf (x.upds.filter fun u => !waits u) (fun u s => s.wire (.mapAck sh u.bucket u.gen)) s
  s.updShim sh fun x => { x with upds := x.upds.filter waits }

/-- What R251 does to a fenced shim's own queues: REQ and WBK messages that were not injected, and RSP and DAT messages for
the agent, are discarded; its snoops are held. -/
def Shim.cutOff (x : Shim) : Shim := { x.fence with
  cut := true, rspIn := [], datIn := [], drains := x.fence.drains.map fun d => { d with gone := true } }

/-- A fault detected at a shim (15 R382). At severity 3 it takes steps 1 to 5 of 09 R251 and its agent is to be retired
(15 R385), also when it was fenced already. -/
def raiseShim (sh src : Nat) (d : Detail) (s : State) : State :=
  let s := s.trigger src
  let s := s.updShim sh fun x => { x with assay := x.assay.capture s.spine.clk 0x40 src (s.sevOf src) d }
  let s := s.feed sh (assayRec s (BitVec.ofNat 9 sh) (some sh) src d)
  if s.sevOf src = 3 && (s.shim sh).st != .idle then
    ackUpds sh (s.updShim sh fun x => { x.cutOff with retireDue := true })
  else s

/-- A fault of the spine or, with its node, of a memory port (15 R377, R382). -/
def raiseSpine (part : BitVec 9) (src : Nat) (d : Detail) (s : State) : State :=
  let s := s.trigger src
  let s := s.updSpine fun sp => { sp with assay := sp.assay.capture sp.clk 0x60 src (s.sevOf src) d }
  s.feed spineFeed (assayRec s part none src d)

/-- Levels that have fallen for the spine: a status or configuration write cleared them (R392). -/
def fallLevels (s : State) : State :=
  eachOf (mkeys s.spine.levels) (fun node s =>
    let v := mget 0 s.spine.levels node &&& s.levels node
    s.updSpine fun sp => { sp with levels := mput 0 sp.levels node v }) s

/-- One check by the checker of a source in an injection register (15 R399): whether it is inverted, and the
register after it. -/
def Inj.check (j : Inj) (src : Nat) : Bool × Inj :=
  if j.source.toNat = src && j.count ≠ 0 then (true, { j with count := j.count - 1 }) else (false, j)

/-- The checks of a message's data flits, one for each (15 R399): whether one of them was inverted. -/
def injEach (inj : State → Bool × State) : Nat → State → Bool × State
  | 0, s => (false, s)
  | k + 1, s =>
    let a := inj s
    let b := injEach inj k a.2
    (a.1 || b.1, b.2)

/-- One check at slice n. -/
def injSlice (n src : Nat) (s : State) : Bool × State :=
  let r := (s.slice n).assay.inj.check src
  (r.1, if r.1 then s.updSlice n fun sl => { sl with assay := { sl.assay with inj := r.2 } } else s)

def injShim (sh src : Nat) (s : State) : Bool × State :=
  let r := (s.shim sh).assay.inj.check src
  (r.1, if r.1 then s.updShim sh fun x => { x with assay := { x.assay with inj := r.2 } } else s)

def injSpine (src : Nat) (s : State) : Bool × State :=
  let r := s.spine.assay.inj.check src
  (r.1, if r.1 then s.updSpine fun sp => { sp with assay := { sp.assay with inj := r.2 } } else s)

/-! ### Way error limits (15 R395) -/

/-- The key of a way's counter: array 0 fine, 1 loaf, 2 HLC. -/
def wayKey (array way : Nat) : Nat := 32 * array + way

/-- Ways of an array that are disabled or whose disable walk runs. -/
def Slice.wayOff (sl : Slice) (array way : Nat) : Bool :=
  match array with
  | 0 => bit sl.fineDis way || bit sl.fineDising way
  | 1 => bit sl.loafDis way || bit sl.loafDising way
  | _ => bit sl.hlcDis way || bit sl.hlcDising way

/-- The disable walk of a way begins: from here on it takes no part in allocation (15 R396). -/
def startDisable (n array way : Nat) (s : State) : State :=
  s.updSlice n fun sl =>
    match array with
    | 0 => { sl with fineDising := setBit sl.fineDising way true }
    | 1 => { sl with loafDising := setBit sl.loafDising way true }
    | _ => { sl with hlcDising := setBit sl.hlcDising way true }

/-- One check-bit error counted for a way. -/
def countWay (n array way : Nat) (d : Detail) (s : State) : State :=
  let sl := s.slice n
  let c := mget {} sl.wayErr (wayKey array way)
  let c := if c.count ≠ 0 && sl.us - c.start < 1000 * s.spine.wayWindow then { c with count := c.count + 1 }
    else { count := 1, start := sl.us }
  let s := s.updSlice n fun sl => { sl with wayErr := mput {} sl.wayErr (wayKey array way) c }
  if s.spine.wayLimit ≠ 0 && s.spine.wayLimit ≤ c.count && !sl.wayOff array way then
    startDisable n array way
      (raiseSlice n 0x0B { syn := BitVec.ofNat 16 (way + 16 * array), inj := d.inj } s)
  else s

/-- A check-bit error of an array word: raised and counted. -/
def arrayError (n src array way : Nat) (d : Detail) (s : State) : State :=
  countWay n array way d (raiseSlice n src d s)

/-! ### Spine tables -/

/-- The tables of 15 R378, numbered in the order it lists them. DESIGN CHOICE (log 35). -/
def tblMaster : Nat := 0
def tblTid : Nat := 1
def tblMask : Nat := 2
def tblRg : Nat := 3
def tblMrt : Nat := 4
def tblWtt : Nat := 5

/-- A word of a spine table read with its SECDED check: only an injection makes it fail, and MODE says how (15 R399). -/
def tableCheck (table word : Nat) (s : State) : State :=
  let src := if s.spine.assay.inj.mode then 0x67 else 0x68
  let a := injSpine 0x67 s
  let b := injSpine 0x68 a.2
  if a.1 || b.1 then raiseSpine spineNode src { syn := BitVec.ofNat 16 (table + 16 * word), inj := true } b.2 else b.2

/-- The first words of a spine table read, as far as an injection can make them fail. -/
def tableChecks (table count : Nat) (s : State) : State :=
  eachOf (List.range (min count s.spine.assay.inj.count.toNat)) (tableCheck table) s

/-! ### Usable ways -/

/-- Fine way w takes part in lookups: not a tray way and not disabled (02 R39, 07 R207). -/
def State.fineLive (s : State) (n w : Nat) : Bool := w < 16 - s.spine.trayFt && !bit (s.slice n).fineDis w
def State.loafLive (s : State) (n w : Nat) : Bool := w < 8 && !bit (s.slice n).loafDis w
def State.hlcLive (s : State) (n w : Nat) : Bool := w < 8 - s.spine.trayHt && !bit (s.slice n).hlcDis w

/-- FT and HT that a TRAY_CONFIGURE in progress leads to: the ways it converts take part in no allocation. -/
def State.trayGoal (s : State) : Nat × Nat :=
  match s.spine.jobs.findSome? fun j => match j.kind with | .tray f h _ _ => some (f, h) | _ => none with
  | some g => g
  | none => (0, 0)

/-- Fine way w may be allocated: live and neither being disabled (15 R396) nor converted (07 R208). -/
def State.fineOpen (s : State) (n w : Nat) : Bool :=
  s.fineLive n w && !bit (s.slice n).fineDising w && w < 16 - s.trayGoal.1
def State.loafOpen (s : State) (n w : Nat) : Bool := s.loafLive n w && !bit (s.slice n).loafDising w
def State.hlcOpen (s : State) (n w : Nat) : Bool :=
  s.hlcLive n w && !bit (s.slice n).hlcDising w && w < 8 - s.trayGoal.2

/-- A colour's masks as tracker t allocates: a request's own colour under the tables of its allocation (14 R375). -/
def State.masksFor (s : State) (n t : Nat) (c : BitVec 4) : ColourMask :=
  match s.trk n t with
  | some k => match k.kind with
    | .msg _ => if k.colour = c then k.masks else s.mask c
    | _ => s.mask c
  | none => s.mask c

/-- Fine ways a colour may allocate for tracker t (02 R43, 15 R397). -/
def State.fineMask (s : State) (n t : Nat) (c : BitVec 4) (w : Nat) : Bool :=
  s.fineOpen n w && (bit (s.masksFor n t c).fine w || bit (s.slice n).fbFine c.toNat)
def State.loafMask (s : State) (n t : Nat) (c : BitVec 4) (w : Nat) : Bool :=
  s.loafOpen n w && (bit (s.masksFor n t c).loaf w || bit (s.slice n).fbLoaf c.toNat)
def State.hlcMask (s : State) (n t : Nat) (c : BitVec 4) (w : Nat) : Bool :=
  s.hlcOpen n w && (bit (s.masksFor n t c).hlc w || bit (s.slice n).fbHlc c.toNat)

/-! ### Array writes -/

/-- Where a write to a set is mirrored (08 R224, 13 R334): for a move scan, the target of the entry's bucket; for a
copy scan, the target, with the same set and way. `idx` is the set's number in scan order. -/
def mirrorTo (sl : Slice) (idx : Nat) (bucket : Option Nat) : Option (Nat × Bool) :=
  match sl.scans.find? fun sc => (sc.kind = .copy || (sc.kind = .move && !sc.takeover)) && idx < sc.pos with
  | none => none
  | some sc =>
    match bucket with
    | some b => (sc.moves.find? fun m => m.b = b).map fun m => (m.target, sc.kind = .copy)
    | none => if sc.kind = .copy then (sc.moves.head?).map fun m => (m.target, true) else none

/-- The bucket of a fine entry at a set, unless it is free. -/
def fineBucket (set : Nat) (x : Entry) : Option Nat :=
  let e := decFine x
  if e.free then none else some (bucketOf (e.line set))

def loafBucket (set : Nat) (x : Entry) : Option Nat :=
  let e := decLoaf x
  if e.lstate = 0 then none else some (bucketOf (e.region set))

/-- A mirrored write of slice n sent to its target, or kept at the source while 32 are not acknowledged (13 R336). -/
def mirrorSend (n : Nat) (key : Bool × Nat × Nat) (w : Wire) (s : State) : State :=
  let sl := s.slice n
  if sl.mirrored.length < 32 && sl.mirrorQ.isEmpty then
    (s.setSlice n { sl with mirrored := sl.mirrored ++ [key] }).wire w
  else s.setSlice n { sl with mirrorQ := sl.mirrorQ ++ [(key, w)] }

/-- The oldest mirrored write that waits at slice n sent, when fewer than 32 are unacknowledged. -/
def mirrorNext (n : Nat) (s : State) : State :=
  let sl := s.slice n
  match sl.mirrorQ with
  | [] => s
  | x :: r =>
    if sl.mirrored.length < 32 then
      (s.setSlice n { sl with mirrored := sl.mirrored ++ [x.1], mirrorQ := r }).wire x.2
    else s

/-- A number that names no bucket. -/
def noBucket : Nat := 4096

/-- A fine word written, and mirrored if a scan has read its set. -/
def writeFineW (n set way : Nat) (x : Entry) (s : State) : State :=
  let sl := s.slice n
  let old := sl.fineE set way
  let s := s.setSlice n (sl.putFine set way x)
  let b := (fineBucket set x).orElse fun _ => fineBucket set old
  match mirrorTo sl set b with
  | some (dst, exact) =>
    mirrorSend n (false, set, b.getD noBucket) (.copyFine n dst set way old x exact true) s
  | none => s

/-- A loaf word written, and mirrored if a scan has read its set. -/
def writeLoafW (n set way : Nat) (x : Entry) (s : State) : State :=
  let sl := s.slice n
  let old := sl.loafE set way
  let s := s.setSlice n (sl.putLoaf set way x)
  let b := (loafBucket set x).orElse fun _ => loafBucket set old
  match mirrorTo sl (8192 + set) b with
  | some (dst, exact) =>
    mirrorSend n (true, set, b.getD noBucket) (.copyLoaf n dst set way old x exact true) s
  | none => s

/-- The agents whose retire scrub runs at the slice: every fine entry written passes through 09 Table 09-4 for them
(09 R248). -/
def State.scrubbing (s : State) : List Nat :=
  s.spine.jobs.filterMap fun j => match j.kind with
    | .agentRetire a _ _ => if isCaching a then some a else none
    | _ => none

/-- Table 09-4 for one retired agent: the entry as it is to be, with whether it entered P, where its hints stay (04 R121). -/
def scrubEntry (a : Nat) (e : FineEntry) : FineEntry × Bool :=
  if e.hstate = hsX then if e.slot0 = a then (e.inP, true) else (e, false)
  else if e.hstate = hsO then
    if e.slot0 = a then (e.inP, true)
    else if !e.sfmt && a ∈ e.slots then (e.setO e.slot0 (e.exactSharers.filter (· != a)) 0, false)
    else (e, false)
  else if e.hstate = hsS then
    if !e.sfmt && a ∈ e.slots then (e.setS (e.slots.filter (· != a)) 0, false) else (e, false)
  else if e.hstate = hsU then
    if e.stash && e.slot0 = a then (e.inP, true) else (e, false)
  else (e, false)

/-- Table 09-4 for every agent being retired. -/
def scrubAll (l : List Nat) (e : FineEntry) : FineEntry × Bool :=
  l.foldl (fun r a => let x := scrubEntry a r.1; (x.1, r.2 || x.2)) (e, false)

/-- The retires that an entry's passing through Table 09-4 places in P count it (12 Table 12-8 AGENT_RETIRE). -/
def countScrub (e : FineEntry) (s : State) : State :=
  s.updSpine fun sp => { sp with jobs := sp.jobs.map fun j => match j.kind with
    | .agentRetire a p auto =>
      if isCaching a && (scrubEntry a e).2 then { j with kind := .agentRetire a (p + 1) auto } else j
    | _ => j }

/-- V cleared in an HLC way; PIN and PFU are 0 whenever V is (07 R193). -/
def Slice.dropHlc (sl : Slice) (set way : Nat) : Slice :=
  let x := sl.hlcW set way
  (sl.putHlc set way { x with tagw := encHlc (hlcTagOf x.tagw) false x.data }).putFlags set way false false

/-- The way of the HLC that holds a line (07 R190, R191). -/
def State.hlcFind (s : State) (n : Nat) (a : PA) : Option Nat :=
  let sl := s.slice n
  if bits a 47 5 ≠ 0 || (s.spine.trayEn && bits a 26 26 = s.spine.trayBase) then none
  else (List.range 8).find? fun w =>
    s.hlcLive n w && hlcV (sl.hlcW (hlcSet a) w).tagw && hlcTagOf (sl.hlcW (hlcSet a) w).tagw = hlcTag a

/-- The line's HLC copy dropped (07 R196). -/
def dropCopy (n : Nat) (a : PA) (s : State) : State :=
  match s.hlcFind n a with
  | some w => s.updSlice n (·.dropHlc (hlcSet a) w)
  | none => s

/-- Bytes lo to lo + len - 1 of a descriptor as a number (12 Table 12-5). -/
def Taken.num (k : Taken) (lo len : Nat) : Nat := k.desc.toNat / 2 ^ (8 * lo) % 2 ^ (8 * len)

def State.taken (s : State) (fn idx : Nat) : Option Taken := (s.fn fn).taken.find? fun k => k.idx = idx

/-- The address lies in the open tray window (07 R209). -/
def State.inTray (s : State) (a : PA) : Bool := s.spine.trayEn && bits a 26 26 = s.spine.trayBase

/-- Entry i of the Range Guard matches the address (14 R361). -/
def State.rgHit (s : State) (e : RgEntry) (a : PA) : Bool :=
  e.valid && e.base.toNat ≤ (pageOf a).toNat && (pageOf a).toNat ≤ e.limit.toNat && (e.tray == s.inTray a)

/-- The entry that applies, lowest number first; none for the default. -/
def State.rgFor (s : State) (a : PA) : Option (Nat × RgEntry) := s.spine.prot.rg.find? fun kv => s.rgHit kv.2 a

/-- OWNER is f; the default has no owner (14 R362). -/
def State.ownerOk (s : State) (a : PA) (f : Nat) : Bool :=
  match s.rgFor a with
  | some kv => kv.2.owner = f
  | none => false

/-- A range command's job acts on the line: bytes 8 and 16 of its descriptor give its start and length, and its function owns the
line's page (12 R306). -/
def State.ranges (s : State) (cmd : Option (Nat × Nat)) (a : PA) : Bool :=
  match cmd with
  | some c => match s.taken c.1 c.2 with
    | some k => k.num 8 8 ≤ a.toNat && a.toNat < k.num 8 8 + k.num 16 8 && s.ownerOk a c.1
    | none => false
  | none => false

/-- A line has entered P: the range commands in progress over it are to end PARTIAL (12 R311, Table 12-9). -/
def notePoison (a : PA) (s : State) : State :=
  s.updSpine fun sp => { sp with jobs := sp.jobs.map fun j => match j.kind with
    | .range k next stop out count _ redo =>
      if s.ranges j.cmd a then { j with kind := .range k next stop out count true redo } else j
    | .censusRange left walked _ =>
      if s.ranges j.cmd a then { j with kind := .censusRange left walked true } else j
    | _ => j }

/-- A fine entry of line a written in a way, passed through Table 09-4; a line that thereby enters P loses its HLC
copy. -/
def writeFine (n : Nat) (a : PA) (way : Nat) (e : FineEntry) (s : State) : State :=
  let r := scrubAll s.scrubbing (e.withTag a)
  let old := decFine ((s.slice n).fineE (fineSet a) way)
  let s := writeFineW n (fineSet a) way (if r.1.free then 0 else encFine r.1) s
  let s := if r.1.hstate = hsP && !(old.hstate = hsP && old.isFor a) then notePoison a s else s
  if r.2 then countScrub e (dropCopy n a s) else s

/-- A line's fine entry put into another way or another slice's set: a line that was in P does not enter it (12 R311). -/
def moveFine (n : Nat) (a : PA) (way : Nat) (e : FineEntry) (s : State) : State :=
  if e.hstate = hsP then writeFineW n (fineSet a) way (encFine (e.withTag a)) s else writeFine n a way e s

/-- A way written free. -/
def freeFine (n set way : Nat) (s : State) : State := writeFineW n set way 0 s

/-- A loaf written, or written invalid when nothing is present and no tracker holds it (02 R35, R454). -/
def writeLoaf (n set way : Nat) (e : LoafEntry) (s : State) : State :=
  let held := (s.slice n).trk.any fun kv => kv.2.heldLoaf = some (8 * set + way)
  writeLoafW n set way (if e.lstate = 0 || (e.pres = 0 && !held) then 0 else encLoaf e) s

/-- The fine entry and loaf entry at a place. -/
def State.fineAt (s : State) (n set way : Nat) : FineEntry := decFine ((s.slice n).fineE set way)
def State.loafAt (s : State) (n set way : Nat) : LoafEntry := decLoaf ((s.slice n).loafE set way)

/-- The way of a line's fine entry, free entries aside. -/
def State.fineFind (s : State) (n : Nat) (a : PA) : Option Nat :=
  (List.range 16).find? fun w =>
    s.fineLive n w && !(s.fineAt n (fineSet a) w).free && (s.fineAt n (fineSet a) w).isFor a

/-- The way of a line's region's loaf. -/
def State.loafFind (s : State) (n : Nat) (a : PA) : Option Nat :=
  (List.range 8).find? fun w => s.loafLive n w && (s.loafAt n (loafSet a) w).isFor a

/-- The presence bit of a line cleared, if its region has a loaf. -/
def clearPres (n : Nat) (a : PA) (s : State) : State :=
  match s.loafFind n a with
  | some w =>
    let l := s.loafAt n (loafSet a) w
    if bit l.pres (lineInLoaf a) then writeLoaf n (loafSet a) w { l with pres := setBit l.pres (lineInLoaf a) false } s
    else s
  | none => s

end Sys2Proof.Machine
end

