-- ==== Sys2Proof/Machine/Guard.lean ====
section
/-! DEFINITION. Memory routing (01 R14, R15, 18 R453), the tray window (07 R209, R210) and the Range Guard (14 R360 to
R362). -/

namespace Sys2Proof.Machine

/-! ### Tray window -/

/-- A place in the tray storage of a slice. -/
inductive TrayPlace where
  | fine (way set : Nat)
  | hlc (way set : Nat)
  deriving DecidableEq, Repr

/-- Segment of a tray address. -/
def traySegOf (a : PA) : Nat := (bits a 20 6).toNat

/-- The place of a line in its segment's slice; none beyond the segment's size (07 R209, R210). Fine lines take 8 sets
from `set` on. -/
def State.trayPlace (s : State) (a : PA) : Option TrayPlace :=
  let o := (bits a 0 20).toNat
  let f := s.spine.trayFt * 65536
  if o < f then some (.fine (15 - o / 65536) (8 * (o % 65536 / 64)))
  else if o < f + s.spine.trayHt * 16384 then
    some (.hlc (7 - (o - f) / 16384) ((o - f) % 16384 / 64))
  else none

/-! ### Memory routing -/

/-- The entry matches the address (01 R14, 18 Table 18-6, R453). -/
def MrtEntry.hits (e : MrtEntry) (p : Params) (a : PA) : Bool :=
  e.valid && e.cntlog ≤ 4 && e.first + 2 ^ e.cntlog ≤ p.nMport && e.base.toNat ≤ e.limit.toNat &&
  e.base.toNat ≤ (bits a 30 22).toNat && (bits a 30 22).toNat ≤ e.limit.toNat

/-- The port of a matching entry: the first port plus the XOR of the k-bit fields of PA[51:9] (01 R14). -/
def MrtEntry.port (e : MrtEntry) (a : PA) : Nat :=
  if e.cntlog = 0 then e.first else e.first + foldBits e.cntlog (bits a 9 43).toNat 43

/-- The port that the route table gives: the lowest-numbered matching entry's (01 R15). The slices hold the table
once the set-up lock is set. -/
def State.routePort (s : State) (a : PA) : Option Nat :=
  if s.spine.setup then
    ((s.spine.mrt.find? fun kv => kv.2.hits s.par a).map fun kv => kv.2.port a)
  else none

/-- Where a memory access of a line goes. -/
inductive Dest where
  | port (p : Nat)
  | tray (slice : Nat)
  | hole
  | unrouted
  deriving DecidableEq, Repr

/-- 01 R14 to R16, 07 R210. -/
def State.memDest (s : State) (a : PA) : Dest :=
  if s.inTray a then
    if (s.seg (traySegOf a)).valid && (s.trayPlace a).isSome then .tray (s.seg (traySegOf a)).slice else .hole
  else match s.routePort a with
    | some p => .port p
    | none => .unrouted

/-- The node of a destination that takes messages. -/
def Dest.node : Dest → Option (BitVec 9)
  | .port p => some (portNode p)
  | .tray k => some (sliceNode k)
  | _ => none

/-! ### Range Guard -/

/-- The index recorded for a check: 0xFF for the default (16 Table 16-2 0x200). -/
def State.rgIndex (s : State) (a : PA) : Nat := match s.rgFor a with | some kv => kv.1 | none => 0xFF

/-- The colour may touch the page (14 Table 14-6, first row). -/
def State.colourOk (s : State) (a : PA) (c : BitVec 4) : Bool :=
  match s.rgFor a with
  | some kv => bit kv.2.colours c.toNat
  | none => s.spine.prot.rgAllow && bit s.spine.prot.rgColours c.toNat

def State.noSoft (s : State) (a : PA) : Bool := match s.rgFor a with | some kv => kv.2.nosoft | none => false
def State.noStash (s : State) (a : PA) : Bool := match s.rgFor a with | some kv => kv.2.nostash | none => false
def State.noAnvil (s : State) (a : PA) : Bool := match s.rgFor a with | some kv => kv.2.noanvil | none => false

/-- A window line operation of function f passes (14 Table 14-6). -/
def State.windowOk (s : State) (a : PA) (f : Nat) : Bool :=
  s.ownerOk a f && s.colourOk a (s.tidColour (s.fn f).wtid)

/-- A ring, event, last-gasp or operand-buffer access of function f passes: as a window line operation where an entry
applies, and by ALLOW and COLOURS under the default. DEDUCED (log 13). -/
def State.ringOk (s : State) (a : PA) (f : Nat) : Bool :=
  match s.rgFor a with
  | some _ => s.windowOk a f
  | none => s.colourOk a (s.tidColour (s.fn f).wtid)

/-- The check of a request at tracker allocation (14 Table 14-6). Reports are never checked. -/
def State.rgPass (s : State) (m : Msg) : Bool :=
  if m.op.isWbk || m.op = .drainW then true
  else if isSpineReq m.src.toNat then s.windowOk m.addr (m.src.toNat - 0x1F0)
  else
    let c := s.tidColour m.tid
    if m.op = .pfHint then s.colourOk m.addr c && !s.noSoft m.addr else s.colourOk m.addr c

/-- The record of a failed check (14 R365, 16 Table 16-2 0x200). -/
def State.deniedRec (s : State) (n : Nat) (req : BitVec 9) (tid : BitVec 12) (opc : Nat) (a : PA) (f : Option Nat) :
    HRec :=
  { hrec 0x200 2 (sliceNode n)
      (p48 (req.toNat + 2 ^ 12 * tid.toNat + 2 ^ 24 * (s.tidColour tid).toNat + 2 ^ 32 * opc + 2 ^ 37 * s.rgIndex a))
      (bits a 0 48) ((bits a 48 4).setWidth 48) with fDest := f }

end Sys2Proof.Machine
end

