-- ==== Sys2Proof/Machine/Lookup.lean ====
section
/-! DEFINITION. The pre-probe and full read with their parity checks (02 R38, R56, R57, 07 Table 07-4), the lookup
result (02 R40), suspect records and census requests (02 R58, R59), line blocking (04 R103, 02 R51, 06 R178). -/

namespace Sys2Proof.Machine

/-! ### Energy and pipeline slots (17 R435, R437) -/

inductive Bill where
  | atom | data | nodata | lookup | scan
  deriving DecidableEq, Repr

/-- One event of a class added to the ledger and its count. -/
def bill (n : Nat) (c : Bill) (s : State) : State :=
  let k := s.calSet n
  s.updSlice n fun sl =>
    let l := sl.ledger
    { sl with ledger := match c with
      | .atom => { l with energy := l.energy + k.atom.setWidth 64, nAtom := l.nAtom + 1 }
      | .data => { l with energy := l.energy + k.data.setWidth 64, nData := l.nData + 1 }
      | .nodata => { l with energy := l.energy + k.nodata.setWidth 64, nNodata := l.nNodata + 1 }
      | .lookup => { l with energy := l.energy + k.lookup.setWidth 64, nLookup := l.nLookup + 1 }
      | .scan => { l with energy := l.energy + k.scan.setWidth 64, nScan := l.nScan + 1 } }

/-- One pipeline slot used: in the window (17 R435) and in the HCLK in progress (01 R21). -/
def useSlot (n : Nat) (s : State) : State :=
  s.updSlice n fun sl => { sl with slots := sl.slots + 1, lastSlot := max sl.lastSlot sl.hclk + 1 }

/-- The pipeline slot of a demotion, settle write, census write or scan, with its energy (17 R435, Table 17-6). -/
def ownSlot (n : Nat) (s : State) : State := bill n .scan (useSlot n s)

/-- The two HCLK of the pipeline that a tray line access takes (07 R211). -/
def useTray (n : Nat) (s : State) : State := useSlot n (useSlot n s)

/-- The pipeline takes one more lookup in the HCLK in progress (01 R21), and rise control lets it start (17 R435). -/
def Slice.slotOpen (sl : Slice) : Bool := sl.lastSlot ≤ sl.hclk && sl.slots < sl.slotCap

/-- The slice starts no lookup and no array access: a calibration pause (13 R352) or a change of HCLK point (17 R423).
Messages wait in its input buffers. -/
def State.paused (s : State) (n : Nat) : Bool := (s.slice n).conds.pCal || s.spine.dvfsTaken

/-- The window of rise control has the two slots that a tray line access takes (07 R211, 17 R435), and the slice is not paused. -/
def State.trayOpen (s : State) (n : Nat) : Bool := (s.slice n).slots + 2 ≤ (s.slice n).slotCap && !s.paused n

/-- HCLK from one slot of a scan to its next (08 R223). -/
def Scan.every (sc : Scan) : Nat := 2 ^ (sc.period.toNat + 1)

/-- A scan of a kind: the first that has not read every set, or else the first. -/
def Slice.scan (sl : Slice) (k : ScanKind) : Option Scan :=
  (sl.scans.find? fun sc => sc.kind = k && sc.pos < sc.stop).orElse fun _ => sl.scans.find? fun sc => sc.kind = k

/-- The flushes of a TRAY_CONFIGURE that returns ways have ended (07 R208). -/
def State.trayFlushed (s : State) : Bool :=
  s.spine.jobs.all fun j => match j.kind with
    | .tray _ _ _ l => l.all fun i => !s.spine.jobs.any fun x => x.id = i
    | _ => true

/-- A slot of the scan is due: SCAN HCLK have passed since its last one and, in a window capped below 64 slots, it has not
taken one of every SCAN slots that the cap allows (08 R223; counted anew in each window: DEDUCED, log 84). -/
def State.slotDue (s : State) (n : Nat) (sc : Scan) : Bool :=
  let sl := s.slice n
  sc.pos < sc.stop && !(sc.kind = .tray && !s.trayFlushed) && sc.due ≤ sl.hclk &&
  (64 ≤ sl.slotCap || (sc.used + 1) * sc.every ≤ sl.slotCap)

/-- A slot of some scan is due: it takes the pipeline before any engine (01 R21). -/
def State.scanDue (s : State) (n : Nat) : Bool :=
  [ScanKind.move, .copy, .purge, .scrub, .recolour, .disable, .tray].any fun k =>
    ((s.slice n).scan k).any (s.slotDue n)

/-! ### Census requests -/

/-- A census of each bucket requested by the slice for itself, unless one is already waiting to start (02 R59); the
slice serves in LIMP until none is pending (13 Table 13-2). -/
def requestCensus (n : Nat) (bs : List Nat) (s : State) : State :=
  let s := s.updSlice n fun sl =>
    let new := bs.filter fun b => !sl.census.any fun c => c.own && c.bucket = b && !c.started
    { sl with census := sl.census ++ new.map fun b => { bucket := b } }
  if (s.slice n).serving then s.setConds n fun c => { c with lCensus := true } else s

/-- The purge scan of a slice started, or begun again (08 R231): every fine, loaf and HLC set. -/
def startPurge (n : Nat) (flipped : List Mv) (s : State) : State :=
  let period := s.spine.scanCode
  s.updSlice n fun sl =>
    let old := sl.scans.find? fun sc => sc.kind = .purge
    { sl with scans := (sl.scans.filter fun sc => sc.kind != .purge) ++
        ([{ kind := .purge, stop := 12544, period,
            flipped := (match old with | some sc => sc.flipped | none => []) ++ flipped }] : List Scan) }

/-- A move scan whose every bucket has flipped or been abandoned gives way to the source's purge (08 R231). -/
def endMoves (n : Nat) (s : State) : State :=
  match (s.slice n).scans.find? fun sc => sc.kind = .move && sc.moves.isEmpty with
  | none => s
  | some sc =>
    startPurge n sc.flipped (s.updSlice n fun sl => { sl with scans := sl.scans.filter fun x => x.kind != .move })

/-- The move of bucket b out of slice n is abandoned during its scan (08 R226): it leaves the scan, its job is marked,
and the target purges what it received. -/
def abandonMove (n b : Nat) (s : State) : State :=
  match (s.slice n).scans.find? fun sc => sc.kind = .move && sc.pos < sc.stop && sc.moves.any fun m => m.b = b with
  | none => s
  | some sc =>
    let tgt := ((sc.moves.find? fun m => m.b = b).map (·.target)).getD 0
    let s := s.updSlice n fun sl => { sl with scans := sl.scans.map fun x =>
      if x.kind = .move then { x with moves := x.moves.filter fun m => m.b != b } else x }
    let s := s.setBkt tgt b { s.bkt tgt b with incoming := false, purge := true }
    let s := s.setMaster b { s.master b with moving := false }
    let s := s.updSpine fun sp => { sp with jobs := sp.jobs.map fun j => match j.kind with
      | .move src x t g _ => if src = n && x = b then { j with kind := .move src x t g true } else j
      | _ => j }
    endMoves n (startPurge tgt [] s)

/-- Every move of a scan at slice n abandoned. -/
def abandonAll (n : Nat) (s : State) : State :=
  match (s.slice n).scans.find? fun sc => sc.kind = .move && sc.pos < sc.stop with
  | none => s
  | some sc => eachOf (sc.moves.map (·.b)) (abandonMove n) s

def Suspects.isEmpty (x : Suspects) : Bool := x.recs.isEmpty && x.all.isNone

/-- The set is suspect. -/
def Suspects.has (x : Suspects) (set : Nat) : Bool := x.all.isSome || x.recs.any fun r => r.1 = set

/-- A set recorded until the censuses of some buckets complete, and whether a ninth record was needed. -/
def Suspects.add (x : Suspects) (set : Nat) (bs : List Nat) : Suspects × Bool :=
  if x.all.isSome then ({ x with all := some bs }, false)
  else if x.recs.any fun r => r.1 = set then
    ({ x with recs := x.recs.map fun r => if r.1 = set then (set, bs) else r }, false)
  else if x.recs.length < 8 then ({ x with recs := x.recs ++ [(set, bs)] }, false)
  else ({ x with all := some bs }, true)

/-- A set recorded for bucket b besides the buckets that its record names. -/
def Suspects.also (x : Suspects) (b : Nat) (set : Nat) : Suspects :=
  match x.recs.find? fun r => r.1 = set, x.all with
  | _, some l => { x with all := some (addNew l b) }
  | some r, none => (x.add set (addNew r.2 b)).1
  | none, none => (x.add set [b]).1

/-- The records of a source that hands over bucket b. -/
def Suspects.carry (x src : Suspects) (b : Nat) : Suspects :=
  let x := (src.recs.map (·.1)).foldl (fun x set => x.also b set) x
  if src.all.isSome then { x with all := some (addNew (x.all.getD []) b) } else x

/-- The records once the buckets of which `p` is false need no census any more: a record with none left is cleared (02
R61). -/
def Suspects.settle (x : Suspects) (p : Nat → Bool) : Suspects where
  recs := (x.recs.map fun r => (r.1, r.2.filter p)).filter fun r => !r.2.isEmpty
  all := match x.all with
    | some l => if (l.filter p).isEmpty then none else some (l.filter p)
    | none => none

/-- The target that slice n is being copied to, once its scan has begun: replacement trees, the contention table,
suspect records and tray words are mirrored to it (13 R334), at once (DESIGN CHOICE, log 69). -/
def State.copyPeer (s : State) (n : Nat) : Option Nat :=
  if (s.slice n).scans.any fun sc => sc.kind = .copy && 0 < sc.pos then
    s.spine.jobs.findSome? fun j => match j.kind with
      | .copy src tgt _ _ false => if src = n && (s.slice tgt).serving then some tgt else none
      | _ => none
  else none

/-- A change of slice n that is mirrored like its writes during a copy. -/
def withPeer (n : Nat) (f : Slice → Slice) (s : State) : State :=
  match s.copyPeer n with
  | some m => (s.updSlice n f).updSlice m f
  | none => s.updSlice n f

/-- The buckets that the record of a suspect set names. -/
def Suspects.named (x : Suspects) (set : Nat) : List Nat :=
  x.all.getD (((x.recs.find? fun r => r.1 = set).map (·.2)).getD [])

/-- A fine set recorded as suspect at slice n for some buckets: the ninth record makes the whole filter suspect. -/
def noteFine (n set : Nat) (bs : List Nat) (s : State) : State :=
  let x := (s.slice n).susFine.add set bs
  let s := s.updSlice n fun sl => { sl with susFine := x.1 }
  if x.2 then raiseSlice n 0x04 {} s else s

def noteLoaf (n set : Nat) (bs : List Nat) (s : State) : State :=
  let x := (s.slice n).susLoaf.add set bs
  let s := s.updSlice n fun sl => { sl with susLoaf := x.1 }
  if x.2 then raiseSlice n 0x04 { syn := 1 } s else s

/-- A fine set recorded as suspect (02 R58), at the target of a copy too (13 R334). -/
def suspectFine (n set : Nat) (s : State) : State :=
  let bs := s.ownedBuckets n
  let peer := s.copyPeer n
  let s := noteFine n set bs s
  let s := match peer with
    | some m => noteFine m set (bs.foldl addNew ((s.slice m).susFine.named set)) s
    | none => s
  abandonAll n (requestCensus n bs s)

def suspectLoaf (n set : Nat) (s : State) : State :=
  let bs := s.ownedBuckets n
  let peer := s.copyPeer n
  let s := noteLoaf n set bs s
  let s := match peer with
    | some m => noteLoaf m set (bs.foldl addNew ((s.slice m).susLoaf.named set)) s
    | none => s
  abandonAll n (requestCensus n bs s)

/-- A bucket named by the record of a suspect set beside those it names: one whose entries the slice is still receiving (08
R225). -/
def alsoFine (n set b : Nat) (s : State) : State := s.updSlice n fun sl => { sl with susFine := sl.susFine.also b set }

def alsoLoaf (n set b : Nat) (s : State) : State := s.updSlice n fun sl => { sl with susLoaf := sl.susLoaf.also b set }

/-! ### Anvil pins -/

/-- The pin of a line released; the HLC copy stays (06 R188). -/
def unpin (n : Nat) (a : PA) (s : State) : State :=
  match s.hlcFind n a with
  | some w => s.updSlice n fun sl => sl.putFlags (hlcSet a) w false (sl.pfu (hlcSet a) w)
  | none => s

/-- The pinned lines of a slice. -/
def State.pinned (s : State) (n : Nat) : List PA :=
  let sl := s.slice n
  sl.arr.hlcFlags.flatMap fun kv =>
    ((List.range 8).filter fun w => bit kv.2 (2 * w)).map fun w => hlcAddr kv.1 (hlcTagOf (sl.hlcW kv.1 w).tagw)

/-- Pins of lines of a fine set that no Anvil entry names released. -/
def unpinLost (n set : Nat) (s : State) : State :=
  eachOf ((s.pinned n).filter fun a =>
    fineSet a = set && !(List.range 16).any fun w => (s.fineAt n set w).anvil && (s.fineAt n set w).isFor a) (unpin n) s

/-! ### Parity errors of the filters (02 R56, R57) -/

/-- A fine entry written U in census form, its census requested, and a move of its bucket abandoned. -/
def enterU (n : Nat) (a : PA) (way : Nat) (s : State) : State :=
  let e := s.fineAt n (fineSet a) way
  let s := if e.anvil then unpin n a s else s
  let s := writeFine n a way e.setU s
  let s := s.updSlice n fun sl => { sl with
    census := sl.census.map fun c => if c.left.isEmpty then c else { c with left := c.left.filter (· != a) } }
  abandonMove n (bucketOf a) (requestCensus n [bucketOf a] s)

/-- Word 0 or 1 of a fine entry fails: the way is freed and the set becomes suspect. -/
def fineTagError (n set way w : Nat) (inj : Bool) (s : State) : State :=
  let s := arrayError n 0x01 0 way { syn := BitVec.ofNat 16 (way + 16 * w + 0x8000), addr := BitVec.ofNat 52 set, inj } s
  suspectFine n set (unpinLost n set (freeFine n set way s))

/-- Word 2 or 3 fails, or HSTATE reads 0b111: the entry enters U. -/
def fineDataError (n set way w : Nat) (inj : Bool) (s : State) : State :=
  let a := (s.fineAt n set way).line set
  enterU n a way (arrayError n 0x00 0 way { syn := BitVec.ofNat 16 (way + 16 * w), addr := a, inj } s)

/-- One check of word w of a fine entry: whether it fails, whether an injection made it fail. -/
def checkFine (n set way w : Nat) (s : State) : (Bool × Bool) × State :=
  let bad := wordBad ((s.slice n).fineE set way) w
  let r := injSlice n (if w ≤ 1 then 0x01 else 0x00) s
  ((bad != r.1, r.1), r.2)

/-- Word 0 of a fine way checked at the pre-probe. -/
def probeFine (n set way : Nat) (s : State) : State :=
  let r := checkFine n set way 0 s
  if r.1.1 then fineTagError n set way 0 r.1.2 r.2 else r.2

/-- Words 1 to 3 of a fine way checked at the full read. A way whose word 1 fails is freed; that word 2 or 3 fails with it
is raised too (15 R382). -/
def readFine (n set way : Nat) (s : State) : State :=
  let r1 := checkFine n set way 1 s
  let r2 := checkFine n set way 2 r1.2
  let r3 := checkFine n set way 3 r2.2
  let s := r3.2
  let w := if r2.1.1 then 2 else 3
  let inj := if r2.1.1 then r2.1.2 else r3.1.2
  if r1.1.1 then
    let a := (s.fineAt n set way).line set
    fineTagError n set way 1 r1.1.2 (if r2.1.1 || r3.1.1 then
      arrayError n 0x00 0 way { syn := BitVec.ofNat 16 (way + 16 * w), addr := a, inj } s else s)
  else if r2.1.1 || r3.1.1 then fineDataError n set way w inj s
  else if (s.fineAt n set way).hstate = 7 then fineDataError n set way 2 false s
  else s

def checkLoaf (n set way w : Nat) (s : State) : (Bool × Bool) × State :=
  let bad := wordBad ((s.slice n).loafE set way) w
  let r := injSlice n (if w ≤ 1 then 0x03 else 0x02) s
  ((bad != r.1, r.1), r.2)

/-- A loaf whose words 2 or 3 fail (02 R57): unknown if it was valid, else written invalid with good parity. -/
def loafDataError (n set way w : Nat) (inj : Bool) (s : State) : State :=
  let l := s.loafAt n set way
  let a := l.region set
  let s := arrayError n 0x02 1 way { syn := BitVec.ofNat 16 (way + 16 * w), addr := a, inj } s
  if l.lstate = 0 then writeLoafW n set way 0 s
  else requestCensus n [bucketOf a]
    (writeLoaf n set way { l with lstate := lfUnknown, pres := 0xFF, gvec := 0xFFFF } s)

/-- All four words of a loaf way checked at the pre-probe; every source that fails is raised (15 R382). -/
def probeLoaf (n set way : Nat) (s : State) : State :=
  let r0 := checkLoaf n set way 0 s
  let r1 := checkLoaf n set way 1 r0.2
  let r2 := checkLoaf n set way 2 r1.2
  let r3 := checkLoaf n set way 3 r2.2
  let s := r3.2
  if r0.1.1 || r1.1.1 then
    let w := if r0.1.1 then 0 else 1
    let s := if r2.1.1 || r3.1.1 then arrayError n 0x02 1 way
        { syn := BitVec.ofNat 16 (way + 16 * (if r2.1.1 then 2 else 3)), addr := (s.loafAt n set way).region set,
          inj := if r2.1.1 then r2.1.2 else r3.1.2 } s
      else s
    let s := arrayError n 0x03 1 way
      { syn := BitVec.ofNat 16 (way + 16 * w + 0x8000), addr := BitVec.ofNat 52 set,
        inj := if r0.1.1 then r0.1.2 else r1.1.2 } s
    suspectLoaf n set (writeLoafW n set way 0 s)
  else if r2.1.1 then loafDataError n set way 2 r2.1.2 s
  else if r3.1.1 then loafDataError n set way 3 r3.1.2 s
  else s

/-- The Anvil line's fine entry written free and its pin released (06 R188). -/
def anvilExit (n : Nat) (a : PA) (s : State) : State :=
  let s := unpin n a s
  match (List.range 16).find? fun w => (s.fineAt n (fineSet a) w).anvil && (s.fineAt n (fineSet a) w).isFor a with
  | some w => freeFine n (fineSet a) w s
  | none => s

/-- TP of an HLC way checked (07 Table 07-4). -/
def probeHlc (n set way : Nat) (s : State) : State :=
  let sl := s.slice n
  let bad := hlcTpBad (sl.hlcW set way).tagw
  let r := injSlice n 0x05 s
  let s := r.2
  if bad != r.1 then
    let a := hlcAddr set (hlcTagOf (sl.hlcW set way).tagw)
    let s := arrayError n 0x05 2 way { syn := BitVec.ofNat 16 way, addr := a, inj := r.1 } s
    let s := if sl.pin set way then anvilExit n a s else s
    s.updSlice n (·.dropHlc set way)
  else s

/-- The pre-probe and full read of a lookup for a line: every check, and the recovery of what fails. -/
def lookupChecks (n : Nat) (a : PA) (s : State) : State :=
  let fs := fineSet a
  let s := eachOf ((List.range 16).filter (s.fineLive n)) (probeFine n fs) s
  let s := eachOf ((List.range 8).filter (s.loafLive n)) (probeLoaf n (loafSet a)) s
  let s := if bits a 47 5 ≠ 0 || s.inTray a then s
    else eachOf ((List.range 8).filter (s.hlcLive n)) (probeHlc n (hlcSet a)) s
  let cand := (List.range 16).filter fun w => s.fineLive n w && (s.fineAt n fs w).ptag = ptagOf (fineTag a)
  eachOf cand (readFine n fs) s

/-! ### The lookup result (02 Table 02-6) -/

/-- The line's fine or loaf set is suspect: by a record, by a takeover frontier or salvage list of its bucket, or by a
CENSUS_RANGE in progress (02 R58, 12 R312, 13 R332, R342). -/
def State.suspect (s : State) (n : Nat) (a : PA) : Bool :=
  let sl := s.slice n
  let fs := fineSet a
  let ls := loafSet a
  sl.susFine.has fs || sl.susLoaf.has ls ||
  (sl.census.any fun c => c.job.isSome && c.bucket = bucketOf a && c.lo ≤ a.toNat && a.toNat < c.hi && s.ownerOk a c.owner) ||
  sl.frontiers.any fun f => f.1 = bucketOf a &&
    (f.2.1 ≤ fs || f.2.2 ≤ ls || sl.salvList.contains (false, fs) || sl.salvList.contains (true, ls))

def hsRes (h : BitVec 3) : LRes :=
  if h = hsS then .s else if h = hsX then .x else if h = hsO then .o else if h = hsP then .p
  else if h = hsU then .u else .i

/-- The lookup of a line, after its checks; in BROADCAST every result is U (13 R344). -/
def State.lookup (s : State) (n : Nat) (a : PA) : Look :=
  if (s.slice n).mode = .broadcast then { res := .u }
  else match s.fineFind n a with
    | some w =>
      let e := s.fineAt n (fineSet a) w
      { res := hsRes e.hstate, way := some w, fine := e, anvil := e.anvil }
    | none =>
      match s.loafFind n a with
      | some w =>
        let l := s.loafAt n (loafSet a) w
        if bit l.pres (lineInLoaf a) then
          { res := if l.lstate = lfUnknown then .u else if l.lstate = lfClean then .coarseS else .coarseO,
            lway := some w, loaf := l }
        else if s.suspect n a then { res := .u } else {}
      | none => if s.suspect n a then { res := .u } else {}

/-! ### Targets (02 R41) -/

/-- The admitted caching agents a result may snoop, the requester aside. -/
def State.lookTargets (s : State) (n : Nat) (k : Look) (req : Nat) : List Nat :=
  let sl := s.slice n
  let l := match k.res with
    | .u => sl.admList
    | .coarseS | .coarseO => sl.admList.filter fun a => bit k.loaf.gvec (groupOf a)
    | .s | .x | .o => match k.fine.owner with
      | some o => o :: k.fine.sharers
      | none => k.fine.sharers
    | .p | .i => []
  l.filter fun a => sl.admitted a && a != req

/-- The owner or holder, if it may be snooped. -/
def State.ownerTarget (s : State) (n : Nat) (k : Look) (req : Nat) : Option Nat :=
  match k.fine.owner with
  | some o => if (s.slice n).admitted o && o != req then some o else none
  | none => none

/-- The sharers that may be snooped. -/
def State.sharerTargets (s : State) (n : Nat) (k : Look) (req : Nat) : List Nat :=
  k.fine.sharers.filter fun a => (s.slice n).admitted a && a != req

/-! ### Blocking -/

/-- The tracker serves or waits for a line. -/
def Tracker.lineUser (k : Tracker) : Bool :=
  (k.stage = .chain || k.stage = .ready || k.stage = .live) &&
  match k.kind with
  | .msg op => op != .drainW
  | .walk _ => false
  | .evictOnly => false
  | _ => true

/-- The tracker blocks its line: it has left the chain (04 R103). -/
def Tracker.blocks (k : Tracker) (a : PA) : Bool := k.lineUser && k.stage != .chain && lineOf k.addr = a

/-- A line of an eviction slot that is not in quarantine (02 R51), or whose write still waits for the merging buffer. -/
def Tracker.evicts (k : Tracker) (a : PA) : Bool :=
  (k.pendWr.any fun w => w.1 = a) ||
  match k.evict with
  | some e => !e.quarantined && e.lines.any fun l => l.line = a
  | none => false

/-- A hold of the line by another agent (06 R178). -/
def Slice.heldBy (sl : Slice) (a : PA) (req : Nat) : Bool := sl.holds.any fun h => h.line = a && h.agent != req

/-- Some tracker serves or waits for the line, an eviction slot holds it, or it is held: it is no victim (02 R43, 06
R178). -/
def Slice.busyLine (sl : Slice) (a : PA) : Bool :=
  (sl.trk.any fun kv => (kv.2.lineUser && lineOf kv.2.addr = a) || kv.2.evicts a) || sl.holds.any fun h => h.line = a

/-- Some agent holds the line (06 R178). -/
def Slice.heldLine (sl : Slice) (a : PA) : Bool := sl.holds.any fun h => h.line = a

/-- The line may be started for an agent's request: no tracker blocks it, no eviction slot holds it, no other agent
holds it. -/
def Slice.openFor (sl : Slice) (a : PA) (req : Nat) : Bool :=
  !(sl.trk.any fun kv => kv.2.blocks a || kv.2.evicts a) && !sl.heldBy a req

/-- Trackers in age order. -/
def Slice.byAge (sl : Slice) : List (Nat × Tracker) :=
  sortBy (fun kv => kv.2.age) sl.trk

/-- Trackers in use of a pool. -/
def Slice.poolUsed (sl : Slice) (p : Pool) : Nat := (sl.trk.filter fun kv => kv.2.pool = p).length

def Pool.size : Pool → Nat
  | .shared => 232 | .wbk => 16 | .own => 8

def Slice.poolFree (sl : Slice) (p : Pool) : Bool := sl.poolUsed p < p.size

end Sys2Proof.Machine
end

