-- ==== Sys2Proof/Machine/Snoops.lean ====
section
/-! DEFINITION. Sending the snoops of rounds and eviction slots (04 R108, 05 R140), and trackers for the slice's own work
(03 R96). -/

namespace Sys2Proof.Machine

/-! ### Sending snoops -/

/-- Every snoop of the round is sent and answered, and every DatWb it is owed has arrived (04 R108). -/
def Round.ended (r : Round) : Bool := r.todo.isEmpty && r.sent.isEmpty && r.owed.isEmpty && r.gone.isEmpty

/-- A snoop of the round is outstanding at an agent (05 R140). -/
def Round.at (r : Round) (a : Nat) : Bool := r.sent.contains a || r.owed.contains a

/-- A quarantine still waits for an agent's answer to an earlier snoop (04 R135, 05 R140). -/
def Owed.snoop (w : Owed) : Bool := w = .snDone || w = .snDoneOnly || w = .datWb || w = .stash

/-- The tracker has a snoop outstanding at an agent, for its own round, its eviction slot or its quarantine. -/
def Tracker.busyAt (k : Tracker) (a : Nat) : Bool :=
  k.round.at a || (k.quar.any fun q => q.1 = a && q.2.snoop) || match k.evict with
    | some e => e.lines.any fun l => l.round.at a
    | none => false

/-- The snoops that may be sent now, one for each agent that is not busy, and those that must wait. -/
def takeNow (busy : Nat → Bool) : List (Nat × Op) → List (Nat × Op) × List (Nat × Op)
  | [] => ([], [])
  | x :: r =>
    let y := takeNow (fun a => busy a || a = x.1) r
    if busy x.1 then (y.1, x :: y.2) else (x :: y.1, y.2)

/-- The round with the snoops of `x.1` sent and those of `x.2` still to send. -/
def Round.send (r : Round) (x : List (Nat × Op) × List (Nat × Op)) : Round :=
  { r with todo := x.2, sent := r.sent ++ x.1.map (·.1) }

/-- The snoops of eviction lines that may be sent now, line by line. -/
def pumpLines (busy : Nat → Bool) : List EvLine → List EvLine × List (PA × (Nat × Op))
  | [] => ([], [])
  | l :: r =>
    let x := takeNow busy l.round.todo
    let y := pumpLines (fun a => busy a || x.1.any fun p => p.1 = a) r
    ({ l with round := l.round.send x } :: y.1, x.1.map (fun p => (l.line, p)) ++ y.2)

/-- A snoop (03 R81): PEER and RQTX for forwarding snoops, PEER for SnStash, AUX[0] = EVS for an eviction, AUX[1] =
LINE for the census of one line; a census walk has LINE 0. -/
def snoopMsg (n t : Nat) (k : Tracker) (line : PA) (ev : Bool) (a : Nat) (op : Op) : Msg :=
  let fwd := op = .snFwdShare || op = .snFwdOwn
  { op, src := sliceNode n, dst := BitVec.ofNat 9 a, htrk := BitVec.ofNat 8 t, addr := line,
    peer := if fwd || op = .snStash then k.src else 0, rqtx := if fwd then k.rqtx else 0,
    aux := if op = .snCensus then (match k.kind with | .walk _ => 0 | _ => 2) else if ev then 1 else 0 }

/-- Messages sent in order. -/
def State.sendAll (s : State) (l : List Msg) : State := { s with mesh := s.mesh ++ l }

/-- The snoops of tracker t that may be sent now: its own round first, then its eviction lines. The snoop-response
timer starts when the last snoop of a round is sent, and whenever an eviction slot sends one (04 Table 04-10, R455). -/
def pump (n t : Nat) (s : State) : State :=
  match s.trk n t with
  | none => s
  | some k =>
    let x := takeNow k.busyAt k.round.todo
    let k := { k with
      round := k.round.send x
      snoopTimer := k.snoopTimer || (!x.1.isEmpty && x.2.isEmpty && !k.waitStash)
      stashTimer := k.stashTimer || (k.waitStash && !x.1.isEmpty) }
    let a := match k.kind with | .walk _ => k.addr | _ => lineOf k.addr
    let own := x.1.map fun p => snoopMsg n t k a false p.1 p.2
    match k.evict with
    | none => (s.updTrk n t fun _ => k).sendAll own
    | some e =>
      let y := pumpLines k.busyAt e.lines
      let e := { e with lines := y.1, timer := e.timer || !y.2.isEmpty }
      (s.updTrk n t fun _ => { k with evict := some e }).sendAll
        (own ++ y.2.map fun p => snoopMsg n t k p.1 true p.2.1 p.2.2)

/-! ### Trackers for the slice's own work (03 R96) -/

/-- The pool that settle, census or spine-control work may use now: a reserved tracker, else a shared one. -/
def Slice.poolOwn (sl : Slice) : Option Pool :=
  if sl.poolFree .own then some .own else if sl.poolFree .shared then some .shared else none

/-- Tracker t of a pool allocated for own work, at a stage; none when it is not free. It has no request and so no colour: its
`colour` is 0, under which dirty data of its evictions may fill the HLC (DESIGN CHOICE, log 100). -/
def allocPool (n t : Nat) (pool : Option Pool) (kind : TKind) (a : PA) (stage : Stage) (s : State) : Option State :=
  let sl := s.slice n
  match pool with
  | some pool =>
    if t < 256 && (sl.tracker t).isNone then
      some (s.updSlice n fun sl => { sl.putTrk t
        { kind, pool, age := sl.allocSeq, src := sliceNode n, addr := a, stage, start := sl.hclk } with
        allocSeq := sl.allocSeq + 1 })
    else none
  | none => none

/-- Tracker t allocated from the reserved ones, which census walks (02 R59), copy placements (08 R225) and retire
scrubs (09 R249) wait for. -/
def allocOwn (n t : Nat) (kind : TKind) (a : PA) (stage : Stage) (s : State) : Option State :=
  allocPool n t (if (s.slice n).poolFree .own then some .own else none) kind a stage s

/-- Tracker t allocated for other work of the slice, from the reserved or the shared ones. -/
def allocWork (n t : Nat) (kind : TKind) (a : PA) (stage : Stage) (s : State) : Option State :=
  allocPool n t (s.slice n).poolOwn kind a stage s

/-- The lowest free tracker. -/
def Slice.freeTrk (sl : Slice) : Nat := ((List.range 256).find? fun t => (sl.tracker t).isNone).getD 256

end Sys2Proof.Machine
end

