-- ==== Sys2Proof/Machine/Alloc.lean ====
section
/-! DEFINITION. Allocation and replacement (02 R43 to R47), demotion, loaf allocation and forced invalidation (R48 to
R52, R454), placing a line in P (04 R136), HLC ways and fills (07 R194 to R197). -/

namespace Sys2Proof.Machine

/-! ### Replacement trees (02 R44, R45) -/

/-- The victim walk over 2^k ways from `lo`: to the half with eligible ways, or the half the node names. Node i has
the children 2 i + 1 and 2 i + 2. -/
def treeWalk {m : Nat} (tree : BitVec m) (elig : Nat → Bool) (node lo : Nat) : Nat → Nat
  | 0 => lo
  | k + 1 =>
    let low := (List.range (2 ^ k)).any fun i => elig (lo + i)
    let high := (List.range (2 ^ k)).any fun i => elig (lo + 2 ^ k + i)
    if !high || (low && !bit tree node) then treeWalk tree elig (2 * node + 1) lo k
    else treeWalk tree elig (2 * node + 2) (lo + 2 ^ k) k

/-- Every node on the path to a way set to point to the other half. -/
def treeTouch {m : Nat} (tree : BitVec m) (way node lo : Nat) : Nat → BitVec m
  | 0 => tree
  | k + 1 =>
    if way < lo + 2 ^ k then treeTouch (setBit tree node true) way (2 * node + 1) lo k
    else treeTouch (setBit tree node false) way (2 * node + 2) (lo + 2 ^ k) k

/-- A fine tree touched for a request's colour; work that is not a request touches none. -/
def touchFine (n : Nat) (c : Option (BitVec 4)) (way : Nat) (s : State) : State :=
  match c with
  | none => s
  | some c => s |> withPeer n fun sl => { sl with arr := { sl.arr with
      fineTree := mput 0 sl.arr.fineTree c.toNat (treeTouch (mget 0 sl.arr.fineTree c.toNat) way 0 0 4) } }

def touchLoaf (n : Nat) (c : Option (BitVec 4)) (way : Nat) (s : State) : State :=
  match c with
  | none => s
  | some c => s |> withPeer n fun sl => { sl with arr := { sl.arr with
      loafTree := mput 0 sl.arr.loafTree c.toNat (treeTouch (mget 0 sl.arr.loafTree c.toNat) way 0 0 3) } }

def touchHlc (n : Nat) (c : Option (BitVec 4)) (way : Nat) (s : State) : State :=
  match c with
  | none => s
  | some c => s |> withPeer n fun sl => { sl with arr := { sl.arr with
      hlcTree := mput 0 sl.arr.hlcTree c.toNat (treeTouch (mget 0 sl.arr.hlcTree c.toNat) way 0 0 3) } }

/-- The lowest way that is free among the eligible ones, else the tree's victim. -/
def pickWay {m : Nat} (ways k : Nat) (tree : BitVec m) (elig free : Nat → Bool) : Option Nat :=
  match (List.range ways).find? fun w => elig w && free w with
  | some w => some w
  | none => if (List.range ways).any elig then some (treeWalk tree elig 0 0 k) else none

/-! ### Eligible ways -/

/-- A way reserved by a tracker's decision (04 R105). -/
def Slice.reservedFine (sl : Slice) (set way : Nat) : Bool :=
  sl.trk.any fun kv => kv.2.resv = .way way && fineSet kv.2.addr = set

/-- The slice owns the bucket of an address and does not hold it frozen. -/
def State.owns (s : State) (n : Nat) (a : PA) : Bool := (s.bkt n (bucketOf a)).kind = .owned

/-- 02 R43, colour masks aside. -/
def State.fineElig (s : State) (n set w : Nat) : Bool :=
  let e := s.fineAt n set w
  let a := e.line set
  !(s.slice n).reservedFine set w &&
  (e.free || ((e.hstate = hsS || e.hstate = hsX || e.hstate = hsO) && !e.anvil && !(s.slice n).busyLine a && s.owns n a))

/-- A loaf way that a tracker allocated and holds (02 R454), or reserved at its decision (04 R105): it is no victim. -/
def Slice.keptLoaf (sl : Slice) (set w : Nat) : Bool :=
  sl.trk.any fun kv => kv.2.heldLoaf = some (8 * set + w) || (kv.2.resv = .loaf w && loafSet kv.2.addr = set)

/-- 02 R49, colour masks aside. -/
def State.loafElig (s : State) (n set w : Nat) : Bool :=
  let l := s.loafAt n set w
  !(s.slice n).keptLoaf set w &&
  (l.lstate = 0 || ((l.lstate = lfClean || l.lstate = lfOwner) && !((l.lines set).any (s.slice n).busyLine) &&
    s.owns n (l.region set)))

/-! ### Forced invalidation (02 R50 to R52) -/

/-- The snoops of one loaf victim line; an unknown loaf, which only a way's disabling or a recolour scan evicts, may have
an owner (DEDUCED, log 24). -/
def loafSnoops (sl : Slice) (l : LoafEntry) : List (Nat × Op) :=
  (sl.admList.filter fun a => bit l.gvec (groupOf a)).map fun a => (a, if l.lstate = lfClean then Op.snKill else Op.snOwn)

/-- The snoops of a fine victim. -/
def fineSnoops (sl : Slice) (e : FineEntry) : List (Nat × Op) :=
  (match e.owner with
    | some o => if sl.admitted o then [(o, Op.snOwn)] else []
    | none => []) ++ (e.sharers.filter sl.admitted).map fun a => (a, Op.snKill)

/-- A loaf copied to the eviction slot of tracker t; its way is free in the same step. -/
def evictLoaf (n t set way : Nat) (s : State) : State :=
  let l := s.loafAt n set way
  let sn := loafSnoops (s.slice n) l
  let s := writeLoafW n set way 0 s
  s.updTrk n t fun k => { k with evict := some (
    { isLoaf := true, loaf := l,
      lines := (l.lines set).map fun a => { line := a, round := { all := sn, todo := sn } } } : Evict) }

/-- A fine entry copied to the eviction slot of tracker t (back-invalidation), its way written free. -/
def evictFine (n t set way : Nat) (s : State) : State :=
  let e := s.fineAt n set way
  let sn := fineSnoops (s.slice n) e
  let s := freeFine n set way s
  s.updTrk n t fun k => { k with evict := some (
    { isLoaf := false, fine := e,
      lines := [{ line := e.line set, round := { all := sn, todo := sn } }] } : Evict) }

/-- Tracker t's eviction slot is empty. -/
def State.slotFree (s : State) (n t : Nat) : Bool :=
  match s.trk n t with
  | some k => k.evict.isNone
  | none => false

/-! ### Loaf allocation (02 R49, R454, Table 02-7) -/

/-- A new loaf for the region of a line, in a colour's mask, evicting a victim into tracker t's slot. `req` is the
colour of the request that causes it, none for other work. Answers the way, or none. -/
def newLoaf (n t : Nat) (a : PA) (c : BitVec 4) (req : Option (BitVec 4)) (s : State) : State × Option Nat :=
  let set := loafSet a
  let elig w := s.loafMask n t c w && s.loafElig n set w &&
    ((s.loafAt n set w).lstate = 0 || s.slotFree n t)
  match pickWay 8 3 (mget 0 (s.slice n).arr.loafTree c.toNat) elig fun w => (s.loafAt n set w).lstate = 0 with
  | none => (s, none)
  | some w =>
    let s := if (s.loafAt n set w).lstate = 0 then s else evictLoaf n t set w s
    let s := touchLoaf n (if req = some c then req else none) w s
    (writeLoafW n set w (encLoaf { ltag := loafTag a, lstate := lfClean, colour := c }) s, some w)

/-- The loaf way for a direct placement (02 R46): the region's loaf, or a new one held by the tracker (R454). -/
def placeLoaf (n t : Nat) (a : PA) (c : BitVec 4) (req : Option (BitVec 4)) (s : State) : State × Option Nat :=
  match s.loafFind n a with
  | some w => (touchLoaf n req w s, some w)
  | none =>
    match newLoaf n t a c req s with
    | (s, some w) => (s.updTrk n t fun k => { k with heldLoaf := some (8 * loafSet a + w) }, some w)
    | r => r

/-- The holders of a line placed in a loaf, noted for the census that is to rewrite an unknown loaf (02
R61; DEDUCED, log 15). -/
def noteReport (n : Nat) (a : PA) (groups : BitVec 16) (owner : Bool) (s : State) : State :=
  s.updSlice n fun sl => { sl with
   census := sl.census.map fun c =>
    if c.bucket = bucketOf a && c.started then
      let b : BitVec 8 := setBit 0 (lineInLoaf a) true
      match c.reports.find? fun r => r.region = regionOf a with
      | some _ => { c with reports := c.reports.map fun r =>
          if r.region = regionOf a then { r with
            lines := r.lines ||| b, owners := r.owners ||| (if owner then b else 0), groups := r.groups ||| groups }
          else r }
      | none => { c with reports := c.reports ++
          ([{ region := regionOf a, lines := b, owners := if owner then b else 0, groups }] : List LoafReport) }
    else c }

/-- A line recorded in its region's loaf: presence bit set, groups added, may-hold-owner if an owner may hold it and
the loaf is not unknown. -/
def addToLoaf (n : Nat) (a : PA) (way : Nat) (groups : BitVec 16) (owner : Bool) (s : State) : State :=
  let l := s.loafAt n (loafSet a) way
  let l := { l with pres := setBit l.pres (lineInLoaf a) true, gvec := l.gvec ||| groups,
                    lstate := if owner && l.lstate != lfUnknown then lfOwner else l.lstate }
  writeLoafW n (loafSet a) way (encLoaf l) (noteReport n a groups owner s)

/-! ### Demotion (02 R48) -/

/-- Fine entry at (set, way) demoted by tracker t: into its region's loaf, else a new one in its colour's mask, else
force-invalidated. Answers false, and changes nothing, when an eviction is needed and the slot is taken. -/
def demote (n t set way : Nat) (req : Option (BitVec 4)) (s : State) : State × Bool :=
  let e := s.fineAt n set way
  let a := e.line set
  let s := eachOf ((List.range 8).filter (s.loafLive n)) (probeLoaf n (loafSet a)) s
  let owner := e.hstate = hsX || e.hstate = hsO
  match s.loafFind n a with
  | some lw => (ownSlot n (freeFine n set way (addToLoaf n a lw e.groups owner s)), true)
  | none =>
    match newLoaf n t a e.colour req s with
    | (s, some lw) => (ownSlot n (freeFine n set way (addToLoaf n a lw e.groups owner s)), true)
    | (s, none) => if s.slotFree n t then (evictFine n t set way s, true) else (s, false)

/-- Fine allocation in a set (02 R43, R44): the way, made free, or none. `mask` gives the ways that may be taken,
`tree` the colour whose tree is walked, `req` the request's colour. A victim whose full read fails is not demoted and
the choice is made again (R56); `fuel` choices. -/
def allocFine (n t : Nat) (a : PA) (mask : Nat → Bool) (tree : BitVec 4) (req : Option (BitVec 4)) :
    Nat → State → State × Option Nat
  | 0, s => (s, none)
  | fuel + 1, s =>
    let set := fineSet a
    match pickWay 16 4 (mget 0 (s.slice n).arr.fineTree tree.toNat) (fun w => mask w && s.fineElig n set w)
        fun w => (s.fineAt n set w).free with
    | none => (s, none)
    | some w =>
      if (s.fineAt n set w).free then (touchFine n req w s, some w)
      else
        let s' := readFine n set w s
        if (s'.slice n).fineE set w ≠ (s.slice n).fineE set w then
          allocFine n t a (fun x => mask x && x != w) tree req fuel s'
        else
          match demote n t set w req s' with
          | (s, true) => (touchFine n req w s, some w)
          | (s, false) => allocFine n t a (fun x => mask x && x != w) tree req fuel s

/-- The way or loaf of a request's line (02 R43 to R47): a fine way, else the line's loaf; a soft request takes only
free ways and existing loaves. -/
def reserve (n t : Nat) (a : PA) (c : BitVec 4) (soft : Bool) (s : State) : State × Resv :=
  let mask w := s.fineMask n t c w && (!soft || (s.fineAt n (fineSet a) w).free)
  match allocFine n t a mask c (some c) 17 s with
  | (s, some w) => (s, .way w)
  | (s, none) =>
    if soft then
      match s.loafFind n a with
      | some w => (touchLoaf n (some c) w s, .loaf w)
      | none => (s, .none)
    else
      match placeLoaf n t a c (some c) s with
      | (s, some w) => (s, .loaf w)
      | (s, none) => (s, .none)

/-! ### Poisoned lines (04 R136) -/

/-- The OPEN merging-buffer entry of a line is to be issued at once (07 R200). -/
def urge (n : Nat) (a : PA) (s : State) : State :=
  s.updSlice n fun sl =>
    eachMb sl (sl.mb.filter fun kv => kv.2.st = .opened && kv.2.line = a)
where
  eachMb (sl : Slice) (l : List (Nat × MbEntry)) : Slice :=
    l.foldl (fun sl kv => sl.putMb kv.1 { kv.2 with urgent := true }) sl

/-- A tracker for the eviction that a placement in P may need: t while its slot is empty, else one of those for the
slice's own work (DESIGN CHOICE, log 57); t when none is free. -/
def slotFor (n t : Nat) (a : PA) (s : State) : State × Nat :=
  if s.slotFree n t then (s, t)
  else match allocWork n (s.slice n).freeTrk .evictOnly a .ended s with
    | some s' => (s', (s.slice n).freeTrk)
    | none => (s, t)

/-- The way that tracker t reserved for a line. -/
def State.resvWay (s : State) (n t : Nat) (a : PA) : Option Nat :=
  match s.trk n t with
  | some k => match k.resv with
    | .way w => if lineOf k.addr = a then some w else none
    | _ => none
  | none => none

/-- A line given a fine entry in P (04 R136): `g` makes it from the entry the line has, or from a free one of colour c.
The line's own way, else the one that tracker t reserved for it, else any eligible way of its set, demoting a victim;
else the fine set becomes suspect. Its presence bit and HLC copy go. No replacement tree turns (DESIGN CHOICE, log 57). -/
def placeIn (n t : Nat) (a : PA) (c : BitVec 4) (g : FineEntry → FineEntry) (s : State) : State :=
  let s := urge n a (dropCopy n a s)
  if (s.slice n).mode = .broadcast then
    match s.fineFind n a with
    | some w => writeFine n a w (g (s.fineAt n (fineSet a) w)) s
    | none => s
  else match s.fineFind n a with
    | some w => writeFine n a w (g (s.fineAt n (fineSet a) w)) s
    | none =>
      let s := clearPres n a s
      match s.resvWay n t a with
      | some w => writeFine n a w (g { colour := c }) s
      | none =>
        let x := slotFor n t a s
        let r := allocFine n x.2 a (s.fineOpen n) c none 17 x.1
        let s := pump n x.2 (match r.2 with
          | some w => writeFine n a w (g { colour := c }) r.1
          | none => suspectFine n (fineSet a) r.1)
        if x.2 != t && (s.slotFree n x.2) then s.updSlice n (·.dropTrk x.2) else s

/-- A line placed in P naming agents exactly and by group. -/
def placeP (n t : Nat) (a : PA) (c : BitVec 4) (l : List Nat) (v : BitVec 16) (s : State) : State :=
  placeIn n t a c (·.setP l v) s

/-! ### HLC ways (07 R194, R195) -/

/-- The line may be held by the HLC (07 R191). -/
def State.hlcOk (s : State) (a : PA) : Bool := bits a 47 5 = 0 && !s.inTray a

/-- The way that an HLC fill by tracker t takes in a colour's mask, if any (07 R195). -/
def State.hlcVictim (s : State) (n t : Nat) (a : PA) (c : BitVec 4) : Option Nat :=
  let sl := s.slice n
  let set := hlcSet a
  let valid w := hlcV (sl.hlcW set w).tagw
  let elig w := s.hlcMask n t c w && !sl.pin set w &&
    (!valid w || !sl.busyLine (hlcAddr set (hlcTagOf (sl.hlcW set w).tagw)))
  if s.hlcOk a && (s.slice n).mode != .broadcast then
    pickWay 8 3 (mget 0 sl.arr.hlcTree c.toNat) elig fun w => !valid w
  else none

/-- A way filled with a line (07 R194), the victim dropped; an unused prefetch counts as evicted (R197). -/
def fillHlc (n : Nat) (a : PA) (way : Nat) (d : Line) (pfu : Bool) (req : Option (BitVec 4)) (s : State) : State :=
  let set := hlcSet a
  let s := s.updSlice n fun sl =>
    let sl := if sl.pfu set way then { sl with ledger := { sl.ledger with pfEvict := sl.ledger.pfEvict + 1 } } else sl
    let sl := if pfu then { sl with ledger := { sl.ledger with pfFill := sl.ledger.pfFill + 1 } } else sl
    (sl.putHlc set way { tagw := encHlc (hlcTag a) true d, data := d }).putFlags set way false pfu
  touchHlc n req way s

end Sys2Proof.Machine
end

