-- ==== Sys2Proof/Machine/Buffer.lean ====
section
/-! DEFINITION. The merging buffer and the HLC copy it keeps current (07 R198 to R202), tray storage (07 R212), and
where line data comes from (04 R109, 07 R201, 01 R16). -/

namespace Sys2Proof.Machine

/-! ### Placing a line in P from outside its transaction (04 R136) -/

/-- A tracker number that names no tracker: work with no eviction slot. -/
def noTracker : Nat := 256

/-- An eviction slot that blocks the line (02 R51). -/
def Evict.blocks (e : Evict) (a : PA) : Bool := !e.quarantined && e.lines.any fun l => l.line = a

/-- The line of an eviction slot marked to enter P when its eviction ends. -/
def Evict.mark (e : Evict) (a : PA) : Evict :=
  { e with lines := e.lines.map fun l => if l.line = a then { l with toP := true } else l }

/-- The line placed in P naming the holders of the entry found; by the tracker that blocks the line, when there is
one, at the end of its transaction or of its eviction. An entry allocated for a line that no tracker blocks gets colour 0 (DESIGN
CHOICE, log 57). -/
def poisonLine (n : Nat) (a : PA) (s : State) : State :=
  let sl := s.slice n
  match sl.trk.find? fun kv => kv.2.blocks a with
  | some kv => s.updTrk n kv.1 fun k => { k with toP := true }
  | none =>
    match sl.trk.find? fun kv => kv.2.evict.any (·.blocks a) with
    | some kv => s.updTrk n kv.1 fun k => { k with evict := k.evict.map (·.mark a) }
    | none =>
      let k := s.lookup n a
      let s := if k.anvil then unpin n a s else s
      placeIn n noTracker a 0 (fun e => if e.free then e.setP [] (if k.lway.isSome then k.loaf.gvec else 0) else e.inP) s

/-! ### The merging buffer -/

def Slice.mbOf (sl : Slice) (st : MbSt) (a : PA) : Option Nat :=
  (sl.mb.find? fun kv => kv.2.st = st && kv.2.line = a).map (·.1)

/-- The FREE entry that a write opens: the lowest-numbered one; the spec says only "a FREE entry" (DESIGN CHOICE, log 99). -/
def Slice.mbFree (sl : Slice) : Option Nat := (List.range 32).find? fun e => (sl.mbE e).st = .free

/-- Entries that are not FREE. -/
def Slice.mbUsed (sl : Slice) : Nat := ((List.range 32).filter fun e => (sl.mbE e).st != .free).length

/-- DPAR and MPAR of an entry checked (07 Table 07-4): a failure poisons the entry, drops the HLC copy, has the entry
issued and the line placed in P. -/
def checkMb (n e : Nat) (s : State) : State :=
  let x := (s.slice n).mbE e
  let r := injSlice n 0x07 s
  let s := r.2
  let groups := if r.1 then ~~~ x.badGroups else x.badGroups
  let mask := x.maskBad != r.1
  if groups ≠ 0 || mask then
    let s := raiseSlice n 0x07
      { syn := (0#2 : BitVec 2) ++ b1 mask ++ groups ++ BitVec.ofNat 5 e, node := x.target, addr := x.line,
        inj := r.1 } s
    let s := s.updSlice n fun sl => sl.putMb e { x.seal with poison := true, urgent := x.st = .opened }
    poisonLine n x.line (dropCopy n x.line s)
  else s

/-- The HLC copy updated with a write that enters the buffer (04 R119, 07 R194, R196, R202). A poisoned write to a line in
Anvil mode clears V in the pinned way, and PIN with it; the entry stays ANVIL (DESIGN CHOICE, log 65). A request's write that
hits a way turns its colour's tree (R195). -/
def updateHlc (n t : Nat) (a : PA) (w : WriteData) (c : BitVec 4) (req : Option (BitVec 4)) (s : State) : State :=
  if (s.slice n).mode = .broadcast then s
  else if w.poison then dropCopy n a s
  else match s.hlcFind n a with
    | some v => touchHlc n req v (s.updSlice n fun sl =>
        let x := sl.hlcW (hlcSet a) v
        let d := mergeBytes x.data w.data w.mask
        sl.putHlc (hlcSet a) v { tagw := encHlc (hlcTag a) true d, data := d })
    | none =>
      if w.fills && w.mask = fullMask then
        match s.hlcVictim n t a c with
        | some v => fillHlc n a v w.data false req s
        | none => s
      else s

/-- The byte address of tracker t's request, for an access to its own line (15 Table 15-5 0x14, 0x15). -/
def State.byteOf (s : State) (n t : Nat) (a : PA) : PA :=
  match s.trk n t with
  | some k => if lineOf k.addr = a then k.addr else a
  | none => a

/-- A write applied to the buffer (07 R199), or discarded when its address is unrouted or a tray hole (01 R16, 07
R210). Answers false, changing nothing, when no entry is FREE. -/
def mbWrite (n t : Nat) (a : PA) (w : WriteData) (c : BitVec 4) (req : Option (BitVec 4)) (who : BitVec 9)
    (s : State) : State × Bool :=
  let d : WriteData := { w with data := w.data &&& byteMask w.mask 64 }
  match s.memDest a with
  | .unrouted => (raiseSlice n 0x14 { syn := BitVec.ofNat 16 t, node := who, addr := s.byteOf n t a } s, true)
  | .hole => (raiseSlice n 0x15 { syn := BitVec.ofNat 16 t, node := who, addr := s.byteOf n t a } s, true)
  | dest =>
    let node := dest.node.getD 0
    match (s.slice n).mbOf .opened a with
    | some e =>
      let s := checkMb n e s
      let x := (s.slice n).mbE e
      let x := { x with data := mergeBytes x.data d.data d.mask, mask := x.mask ||| d.mask,
                        poison := x.poison || d.poison }
      (updateHlc n t a { d with poison := x.poison } c req (s.updSlice n fun sl => sl.putMb e x.seal), true)
    | none =>
      match (s.slice n).mbFree with
      | some e =>
        let x : MbEntry := { st := .opened, line := a, target := node, poison := d.poison, data := d.data, mask := d.mask }
        (updateHlc n t a d c req (s.updSlice n fun sl => sl.putMb e x.seal), true)
      | none => (s, false)

/-- The colour of a tracker's request, for the trees; none for the slice's own work. -/
def Tracker.req (k : Tracker) : Option (BitVec 4) :=
  match k.kind with
  | .msg _ => some k.colour
  | _ => none

/-- The parity of tracker t's line buffer checked as a write leaves it for the merging buffer (15 source 0x08): data that
fails is written with POISON, and its line goes to P (07 Table 07-4). -/
def checkData (n t : Nat) (a : PA) (w : WriteData) (s : State) : State × WriteData :=
  match s.trk n t with
  | none => (s, w)
  | some k =>
    let r := injSlice n 0x08 s
    if k.bufBad != r.1 then
      let s := raiseSlice n 0x08 { syn := BitVec.ofNat 16 t, node := k.src, addr := a, inj := r.1 } r.2
      let own := lineOf k.addr = a
      let s := s.updTrk n t fun k => { k with bufBad := false, toP := k.toP || (own && k.look.res != .p) }
      (if own then s else poisonLine n a s, { w with poison := true })
    else (r.2, w)

/-- A write of a tracker may be tried now: no older write of it to the line waits, and none at all unless the line has an OPEN
entry, into which it merges (07 R199 step 1). -/
def Slice.mayWrite (sl : Slice) (waiting : List PA) (a : PA) : Bool :=
  waiting.isEmpty || (!waiting.contains a && (sl.mbOf .opened a).isSome)

/-- A tracker's write to a line: into the buffer, or kept in the tracker, as its check left it, until an entry is FREE. -/
def writeLine (n t : Nat) (a : PA) (w : WriteData) (s : State) : State :=
  match s.trk n t with
  | none => s
  | some k =>
    let c := checkData n t a w s
    match if (s.slice n).mayWrite (k.pendWr.map (·.1)) a then mbWrite n t a c.2 k.colour k.req k.src c.1 else (c.1, false) with
    | (s, true) => if w.own then s.updTrk n t fun k => { k with datDone := true } else s
    | (s, false) => s.updTrk n t fun k => { k with pendWr := k.pendWr ++ [(a, c.2)] }

/-- Waiting writes of one tracker tried in turn, oldest first; `waiting` holds the lines of those that must wait longer. -/
def retryEach (n t : Nat) (waiting : List PA) : List (PA × WriteData) → State → State
  | [], s => s
  | (a, w) :: r, s =>
    match s.trk n t with
    | none => s
    | some k =>
      let c := checkData n t a w s
      match if (s.slice n).mayWrite waiting a then mbWrite n t a c.2 k.colour k.req k.src c.1 else (s, false) with
      | (s', true) =>
        retryEach n t waiting r (s'.updTrk n t fun k => { k with
          pendWr := k.pendWr.erase (a, w), datDone := k.datDone || w.own })
      | (_, false) => retryEach n t (waiting ++ [a]) r s

/-- The waiting writes of one tracker taken into the buffer while they can be. -/
def retryTracker (n t : Nat) (s : State) : State :=
  match s.trk n t with
  | none => s
  | some k => retryEach n t [] k.pendWr s

/-- Every tracker's waiting writes, in age order. -/
def retryWrites (n : Nat) (s : State) : State :=
  eachOf ((s.slice n).byAge.map (·.1)) (retryTracker n) s

/-! ### Tray storage (07 R209, R212) -/

/-- Bytes of codeword i of a tray line: 8 in a fine way, 32 in an HLC way. -/
def TrayPlace.cwBytes : TrayPlace → Nat
  | .fine _ _ => 8
  | .hlc _ _ => 32

def TrayPlace.cwCount : TrayPlace → Nat
  | .fine _ _ => 8
  | .hlc _ _ => 2

def Slice.trayLine (sl : Slice) : TrayPlace → TrayLine
  | .fine way set => mget {} sl.arr.trayFine (1024 * way + set / 8)
  | .hlc way set => mget {} sl.arr.trayHlc (256 * way + set)

/-- A tray line stored; a line whose codewords are all good is stored with an empty list. -/
def Slice.putTray (sl : Slice) (p : TrayPlace) (x : TrayLine) : Slice :=
  let x := if x.cw.all (· = .good) then { x with cw := [] } else x
  { sl with arr := match p with
    | .fine way set => { sl.arr with trayFine := mput {} sl.arr.trayFine (1024 * way + set / 8) x }
    | .hlc way set => { sl.arr with trayHlc := mput {} sl.arr.trayHlc (256 * way + set) x } }

/-- The number of a tray line's first set in scan order. -/
def TrayPlace.scanAt : TrayPlace → Nat
  | .fine _ set => set / 8 * 8
  | .hlc _ set => 12288 + set

/-- A tray line written at slice n, and at its copy target once the scan has read its set (13 R334). -/
def writeTray (n : Nat) (p : TrayPlace) (x : TrayLine) (s : State) : State :=
  if (s.slice n).scans.any fun sc => sc.kind = .copy && p.scanAt < sc.pos then withPeer n (·.putTray p x) s
  else s.updSlice n (·.putTray p x)

/-- The check state of codeword i. -/
def TrayLine.cwAt (x : TrayLine) (i : Nat) : CwState := x.cw.getD i .good

def TrayLine.setCw (x : TrayLine) (count i : Nat) (c : CwState) : TrayLine :=
  { x with cw := (List.range count).map fun j => if j = i then c else x.cwAt j }

/-- The detail of a tray error (15 Table 15-5). -/
def trayDetail (n i : Nat) (p : TrayPlace) (x : TrayLine) (a : PA) (inj : Bool) : Detail :=
  let way := match p with | .fine w _ => w | .hlc w _ => w + 16
  { syn := (0#1 : BitVec 1) ++ Config.traySyndrome n i x.data ++ BitVec.ofNat 5 way, addr := a, inj }

/-- Codeword i of a tray line read at slice n, with its check: a single-bit error is corrected and written back; MODE says
what an injection makes of it (15 R399).
Answers whether it is uncorrectable. -/
def readCw (n : Nat) (p : TrayPlace) (a : PA) (i : Nat) (s : State) : State × Bool :=
  let x := (s.slice n).trayLine p
  let mode := (s.slice n).assay.inj.mode
  let r9 := injSlice n 0x09 s
  let rA := injSlice n 0x0A r9.2
  let inj := r9.1 || rA.1
  let s := rA.2
  let real := x.cwAt i
  if real = .bad || (inj && !mode) then (raiseSlice n 0x0A (trayDetail n i p x a inj) s, true)
  else if real = .single || inj then
    let s := raiseSlice n 0x09 (trayDetail n i p x a inj) s
    (writeTray n p (x.setCw p.cwCount i .good) s, false)
  else (s, false)

/-- Some codewords read in turn: whether any is uncorrectable. -/
def readCws (n : Nat) (p : TrayPlace) (a : PA) : List Nat → State → State × Bool
  | [], s => (s, false)
  | i :: r, s =>
    let x := readCw n p a i s
    let y := readCws n p a r x.1
    (y.1, x.2 || y.2)

/-- A whole tray line read: its data and whether it is poisoned. -/
def trayRead (n : Nat) (p : TrayPlace) (a : PA) (s : State) : State × (Line × Bool) :=
  let r := readCws n p a (List.range p.cwCount) s
  (r.1, ((r.1.slice n).trayLine p).data, r.2)

/-- Enabled bytes of codeword i. -/
def cwMask (p : TrayPlace) (m : Mask) (i : Nat) : Mask := m &&& spanMask (p.cwBytes * i) p.cwBytes

/-- The line is stored poisoned: every codeword's check field is inverted. -/
def TrayLine.poisoned (x : TrayLine) (p : TrayPlace) : Bool := (List.range p.cwCount).all fun i => x.cwAt i = .bad

/-- A tray write: codewords covered in part are read and merged, and so is one of a poisoned line, whose poison only a
write of every byte clears; the line is poisoned when one of them is uncorrectable or the write carries POISON. -/
def trayWrite (n : Nat) (p : TrayPlace) (a : PA) (d : Line) (m : Mask) (poison : Bool) (s : State) : State :=
  let part i := cwMask p m i ≠ 0 && cwMask p m i ≠ spanMask (p.cwBytes * i) p.cwBytes
  let l := (List.range p.cwCount).filter part
  let r := readCws n p a (if l.isEmpty && m != fullMask && ((s.slice n).trayLine p).poisoned p then [0] else l) s
  let x := (r.1.slice n).trayLine p
  let d' := mergeBytes x.data d m
  let cw i := if poison || r.2 then CwState.bad else if cwMask p m i ≠ 0 then CwState.good else x.cwAt i
  writeTray n p { data := d', cw := (List.range p.cwCount).map cw } r.1

/-! ### Line data (04 R109, 07 R201) -/

/-- Merging-buffer bytes of a line: the SENT entry's first, then the OPEN entry's; their union mask and poison. -/
def overlay (n : Nat) (a : PA) (base : Line) (s : State) : State × (Line × Mask × Bool) :=
  let add (st : MbSt) (r : State × (Line × Mask × Bool)) : State × (Line × Mask × Bool) :=
    match (r.1.slice n).mbOf st a with
    | some e =>
      let s := checkMb n e r.1
      let x := (s.slice n).mbE e
      (s, mergeBytes r.2.1 x.data x.mask, r.2.2.1 ||| x.mask, r.2.2.2 || x.poison)
    | none => r
  add .opened (add .sent (s, base, 0, false))

/-- A slice's read credit toward a node: 4 for a memory port (03 R98), 2 for a slice (07 R211). -/
def readLimit (node : BitVec 9) : Nat := if (nodeSlice node).isSome then 2 else 4

/-- New tray messages to a node are held: it is a slice being copied whose buckets have all flipped, and a segment
still names it (13 R335). -/
def State.segHeld (s : State) (node : BitVec 9) : Bool :=
  match nodeSlice node with
  | none => false
  | some k =>
    ((s.slice k).scans.any fun sc => sc.kind = .copy && sc.stop ≤ sc.pos && sc.moves.isEmpty) &&
    s.spine.traySeg.any fun kv => kv.2.valid && kv.2.slice = k

def State.rdFree (s : State) (n : Nat) (node : BitVec 9) : Bool :=
  mget 0 (s.slice n).rdCredits node.toNat < readLimit node && !s.segHeld node

def State.wrFree (s : State) (n : Nat) (node : BitVec 9) : Bool :=
  mget 0 (s.slice n).wrCredits node.toNat < 2 && !s.segHeld node

def addCredit (m : Map Nat) (node : BitVec 9) : Map Nat := mput 0 m node.toNat (mget 0 m node.toNat + 1)

def subCredit (m : Map Nat) (node : BitVec 9) : Map Nat := mput 0 m node.toNat (mget 0 m node.toNat - 1)

/-- MemRd sent for a tracker: a credit used, the memory timer started. -/
def sendRead (n t : Nat) (a : PA) (node : BitVec 9) (s : State) : State :=
  let s := s.updSlice n fun sl => { sl with rdCredits := addCredit sl.rdCredits node }
  let s := s.updTrk n t fun k => { k with memNode := some node, memTimer := true, wantRead := false }
  s.send { op := .memRd, src := sliceNode n, dst := node, htrk := BitVec.ofNat 8 t, addr := a }

/-- The tracker's line buffer filled with data, and the merging-buffer bytes that it read as its read began merged over it: an
entry whose write has reached memory meanwhile may be FREE, and the data older than that write (07 R201; DEDUCED, log 82). -/
def fillBuf (n t : Nat) (d : Line) (poison : Bool) (s : State) : State :=
  s.updTrk n t fun k => { k with buf := some (mergeBytes d k.merge.1 k.merge.2.1, poison || k.merge.2.2) }

/-- The line read from memory or a tray for tracker t (01 R16, 07 R210, R211): MemRd when a credit is free, else the
tracker waits for one; a read of the slice's own tray waits for the slots that it takes (17 R435). -/
def readMemory (n t : Nat) (a : PA) (s : State) : State :=
  match s.memDest a with
  | .unrouted =>
    let who := ((s.trk n t).map (·.src)).getD 0
    (raiseSlice n 0x14 { syn := BitVec.ofNat 16 t, node := who, addr := s.byteOf n t a } s).updTrk n t fun k =>
      { k with unrouted := true }
  | .hole =>
    let who := ((s.trk n t).map (·.src)).getD 0
    (raiseSlice n 0x15 { syn := BitVec.ofNat 16 t, node := who, addr := s.byteOf n t a } s).updTrk n t fun k =>
      { k with unrouted := true }
  | .tray k =>
    if k = n then
      if !s.trayOpen n then s.updTrk n t fun x => { x with wantRead := true }
      else match s.trayPlace a with
      | some p =>
        let r := trayRead n p a (useTray n s)
        fillBuf n t r.2.1 r.2.2 r.1
      | none => s
    else if s.rdFree n (sliceNode k) then sendRead n t a (sliceNode k) s
    else s.updTrk n t fun x => { x with wantRead := true }
  | .port p =>
    if s.rdFree n (portNode p) then sendRead n t a (portNode p) s
    else s.updTrk n t fun x => { x with wantRead := true }

/-- The grant gives the requester a copy to keep (07 R197). -/
def Tracker.grants (k : Tracker) : Bool :=
  match k.kind with
  | .msg op => !k.soft && (op = .rdShare || op = .rdOwn || op = .upgrade)
  | _ => false

/-- Line data fetched for tracker t: from the buffer alone, from the HLC when it may be used, else from memory. -/
def fetchLine (n t : Nat) (useHlc : Bool) (s : State) : State :=
  match s.trk n t with
  | none => s
  | some k =>
    let a := lineOf k.addr
    let o := overlay n a 0 s
    let s := o.1.updTrk n t fun k => { k with merge := o.2 }
    if o.2.2.1 = fullMask then s.updTrk n t fun k => { k with buf := some (o.2.1, o.2.2.2) }
    else
      match if useHlc && (s.slice n).mode != .broadcast then s.hlcFind n a else none with
      | none => readMemory n t a s
      | some w =>
        let set := hlcSet a
        let x := (s.slice n).hlcW set w
        let r := injSlice n 0x06 s
        let s := r.2
        if hlcDpBad x.tagw x.data != r.1 then
          let s := arrayError n 0x06 2 w { syn := BitVec.ofNat 16 w, addr := a, inj := r.1 } s
          let s := if (s.slice n).pin set w then s else s.updSlice n (·.dropHlc set w)
          readMemory n t a s
        else
          let pfu := (s.slice n).pfu set w && k.grants
          let s := if pfu then s.updSlice n fun sl =>
              { sl.putFlags set w (sl.pin set w) false with
                ledger := { sl.ledger with pfUsed := sl.ledger.pfUsed + 1 } }
            else s
          let s := touchHlc n k.req w s
          (fillBuf n t x.data false s).updTrk n t fun k => { k with fromPfu := pfu }

end Sys2Proof.Machine
end

