-- ==== Sys2Proof/Machine/Jobs.lean ====
section
/-! DEFINITION. Ring commands in progress: their descriptors (12 Table 12-5), their completion (12 R307) and the
spine's jobs. -/

namespace Sys2Proof.Machine

/-- Byte i of a descriptor. -/
def Taken.byte (k : Taken) (i : Nat) : BitVec 8 := byteOf k.desc i
def Taken.opc (k : Taken) : BitVec 8 := k.byte 0
def Taken.phase (k : Taken) : Bool := bit k.desc 8
def Taken.fence (k : Taken) : Bool := bit k.desc 9
def Taken.intr (k : Taken) : Bool := bit k.desc 10
def Taken.tag (k : Taken) : BitVec 16 := bits k.desc 16 16

/-- Completion codes (12 Table 12-9). -/
def ccOK : BitVec 8 := 0x00
def ccDENIED : BitVec 8 := 0x01
def ccBADOP : BitVec 8 := 0x02
def ccBADARG : BitVec 8 := 0x03
def ccBUSY : BitVec 8 := 0x04
def ccSTATE : BitVec 8 := 0x05
def ccTIMEOUT : BitVec 8 := 0x06
def ccNOREV : BitVec 8 := 0x07
def ccPARTIAL : BitVec 8 := 0x08
def ccABORTED : BitVec 8 := 0x09
def ccREADFAIL : BitVec 8 := 0x0A
def ccDIGEST : BitVec 8 := 0x0B
def ccEXPIRED : BitVec 8 := 0x0C
def ccLOCKFULL : BitVec 8 := 0x0D
def ccXLATE : BitVec 8 := 0x0E
def ccWALKERR : BitVec 8 := 0x0F

/-- A taken command completed: its entry waits to be written (12 R307); of a command taken before a function-level
reset only the record 0x214 is made (11 Table 11-8; 16 Table 16-2: RESULT[5:0]). -/
def completeCmd (fn idx : Nat) (code : BitVec 8) (result : Nat) (s : State) : State :=
  match s.taken fn idx with
  | none => s
  | some k =>
    let s := s.updFn fn fun f => { f with taken := f.taken.filter fun x => x.idx != idx }
    let d : Done :=
      { idx, ring := k.ring, tag := k.tag, code, opc := k.opc, result := BitVec.ofNat 64 result, intr := k.intr }
    if !k.orphan then s.updFn fn fun f => { f with done := f.done ++ [d] }
    else
      let r := hrec 0x214 1 (fnNode fn) (p48 (fn + 256 * k.opc.toNat + 65536 * code.toNat)) (p48 k.tag.toNat)
        (p48 (result % 64))
      s.feed spineFeed { r with fDest := some fn }

def State.job (s : State) (id : Nat) : Option Job := s.spine.jobs.find? fun j => j.id = id

def State.updJob (s : State) (id : Nat) (f : JobKind → JobKind) : State :=
  s.updSpine fun sp => { sp with jobs := sp.jobs.map fun j => if j.id = id then { j with kind := f j.kind } else j }

/-- A job added; its number. -/
def State.addJob (s : State) (cmd : Option (Nat × Nat)) (k : JobKind) : State × Nat :=
  let id := s.spine.nextJob
  (s.updSpine fun sp => { sp with jobs := sp.jobs ++ [{ id, cmd, kind := k }], nextJob := id + 1 }, id)

def State.dropJob (s : State) (id : Nat) : State :=
  s.updSpine fun sp => { sp with jobs := sp.jobs.filter fun j => j.id != id }

/-- A job ended, its command completed. -/
def finishJob (id : Nat) (code : BitVec 8) (result : Nat) (s : State) : State :=
  match s.job id with
  | none => s
  | some j =>
    let s := s.dropJob id
    match j.cmd with
    | some c => completeCmd c.1 c.2 code result s
    | none => s

/-- A MODE_SET to MCA ends when no transaction granted early to its partition is left (06 R166). -/
def modeSetEnded (n t : Nat) (s : State) : State :=
  eachOf s.spine.jobs (fun j s => match j.kind with
    | .modeSet w =>
      let w' := w.filter fun x => x != (n, t)
      if w'.length = w.length then s
      else if w'.isEmpty then finishJob j.id ccOK 0 s
      else s.updJob j.id fun _ => .modeSet w'
    | _ => s) s

end Sys2Proof.Machine
end

