-- ==== Sys2Proof/Machine/Requester.lean ====
section
/-! DEFINITION. The spine requesters (11 R285): window line operations, one at a time for each function, each after a drain
(06 R168, R171). -/

namespace Sys2Proof.Machine

/-! ### Window line operations -/

/-- The front request changed. -/
def updWin (fn : Nat) (f : WinReq → WinReq) (s : State) : State :=
  s.updFn fn fun x => { x with win := match x.win with | r :: l => f r :: l | [] => [] }

/-- The opcode of an operation: WrFull when it enables all 64 bytes. -/
def WinOp.op (o : WinOp) : Op := if !o.write then .rdOnce else if o.mask = fullMask then .wrFull else .wrPart

/-- The operation sent to the home slice of its line, with RQTX q: that of its drain's copies, if it had one (06 R171). -/
def sendOp (fn : Nat) (o : WinOp) (q : BitVec 10) (s : State) : State :=
  let b := bucketOf o.line
  let s := tableCheck tblMaster b s
  let e := s.master b
  let s := s.updFn fn fun x => { x with winRqtx := q, winSt := .sent q }
  s.send { op := o.op, src := fnNode fn, dst := sliceNode e.slice, gen := e.gen, rqtx := q, tid := (s.fn fn).wtid,
           ord := 1, addr := o.line }

/-- A slice that discards DrainW copies; they count as answered (13 R337, R340). -/
def State.lostSlice (s : State) (n : Nat) : Bool := (s.slice n).conds.phase = .hold || (s.slice n).conds.phase = .off

/-- An operation begins: a drain, then the message. Its RQTX is the next one after that of the last. DESIGN CHOICE (log 114). -/
def startOp (fn : Nat) (o : WinOp) (s : State) : State :=
  let x := s.fn fn
  let l := s.sliceNums.filter fun n => bit x.winDrain n && !s.lostSlice n
  let q := x.winRqtx + 1
  if l.isEmpty then sendOp fn o q (s.updFn fn fun x => { x with winDrain := 0 })
  else
    let s := s.updFn fn fun x => { x with winRqtx := q, winSt := .draining l }
    eachOf l (fun n s => s.send { op := .drainW, src := fnNode fn, dst := sliceNode n, rqtx := q }) s

/-- The requests of a function carried on, in order, up to the next operation to send (11 R285, R286, R288). -/
def winAdvance (fn : Nat) : Nat → State → State
  | 0, s => s
  | fuel + 1, s =>
    let x := s.fn fn
    if x.winSt != .idle then s
    else
      let pop (s : State) : State := s.updFn fn fun x => { x with win := x.win.drop 1 }
      match x.win with
      | [] => s
      | { reg := some (ca, v), dropped, .. } :: _ =>
        winAdvance fn fuel (if dropped then pop s else (pop s).emit (.readDone fn ca v))
      | r :: _ =>
        match r.ops with
        | [] => winAdvance fn fuel
            (if r.write || r.dropped then pop s else (pop s).emit (.windowRead fn r.got r.poison))
        | o :: l =>
          if o.miss then
            winAdvance fn fuel (updWin fn (fun r => { r with
              ops := l, got := r.got ++ List.replicate o.len 0, poison := r.poison ++ List.replicate o.len false }) s)
          else startOp fn o s

/-- What is left to do for a function's requests. -/
def Fn.winLeft (x : Fn) : Nat := x.win.foldl (fun k r => k + r.ops.length + 1) 1

/-- Every window line operation decoded before a mark has ended (11 R287, 12 R316). -/
def Fn.winPast (x : Fn) (mark : Nat) : Bool := !x.win.any fun r => r.reg.isNone && r.num < mark

/-- WINDOW_SYNC commands of a function that wait for nothing more completed (11 R287). -/
def syncDone (fn : Nat) (s : State) : State :=
  eachOf s.spine.jobs (fun j s => match j with
    | { id, cmd := some (f, _), kind := .windowSync mark } =>
      if f = fn && (s.fn fn).winPast mark then finishJob id ccOK 0 s else s
    | _ => s) s

def winGo (fn : Nat) (s : State) : State := syncDone fn (winAdvance fn (s.fn fn).winLeft s)

/-- The operation in flight ended (04 Table 04-8). -/
def endOp (fn : Nat) (f : WinReq → WinReq) (s : State) : State :=
  winGo fn ((updWin fn (fun r => { f r with ops := r.ops.drop 1 }) s).updFn fn fun x => { x with winSt := .idle })

/-- The operation in flight sent with RQTX q: after its drain, or again after a Rest (03 R84). -/
def resendOp (fn : Nat) (q : BitVec 10) (s : State) : State :=
  match (s.fn fn).win with
  | { ops := o :: _, .. } :: _ => sendOp fn o q s
  | _ => s

/-- A Grant for a DrainW copy from slice n. -/
def drainGrant (fn n : Nat) (left : List Nat) (s : State) : State :=
  let l := left.filter (· != n)
  if l.isEmpty then resendOp fn (s.fn fn).winRqtx (s.updFn fn fun x => { x with winDrain := 0 })
  else s.updFn fn fun x => { x with winSt := .draining l }

/-- The bytes of a read that an operation asked for. -/
def WinOp.bytes (o : WinOp) (d : Line) : List Byte := (List.range o.len).map fun i => byteOf d (o.off + i)

/-- The record of a miss at BAR4 offset x (16 Table 16-2 0x210). -/
def windowMiss (fn x : Nat) (s : State) : State :=
  s.feed spineFeed { hrec 0x210 1 (fnNode fn) (p48 fn) (p48 x) 0 with fDest := some fn }

/-- The message answers an operation that the Range Guard refused (14 R363). -/
def State.refusedOp (s : State) (m : Msg) : Bool :=
  match nodeSlice m.src with
  | some n => match s.trk n m.htrk.toNat with
    | some k => k.stage = .denied && k.src = m.dst && k.rqtx = m.rqtx
    | none => false
  | none => false

/-- The answer to the operation in flight: data and its Seal, a Grant and its DatWb, or a Rest. A silent refusal reads zeros or
drops the write, as every refused request does (14 Table 14-7), and is recorded as a miss (11 R286). Data is answered with
a Seal to the slice that it came from, which unblocks the line there (04 R111). -/
def opAnswer (fn : Nat) (o : WinOp) (m : Msg) (s : State) : State :=
  let s := if s.refusedOp m && (m.op = .datS || m.op = .grant) then windowMiss fn o.bar s else s
  let r : Msg := { op := .seal, src := fnNode fn, dst := m.src, htrk := m.htrk, rqtx := m.rqtx }
  match m.op with
  | .rest => resendOp fn (m.rqtx + 1) s
  | .datS =>
    if o.write then s
    else endOp fn (fun q => { q with
        got := q.got ++ o.bytes m.data, poison := q.poison ++ List.replicate o.len m.poison }) (s.send r)
  | .grant =>
    if o.write then
      let s := s.send { r with op := .datWb, data := o.data, bmask := if o.op = .wrPart then o.mask else 0,
                               be := if o.op = .wrPart then beOf o.mask else BitVec.allOnes 32, poison := o.poison }
      let s := match nodeSlice m.src with
        | some n => s.updFn fn fun x => { x with winDrain := setBit x.winDrain n true }
        | none => s
      endOp fn id s
    else s
  | _ => s

/-- A message for a spine requester: it answers a copy of its drain or its operation; any other is discarded. -/
def requesterAnswer (fn : Nat) (m : Msg) (s : State) : State :=
  let x := s.fn fn
  match x.winSt, x.win with
  | .draining left, _ =>
    match nodeSlice m.src with
    | some n => if m.op = .grant && m.rqtx = x.winRqtx && left.contains n then drainGrant fn n left s else s
    | none => s
  | .sent q, { ops := o :: _, .. } :: _ => if m.rqtx = q then opAnswer fn o m s else s
  | _, _ => s

/-- A slice lost to a requester: its copies count as answered, and an operation whose tracker it held is sent again
(13 R340; DEDUCED for spine requesters, log 36). -/
def loseForRequester (n fn : Nat) (s : State) : State :=
  let x := s.fn fn
  let s := s.updFn fn fun x => { x with winDrain := setBit x.winDrain n false }
  match x.winSt with
  | .draining left => if left.contains n then drainGrant fn n left s else s
  | .sent q =>
    if s.spine.pwr.getLsbD n && (s.slice n).trk.any fun kv =>
        kv.2.src = fnNode fn && kv.2.rqtx = q && (match kv.2.kind with | .msg _ => true | _ => false)
    then resendOp fn (q + 1) s else s
  | .idle => s

end Sys2Proof.Machine
end

