-- ==== Sys2Proof/Machine/Hash.lean ====
section
/-! DEFINITION. SHA-256 and CRC-32 over bytes, which 12 Table 12-8, 13 R346, 14 R372 and 17 Table 17-9 name by their
standards (FIPS 180-4; IEEE 802.3). PRESUMED (log 20): the standards lie outside the spec. -/

namespace Sys2Proof.Machine

/-! ### SHA-256 -/

/-- The round constants. -/
def shaK : List (BitVec 32) :=
[0x428a2f98#32, 0x71374491#32, 0xb5c0fbcf#32, 0xe9b5dba5#32, 0x3956c25b#32, 0x59f111f1#32, 0x923f82a4#32, 0xab1c5ed5#32] ++
  [0xd807aa98#32, 0x12835b01#32, 0x243185be#32, 0x550c7dc3#32, 0x72be5d74#32, 0x80deb1fe#32, 0x9bdc06a7#32, 0xc19bf174#32] ++
  [0xe49b69c1#32, 0xefbe4786#32, 0x0fc19dc6#32, 0x240ca1cc#32, 0x2de92c6f#32, 0x4a7484aa#32, 0x5cb0a9dc#32, 0x76f988da#32] ++
  [0x983e5152#32, 0xa831c66d#32, 0xb00327c8#32, 0xbf597fc7#32, 0xc6e00bf3#32, 0xd5a79147#32, 0x06ca6351#32, 0x14292967#32] ++
  [0x27b70a85#32, 0x2e1b2138#32, 0x4d2c6dfc#32, 0x53380d13#32, 0x650a7354#32, 0x766a0abb#32, 0x81c2c92e#32, 0x92722c85#32] ++
  [0xa2bfe8a1#32, 0xa81a664b#32, 0xc24b8b70#32, 0xc76c51a3#32, 0xd192e819#32, 0xd6990624#32, 0xf40e3585#32, 0x106aa070#32] ++
  [0x19a4c116#32, 0x1e376c08#32, 0x2748774c#32, 0x34b0bcb5#32, 0x391c0cb3#32, 0x4ed8aa4a#32, 0x5b9cca4f#32, 0x682e6ff3#32] ++
  [0x748f82ee#32, 0x78a5636f#32, 0x84c87814#32, 0x8cc70208#32, 0x90befffa#32, 0xa4506ceb#32, 0xbef9a3f7#32, 0xc67178f2#32]

/-- The initial hash value. -/
def shaInit : List (BitVec 32) :=
  [0x6a09e667#32, 0xbb67ae85#32, 0x3c6ef372#32, 0xa54ff53a#32,
   0x510e527f#32, 0x9b05688c#32, 0x1f83d9ab#32, 0x5be0cd19#32]

def rotr (x : BitVec 32) (n : Nat) : BitVec 32 := x.rotateRight n

/-- The word of four bytes, the first highest. -/
def beWord : List Byte → BitVec 32
  | [] => 0
  | b :: r => b.setWidth 32 <<< (8 * r.length) ||| beWord r

/-- k words from a list of bytes. -/
def beWords (l : List Byte) : Nat → List (BitVec 32)
  | 0 => []
  | k + 1 => beWord (l.take 4) :: beWords (l.drop 4) k

/-- The message schedule, newest word first; `fuel` words to add. -/
def shaSchedule (w : List (BitVec 32)) : Nat → List (BitVec 32)
  | 0 => w
  | fuel + 1 =>
    let g (i : Nat) := w.getD (i - 1) 0
    let s0 := rotr (g 15) 7 ^^^ rotr (g 15) 18 ^^^ (g 15 >>> 3)
    let s1 := rotr (g 2) 17 ^^^ rotr (g 2) 19 ^^^ (g 2 >>> 10)
    shaSchedule ((g 16 + s0 + g 7 + s1) :: w) fuel

/-- One round on the working variables a to h. -/
def shaRound (v : List (BitVec 32)) (kw : BitVec 32 × BitVec 32) : List (BitVec 32) :=
  let g (i : Nat) := v.getD i 0
  let s1 := rotr (g 4) 6 ^^^ rotr (g 4) 11 ^^^ rotr (g 4) 25
  let ch := (g 4 &&& g 5) ^^^ (~~~ g 4 &&& g 6)
  let t1 := g 7 + s1 + ch + kw.1 + kw.2
  let s0 := rotr (g 0) 2 ^^^ rotr (g 0) 13 ^^^ rotr (g 0) 22
  let maj := (g 0 &&& g 1) ^^^ (g 0 &&& g 2) ^^^ (g 1 &&& g 2)
  [t1 + (s0 + maj), g 0, g 1, g 2, g 3 + t1, g 4, g 5, g 6]

/-- One 64-byte block. -/
def shaBlock (h : List (BitVec 32)) (block : List Byte) : List (BitVec 32) :=
  let w := (shaSchedule (beWords block 16).reverse 48).reverse
  let v := (shaK.zip w).foldl shaRound h
  (h.zip v).map fun x => x.1 + x.2

/-- Blocks in order; `fuel` blocks. -/
def shaBlocks (h : List (BitVec 32)) (l : List Byte) : Nat → List (BitVec 32)
  | 0 => h
  | fuel + 1 => shaBlocks (shaBlock h (l.take 64)) (l.drop 64) fuel

/-- The message padded to whole blocks. -/
def shaPad (l : List Byte) : List Byte :=
  let n := l.length
  let z := (119 - n % 64) % 64
  l ++ [0x80#8] ++ List.replicate z 0#8 ++ (bytesOf (BitVec.ofNat 64 (8 * n)) 8).reverse

/-- The digest, its first byte in bits 7 to 0. -/
def sha256 (l : List Byte) : BitVec 256 :=
  let p := shaPad l
  BitVec.ofNat 256 (ofBytes ((shaBlocks shaInit p (p.length / 64)).flatMap fun w => (bytesOf w 4).reverse))

/-! ### CRC-32 -/

/-- Eight shifts of the reflected register; `k` left. -/
def crcShift (c : BitVec 32) : Nat → BitVec 32
  | 0 => c
  | k + 1 => crcShift (if bit c 0 then (c >>> 1) ^^^ 0xEDB88320#32 else c >>> 1) k

/-- CRC-32 of bytes. -/
def crc32 (l : List Byte) : BitVec 32 :=
  ~~~ l.foldl (fun c b => crcShift (c ^^^ b.setWidth 32) 8) (BitVec.allOnes 32)

end Sys2Proof.Machine
end

