-- ==== Sys2Proof/Machine/Rounds.lean ====
section
/-! DEFINITION. Snoop rounds: recording the answers (03 R85, R101), the data a
round leaves, and the answer to the requester (04 R112 to R124, 06 R163, R183, 01 R16). -/

namespace Sys2Proof.Machine

/-! ### Recording answers -/

/-- SnDone from an agent recorded (03 R85, R107): with DWB set, its DatWb is owed unless it has arrived. -/
def Round.done (r : Round) (a : Nat) (st : BitVec 3) (aux : BitVec 4) : Round :=
  let r := { r with sent := r.sent.erase a, answers := r.answers ++ ([{ agent := a, st, aux }] : List Answer) }
  if bit aux 1 then
    if r.early.contains a then { r with early := r.early.erase a } else { r with owed := r.owed ++ [a] }
  else { r with early := r.early.erase a }

/-- The round holds data from a target that has not retired meanwhile. -/
def Round.dataHeld (r : Round) : Bool := r.data.isSome && !r.gone.contains r.dataFrom

/-- DatWb of a snoop target recorded; the first one that arrives is the round's data, unless its sender has retired since with its
SnDone missing (05 Table 05-11: another target's data counts). -/
def Round.wb (r : Round) (a : Nat) (d : Line) (poison : Bool) : Round :=
  let r := if r.owed.contains a then { r with owed := r.owed.erase a } else { r with early := r.early ++ [a] }
  if r.dataHeld then r else { r with data := some (d, poison), dataFrom := a }

/-- The round awaits a DatWb of an agent: one is owed, or its SnDone is still to come. -/
def Round.awaitsWb (r : Round) (a : Nat) : Bool :=
  r.owed.contains a || (r.sent.contains a && !r.early.contains a)

/-- f applied to the one round of a tracker that p picks: its own, else its first such eviction line's. -/
def Tracker.onRound (k : Tracker) (p : Round → Bool) (f : Round → Round) : Tracker :=
  if p k.round then { k with round := f k.round }
  else match k.evict with
    | none => k
    | some e => { k with evict := some ({ e with lines := go e.lines } : Evict) }
where
  /-- The first line whose round p picks changed. -/
  go : List EvLine → List EvLine
    | [] => []
    | l :: r => if p l.round then { l with round := f l.round } :: r else l :: go r

/-! ### Reads that wait for a credit -/

/-- The waiting read of one tracker tried again: its address is checked as the MemRd would be sent (01 R16, 03 R98). A hint whose
address has no route any more is discarded without a fault (R16). -/
def retryRead (n t : Nat) (s : State) : State :=
  match s.trk n t with
  | none => s
  | some k =>
    if !k.wantRead then s
    else
      let a := lineOf k.addr
      let s := s.updTrk n t fun k => { k with wantRead := false }
      if k.kind = .msg .pfHint && (s.memDest a).node.isNone then s.updTrk n t fun k => { k with unrouted := true }
      else readMemory n t a s

/-- Every waiting read, in age order. -/
def retryReads (n : Nat) (s : State) : State := eachOf ((s.slice n).byAge.map (·.1)) (retryRead n) s

/-! ### Line data of a transaction -/

/-- Data is in or being fetched. -/
def Tracker.fetching (k : Tracker) : Bool := k.buf.isSome || k.wantRead || k.memNode.isSome || k.unrouted

/-- Some answer of the round has DFWD set. -/
def Round.forwarded (r : Round) : Bool := r.answers.any fun x => bit x.aux 2

/-- The bytes of the line buffer. -/
def Tracker.bufData (k : Tracker) : Line := match k.buf with | some d => d.1 | none => 0

/-- The data a transaction needs once its round has ended: the round's, else HLC or memory (04 R109). -/
def takeData (n t : Nat) (s : State) : State :=
  match s.trk n t with
  | none => s
  | some k =>
    match k.round.data with
    | some d => s.updTrk n t fun k => { k with buf := some d, usedData := true }
    | none => if k.fetching then s else fetchLine n t true s

/-- A tracker's own write of a whole line. -/
def wholeLine (d : Line) (poison fills own : Bool) : WriteData := { data := d, mask := fullMask, poison, fills, own }

/-- What a round that has just ended leads to. -/
def afterRound (n t : Nat) (s : State) : State :=
  match s.trk n t with
  | none => s
  | some k =>
    let a := lineOf k.addr
    match k.kind with
    | .msg op =>
      if k.fwding then
        if k.round.forwarded then s
        else takeData n t (s.updTrk n t fun k => { k with fwding := false, ans := none })
      else match k.give with
        | .line _ _ | .lineEM | .atom => takeData n t s
        | .grant _ =>
          if op = .wrPart then s.updTrk n t fun k => { k with buf := k.round.data } else s
        | .nothing => s
    | .range .inval _ => s
    | .range _ _ =>
      match k.round.data with
      | some d =>
        urge n a (writeLine n t a (wholeLine d.1 d.2 false false) (s.updTrk n t fun k => { k with usedData := true }))
      | none => s
    | .restore _ =>
      let d := k.bufData
      match (s.trk n t).bind fun k => k.look.way with
      | some w => writeLine n t a (wholeLine d false true true) (freeFine n (fineSet a) w s)
      | none => s
    | _ => s

/-- The end of the own round noticed once. -/
def endRound (n t : Nat) (s : State) : State :=
  match s.trk n t with
  | none => s
  | some k =>
    if k.stage = .live && !k.rdone && k.round.ended then
      afterRound n t (s.updTrk n t fun k => { k with rdone := true, snoopTimer := false })
    else s

/-! ### Eviction slots (02 R50 to R52) -/

/-- The lines of an ended eviction that a check-bit error met meanwhile placed in P (04 R136); the eviction left them no holder. -/
def evictedP (n t : Nat) (c : BitVec 4) (l : List EvLine) (s : State) : State :=
  eachOf (l.filter (·.toP)) (fun l s =>
    placeIn n t l.line c (fun e => if e.free then e.setP [] 0 else e.inP) s) s

/-- Dirty data returned for eviction lines written to memory, and the slot emptied when every line's round has ended
and its data is in the merging buffer. -/
def closeEvict (n t : Nat) (s : State) : State :=
  match s.trk n t with
  | none => s
  | some k =>
    match k.evict with
    | none => s
    | some e =>
      if e.quarantined then s
      else
        let ready := e.lines.filter fun l => l.round.ended && l.round.data.isSome
        let s := s.updTrk n t fun k => { k with
          usedData := k.usedData || !ready.isEmpty,
          evict := some { e with lines := e.lines.map fun l =>
            if l.round.ended then { l with round := { l.round with data := none } } else l } }
        let s := eachOf ready (fun l s =>
          match l.round.data with
          | some d => writeLine n t l.line (wholeLine d.1 d.2 true false) s
          | none => s) s
        if e.lines.all (fun l => l.round.ended) then
          let waits := match s.trk n t with
            | some k => k.pendWr.any fun p => e.lines.any fun l => l.line = p.1
            | none => true
          if waits then s
          else
            let lines := match (s.trk n t).bind (·.evict) with | some e => e.lines | none => []
            evictedP n t k.colour lines (s.updTrk n t fun k => { k with evict := none })
        else s

/-! ### The line buffer's parity (15 source 0x08) -/

/-- The line buffer checked before its data is used: failing data is treated as poisoned (07 Table 07-4). -/
def checkBuf (n t : Nat) (s : State) : State :=
  match s.trk n t with
  | none => s
  | some k =>
    match k.buf with
    | none => s
    | some d =>
      let r := injSlice n 0x08 s
      if k.bufBad != r.1 then
        (raiseSlice n 0x08 { syn := BitVec.ofNat 16 t, node := k.src, addr := lineOf k.addr, inj := r.1 } r.2).updTrk n t
          fun k => { k with buf := some (d.1, true), bufBad := false }
      else r.2

/-! ### Atomic operations (06 R181 to R183) -/

/-- Operand size in bytes. -/
def atomSize (sub : BitVec 3) : Nat := 2 ^ (bits sub 0 2).toNat

/-- The low 8 n bits of a value. -/
def lowBytes (n : Nat) (x : W64) : W64 := BitVec.ofNat 64 (x.toNat % 2 ^ (8 * n))

/-- A value of n bytes as a signed integer. -/
def signedOf (n : Nat) (x : W64) : Int :=
  let v := (lowBytes n x).toNat
  if v < 2 ^ (8 * n - 1) then (v : Int) else (v : Int) - (2 ^ (8 * n) : Nat)

/-- The operation of 06 Table 06-5 on n bytes: memory value m, operand a, compare value c. A reserved code changes
nothing; shims pass none (R181). -/
def atomOp (aux : BitVec 4) (n : Nat) (m a c : W64) : W64 :=
  let m := lowBytes n m
  let a := lowBytes n a
  match aux.toNat with
  | 0 => lowBytes n (m + a)
  | 1 => a
  | 2 => if m = lowBytes n c then a else m
  | 3 => m &&& a
  | 4 => m ||| a
  | 5 => m ^^^ a
  | 6 => if signedOf n a < signedOf n m then a else m
  | 7 => if signedOf n m < signedOf n a then a else m
  | 8 => if a.toNat < m.toNat then a else m
  | 9 => if m.toNat < a.toNat then a else m
  | _ => m

/-- The 8 bytes of a line from a byte offset. -/
def lineWord (d : Line) (off : Nat) : W64 := BitVec.ofNat 64 (d.toNat / 2 ^ (8 * off))

/-- The AtomOp of a tracker performed on its line (06 R183): the prior value and POISON of its DatAtom. -/
def performAtom (n t : Nat) (s : State) : State × (W64 × Bool) :=
  match s.trk n t with
  | none => (s, 0, true)
  | some k =>
    let a := lineOf k.addr
    match if k.unrouted then none else k.buf with
    | none => (s, 0, true)
    | some (d, poison) =>
      if poison then (s.updTrk n t fun k => { k with toP := k.look.res != .p }, 0, true)
      else if k.opPoison then
        (match k.round.data with
          | some x => writeLine n t a (wholeLine x.1 x.2 true false) s
          | none => s, 0, true)
      else
        let size := atomSize k.sub
        let off := offsetOf k.addr
        let m := lowBytes size (lineWord d off)
        let r := atomOp k.aux size m (bits k.operand 0 64) (bits k.operand 64 64)
        let mask := spanMask off size
        let d' := mergeBytes d (BitVec.ofNat 512 (r.toNat * 2 ^ (8 * off))) mask
        let w : WriteData := if k.round.data.isSome then wholeLine d' false true false
          else { data := d', mask, poison := false, fills := false, own := false }
        ((writeLine n t a w s).updTrk n t fun k => { k with atomDone := true, buf := some (d', false) }, m, false)

/-! ### The answer -/

/-- The message of a tracker to its requester (03 R71). -/
def homeMsg (n t : Nat) (k : Tracker) (op : Op) (st : BitVec 3) : Msg :=
  { op, src := sliceNode n, dst := k.src, htrk := BitVec.ofNat 8 t, rqtx := k.rqtx, sub := st }

/-- The engine that owns a line's bucket grants early, for a requester at revision 2 or later in LOCAL mode (06 R163,
13 R351). -/
def State.mayGrantEarly (s : State) (n : Nat) (k : Tracker) : Bool :=
  k.lcl && !k.soft && isCaching k.src.toNat && 2 ≤ s.agentRev k.src.toNat && s.feat n (bucketOf k.addr) 0

/-- The answer may be sent before the round ends (06 Table 06-1). -/
def State.earlyReady (s : State) (n : Nat) (k : Tracker) : Bool :=
  s.mayGrantEarly n k &&
  match k.kind, k.look.res, k.give with
  | .msg .upgrade, _, .grant _ => k.round.todo.isEmpty
  | .msg _, .s, .line .datX _ => true
  | .msg _, .coarseS, .line .datX _ => true
  | .msg _, .o, .lineEM => match k.look.fine.owner with
    | some o => k.round.dataFrom = o && k.round.data.isSome && !k.round.at o
    | none => false
  | _, _, _ => false

/-- The transaction is a report (WBK). -/
def Tracker.report (k : Tracker) : Bool := match k.kind with | .msg op => op.isWbk | _ => false

/-- The answer sent: the message recorded, with the wait for the requester's final message and its Seal timer (04 Table
04-8, Table 04-10). A retiring requester is sent nothing (09 R247). -/
def giveAnswer (n t : Nat) (m : Msg) (wantSeal wantDat : Bool) (s : State) : State :=
  let s := s.updTrk n t fun k => { k with
    ans := some (m.op, m.sub), waitSeal := wantSeal, waitDat := wantDat, sealTimer := wantSeal || wantDat,
    early := k.early || (!k.rdone && !k.report) }
  match s.trk n t with
  | some k =>
    let s := if k.silent then s else s.send m
    if k.lcl && !k.early then modeSetEnded n t s else s
  | none => s

/-- Line data sent to the requester with an opcode and STATE; unrouted reads are answered as the P row, with zeros (01
R16). Poison that memory or a buffer returned places the line in P at the end (04 R110). -/
def giveLine (n t : Nat) (k : Tracker) (op : Op) (st : BitVec 3) (s : State) : State :=
  let m := homeMsg n t k op st
  if k.unrouted then giveAnswer n t { m with op := .datS, sub := lsI, poison := true, be := BitVec.allOnes 32 } true false s
  else
    let d := k.buf.getD (0, true)
    let s := s.updTrk n t fun k => { k with
      usedData := true
      toP := k.toP || (d.2 && k.round.data.isNone && k.look.res != .p) }
    let s := checkBuf n t s
    let d := match s.trk n t with | some k => k.buf.getD d | none => d
    giveAnswer n t ({ m with data := d.1, poison := d.2 }).full true false s

/-- The answer that a tracker owes its requester, as soon as its rule lets it be sent. -/
def answer (n t : Nat) (s : State) : State :=
  match s.trk n t with
  | none => s
  | some k =>
    if k.stage != .live || k.ans.isSome then s
    else match k.kind with
      | .msg op =>
        let early := s.earlyReady n k
        match k.give with
        | .nothing => s
        | .line o st => if k.fetching && !k.wantRead && k.memNode.isNone && (k.rdone || early) then giveLine n t k o st s else s
        | .lineEM =>
          if k.rdone && (k.buf.isSome || k.unrouted) then
            giveLine n t k .datX (if k.round.data.isSome then lsM else lsE) s
          else if early then
            giveLine n t { k with buf := k.round.data } .datX lsM (s.updTrk n t fun k => { k with buf := k.round.data })
          else s
        | .grant st =>
          let m := homeMsg n t k .grant st
          if op.isWbk then giveAnswer n t m false (op = .wbDirty) s
          else if op.isWrite then (if k.rdone then giveAnswer n t m false true s else s)
          else if k.rdone || early then giveAnswer n t m true false s
          else s
        | .atom =>
          if k.rdone && (k.buf.isSome || k.unrouted) then
            let r := performAtom n t (checkBuf n t s)
            let m : Msg := { homeMsg n t k .datAtom 0 with
              data := r.2.1.setWidth 512, poison := r.2.2, be := 0xFFFF }
            giveAnswer n t m true false r.1
          else s
      | _ => s

end Sys2Proof.Machine
end

