-- ==== Sys2Proof/Machine/Ends.lean ====
section
/-! DEFINITION. How a transaction ends: the entry it leaves (04 Tables 04-2 to 04-7, 05 Table 05-1, 02 R53 to R55, 12
Table 12-10, R313), Anvil entry and contention (06 R184 to R186), holds (06 R177), drains (06 R169), the ledger class
(17 R437) and freeing the tracker (04 R127). -/

namespace Sys2Proof.Machine

/-! ### The holders a transaction leaves -/

/-- What becomes of the line: its record kept; a holder set (an owner, exclusive or not, sharers named exactly and by
group; none of them leaves the line untracked); or a group added to the loaf it stays in (02 R54). -/
inductive Fin where
  | keep
  | hold (owner : Option Nat) (excl : Bool) (l : List Nat) (v : BitVec 16)
  | inLoaf (groups : BitVec 16)
  deriving DecidableEq, Repr

/-- Untracked. -/
def Fin.free : Fin := .hold none false [] 0

/-- The agents a holder set names. -/
def Fin.names : Fin → List Nat
  | .hold (some o) _ l _ => o :: l
  | .hold none _ l _ => l
  | _ => []

/-- The holders that a resolution round leaves, with others added (02 R53). -/
def promo (r : Round) (extra : List Nat) : Fin :=
  let held := r.answers.filter fun x => x.st != lsI
  match held.find? fun x => ownish x.st with
  | some o => .hold (some o.agent) false ((held.map (·.agent)).filter (· != o.agent) ++ extra) 0
  | none => .hold none false (held.map (·.agent) ++ extra) 0

/-- The state an agent kept, from its SnDone. -/
def Round.kept (r : Round) (a : Nat) : Option (BitVec 3) := (r.answers.find? fun x => x.agent = a).map (·.st)

/-- An entry in X whose holder was snooped without being invalidated (04 Table 04-5, row X; 04 Table 04-1). -/
def finSnoopedX (k : Tracker) : Fin :=
  match k.look.fine.owner with
  | none => .keep
  | some h =>
    match k.round.kept h with
    | none => .keep
    | some st =>
      if st = lsO then .hold (some h) false [] 0
      else if st = lsS then .hold none false [h] 0
      else if st = lsI then .free
      else .keep

/-- 04 Table 04-2, with the requester as `r` (none once it is retiring, 09 R247). -/
def finRdShare (k : Tracker) (e : FineEntry) (r : List Nat) : Fin :=
  match k.look.res with
  | .i => if r.isEmpty then .keep else .hold r.head? true [] 0
  | .s => .hold none false (e.exactSharers ++ r) e.vec
  | .x =>
    match k.look.fine.owner, k.round.forwarded with
    | some h, true =>
      let st := (k.round.kept h).getD lsI
      if st = lsO then .hold (some h) false r 0
      else if st = lsI then .hold none false r 0
      else .hold none false (h :: r) 0
    | _, _ => .hold none false r 0
  | .o =>
    if k.round.forwarded then .hold k.look.fine.owner false (e.exactSharers ++ r) e.vec
    else .hold none false (e.exactSharers ++ r) e.vec
  | .coarseS => if r.isEmpty then .keep else .inLoaf (groupVec r)
  | .coarseO | .u => promo k.round r
  | .p => .keep

/-- 04 Table 04-5. -/
def finRdOnce (k : Tracker) : Fin :=
  match k.look.res with
  | .x => finSnoopedX k
  | .coarseO | .u => promo k.round []
  | _ => .keep

/-- 04 Table 04-6, and FLUSH_RANGE and INVAL_RANGE of 12 Table 12-10: the line ends untracked. -/
def finKilled (k : Tracker) : Fin :=
  match k.look.res with
  | .p | .i => .keep
  | _ => .free

/-- 12 Table 12-10, CLEAN_RANGE. -/
def finClean (k : Tracker) (e : FineEntry) : Fin :=
  match k.look.res with
  | .x => finSnoopedX k
  | .o =>
    match k.look.fine.owner with
    | some o => if k.round.kept o = some lsI then .hold none false e.exactSharers e.vec else .keep
    | none => .keep
  | .coarseO | .u => promo k.round []
  | _ => .keep

/-- The sender's role in the entry (05 Table 05-1). -/
def holdsX (k : Tracker) : Bool := k.look.res = .x && k.look.fine.owner = some k.src.toNat
def ownsO (k : Tracker) : Bool := k.look.res = .o && k.look.fine.owner = some k.src.toNat

/-- 05 Table 05-1 and 04 Table 04-7 for a report of a line with a fine entry. -/
def finReport (k : Tracker) (e : FineEntry) (op : Op) : Fin :=
  let a := k.src.toNat
  if holdsX k then .free
  else if ownsO k then (if op = .wbDirty then .hold none false e.exactSharers e.vec else .keep)
  else if (k.look.res = .s || k.look.res = .o) && !e.sfmt && e.sharers.contains a then
    .hold e.owner false (e.exactSharers.filter (· != a)) 0
  else .keep

/-- The current entry of a tracker's line: the one in the filter, or as the lookup found it. -/
def State.entryNow (s : State) (n : Nat) (k : Tracker) : FineEntry :=
  match s.fineFind n (lineOf k.addr) with
  | some w => s.fineAt n (fineSet (lineOf k.addr)) w
  | none => k.look.fine

/-- What a transaction leaves. An entry that a parity error put in U stays in U unless the transaction took every
copy; an unrouted read leaves every entry as it is (01 R16). Dirty data that the round of a retired agent's RdOwn or Upgrade took,
from the owner that it invalidated, goes nowhere: 09 R247 names only the entry, and the line is left untracked with memory as it is
(DESIGN CHOICE, log 107). -/
def State.finOf (s : State) (n : Nat) (k : Tracker) : Fin :=
  let e := s.entryNow n k
  let r := if k.silent || !isCaching k.src.toNat then [] else [k.src.toNat]
  let f := match k.kind with
    | .msg op =>
      if k.unrouted && !op.isWrite then .keep
      else if k.look.anvil then .keep
      else match op with
        | .rdShare => if k.ans = some (.datS, lsI) then .keep else finRdShare k e r
        | .rdOwn | .upgrade =>
          if k.look.res = .p || k.ans = some (.datS, lsI) then .keep else .hold r.head? true [] 0
        | .rdOnce => finRdOnce k
        | .wrFull | .wrPart | .atomOp => finKilled k
        | .wrStash => if k.stashed then .hold (some k.peer.toNat) true [] 0 else finKilled k
        | .wbDirty | .wbClean | .drop => finReport k e op
        | _ => .keep
    | .range .clean _ => finClean k e
    | .range _ _ => finKilled k
    | _ => .keep
  if e.hstate = hsU && k.look.res != .u then
    match f with
    | .hold _ true _ _ => f
    | .hold none false [] v => if v = 0 then f else .keep
    | _ => .keep
  else f

/-! ### Writing it -/

/-- The loaf of a line's region at the end of the transaction that reserved way w: the region's loaf, or, when it has
gone meanwhile, a new one in that way (04 R105). -/
def homeLoaf (n : Nat) (a : PA) (w : Nat) (c : BitVec 4) (s : State) : State × Nat :=
  match s.loafFind n a with
  | some v => (s, v)
  | none => (writeLoafW n (loafSet a) w (encLoaf { ltag := loafTag a, lstate := lfClean, colour := c }) s, w)

/-- The holders of a line recorded in its loaf: a direct placement or the fallback of a promotion (02 Table 02-7, R53
step 2). When the line is the only one present, GVEC takes the holders' groups alone; "unless it is unknown" is read as
said of LSTATE (DEDUCED, log 58). -/
def holdInLoaf (n : Nat) (a : PA) (w : Nat) (c : BitVec 4) (groups : BitVec 16) (owner : Bool) (s : State) : State :=
  let x := homeLoaf n a w c s
  let l := x.1.loafAt n (loafSet a) x.2
  if l.pres = setBit 0 (lineInLoaf a) true then
    writeLoafW n (loafSet a) x.2 (encLoaf { l with
      gvec := groups,
      lstate := if l.lstate = lfUnknown then lfUnknown else if owner then lfOwner else lfClean })
      (noteReport n a groups owner x.1)
  else addToLoaf n a x.2 groups owner x.1

/-- The fine entry of a holder set, from the entry it replaces. -/
def entryOf (e : FineEntry) (owner : Option Nat) (excl : Bool) (l : List Nat) (v : BitVec 16) : FineEntry :=
  let e := { e with anvil := false, stash := e.stash && e.hstate != hsU }
  match owner with
  | some o => if excl then e.setX o else e.setO o l v
  | none => e.setS l v

/-- The requester got a copy to keep. -/
def Tracker.keeps (k : Tracker) : Bool :=
  k.stashed ||
  (isCaching k.src.toNat && match k.ans with
    | some (.datX, _) | some (.datO, _) | some (.datFwd, _) => true
    | some (.datS, st) => st = lsS
    | some (.grant, st) => st = lsE || st = lsM
    | _ => false)

/-- STASH and HPF of an entry that a tracker's transaction writes: STASH stays until another agent has been granted the line
(04 R120, R121, 07 R197). -/
def Tracker.hints (k : Tracker) (old new : FineEntry) : FineEntry :=
  let other := k.keeps && old.slot0 != k.src.toNat
  { new with stash := k.stashed || (new.stash && !other), hpf := new.hpf || k.fromPfu }

/-- The elements of l added in order to a list without repeats. -/
def addEach (r : List Nat) : List Nat → List Nat
  | [] => r
  | x :: l => addEach (addNew r x) l

/-- The groups that a line's loaf gives for it, if its presence bit is set. -/
def State.loafGroups (s : State) (n : Nat) (a : PA) : BitVec 16 :=
  match s.loafFind n a with
  | some w => if bit (s.loafAt n (loafSet a) w).pres (lineInLoaf a) then (s.loafAt n (loafSet a) w).gvec else 0
  | none => 0

/-- A tracker's line written in P: the entry that its transaction would have written, with HSTATE P (04 R132, R136). -/
def writePoison (n t : Nat) (k : Tracker) (f : Fin) (s : State) : State :=
  let a := lineOf k.addr
  let s := unpin n a s
  match f with
  | .hold owner excl l v => placeIn n t a k.colour (fun e => (k.hints e (entryOf e owner excl (addEach [] l) v)).inP) s
  | .inLoaf g =>
    let v := s.loafGroups n a ||| g
    placeIn n t a k.colour (·.setP [] v) s
  | .keep =>
    let v := s.loafGroups n a
    placeIn n t a k.colour (fun e => if e.free then e.setP [] v else e.inP) s

/-- A holder set written for a tracker's line: its own entry, the reserved way or loaf, or P (04 R136). -/
def writeHold (n t : Nat) (k : Tracker) (f : Fin) (toP : Bool) (s : State) : State :=
  let a := lineOf k.addr
  if toP then writePoison n t k f s
  else match f with
  | .hold owner excl l v =>
    let l := addEach [] l
    if owner.isNone && l.isEmpty && v = 0 then
      match s.fineFind n a with
      | some w => freeFine n (fineSet a) w s
      | none => clearPres n a s
    else
      match s.fineFind n a, k.resv with
      | some w, _ =>
        let e := s.fineAt n (fineSet a) w
        writeFine n a w (k.hints e (entryOf e owner excl l v)) s
      | none, .way w =>
        writeFine n a w (k.hints {} (entryOf { colour := k.colour } owner excl l v)) (clearPres n a s)
      | none, .loaf w => holdInLoaf n a w k.colour (groupVec f.names ||| v) owner.isSome s
      | none, .none => s
  | .inLoaf g =>
    match s.loafFind n a with
    | some w => addToLoaf n a w g false s
    | none => s
  | .keep => s

/-- In BROADCAST a transaction changes no entry (13 R344). -/
def writeFin (n t : Nat) (k : Tracker) (f : Fin) (toP : Bool) (s : State) : State :=
  if (s.slice n).mode = .broadcast then s else writeHold n t k f toP s

/-- The settle of a report ended (02 R55 steps 2 to 4). -/
def endSettle (n t : Nat) (k : Tracker) (s : State) : State :=
  let a := lineOf k.addr
  let held := k.round.answers.filter fun x => x.st != lsI
  let own := held.filter fun x => ownish x.st
  if held.isEmpty then ownSlot n (clearPres n a s)
  else if 2 ≤ own.length then
    let first := (own.map (·.agent)).headD 0
    let s := raiseSlice n 0x17 { syn := BitVec.ofNat 16 t, node := k.src, addr := a } s
    ownSlot n (placeIn n t a k.colour (fun e => { e.setP [] 0 with shr := fmt1 first k.look.loaf.gvec }) s)
  else
    match (List.range 16).find? fun w =>
        s.fineMask n t k.colour w && (s.fineAt n (fineSet a) w).free && !(s.slice n).reservedFine (fineSet a) w with
    | some w =>
      match promo k.round [] with
      | .hold o _ l v =>
        let x := o.isSome && (own.map (·.st)).head? != some lsO && l.isEmpty
        touchFine n k.req w
          (ownSlot n (writeFine n a w (entryOf { colour := k.colour } o x l v) (clearPres n a s)))
      | _ => s
    | none => s

/-! ### Contention and Anvil (06 R184 to R186) -/

/-- An event counted for a line. -/
def countLine (n : Nat) (a : PA) (s : State) : State :=
  let now := (s.slice n).us
  s |> withPeer n fun sl =>
    match sl.contention.find? fun c => c.line = a with
    | some c =>
      let c := if s.spine.anvil.window ≤ now - c.start then { c with count := 1, start := now }
        else { c with count := c.count + 1 }
      { sl with contention := (sl.contention.filter fun x => x.line != a) ++ [c] }
    | none =>
      let l := if sl.contention.length < 32 then sl.contention else sl.contention.drop 1
      { sl with contention := l ++ ([{ line := a, count := 1, start := now }] : List Contention) }

/-- The events of R184 for a transaction that ends: a new holder in place of an X or O holder, or an AtomOp. -/
def countEvents (n : Nat) (k : Tracker) (f : Fin) (s : State) : State :=
  let moved := match f with
    | .hold (some o) true _ _ => k.look.fine.owner.isSome && k.look.fine.owner != some o
    | _ => false
  if k.soft then s
  else if moved || k.kind = .msg .atomOp then countLine n (lineOf k.addr) s
  else s

/-- The HLC way that may be pinned for a line in a colour's mask: the one that holds it, else a fill victim. -/
def State.pinWay (s : State) (n t : Nat) (a : PA) (c : BitVec 4) : Option Nat :=
  let set := hlcSet a
  if 2 ≤ ((List.range 8).filter fun w => (s.slice n).pin set w).length || 32 ≤ (s.pinned n).length then none
  else match s.hlcFind n a with
    | some w => if s.hlcMask n t c w then some w else s.hlcVictim n t a c
    | none => s.hlcVictim n t a c

/-- The line meets R185 at the end of its AtomOp, allocation aside; `buf` must hold good data for the pinned way. -/
def State.anvilReady (s : State) (n : Nat) (k : Tracker) : Bool :=
  let a := lineOf k.addr
  let sl := s.slice n
  k.kind = .msg .atomOp && k.buf.any (fun d => !d.2) && !k.unrouted && !k.look.anvil && s.spine.anvil.enable && !k.toP &&
  k.look.res != .p && k.look.res != .u && !sl.cooldowns.contains a && !k.noAnvil &&
  s.feat n (bucketOf a) 1 &&
  (match sl.contention.find? fun c => c.line = a with
    | some c => s.spine.anvil.threshold ≤ c.count && sl.us - c.start < s.spine.anvil.window
    | none => false)

/-- Anvil entry (R186): the line's fine entry kept with its colour, or one allocated, and the HLC way pinned. None when
the line does not enter. -/
def enterAnvil (n t : Nat) (k : Tracker) (s : State) : Option State :=
  let a := lineOf k.addr
  if !s.anvilReady n k || (s.slice n).mode = .broadcast then none
  else match s.pinWay n t a k.colour with
    | none => none
    | some hw =>
      let r : State × Option (Nat × FineEntry) := match s.fineFind n a with
        | some w => (s, some (w, s.fineAt n (fineSet a) w))
        | none =>
          let r := allocFine n t a (s.fineMask n t k.colour) k.colour (some k.colour) 17 (clearPres n a s)
          (r.1, r.2.map fun w => (w, { colour := k.colour }))
      match r with
      | (s, some (w, e)) =>
        let s := writeFine n a w
          { e with hstate := hsI, anvil := true, sfmt := false, shr := 0, stash := false, hpf := false } s
        let s := match s.hlcFind n a with
          | some w => if w = hw then touchHlc n (some k.colour) w s
            else fillHlc n a hw k.bufData false (some k.colour) (dropCopy n a s)
          | none => fillHlc n a hw k.bufData false (some k.colour) s
        some (s.updSlice n fun sl => sl.putFlags (hlcSet a) hw true false)
      | (_, none) => none

/-- The line's record written as its transaction leaves it: in Anvil mode, else as a holder set or in P. -/
def leaveEntry (n t : Nat) (k : Tracker) (f : Fin) (toP : Bool) (s : State) : State :=
  match enterAnvil n t { k with toP } s with
  | some s => s
  | none => writeFin n t k f toP s

/-! ### Holds (06 R177) -/

/-- The hold of a RdOwn with HOLD 1 that has ended, whatever it left. A RdOwn that a timer ends records none: no Seal of
it arrives from which the hold's time could run (DESIGN CHOICE, log 59). -/
def recordHold (n : Nat) (k : Tracker) (s : State) : State :=
  let a := lineOf k.addr
  if k.kind = .msg .rdOwn && k.hold && !k.soft && isCaching k.src.toNat && !k.silent && s.agentRev k.src.toNat = 3 then
    s.updSlice n fun sl =>
      let l := sl.holds.filter fun h => h.line != a
      if l.length < 64 then { sl with holds := l ++ ([{ line := a, agent := k.src.toNat }] : List Hold) } else sl
  else s

/-! ### Freeing the tracker (04 R127, 02 R454) -/

/-- A tracker whose transaction has ended freed, unless its eviction slot, a quarantine or a write that waits for the
merging buffer still holds it. -/
def freeIfDone (n t : Nat) (s : State) : State :=
  match s.trk n t with
  | none => s
  | some k =>
    if k.stage = .ended && k.evict.isNone && k.quar.isEmpty && k.pendWr.isEmpty then s.updSlice n (·.dropTrk t) else s

/-- The U line of a completed census, left to the tracker that blocked it (02 R61). -/
def completeFine (n : Nat) (a : PA) (s : State) : State :=
  match s.fineFind n a with
  | none => s
  | some w =>
    let e := s.fineAt n (fineSet a) w
    if e.hstate != hsU then s
    else
      let e0 := { e with stash := false }
      if e.stash then
        if e.gvec = 0 then writeFine n a w (e0.setX e.slot0) s else writeFine n a w (e0.setO e.slot0 [] e.gvec) s
      else if e.gvec = 0 then freeFine n (fineSet a) w s
      else writeFine n a w (e0.setS [] e.gvec) s

/-- The reported lines of an unknown loaf that are still present in it: a line that a request resolved meanwhile is not
set again (02 R36, Table 02-8). -/
def LoafReport.pres (r : Option LoafReport) (l : LoafEntry) : BitVec 8 :=
  match r with
  | some r => r.lines &&& l.pres
  | none => 0

/-- An unknown loaf rewritten from the reports of its region; while trackers block lines of `kept`, it stays unknown with
those lines and the reported ones (02 R61). -/
def completeLoaf (n : Nat) (c : Census) (kept : List PA) (p : Nat × Nat) (s : State) : State :=
  let l := s.loafAt n p.1 p.2
  let r := c.reports.find? fun r => r.region = l.region p.1
  let mine := (l.lines p.1).filter kept.contains
  let pres := LoafReport.pres r l
  if !mine.isEmpty then
    writeLoaf n p.1 p.2 { l with pres := mine.foldl (fun v a => setBit v (lineInLoaf a) true) pres } s
  else
    writeLoaf n p.1 p.2 { l with
      pres, gvec := (r.map (·.groups)).getD 0,
      lstate := if (r.map (·.owners)).getD 0 &&& pres ≠ 0 then lfOwner else lfClean } s

/-- The completion step of one line of census c: its U entry, or its unknown loaf with what others still block. -/
def completeLine (n : Nat) (a : PA) (c : Census) (s : State) : State :=
  let s := completeFine n a s
  match s.loafFind n a with
  | some w =>
    if (s.loafAt n (loafSet a) w).lstate = lfUnknown then
      completeLoaf n c (c.left.filter (· != a)) (loafSet a, w) s
    else s
  | none => s

/-- The completion steps that waited for a line's tracker. -/
def censusLeft (n : Nat) (a : PA) (s : State) : State :=
  match (s.slice n).census.find? fun c => c.left.contains a with
  | some c =>
    let s := completeLine n a c s
    s.updSlice n fun sl => { sl with
      census := (sl.census.map fun c => { c with left := c.left.filter (· != a) }).filter fun c =>
        !(c.left.isEmpty && (sl.census.any fun d => d.bucket = c.bucket && d.left.contains a)) }
  | none => s

/-- The completion steps that waited for the holds of some lines, where no hold is left and no tracker blocks the line (06 R178). -/
def holdsEnded (n : Nat) (l : List PA) (s : State) : State :=
  eachOf l (fun a s =>
    if (s.slice n).heldLine a || (s.slice n).trk.any fun kv => kv.2.blocks a then s else censusLeft n a s) s

/-- A line that a retire's scrub passed over while it was blocked, or that no transaction has written since: its entry passes through
Table 09-4 now (09 R248). -/
def scrubLeft (n : Nat) (a : PA) (s : State) : State :=
  match s.fineFind n a with
  | some w =>
    let e := s.fineAt n (fineSet a) w
    if (s.slice n).mode != .broadcast && (scrubAll s.scrubbing e).1 != e then writeFine n a w e s else s
  | none => s

/-- The transaction of a tracker ended: it serves and blocks nothing more. Its held loaf is written invalid if nothing
is present. -/
def closeTrk (n t : Nat) (s : State) : State :=
  match s.trk n t with
  | none => s
  | some k =>
    let s := s.updTrk n t fun k => { k with
      stage := .ended, resv := .none, heldLoaf := none, pfWay := none, snoopTimer := false, sealTimer := false,
      memTimer := false, stashTimer := false, waitSeal := false, waitDat := false, waitStash := false,
      wantRead := false }
    let s := match k.heldLoaf with
      | some x =>
        let l := s.loafAt n (x / 8) (x % 8)
        if l.lstate != 0 && l.pres = 0 then writeLoafW n (x / 8) (x % 8) 0 s else s
      | none => s
    let s := if k.lcl then modeSetEnded n t s else s
    let a := lineOf k.addr
    let s := if k.lineUser && k.stage != .chain then scrubLeft n a s else s
    freeIfDone n t (if (s.slice n).holds.any fun h => h.line = a then s else censusLeft n a s)

/-- Transaction time accumulated for LAT, over REQ transactions (08 R233). -/
def addLat (n : Nat) (k : Tracker) (s : State) : State :=
  match k.kind with
  | .msg op =>
    if op.isReq && op != .pfHint then
      s.updSlice n fun sl => { sl with temper := { sl.temper with
        latSum := sl.temper.latSum + (sl.hclk - k.start), latN := sl.temper.latN + 1 } }
    else s
  | _ => s

/-- The ledger class of a transaction that has ended (17 Table 17-6); a hint that ends so is a discarded one. -/
def Tracker.class (k : Tracker) : Bill :=
  if k.atomDone then .atom else if k.usedData then .data else if k.kind = .msg .pfHint then .lookup else .nodata

/-- A range line ended: its job's counts (12 R311, Table 12-9). -/
def rangeLine (job : Nat) (f : JobKind → JobKind) (s : State) : State :=
  let s := s.updJob job f
  match s.job job with
  | some { kind := .range _ next stop out count part redo, .. } =>
    if stop ≤ next && out = 0 && redo.isEmpty then finishJob job (if part then ccPARTIAL else ccOK) count s else s
  | _ => s

/-- The end of a range or restore line for its job. -/
def endOrder (k : Tracker) (toP : Bool) (s : State) : State :=
  let lost := k.round.data.isSome && (match s.memDest (lineOf k.addr) with | .unrouted | .hole => true | _ => false)
  match k.kind with
  | .range r job =>
    let hit : Bool := match r with
      | .inval => k.round.answers.any fun x => bit x.aux 3
      | _ => k.look.res = .p || toP
    rangeLine job (fun
      | .range r next stop out count part redo =>
        .range r next stop (out - 1) (if hit then count + 1 else count) (part || toP || (lost && r != .inval)) redo
      | j => j) s
  | .restore job => finishJob job ccOK 0 s
  | _ => s

/-- The retire scrub of a line in a may-hold-owner loaf ended (09 R249): P unless some target reports E, O or M. -/
def endScrub (n t agent : Nat) (k : Tracker) (s : State) : State :=
  if k.look.res != .coarseO || k.round.answers.any (fun x => ownish x.st) then s
  else
    let s := placeIn n t (lineOf k.addr) k.look.loaf.colour
      (fun e => { e.setP [] 0 with shr := fmt1 agent k.look.loaf.gvec }) s
    s.updSpine fun sp => { sp with jobs := sp.jobs.map fun j => match j.kind with
      | .agentRetire sh p auto => if sh = agent then { j with kind := .agentRetire sh (p + 1) auto } else j
      | _ => j }

/-- A holder set with agents added, named exactly and by group. -/
def withHolder (f : Fin) (l : List Nat) (v : BitVec 16) : Fin :=
  if l.isEmpty && v = 0 then f
  else match f with
    | .hold o _ m w => .hold o false (addEach m l) (w ||| v)
    | .inLoaf g => .inLoaf (g ||| groupVec l ||| v)
    | .keep => .hold none false l v

/-- The holders that a tracker's line has now, by its entry or its loaf. -/
def State.heldFin (s : State) (n : Nat) (k : Tracker) : Fin :=
  let e := s.entryNow n k
  if (s.fineFind n (lineOf k.addr)).isSome then
    if e.hstate = hsX || e.hstate = hsO then .hold e.owner false e.exactSharers e.vec
    else if e.hstate = hsS then .hold none false e.exactSharers e.vec
    else if e.hstate = hsU then .hold (if e.stash then some e.slot0 else none) false [] e.gvec
    else .keep
  else .hold none false [] (s.loafGroups n (lineOf k.addr))

/-- A transaction of a retired agent whose final message never comes, once its round has ended: a write or AtomOp that is
answered, or a read for ownership whose data a forwarding snoop has sent to the agent. It ends as by a Seal timeout with
the agent named (05 Table 05-11; for the forwarded read DEDUCED, log 60). -/
def Tracker.orphan (k : Tracker) : Bool :=
  k.silent && ((k.ans.isSome && (k.waitDat || k.ans.map (·.1) = some .datAtom)) ||
    (k.fwding && k.rdone && k.round.forwarded && (k.kind = .msg .rdOwn || k.kind = .msg .upgrade)))

/-- What an orphan leaves: P, its agent named; a line that was in P stays as it is (04 R137). -/
def State.orphanFin (s : State) (n : Nat) (k : Tracker) : Fin :=
  let who := if isCaching k.src.toNat then [k.src.toNat] else []
  match s.finOf n k with
  | .keep => if k.look.res = .p then .keep else withHolder (s.heldFin n k) who 0
  | f => withHolder f who 0

/-- The transaction of tracker t ended: everything that Table 04-8's end brings. -/
def endTx (n t : Nat) (s : State) : State :=
  match s.trk n t with
  | none => s
  | some k =>
    let s := if k.orphan then
        raiseSlice n 0x12 { syn := BitVec.ofNat 16 t, node := k.src, addr := lineOf k.addr } s
      else s
    let k := if k.orphan then { k with toP := k.look.res != .p } else k
    let f := if k.orphan then s.orphanFin n k else s.finOf n k
    let coarse := k.look.res = .coarseS || k.look.res = .coarseO
    let s := countEvents n k (if k.toP then .keep else f) s
    let s := if k.report && coarse && !k.toP && (s.slice n).mode != .broadcast then endSettle n t k s
      else leaveEntry n t k f k.toP s
    let s := match k.kind with
      | .scrubLine agent => endScrub n t agent k s
      | .range .clean _ => s
      | .range _ _ => if k.look.res = .p then s else dropCopy n (lineOf k.addr) s
      | _ => s
    let s := recordHold n k s
    let s := endOrder k k.toP s
    let s := addLat n k (bill n k.class s)
    closeTrk n t s

/-! ### When a transaction ends (04 Table 04-8) -/

/-- The line has no merging-buffer entry (12 Table 12-10). -/
def Slice.noMb (sl : Slice) (a : PA) : Bool := !sl.mb.any fun kv => kv.2.st != .free && kv.2.line = a

/-- Every message that the transaction waits for has arrived. -/
def Slice.complete (sl : Slice) (k : Tracker) : Bool :=
  k.stage = .live && k.rdone && k.pendWr.isEmpty && (k.orphan || go)
where
  /-- What each kind of work waits for. -/
  go : Bool :=
  match k.kind with
  | .msg op =>
    if op.sealed then (k.ans.isSome || k.fwding) && k.sealGot
    else match op with
      | .wrFull | .wrPart => k.ans.isSome && k.datDone
      | .wrStash => k.datDone || (k.stashed && k.sealGot)
      | .wbDirty => k.ans.isSome && k.datDone
      | .wbClean | .drop => k.ans.isSome
      | .pfHint => k.unrouted
      | _ => false
  | .range .inval _ => true
  | .range _ _ => sl.noMb (lineOf k.addr)
  | .restore _ => k.datDone
  | .scrubLine _ => true
  | _ => false

/-! ### Drains (06 R169, Table 06-2) -/

/-- The transaction of a tracker has passed its point for a drain. -/
def Tracker.passed (k : Tracker) : Bool :=
  match k.kind with
  | .msg op =>
    if k.stage = .ended then true
    else if op = .rdOwn || op = .upgrade then k.stage = .denied || (k.stage = .live && k.rdone)
    else if op.isWrite then k.ans.isSome && !k.waitDat
    else if op = .atomOp then k.stage = .denied || (k.ans.isSome && k.pendWr.isEmpty)
    else true
  | _ => true

/-- The DrainW of tracker d may be answered. -/
def Slice.drained (sl : Slice) (d : Tracker) : Bool :=
  sl.trk.all fun kv => !(kv.2.src = d.src && kv.2.age < d.age) || kv.2.passed

/-- Every DrainW that waits for nothing more answered with Grant STATE I. -/
def drainCheck (n : Nat) (s : State) : State :=
  eachOf ((s.slice n).trk.filter fun kv => kv.2.kind = .msg .drainW && kv.2.stage = .live) (fun kv s =>
    if (s.slice n).drained kv.2 then
      addLat n kv.2 (bill n .lookup ((s.send (homeMsg n kv.1 kv.2 .grant lsI)).updSlice n (·.dropTrk kv.1)))
    else s) s

/-- A transaction that ends with no write of its entry (a Rest, a hint): a line that a check-bit error met meanwhile sends to P
enters it as the transaction ends, naming the holders of the entry found (04 R136, 07 Table 07-4). -/
def leavePoison (n t : Nat) (s : State) : State :=
  match s.trk n t with
  | some k => if k.toP then writeFin n t k .keep true s else s
  | none => s

/-- A transaction closed, with the drains that waited for it. -/
def endTrk (n t : Nat) (s : State) : State := drainCheck n (closeTrk n t s)

/-! ### The P row of a table -/

/-- The requester answered as if the lookup result had been P (04 R131, R133), unless it has been answered; the final
message that it still owes. -/
def answerP (n t : Nat) (s : State) : State × List (Nat × Owed) :=
  match s.trk n t with
  | none => (s, [])
  | some k =>
    let lost := Config.lostData (lineOf k.addr)
    let fin : List (Nat × Owed) := [(k.src.toNat, .seal)]
    let wb : List (Nat × Owed) := [(k.src.toNat, .reqDatWb)]
    match k.kind with
    | .msg op =>
      if op.sealed then
        if k.sealGot then (s, [])
        else if k.early then (s, fin)
        else
          let m : Msg := if op = .atomOp then { homeMsg n t k .datAtom 0 with poison := true, be := 0xFFFF }
            else ({ homeMsg n t k .datS lsI with data := lost, poison := true }).full
          if k.silent then (s, []) else (s.send m, fin)
      else if op.isWrite then
        if k.ans.isSome then (s, if k.waitDat then wb else [])
        else if k.silent then (s, []) else (s.send (homeMsg n t k .grant lsI), wb)
      else (s, if k.waitDat then wb else [])
    | _ => (s, [])

/-- What a round that is given up still owes (04 R135). -/
def Round.owes (r : Round) : List (Nat × Owed) :=
  (r.sent.map fun a => (a, if r.early.contains a then Owed.snDoneOnly else .snDone)) ++
  r.owed.map fun a => (a, .datWb)

/-- The targets of a round that have not answered, in the order in which their snoops were listed. -/
def Round.late (r : Round) : List Nat :=
  (r.all.map (·.1)).filter fun a =>
    r.sent.contains a || r.owed.contains a || r.gone.contains a || r.todo.any fun p => p.1 = a

/-- The memory data that a tracker still awaits. -/
def Tracker.owesMem (k : Tracker) : List (Nat × Owed) :=
  match k.memNode with
  | some x => [(x.toNat, .memDat)]
  | none => []

/-- A transaction ended with its line in P as a holder set, and its tracker quarantined; what waits for the merging buffer, its
eviction's data, goes on waiting (02 R52). -/
def endInP (n t : Nat) (k : Tracker) (f : Fin) (owed : List (Nat × Owed)) (s : State) : State :=
  let s := writeFin n t k f true (countEvents n k .keep s)
  let s := addLat n k (bill n k.class s)
  let s := s.updTrk n t fun k => { k with
    toP := true, round := {}, memNode := none, quar := k.quar ++ owed }
  endTrk n t (endOrder k true s)

/-- The holders that 04 R131 names: every target that the line's record named before, in the role it had, and every
target that has not answered; after an early grant the requester and the targets that have not answered (06 R165). -/
def timeoutFin (k : Tracker) : Fin :=
  let t := k.round.all.map (·.1)
  let late := k.round.late
  let e := k.look.fine
  let groups (v : BitVec 16) : BitVec 16 := groupVec (t.filter fun a => bit v (groupOf a))
  if k.early then .hold none false (if isCaching k.src.toNat then addNew late k.src.toNat else late) 0
  else match k.look.res with
    | .p => .keep
    | .i => .hold none false late 0
    | .coarseS | .coarseO => .hold none false late (groups k.look.loaf.gvec)
    | .u =>
      if k.look.way.isSome then
        .hold (if e.stash && t.contains e.slot0 then some e.slot0 else none) false late (groups e.gvec)
      else .hold none false late (if k.look.lway.isSome then groups k.look.loaf.gvec else 0)
    | .s | .x | .o =>
      .hold (e.owner.filter t.contains) false (e.exactSharers.filter t.contains) (groups e.vec)

/-- The own round of tracker t given up as by its snoop-response timer, with the line in P as a holder set: the fault
names the first agent of `who` (04 R131). -/
def roundTimedOut (n t : Nat) (who : List Nat) (f : Fin) (s : State) : State :=
  match s.trk n t with
  | none => s
  | some k =>
    let s := raiseSlice n 0x11
      { syn := BitVec.ofNat 16 t, node := BitVec.ofNat 9 (who.headD 0), addr := lineOf k.addr } s
    let r := answerP n t s
    endInP n t k f (k.round.owes ++ k.owesMem ++ r.2) r.1

/-! ### Rounds that wait on a retired agent (05 Table 05-11) -/

/-- Some target of a round that has not retired returned the line's data. -/
def Round.hasData (r : Round) : Bool := r.dataHeld || r.forwarded

/-- Every target but the retired ones of `gone` has answered. -/
def Round.rest (r : Round) : Bool := !r.gone.isEmpty && r.todo.isEmpty && r.sent.isEmpty && r.owed.isEmpty

/-- The retired targets counted as SnDone STATE I, HELD clear. -/
def Round.letGo (r : Round) : Round :=
  { r with gone := [], answers := r.answers ++ r.gone.map fun a => ({ agent := a, st := lsI, aux := 0 } : Answer) }

/-- The agents that answered a round that they keep the line. -/
def Round.keepers (r : Round) : List Nat := (r.answers.filter fun x => x.st != lsI).map (·.agent)

/-- Lines of tracker t's eviction slot given up as by its timer: each enters P naming the agents that `names` gives
(04 R455). -/
def linesTimedOut (n t : Nat) (k : Tracker) (who : List Nat) (l : List EvLine) (names : Round → List Nat) (s : State) :
    State :=
  let s := raiseSlice n 0x11
    { syn := BitVec.ofNat 16 t, node := BitVec.ofNat 9 (who.headD 0), addr := (l.map (·.line)).headD 0 } s
  eachOf l (fun l s => placeP n t l.line k.colour (names l.round) 0 s) s

/-- The third row of Table 05-11 for the own round of tracker t, once every other target has answered: the retired
targets' answers when the line's data came, else a timeout that names them; the targets that answered that they keep
the line are named too (DESIGN CHOICE, log 96). -/
def settleRound (n t : Nat) (s : State) : State :=
  match s.trk n t with
  | none => s
  | some k =>
    if k.stage = Stage.live && k.round.rest then
      if k.round.hasData then s.updTrk n t fun k => { k with round := k.round.letGo }
      else roundTimedOut n t k.round.gone (.hold none false (addEach k.round.gone k.round.keepers) 0) s
    else s

/-- The same for a line of an eviction slot: lost, or with the retired targets' answers. -/
def EvLine.lostGone (l : EvLine) : Bool := l.round.rest && !l.round.hasData
def EvLine.settle (l : EvLine) : EvLine := if l.round.rest then { l with round := l.round.letGo } else l

/-- The third row of Table 05-11 for tracker t. -/
def settleGone (n t : Nat) (s : State) : State :=
  let s := settleRound n t s
  match s.trk n t with
  | none => s
  | some k =>
    match k.evict with
    | none => s
    | some e =>
      if e.quarantined || !(e.lines.any fun l => l.round.rest) then s
      else
        let bad := e.lines.filter EvLine.lostGone
        let good := (e.lines.filter fun l => !l.lostGone).map EvLine.settle
        let s := s.updTrk n t fun k => { k with evict := some { e with lines := good } }
        if bad.isEmpty then s
        else linesTimedOut n t k (bad.flatMap fun l => l.round.gone) bad (fun r => addEach r.gone r.keepers) s

/-! ### Progress -/

/-- Everything that tracker t can do now: send snoops, close its eviction, notice the end of its round, answer, and
end. -/
def advance (n t : Nat) (s : State) : State :=
  let s := answer n t (endRound n t (closeEvict n t (settleGone n t (pump n t s))))
  let s := match s.trk n t with
    | some k => if (s.slice n).complete k then endTx n t s else freeIfDone n t s
    | none => s
  drainCheck n s

/-- Every tracker of a slice, in age order, after something they may all wait for was freed. A slice in HOLD starts nothing
(13 R337). -/
def sweep (n : Nat) (s : State) : State :=
  if (s.slice n).conds.phase = .hold then s
  else
    let s := retryReads n (retryWrites n s)
    eachOf ((s.slice n).byAge.map (·.1)) (advance n) s

end Sys2Proof.Machine
end

