-- ==== Sys2Proof/Machine/Decide.lean ====
section
/-! DEFINITION. Taking headers (05 R149, R150, 03 R96, R97, 14 R363, 13 R337) and the decision step of a transaction (04
R105, R112 to R125, 06 R163, R187, 07 R123, 12 R311, R313, 14 R366). -/

namespace Sys2Proof.Machine

/-! ### Messages at a slice (03 R100) -/

/-- The opcode that a header's CLASS and OPC bits name. -/
def flitOp (f : Flits) : Option Op := opOf (bits f.hdr 14 3).toNat (bits f.hdr 9 5).toNat

/-- DSTID of a header. -/
def flitDst (f : Flits) : BitVec 9 := bits f.hdr 26 9

/-- Opcodes never addressed to a home slice (03 Tables 03-8 to 03-12, Table 03-16). -/
def Op.notAtSlice (o : Op) : Bool :=
  o.cls = 2 || o = .tlbInvReq || o = .tlbSync || o = .grant || o = .rest || o = .tlbAck || o = .datS || o = .datX ||
  o = .datO || o = .datFwd || o = .datAtom

/-- The node exists in this integration: an agent with a shim, a built slice, memory port or spine requester (01 R6, R13,
03 Table 03-5). No message carries another SRCID (DEDUCED, log 85). -/
def State.nodeBuilt (s : State) (x : BitVec 9) : Bool :=
  let i := x.toNat
  if isAgent i then s.hasShim i
  else match nodeSlice x with
    | some k => k < s.par.nSlice
    | none => (0x190 ≤ i && i < 0x190 + s.par.nMport) || (0x1F0 ≤ i && i < 0x1F0 + s.par.nFunc)

/-- A well-formed message bears a node that is not built. -/
def State.alien (s : State) (f : Flits) : Bool :=
  match decode f false false with
  | .ok rx => !s.nodeBuilt rx.m.src
  | .error _ => false

/-- A message that slice n has accepted: the checks of 03 Table 03-16, then its handling. -/
def readSlice (n : Nat) (f : Flits) (go : Rx → State → State) (s : State) : State :=
  let h := injSlice n 0x0C s
  let flits := match flitOp f with | some o => o.dataFlits | none => 0
  let d := if !h.1 && hdrBad f.hdr = 0 then injEach (injSlice n 0x0D) flits h.2 else (false, h.2)
  let s := d.2
  match decode f h.1 d.1 with
  | .error (.header, det) => raiseSlice n 0x0C det s
  | .error (.protocol, det) => raiseSlice n 0x0E det s
  | .ok rx =>
    if rx.m.op.notAtSlice then raiseSlice n 0x0E rx.det s
    else go rx (if rx.datBad then raiseSlice n 0x0D { rx.det with inj := d.1 } s else s)

/-- A message taken from the mesh. -/
def takeFlits (f : Flits) (s : State) : State :=
  match decode f false false with
  | .ok rx => s.takeMesh rx.m
  | .error _ => s

/-- A message kept in slice n's input buffer. -/
def keepFlits (n : Nat) (f : Flits) (s : State) : State := s.updSlice n fun sl => { sl with inBuf := sl.inBuf ++ [f] }

/-- A message received by slice n, handled when `want` picks its opcode. A message for another node, or whose opcode is
another command's, changes nothing; in a pause RSP and DAT messages are accepted into the input buffer, and wait in the mesh when it
holds its 192 headers (13 R352, 17 R423); that bound holds in a pause alone (DESIGN CHOICE, log 119). -/
def rxSlice (n : Nat) (want : Op → Bool) (f : Flits) (go : Rx → State → State) (s : State) : State :=
  let mine := match flitOp f with
    | some o => want o || o.notAtSlice
    | none => true
  let header := match flitOp f with | some o => o.isReq || o.isWbk | none => false
  if flitDst f != sliceNode n || !mine || (s.slice n).conds.phase = .off || s.alien f then s
  else if s.paused n && !header then
    if (s.slice n).inBuf.length < 192 then keepFlits n f (takeFlits f s) else s
  else readSlice n f go (takeFlits f s)

/-- Rest to a header's sender. -/
def sendRest (n : Nat) (m : Msg) (reason : BitVec 4) (s : State) : State :=
  s.send { op := .rest, src := sliceNode n, dst := m.src, rqtx := m.rqtx, aux := reason }

/-- Rest reasons (03 Table 03-11). -/
def rsRetry : BitVec 4 := 0
def rsSoft : BitVec 4 := 1
def rsFreeze : BitVec 4 := 2
def rsIllegal : BitVec 4 := 3
def rsNotAdm : BitVec 4 := 4

/-- Rest FREEZE, which a PfHint never receives (05 Table 05-8): it is discarded (17 Table 17-6 LOOKUP). -/
def freeze (n : Nat) (m : Msg) (s : State) : State :=
  let s := bill n .lookup s
  if m.op = .pfHint then s else sendRest n m rsFreeze s

/-- A header passed to the new home named by a stub (05 R150); a PfHint is discarded. -/
def forward (n : Nat) (m : Msg) (peer : Nat) (s : State) : State :=
  if m.op = .pfHint then bill n .lookup s else s.send { m with fwd := true, dst := sliceNode peer }

/-! ### Trackers for headers (03 R96, R97) -/

/-- The pool a message may use now. -/
def Slice.poolFor (sl : Slice) (m : Msg) : Option Pool :=
  if m.op.isWbk then
    if sl.poolFree .wbk then some .wbk else if sl.poolFree .shared then some .shared else none
  else if sl.poolFree .shared then some .shared else none

/-- Tracker t may be allocated to a message: free, and not fenced for its requester and RQTX (05 R153). -/
def Slice.mayTake (sl : Slice) (t : Nat) (m : Msg) : Bool :=
  t < 256 && (sl.tracker t).isNone && mfind sl.fences t != some (m.src, m.rqtx)

/-- The tracker record of a message, with the tables under which it is checked and allocates (14 R375). -/
def newTracker (s : State) (n : Nat) (m : Msg) (pool : Pool) (stage : Stage) : Tracker :=
  let sl := s.slice n
  { kind := .msg m.op, pool, age := sl.allocSeq, src := m.src, rqtx := m.rqtx, tid := m.tid,
    colour := s.tidColour m.tid, addr := m.addr,
    soft := m.soft && m.op.listsSoft && isCaching m.src.toNat, hold := m.hold, sub := m.sub, aux := m.aux,
    peer := m.peer, operand := bits m.data 0 256, opPoison := m.poison, stage, start := sl.hclk,
    lcl := isCaching m.src.toNat && (s.fn (s.shim m.src.toNat).func).local_,
    masks := s.mask (s.tidColour m.tid),
    noSoft := s.noSoft m.addr, noStash := s.noStash m.addr, noAnvil := s.noAnvil m.addr }

/-- A tracker allocated: its age recorded, the bucket counted for Temper (08 R233, R236); a DrainW has none. -/
def allocTrk (n t : Nat) (k : Tracker) (s : State) : State :=
  s.updSlice n fun sl =>
    let b := bucketOf k.addr
    let now := sl.temper.bktNow
    { sl.putTrk t k with
      allocSeq := sl.allocSeq + 1,
      temper := { sl.temper with
        bktNow := if k.kind = .msg .drainW then now else mput 0 now b (mget 0 now b + 1) } }

/-- The answer to a request that fails its Range Guard check (14 Table 14-7). -/
def denyAnswer (n t : Nat) (s : State) : State :=
  match s.trk n t with
  | none => s
  | some k =>
    let m op st : Msg := homeMsg n t k op st
    match k.kind with
    | .msg op =>
      if op = .upgrade then giveAnswer n t (m .grant lsI) true false s
      else if op = .atomOp then giveAnswer n t { m .datAtom 0 with be := 0xFFFF } true false s
      else if op.isWrite then giveAnswer n t (m .grant lsI) false true s
      else giveAnswer n t (m .datS lsI).full true false s
    | _ => s

/-- The line is free for a tracker's work: nothing blocks it and no older tracker waits for it (04 R103). -/
def Slice.lineFree (sl : Slice) (a : PA) (req age : Nat) : Bool :=
  sl.openFor a req &&
  !sl.trk.any fun kv => kv.2.lineUser && kv.2.stage = .chain && lineOf kv.2.addr = a && kv.2.age < age

/-- The hold of a line ended for the agent that sends a REQ or WBK for it (06 R178). -/
def endHold (n : Nat) (m : Msg) (s : State) : State :=
  let a := lineOf m.addr
  if (s.slice n).holds.any fun h => h.line = a && h.agent = m.src.toNat then
    censusLeft n a (s.updSlice n fun sl => { sl with
      holds := sl.holds.filter fun h => !(h.line = a && h.agent = m.src.toNat) })
  else s

/-- A request or report whose bucket check passed. When no tracker that it may use is free it stays in the mesh: none. A PfHint
with fewer than 32 shared trackers free is discarded with no check (03 R97, 14 R363), one that fails its check with a record. A
line operation whose ADDR[5:0] is not 0 is taken, and serves the line that holds the byte: the spec gives it no check and no
fault (DESIGN CHOICE, log 92). -/
def allocate (n t : Nat) (m : Msg) (s : State) : Option State :=
  let sl := s.slice n
  let hintOk := sl.poolUsed .shared + 32 ≤ Pool.size .shared
  if m.op = .pfHint && (!hintOk || !s.rgPass m) then
    let s := bill n .lookup (endHold n m s)
    some (if hintOk then s.feed (sliceFeed n) (s.deniedRec n m.src m.tid m.op.code.2 m.addr none) else s)
  else
    match sl.poolFor m with
    | none => none
    | some pool =>
      if !sl.mayTake t m then none
      else
        let s := endHold n m s
        if s.rgPass m then
          let stage := if (s.slice n).lineFree (lineOf m.addr) m.src.toNat sl.allocSeq then Stage.ready else .chain
          some (allocTrk n t (newTracker s n m pool stage) s)
        else
          let f := if isSpineReq m.src.toNat then some (m.src.toNat - 0x1F0) else none
          let s := allocTrk n t (newTracker s n m pool .denied) s
          let s := s.feed (sliceFeed n) (s.deniedRec n m.src m.tid m.op.code.2 m.addr f)
          some (denyAnswer n t (bill n .lookup s))

/-- SLC_BKT[b] read with its check (15 source 0x1A): a failing entry is reloaded from the master map. -/
def readBkt (n b : Nat) (s : State) : State × BktEntry :=
  let e := s.bkt n b
  let r := injSlice n 0x1A s
  let s := r.2
  if e.bad != r.1 then
    let s := tableCheck tblMaster b (raiseSlice n 0x1A { syn := BitVec.ofNat 16 b, inj := r.1 } s)
    let g := s.master b
    let e' : BktEntry :=
      if g.slice = n then
        { e with kind := if e.kind = .frozen then .frozen else .owned, engine := g.engine, gen := g.gen, bad := false }
      else
        { e with kind := if e.kind = .stub then .stub else .none, gen := g.gen, peer := g.slice, bad := false }
    (s.setBkt n b e', e')
  else (s, e)

/-- 05 Table 05-8 for a REQ or WBK header; none when the header stays in the mesh. -/
def checkHeader (n t : Nat) (rx : Rx) (s : State) : Option State :=
  let m := rx.m
  let r := readBkt n (bucketOf m.addr) s
  let s := r.1
  let e := r.2
  let d := (e.gen - m.gen).toNat
  let wrong := freeze n m (raiseSlice n 0x0E rx.det (endHold n m s))
  match e.kind with
  | .owned => if d < 32 then allocate n t m s else some wrong
  | .frozen => some (freeze n m (endHold n m s))
  | .stub => if 1 ≤ d && d < 32 then some (forward n m e.peer s) else some wrong
  | .none => some (freeze n m (raiseSlice n 0x16 { syn := 0xFF, node := m.src, addr := m.addr, inj := rx.det.inj } s))

/-- The header would be answered Rest by its bucket's entry: in a pause it waits instead (17 R423). -/
def State.freezes (s : State) (n : Nat) (m : Msg) : Bool :=
  let e := (readBkt n (bucketOf m.addr) s).2
  let d := (e.gen - m.gen).toNat
  let hold := (s.slice n).conds.phase = .hold
  m.op != .pfHint && m.op != .drainW &&
  match e.kind with
  | .owned => hold || 32 ≤ d
  | .frozen => true
  | .stub => !hold && !(1 ≤ d && d < 32)
  | .none => !hold

/-- A slice in HOLD (13 R337). -/
def holdHeader (n : Nat) (m : Msg) (s : State) : State :=
  if m.op = .pfHint || m.op = .drainW then bill n .lookup s
  else
    let r := readBkt n (bucketOf m.addr) s
    match r.2.kind with
    | .owned | .frozen => freeze n m r.1
    | .stub => forward n m r.2.peer r.1
    | .none => r.1

/-- The sender may send the opcode (03 Table 03-8): RdShare, RdOwn, Upgrade and reports come from caching agents. -/
def senderOk (m : Msg) : Bool :=
  isCaching m.src.toNat || !(m.op = .rdShare || m.op = .rdOwn || m.op = .upgrade || m.op.isWbk)

/-- A header of the other class waits, may use a tracker, and it is that class's turn (05 R138). -/
def Slice.otherTurn (sl : Slice) (m : Msg) : Bool :=
  sl.wbkTurn != m.op.isWbk && sl.waiting.any fun w => w.op.isWbk != m.op.isWbk && (sl.poolFor w).isSome

/-- A header taken: it waits no more, and the turn passes to the other class (05 R138). -/
def headerTaken (n : Nat) (m : Msg) (s : State) : State :=
  s.updSlice n fun sl => { sl with waiting := sl.waiting.erase m, wbkTurn := !m.op.isWbk }

/-- A header that has arrived waits in the mesh channel: for a tracker of its pools, or for its class's turn. -/
def headerWaits (n : Nat) (m : Msg) (s : State) : State :=
  s.updSlice n fun sl =>
    if (sl.poolFor m).isNone || sl.otherTurn m then { sl with waiting := addNew sl.waiting m } else sl

/-- HEADER_TAKE: slice n takes a REQ or WBK header into tracker t. Spine control, whose contents the spec does not give,
reaches the slice as SPINE_CONTROL_ORDER instead, and such a header changes nothing. -/
def headerTake (n t : Nat) (f : Flits) (s : State) : State :=
  let go (rx : Rx) (s' : State) : State :=
    let m := rx.m
    if s'.paused n && senderOk m && s'.freezes n m then headerWaits n m s
    else if (s'.slice n).conds.phase = .hold then holdHeader n m s'
    else if !senderOk m then raiseSlice n 0x0E rx.det s'
    else if (s'.slice n).otherTurn m then headerWaits n m s
    else if m.op = .drainW then
      match (s'.slice n).poolFor m with
      | some pool =>
        if (s'.slice n).mayTake t m then
          drainCheck n (headerTaken n m (allocTrk n t (newTracker s' n m pool .live) s'))
        else s
      | none => headerWaits n m s
    else match checkHeader n t rx s' with
      | some s => headerTaken n m s
      | none => headerWaits n m s
  rxSlice n (fun o => (o.isReq || o.isWbk) && !o.notAtSlice && !o.spine) f go s

/-- LINE_CHAIN_START: the oldest tracker of a line's chain starts when nothing blocks the line (04 R103, 06 R178). -/
def lineChainStart (n t : Nat) (s : State) : State :=
  match s.trk n t with
  | none => s
  | some k =>
    if k.stage = .chain && (s.slice n).lineFree (lineOf k.addr) k.src.toNat k.age then
      s.updTrk n t fun k => { k with stage := .ready }
    else s

/-! ### The decision step -/

/-- What a lookup result and an opcode lead to. -/
structure Plan where
  /-- Rest with a reason, and nothing else. -/
  rest : Option (BitVec 4) := none
  /-- A hint with nothing to do. -/
  discard : Bool := false
  snoops : List (Nat × Op) := []
  give : Give := .nothing
  /-- The data read starts with the snoops. -/
  read : Bool := false
  /-- The first snoop forwards the line to the requester. -/
  fwd : Bool := false
  /-- A fine way or loaf is to be reserved (04 R105); `soft` under 02 R47. -/
  resv : Bool := false
  deriving DecidableEq, Repr

/-- The same snoop to some agents. -/
def snoopAll (l : List Nat) (op : Op) : List (Nat × Op) := l.map fun a => (a, op)

/-- The P row of a read's table. -/
def planP : Plan := { give := .line .datS lsI }

/-- 04 Table 04-2. -/
def planRdShare (s : State) (n : Nat) (k : Look) (req : Nat) : Plan :=
  match k.res with
  | .i => { give := .line .datX lsE, read := true, resv := true }
  | .s | .coarseS => { give := .line .datS lsS, read := true }
  | .x | .o =>
    match s.ownerTarget n k req with
    | some h => { snoops := [(h, .snFwdShare)], give := .line .datS lsS, fwd := true }
    | none => { give := .line .datS lsS }
  | .p => planP
  | .coarseO | .u =>
    { snoops := snoopAll (s.lookTargets n k req) .snShare, give := .line .datS lsS, resv := k.way.isNone }

/-- 04 Table 04-3. -/
def planRdOwn (s : State) (n : Nat) (k : Look) (req : Nat) : Plan :=
  match k.res with
  | .i => { give := .line .datX lsE, read := true, resv := true }
  | .s => { snoops := snoopAll (s.sharerTargets n k req) .snKill, give := .line .datX lsE, read := true }
  | .x =>
    match s.ownerTarget n k req with
    | some h => { snoops := [(h, .snFwdOwn)], give := .line .datX lsE, fwd := true }
    | none => { give := .line .datX lsE }
  | .o =>
    { snoops := snoopAll (s.ownerTarget n k req).toList .snOwn ++ snoopAll (s.sharerTargets n k req) .snKill,
      give := .lineEM }
  | .p => planP
  | .coarseS =>
    { snoops := snoopAll (s.lookTargets n k req) .snKill, give := .line .datX lsE, read := true, resv := true }
  | .coarseO | .u =>
    { snoops := snoopAll (s.lookTargets n k req) .snOwn, give := .lineEM, resv := k.way.isNone }

/-- 04 Table 04-4. The rows of RdOwn that it falls back on never snoop the requester, whose own copy is not asked for even where the
record of the line does not name it: R114 has it use the data that it is sent (DEDUCED, log 104). -/
def planUpgrade (s : State) (n : Nat) (k : Look) (req : Nat) : Plan :=
  if k.res = .s && !k.fine.sfmt && k.fine.slots.contains req then
    { snoops := snoopAll (s.sharerTargets n k req) .snKill, give := .grant lsE }
  else if k.res = .o && k.fine.owner = some req then
    { snoops := snoopAll (s.sharerTargets n k req) .snKill, give := .grant lsM }
  else if k.res = .o && !k.fine.sfmt && k.fine.slots.contains req then
    { snoops := snoopAll ((s.ownerTarget n k req).toList ++ s.sharerTargets n k req) .snKill, give := .grant lsM }
  else planRdOwn s n k req

/-- 04 Table 04-5. -/
def planRdOnce (s : State) (n : Nat) (k : Look) (req : Nat) : Plan :=
  match k.res with
  | .i | .s | .coarseS => { give := .line .datS lsI, read := true }
  | .x | .o => { snoops := snoopAll (s.ownerTarget n k req).toList .snShare, give := .line .datS lsI }
  | .p => planP
  | .coarseO | .u =>
    { snoops := snoopAll (s.lookTargets n k req) .snShare, give := .line .datS lsI, resv := k.way.isNone }

/-- 04 Table 04-6: `own` is the snoop to a possible owner. -/
def writeSnoops (s : State) (n : Nat) (k : Look) (req : Nat) (own : Op) : List (Nat × Op) :=
  match k.res with
  | .i | .p => []
  | .s => snoopAll (s.sharerTargets n k req) .snKill
  | .x => snoopAll (s.ownerTarget n k req).toList own
  | .o => snoopAll (s.ownerTarget n k req).toList own ++ snoopAll (s.sharerTargets n k req) .snKill
  | .coarseS => snoopAll (s.lookTargets n k req) .snKill
  | .coarseO | .u => snoopAll (s.lookTargets n k req) own

/-- Step 1 of 04 R120: the target may be asked; STASH set in the owning engine's recipe (13 R351). -/
def State.stashOk (s : State) (n : Nat) (k : Tracker) : Bool :=
  let a := lineOf k.addr
  k.peer != k.src && ((s.slice n).rev k.peer.toNat).any (2 ≤ ·) && isCaching k.peer.toNat && !k.noStash &&
  s.feat n (bucketOf a) 2

/-- 14 Table 14-8: a soft request. NOSOFT takes every row as if no free way existed (R368). -/
def planSoft (t : Tracker) (k : Look) (op : Op) : Plan :=
  let copy : Plan := { give := .line .datS lsI, read := true }
  match k.res, op with
  | .p, _ => planP
  | .i, .rdShare => if t.noSoft then copy else { give := .line .datX lsE, read := true, resv := true }
  | .i, .rdOwn =>
    if t.noSoft then { rest := some rsSoft } else { give := .line .datX lsE, read := true, resv := true }
  | .s, .rdShare =>
    if !t.noSoft && !k.fine.sfmt && k.fine.slots.length < 3 then { give := .line .datS lsS, read := true } else copy
  | .coarseS, .rdShare => copy
  | .i, .rdOnce | .s, .rdOnce | .coarseS, .rdOnce => copy
  | _, _ => { rest := some rsSoft }

/-- A report: Grant at once, with the settle of a line tracked in a loaf (02 R55). -/
def planReport (s : State) (n : Nat) (k : Look) (req : Nat) : Plan :=
  match k.res with
  | .coarseS | .coarseO => { snoops := snoopAll (s.lookTargets n k req) .snCensus, give := .grant lsI }
  | _ => { give := .grant lsI }

/-- A request to a line in Anvil mode that is served there (06 Table 06-7). -/
def planAnvil (op : Op) : Plan :=
  match op with
  | .atomOp => { give := .atom, read := true }
  | .wrFull | .wrPart | .wbDirty | .wbClean | .drop => { give := .grant lsI }
  | .pfHint => { discard := true }
  | _ => { give := .line .datS lsI, read := true }

/-- The request leaves the line in Anvil mode. A spine requester counts as revision 3 (log 16). A PfHint from an agent at
revision 1 or 2, or under the no-Anvil flag, matches two rows of Table 06-7: it is discarded and the line stays (DESIGN
CHOICE, log 98). -/
def State.staysAnvil (s : State) (k : Tracker) (op : Op) : Bool :=
  op.isWbk || op = .pfHint ||
  ((!isAgent k.src.toNat || s.agentRev k.src.toNat = 3) && !k.noAnvil &&
   (op = .rdShare || op = .rdOnce || ((op = .atomOp || op = .wrFull || op = .wrPart) && !k.soft)))

/-- The plan of a message of tracker number `i` for its lookup result. -/
def planMsg (s : State) (n i : Nat) (t : Tracker) (k : Look) (op : Op) : Plan :=
  let req := t.src.toNat
  let a := lineOf t.addr
  if op.isWbk then planReport s n k req
  else if t.soft then planSoft t k op
  else match op with
    | .rdShare => planRdShare s n k req
    | .rdOwn => planRdOwn s n k req
    | .upgrade => planUpgrade s n k req
    | .rdOnce => planRdOnce s n k req
    | .wrFull => { snoops := writeSnoops s n k req .snKill, give := .grant lsI }
    | .wrStash =>
      { snoops := writeSnoops s n k req .snKill, give := .grant lsI,
        resv := k.way.isNone && k.res != .p && s.stashOk n t }
    | .wrPart => { snoops := writeSnoops s n k req .snOwn, give := .grant lsI }
    | .atomOp =>
      { snoops := writeSnoops s n k req .snOwn, give := .atom, read := k.res = .i || k.res = .s || k.res = .coarseS }
    | .pfHint =>
      { discard := k.res != .i || (s.hlcFind n a).isSome || !s.hlcOk a || (s.memDest a).node.isNone ||
          (s.hlcVictim n i a t.colour).isNone, read := true }
    | _ => {}

/-- A range line (12 Table 12-10), a LINE_RESTORE (R313), a scrubbed loaf line (09 R249). -/
def planOwn (s : State) (n : Nat) (k : Look) (kind : TKind) : Plan :=
  let none' := 0x1FF
  match kind with
  | .range .flush _ =>
    { snoops := if k.res = .coarseS then snoopAll (s.lookTargets n k none') .snOwn else writeSnoops s n k none' .snOwn }
  | .range .inval _ => { snoops := writeSnoops s n k none' .snKill }
  | .range .clean _ =>
    match k.res with
    | .x | .o => { snoops := snoopAll (s.ownerTarget n k none').toList .snShare }
    | .coarseO | .u => { snoops := snoopAll (s.lookTargets n k none') .snShare, resv := k.way.isNone }
    | _ => {}
  | .restore _ => { snoops := snoopAll (k.fine.possible.filter (s.slice n).admitted) .snKill }
  | .scrubLine _ =>
    if k.res = .coarseO then
      let l := s.lookTargets n k none'
      if (s.slice n).anyRev1 l then {} else { snoops := snoopAll l .snCensus }
    else {}
  | _ => {}

/-- The trees turned by a request that hits (02 R45, 07 R195), the HLC's among them; a request answered Rest turns none (04 R128, 05
R148). -/
def touchHit (n : Nat) (k : Tracker) (l : Look) (s : State) : State :=
  let s := match l.way with | some w => touchFine n k.req w s | none => s
  let s := match l.lway with | some w => touchLoaf n k.req w s | none => s
  match if (s.slice n).mode = .broadcast then none else s.hlcFind n (lineOf k.addr) with
  | some w => touchHlc n k.req w s
  | none => s

/-- A transaction ended with Rest: no state is left (04 R128). -/
def restTrk (n t : Nat) (k : Tracker) (reason : BitVec 4) (s : State) : State :=
  let s := s.send { homeMsg n t k .rest 0 with htrk := 0, aux := reason }
  endTrk n t (leavePoison n t (bill n .lookup s))

/-- A hint discarded (07 R205, 04 R123). -/
def dropHint (n t : Nat) (s : State) : State := endTrk n t (leavePoison n t (bill n .lookup s))

/-- The HLC fill of a hint whose data is in and checked, in the way chosen at its decision (07 R195); poison fills nothing (07,
"Fill at the home"), nor does a way that has since been pinned or left the allocation (DEDUCED, log 67). -/
def endHint (n t : Nat) (s : State) : State :=
  let s := checkBuf n t s
  match s.trk n t with
  | none => s
  | some k =>
    match k.buf, k.pfWay with
    | some (d, poison), some w =>
      let s := if poison || (s.slice n).pin (hlcSet (lineOf k.addr)) w || !s.hlcOpen n w then s
        else fillHlc n (lineOf k.addr) w d true k.req s
      closeTrk n t (leavePoison n t (bill n .nodata s))
    | _, _ => s

/-- The lookup result in force for a plan: a settle that revision-1 targets forbid leaves the line as U leaves it (02
R55 step 6). -/
def settleLook (s : State) (n : Nat) (k : Tracker) (l : Look) : Look :=
  match k.kind with
  | .msg op =>
    if op.isWbk && (l.res = .coarseS || l.res = .coarseO) && (s.slice n).anyRev1 (s.lookTargets n l k.src.toNat) then
      { l with res := .u }
    else l
  | _ => l

/-- The tracker goes live with its plan, and its request turns the trees of what it hit. -/
def startPlan (n t : Nat) (l : Look) (p : Plan) (s : State) : State :=
  let a := match s.trk n t with | some k => lineOf k.addr | none => 0
  let s := match s.trk n t with | some k => touchHit n k l s | none => s
  let s := s.updTrk n t fun k => { k with
    stage := .live, look := l, give := p.give, rdone := false,
    round := { all := p.snoops, todo := p.snoops },
    fwding := p.fwd, sealTimer := p.fwd, waitSeal := p.fwd,
    ans := if p.fwd then some (.datFwd, match p.give with | .line _ st => st | _ => lsE) else none,
    buf := if l.res = .p && (k.buf.isNone) then some (Config.lostData a, true) else k.buf }
  let s := if p.read then fetchLine n t (l.res = .i || l.res = .s || l.res = .coarseS) s else s
  let s := match s.trk n t with
    | some { kind := .range .inval _, .. } => s
    | some { kind := .range _ _, .. } => urge n a s
    | _ => s
  advance n t s

/-- Reservation, then the start; what follows when nothing can be reserved (02 R46, R47, R53, 14 Table 14-8). A range
line waits for a later decision step. -/
def reservePlan (n t : Nat) (k : Tracker) (l : Look) (p : Plan) (s : State) : State :=
  if !p.resv || (s.slice n).mode = .broadcast then startPlan n t l p s
  else
    match reserve n t (lineOf k.addr) k.colour k.soft s with
    | (s, .none) =>
      match k.kind with
      | .msg op =>
        if k.soft then
          if op = .rdShare then startPlan n t l { p with give := .line .datS lsI } s else restTrk n t k rsSoft s
        else restTrk n t k rsRetry s
      | _ => s
    | (s, r) => startPlan n t l p (s.updTrk n t fun k => { k with resv := r })

/-- The exit that a request forces starts the cool-down (06 Table 06-7): rows RdOwn or Upgrade, WrStash, and revision 1 or
2; an exit for the no-Anvil flag alone starts none. -/
def State.coolsAnvil (s : State) (k : Tracker) (op : Op) : Bool :=
  op = .rdOwn || op = .upgrade || op = .wrStash || (isAgent k.src.toNat && s.agentRev k.src.toNat != 3)

/-- The lookup of a line met in Anvil mode: the line exits, with a cool-down when a request forces it (06 R188). -/
def leaveAnvil (n : Nat) (a : PA) (cool : Bool) (s : State) : State :=
  let s := anvilExit n a s
  if cool then s.updSlice n fun sl => { sl with cooldowns := addNew sl.cooldowns a } else s

/-- The decision of a message. A WbClean or Drop from an owner in O leaves the line in P (05 R142). -/
def decideMsg (n t : Nat) (k : Tracker) (op : Op) (l : Look) (s : State) : State :=
  let a := lineOf k.addr
  let l := settleLook s n k l
  let p := planMsg s n t k l op
  match p.rest with
  | some r => restTrk n t k r s
  | none =>
    if p.discard then dropHint n t (touchHit n k l s)
    else if op = .pfHint then
      let s := s.updTrk n t fun k => { k with
        stage := .live, look := l, pfWay := s.hlcVictim n t a k.colour }
      endHint n t (fetchLine n t false s)
    else
      let k' := { k with look := l }
      if ownsO k' && (op = .wbClean || op = .drop) then
        let d : Detail := { syn := BitVec.ofNat 16 (op.code.1 + 8 * op.code.2), node := k.src, addr := k.addr }
        reservePlan n t k l p ((raiseSlice n 0x0E d s).updTrk n t fun k => { k with toP := true })
      else reservePlan n t k l p s

/-- The decision of an own order. -/
def decideOwn (n t : Nat) (k : Tracker) (l : Look) (s : State) : State :=
  match k.kind with
  | .restore job =>
    if l.res = .p then startPlan n t l (planOwn s n l k.kind) s
    else closeTrk n t (leavePoison n t (bill n .nodata (finishJob job ccSTATE 0 s)))
  | .range _ _ | .scrubLine _ => reservePlan n t k l (planOwn s n l k.kind) s
  | _ => s

/-- The record of a tracker checked (15 source 0x1B). Answers whether it is good. -/
def checkTrk (n t : Nat) (s : State) : State × Bool :=
  match s.trk n t with
  | none => (s, false)
  | some k =>
    let r := injSlice n 0x1B s
    if k.bad != r.1 then
      (raiseSlice n 0x1B { syn := BitVec.ofNat 16 t, node := k.src, addr := lineOf k.addr, inj := r.1 } r.2, false)
    else (r.2, true)

/-- The engine reads its active recipe bank as it starts a lookup (15 source 0x1C). Answers whether its words are good. -/
def checkAct (n e : Nat) (s : State) : State × Bool :=
  let x := s.actBank n e
  let r := injSlice n 0x1C s
  if x.bad != r.1 then (raiseSlice n 0x1C { syn := x.failSyn e, inj := r.1 } r.2, false) else (r.2, true)

/-- A fine entry that names a retiring agent in a role that Table 09-4 puts in P is rewritten so before a request is served
from it: the agent is snooped no more, and no older value may be read in its place (09 R248, 05 R158; DEDUCED, log 61). -/
def passScrub (n : Nat) (a : PA) (s : State) : State :=
  match s.fineFind n a with
  | some w =>
    let e := s.fineAt n (fineSet a) w
    if (scrubAll s.scrubbing e).2 && (s.slice n).mode != .broadcast then writeFine n a w e s else s
  | none => s

/-! ### Whose turn the pipeline's slot is (01 R21) -/

/-- The bucket is being stolen: its engine starts nothing for it (08 R219 step 1). -/
def Slice.stealing (sl : Slice) (b : Nat) : Bool := match sl.steal with | some x => x.bucket = b | none => false

/-- A tracker in its engine's ready queue: its transaction may start now (08, "Dispatch and local steal"). -/
def Slice.queued (sl : Slice) (k : Tracker) : Bool :=
  k.stage = .ready && k.lineUser && !sl.stealing (bucketOf k.addr)

/-- Trackers that waited while their bucket was being stolen start in age order (08 R219 step 4, R220). -/
def Slice.inTurn (sl : Slice) (k : Tracker) : Bool :=
  sl.queued k && !(k.parked && sl.trk.any fun kv =>
    kv.2.parked && kv.2.stage = .ready && kv.2.age < k.age && bucketOf kv.2.addr = bucketOf k.addr)

/-- The engine of a tracker's bucket. -/
def State.engineOf (s : State) (n : Nat) (k : Tracker) : Nat := (s.bkt n (bucketOf k.addr)).engine

/-- Engine e has a transaction to start and used no slot in the HCLK before. -/
def State.engineWants (s : State) (n e : Nat) : Bool :=
  let sl := s.slice n
  (mget 0 sl.engSlot e = 0 || mget 0 sl.engSlot e != sl.hclk) &&
  sl.trk.any fun kv => sl.inTurn kv.2 && s.engineOf n kv.2 = e

/-- The engine that the next slot falls to, in round-robin order. -/
def State.engineTurn (s : State) (n : Nat) : Option Nat :=
  ((List.range 4).map fun i => ((s.slice n).rrNext + i) % 4).find? (s.engineWants n)

/-- Tracker k may start its lookup now: a slot of the pipeline is open, no scan slot is due (08 R223), no pause holds it (13
R352, 17 R423), and it is its engine's turn. -/
def State.lookupTurn (s : State) (n : Nat) (k : Tracker) : Bool :=
  let sl := s.slice n
  sl.serving && sl.slotOpen && !s.paused n && !s.scanDue n && sl.inTurn k && s.engineTurn n = some (s.engineOf n k)

/-- The slot of an engine's lookup; the turn passes on. A tracker that the decision leaves ready waits with the others. -/
def startSlot (n t e : Nat) (s : State) : State :=
  (useSlot n s).updSlice n fun sl =>
    { sl.updTrk t fun k => { k with parked := false } with
      engSlot := mput 0 sl.engSlot e (sl.hclk + 1), rrNext := (e + 1) % 4 }

/-- Mirrored writes of a slice that the target has not acknowledged, sent and to be sent. -/
def Slice.mirrors (sl : Slice) : Nat := sl.mirrored.length + sl.mirrorQ.length

/-- A step of slice n from s to s' makes mirrored writes beyond the bound while others are unacknowledged. -/
def State.mirrorOver (s : State) (n : Nat) (s' : State) : Bool :=
  32 < (s'.slice n).mirrors && !(s.slice n).mirrored.isEmpty && (s.slice n).mirrors < (s'.slice n).mirrors

/-- A step of source n waits, and changes nothing, when its writes would bring the mirrored ones that the target has not
acknowledged above 32 (13 R336). Of a step that alone makes more the first 32 are sent, and the rest wait at the source (DESIGN
CHOICE, log 68). -/
def mirrorBound (n : Nat) (f : State → State) (s : State) : State :=
  let s' := f s
  if s.mirrorOver n s' then s else s'

/-- A request that makes the line leave Anvil mode is answered Rest: what it must reserve in the line's new state (`x`) cannot be
had (02 R46). -/
def State.anvilRests (x : State) (n t : Nat) (k : Tracker) (op : Op) : Bool :=
  let a := lineOf k.addr
  (planMsg x n t k (x.lookup n a) op).resv && (x.slice n).mode != .broadcast && (reserve n t a k.colour k.soft x).2 = .none

/-- The lookup and decision of a ready tracker whose turn it is. A soft request leaves an entry that a retire is to rewrite as it
is (14 R366, R369); a request answered Rest leaves its line in Anvil mode (04 R128). -/
def decide1 (n t : Nat) (s : State) : State :=
  let sl := s.slice n
  match sl.tracker t with
  | none => s
  | some k =>
    if !s.lookupTurn n k then s
    else
      let b := checkAct n (s.engineOf n k) s
      let c := checkTrk n t b.1
      if !b.2 then b.1
      else if !c.2 then c.1
      else
        let a := lineOf k.addr
        let s := startSlot n t (s.engineOf n k) (if sl.mode = .broadcast then c.1 else lookupChecks n a c.1)
        let s := if k.soft then s else passScrub n a s
        let l := s.lookup n a
        match k.kind with
        | .msg op =>
          if l.anvil then
            if s.staysAnvil k op then
              if op = .pfHint then dropHint n t (touchHit n k l s) else startPlan n t l (planAnvil op) s
            else if k.soft then restTrk n t k rsSoft s
            else
              let x := leaveAnvil n a (s.coolsAnvil k op) (touchHit n k l s)
              if x.anvilRests n t k op then restTrk n t k rsRetry (reserve n t a k.colour k.soft s).1
              else decideMsg n t k op (x.lookup n a) x
          else decideMsg n t k op l s
        | .range _ _ =>
          if l.anvil then
            let s := leaveAnvil n a false s
            decideOwn n t k (s.lookup n a) s
          else decideOwn n t k l s
        | _ => decideOwn n t k l s

/-- TRANSACTION_DECISION: lookup and decision of a ready tracker (04 R105, 01 R21). -/
def transactionDecision (n t : Nat) (s : State) : State := mirrorBound n (decide1 n t) s

def execHeaderTake (n t : Nat) (f : Flits) (s : State) : Res := atSlice n s (headerTake n t f)
def execLineChainStart (n t : Nat) (s : State) : Res := atSlice n s (lineChainStart n t)
def execTransactionDecision (n t : Nat) (s : State) : Res := atSlice n s (transactionDecision n t)

end Sys2Proof.Machine
end

