-- ==== Sys2Proof/Machine/SliceRx.lean ====
section
/-! DEFINITION. Messages that slices receive for transactions in progress (03 R95, R101): snoop answers, write data,
Seals, stash answers, memory data and acknowledgments; issuing the merging buffer (07 R200); tray storage accesses and
scrubbing (07 R211, R212). -/

namespace Sys2Proof.Machine

/-- A message that matches nothing the slice waits for (03 R101). -/
def stray (n : Nat) (rx : Rx) (s : State) : State := raiseSlice n 0x0F rx.det s

/-- The tracker that a message's HTRK names. -/
def Msg.trkNo (m : Msg) : Nat := m.htrk.toNat

/-! ### Quarantine (04 R135) -/

/-- The quarantine waits for something of a node. -/
def Tracker.owes (k : Tracker) (a : Nat) (w : Owed) : Bool := k.quar.contains (a, w)

/-- One owed message taken, leaving others owed; a snoop that waited for it at the agent may be sent (05 R140). -/
def unowe (n t a : Nat) (w : Owed) (more : List (Nat × Owed)) (s : State) : State :=
  advance n t (clearSlot (s.updTrk n t fun k => { k with quar := k.quar.erase (a, w) ++ more }))
where
  /-- A quarantined eviction slot leaves quarantine with its last owed message. -/
  clearSlot (s : State) : State := s.updTrk n t fun k =>
    match k.evict with
    | some e => if e.quarantined && k.quar.isEmpty then { k with evict := none } else k
    | none => k

/-- A SnDone taken by a quarantine; with DWB set the DatWb is owed next. -/
def quarDone (n t a : Nat) (aux : BitVec 4) (k : Tracker) (s : State) : State :=
  if k.owes a .snDoneOnly then unowe n t a .snDoneOnly [] s
  else unowe n t a .snDone (if bit aux 1 then [(a, .datWb)] else []) s

/-! ### Snoop answers -/

/-- SnDone for a tracker's own round or eviction slot (03 R101, 04 R108). One that answers a SnStash is a stray response: R101's
test passes, and the spec gives no action for an answer of the wrong kind (DESIGN CHOICE, log 91). -/
def takeSnDone (n t : Nat) (rx : Rx) (k : Tracker) (s : State) : State :=
  let m := rx.m
  let a := m.src.toNat
  let p (r : Round) := r.sent.contains a
  if k.owes a .snDone || k.owes a .snDoneOnly then quarDone n t a m.aux k s
  else if k.waitStash && k.round.sent.contains a then stray n rx s
  else if p k.round || (match k.evict with | some e => !e.quarantined && e.lines.any (fun l => p l.round) | none => false)
  then
    let c := checkTrk n t s
    if !c.2 then c.1
    else advance n t (c.1.updTrk n t fun k => k.onRound p fun r => r.done a m.sub m.aux)
  else stray n rx s

/-! ### The requester's write data (04 R119, R120, Table 04-7, 05 Table 05-1) -/

/-- The bytes that a DatWb answering a WrPart writes: those enabled by both BMASK and BE (03 Table 03-16). -/
def partMask (m : Msg) : Mask := maskBoth m.bmask m.be

/-- The line buffer checked before it is written: a line whose data fails goes to P (07 Table 07-4). -/
def checkWrite (n t : Nat) (s : State) : State :=
  let s' := checkBuf n t s
  if (s'.trk n t).bind (·.buf) = (s.trk n t).bind (·.buf) then s' else s'.updTrk n t fun k => { k with toP := true }

/-- The tracker's write of a whole line from its line buffer (04 R119). -/
def writeBuf (n t : Nat) (s : State) : State :=
  let s := checkWrite n t s
  match s.trk n t with
  | none => s
  | some k =>
    match k.buf with
    | some d => writeLine n t (lineOf k.addr) (wholeLine d.1 d.2 true true)
        (s.updTrk n t fun k => { k with usedData := true })
    | none => s

/-- SnStash may be sent: step 1 of R120, and a place for the entry that a StashTake leads to. -/
def State.mayStash (s : State) (n : Nat) (k : Tracker) : Bool :=
  k.look.res != .p && !k.look.anvil && s.stashOk n k &&
  (k.resv != .none || (s.fineFind n (lineOf k.addr)).isSome || (s.slice n).mode = .broadcast)

/-- The stash step (04 R120): SnStash, or the write of step 4. -/
def stashStep (n t : Nat) (s : State) : State :=
  match s.trk n t with
  | none => s
  | some k =>
    if s.mayStash n k then
      s.updTrk n t fun k => { k with
        waitStash := true, round := { k.round with todo := [(k.peer.toNat, .snStash)] } }
    else writeBuf n t s

/-- A report's DatWb is written: the sender was the holder or owner, or the line is tracked in a loaf or U (05 Table
05-1, 04 Table 04-7). -/
def reportWrites (k : Tracker) : Bool :=
  holdsX k || ownsO k || k.look.res = .coarseS || k.look.res = .coarseO || k.look.res = .u

/-- A transaction that the Range Guard denied ended (14 R363, 08 R233). -/
def endDenied (n t : Nat) (k : Tracker) (s : State) : State := endTrk n t (addLat n k s)

/-- The requester's DatWb at a tracker that waits for it. -/
def takeWrite (n t : Nat) (rx : Rx) (k : Tracker) (s : State) : State :=
  let m := rx.m
  let a := lineOf k.addr
  let s := if k.kind = .msg .wrPart && m.be != beOf m.bmask then raiseSlice n 0x10 rx.det s else s
  if k.stage = .denied then endDenied n t k s
  else
    let s := s.updTrk n t fun k => { k with waitDat := false, sealTimer := false }
    let s := match k.kind with
      | .msg .wrPart =>
        if k.look.res = .p then s.updTrk n t fun k => { k with datDone := true }
        else
          let s := (checkWrite n t s).updTrk n t fun k => { k with usedData := true }
          match (s.trk n t).bind (·.buf) with
          | some d => writeLine n t a (wholeLine (mergeBytes d.1 m.data (partMask m)) (d.2 || m.poison) true true) s
          | none => writeLine n t a
              { data := m.data, mask := partMask m, poison := m.poison, fills := false, own := true } s
      | .msg .wrStash =>
        if k.look.res = .p then s.updTrk n t fun k => { k with datDone := true }
        else stashStep n t (s.updTrk n t fun k => { k with buf := some (m.data, m.poison), bufBad := false })
      | .msg .wbDirty =>
        if reportWrites k then
          writeLine n t a (wholeLine m.data m.poison true true) (s.updTrk n t fun k => { k with usedData := true })
        else s.updTrk n t fun k => { k with datDone := true }
      | _ =>
        if k.look.res = .p then s.updTrk n t fun k => { k with datDone := true }
        else writeLine n t a (wholeLine m.data m.poison true true) (s.updTrk n t fun k => { k with usedData := true })
    advance n t s

/-- DatWb: the requester's, by SRCID and RQTX, else the answer to a snoop, by HTRK and SRCID (03 R101; for an eviction
snoop to the requester DEDUCED, log 17). -/
def takeDatWb (n t : Nat) (rx : Rx) (k : Tracker) (s : State) : State :=
  let m := rx.m
  let a := m.src.toNat
  let p (r : Round) := r.awaitsWb a
  if k.owes a .reqDatWb && m.src = k.src && m.rqtx = k.rqtx then unowe n t a .reqDatWb [] s
  else if m.src = k.src && k.waitDat && m.rqtx = k.rqtx then
    let c := checkTrk n t s
    if !c.2 then c.1 else takeWrite n t rx k c.1
  else if k.owes a .datWb then unowe n t a .datWb [] s
  else if k.owes a .snDone then unowe n t a .snDone [(a, .snDoneOnly)] s
  else if (p k.round && !k.waitStash) ||
      (match k.evict with | some e => !e.quarantined && e.lines.any (fun l => p l.round) | none => false) then
    let c := checkTrk n t s
    if !c.2 then c.1
    else advance n t (c.1.updTrk n t fun k => k.onRound p fun r => r.wb a m.data m.poison)
  else stray n rx s

/-! ### Seal (05 R153, R154) -/

/-- The agent whose Seal the tracker waits for: the target after a stash, with RQTX 0, else the requester. A spine requester sends
its Seal in answer to DatS (04 R111); with it the transaction can end, and the line is free again (`takeSeal`, `closeTrk`). -/
def Tracker.sealer (k : Tracker) : BitVec 9 × BitVec 10 := if k.stashed then (k.peer, 0) else (k.src, k.rqtx)

def takeSeal (n : Nat) (rx : Rx) (s : State) : State :=
  let m := rx.m
  let t := m.trkNo
  if mfind (s.slice n).fences t = some (m.src, m.rqtx) then
    stray n rx (s.updSlice n fun sl => { sl with fences := mdel sl.fences t })
  else match s.trk n t with
    | none => stray n rx s
    | some k =>
      if k.owes m.src.toNat .seal && m.src = k.src && m.rqtx = k.rqtx then unowe n t m.src.toNat .seal [] s
      else if k.waitSeal && k.sealTimer && k.sealer = (m.src, m.rqtx) then
        let c := checkTrk n t s
        if !c.2 then c.1
        else if k.stage = .denied then endDenied n t k c.1
        else advance n t (c.1.updTrk n t fun k => { k with waitSeal := false, sealTimer := false, sealGot := true })
      else stray n rx s

/-! ### Stash answers (04 R120) -/

/-- A StashTake that leads to no DatX: none is awaited at the target (04 R134; the shim's note of it is the model's, log 87). -/
def stashVoid (n : Nat) (rx : Rx) (s : State) : State :=
  if isAgent rx.m.src.toNat && (s.shim rx.m.src.toNat).stashes.contains (n, rx.m.htrk) then
    s.updShim rx.m.src.toNat fun x => { x with stashes := x.stashes.erase (n, rx.m.htrk) }
  else s

/-- A StashTake or StashRefuse for the SnStash that the tracker waits on; as the answer to any other snoop it is a stray response
(DESIGN CHOICE, log 91). -/
def takeStash (n : Nat) (take : Bool) (rx : Rx) (s : State) : State :=
  let m := rx.m
  let t := m.trkNo
  match s.trk n t with
  | none => stray n rx (stashVoid n rx s)
  | some k =>
    if k.owes m.src.toNat .stash then unowe n t m.src.toNat .stash [] (stashVoid n rx s)
    else if k.waitStash && m.src = k.peer && k.round.sent.contains m.src.toNat then
      let c := checkTrk n t s
      if !c.2 then c.1
      else
        let s := c.1.updTrk n t fun k => { k with waitStash := false, stashTimer := false,
                                                  round := { k.round with sent := [] } }
        if take then
          let s := checkBuf n t (dropCopy n (lineOf k.addr) s)
          let d := match s.trk n t with | some k => k.buf.getD (0, true) | none => (0, true)
          let msg : Msg := { op := .datX, src := sliceNode n, dst := k.peer, htrk := m.htrk, sub := lsM,
                             data := d.1, poison := d.2 }
          (s.updTrk n t fun k => { k with
            stashed := true, usedData := true, waitSeal := true, sealTimer := true }).send msg.full
        else advance n t (writeBuf n t s)
    else stray n rx (stashVoid n rx s)

/-! ### Memory data and acknowledgments -/

/-- A read credit returned. -/
def returnRead (n : Nat) (node : BitVec 9) (s : State) : State :=
  s.updSlice n fun sl => { sl with rdCredits := subCredit sl.rdCredits node }

/-- A pinned copy rewritten with the data read in place of one whose parity failed (06 Table 06-7). -/
def refetchPin (n t : Nat) (k : Tracker) (s : State) : State :=
  let a := lineOf k.addr
  match s.hlcFind n a, (s.trk n t).bind (·.buf) with
  | some w, some (d, false) =>
    if (s.slice n).pin (hlcSet a) w && k.look.anvil then
      s.updSlice n fun sl => sl.putHlc (hlcSet a) w { tagw := encHlc (hlcTag a) true d, data := d }
    else s
  | _, _ => s

def takeMemDat (n : Nat) (rx : Rx) (s : State) : State :=
  let m := rx.m
  let t := m.trkNo
  match s.trk n t with
  | none => stray n rx s
  | some k =>
    if k.owes m.src.toNat .memDat then sweep n (unowe n t m.src.toNat .memDat [] (returnRead n m.src s))
    else if k.memNode = some m.src then
      let c := checkTrk n t s
      if !c.2 then c.1
      else
        let s := returnRead n m.src (c.1.updTrk n t fun k => { k with memNode := none, memTimer := false })
        let s := refetchPin n t k (fillBuf n t m.data m.poison s)
        sweep n (if k.kind = .msg .pfHint then endHint n t s else s)
    else stray n rx s

def takeMemAck (n : Nat) (rx : Rx) (s : State) : State :=
  let m := rx.m
  let e := (bits m.htrk 0 8).toNat
  let x := (s.slice n).mbE e
  if e < 32 && x.st = .sent && x.target = m.src then
    sweep n (s.updSlice n fun sl => { sl.putMb e {} with wrCredits := subCredit sl.wrCredits m.src })
  else stray n rx s

/-! ### Issuing the merging buffer (07 R200) -/

/-- The oldest OPEN entry: the one with the greatest AGE, lowest number first. -/
def Slice.oldestOpen (sl : Slice) : Option Nat :=
  (argMax (fun e => (sl.mbE e).age) ((List.range 32).filter fun e => (sl.mbE e).st = .opened))

/-- An OPEN entry may be issued now, credits aside. -/
def State.mbDue (s : State) (n e : Nat) : Bool :=
  let sl := s.slice n
  let x := sl.mbE e
  x.st = .opened && (sl.mbOf .sent x.line).isNone &&
  (x.mask = fullMask || s.spine.mbWindow ≤ x.age || (24 ≤ sl.mbUsed && sl.oldestOpen = some e) || x.urgent)

/-- The TARGET of an OPEN entry: a tray line goes to the slice that its segment names now (07 R209, 13 R335), and to
none when the segment has become a hole. -/
def State.mbTarget (s : State) (x : MbEntry) : Option (BitVec 9) :=
  if (nodeSlice x.target).isSome && s.inTray x.line then (s.memDest x.line).node else some x.target

/-- MB_ISSUE: entry e becomes SENT, or a tray line that the slice itself holds is written (R211). A write whose segment
became a hole is dropped (R210). -/
def mbIssue (n e : Nat) (s : State) : State :=
  let sl := s.slice n
  if e < 32 && s.mbDue n e && sl.conds.phase != .hold && sl.conds.phase != .off then
    match s.mbTarget (sl.mbE e) with
    | none =>
      sweep n (raiseSlice n 0x15 { syn := 0xFF, addr := (sl.mbE e).line } (s.updSlice n (·.putMb e {})))
    | some node =>
    if node = sliceNode n && !s.trayOpen n then s
    else
    let s := checkMb n e (s.updSlice n (·.putMb e { sl.mbE e with target := node }))
    let x := (s.slice n).mbE e
    if x.target = sliceNode n then
      let s := s.updSlice n (·.putMb e {})
      let s := match s.trayPlace x.line with
        | some p => trayWrite n p x.line x.data x.mask x.poison (useTray n s)
        | none => s
      sweep n s
    else if s.wrFree n x.target then
      let s := s.updSlice n fun sl => { sl.putMb e { x with st := .sent, urgent := false } with
        wrCredits := addCredit sl.wrCredits x.target }
      let h := BitVec.ofNat 8 e
      (s.send { op := .memWr, src := sliceNode n, dst := x.target, htrk := h, addr := x.line }).send
        { op := .memWd, src := sliceNode n, dst := x.target, htrk := h, bmask := x.mask, be := beOf x.mask,
          data := x.data, poison := x.poison }
    else s
  else s

/-! ### Tray accesses at the holding slice (07 R211, R212) -/

/-- A half of a tray write kept, and the write made when both are there (03 R88). -/
def trayHalf (n : Nat) (rx : Rx) (s : State) : State :=
  let m := rx.m
  let sl := s.slice n
  let old := sl.trayHalves.find? fun h => h.src = m.src && h.slot = m.htrk
  let s := if m.op = .memWd && m.be != beOf m.bmask then raiseSlice n 0x10 rx.det s else s
  let h : PortHalf := old.getD { src := m.src, slot := m.htrk, addr := none, body := none }
  let h := if m.op = .memWr then { h with addr := some (lineOf m.addr) } else { h with body := some m }
  let rest := sl.trayHalves.filter fun x => !(x.src = m.src && x.slot = m.htrk)
  match h.addr, h.body with
  | some a, some b =>
    let s := s.updSlice n fun sl => { sl with trayHalves := rest }
    let s := match s.trayPlace a with
      | some p => trayWrite n p a b.data (partMask b) b.poison (useTray n s)
      | none => s
    s.send { op := .memAck, src := sliceNode n, dst := m.src, htrk := m.htrk }
  | _, _ => s.updSlice n fun sl => { sl with trayHalves := rest ++ [h] }

/-- MemRd, MemWr or MemWd at the slice that holds the tray line; rise control may hold it back in the input buffer (17 R435). -/
def trayMessage (n : Nat) (rx : Rx) (s : State) : State :=
  let m := rx.m
  if !s.trayOpen n then keepFlits n (encode m) s
  else if m.op = .memRd then
    let r : State × (Line × Bool) := match s.trayPlace (lineOf m.addr) with
      | some p => trayRead n p (lineOf m.addr) (useTray n s)
      | none => (s, 0, true)
    r.1.send (Msg.full { op := .memDat, src := sliceNode n, dst := m.src, htrk := m.htrk, data := r.2.1,
                         poison := r.2.2 })
  else trayHalf n rx s

/-- Lines of tray storage in a slice: 1,024 for each converted fine way, 256 for each converted HLC way. -/
def State.trayLines (s : State) : Nat := s.spine.trayFt * 1024 + s.spine.trayHt * 256

/-- The place of tray line i of a slice, fine ways first, in the order of 07 R209. -/
def State.trayNth (s : State) (i : Nat) : TrayPlace :=
  let f := s.spine.trayFt * 1024
  if i < f then .fine (15 - i / 1024) (8 * (i % 1024)) else .hlc (7 - (i - f) / 256) ((i - f) % 256)

/-- The address that a tray line of a slice has in the window, by the lowest segment that names the slice; 0 for none. -/
def State.trayAddr (s : State) (n i : Nat) : PA :=
  match (List.range 64).find? fun k => (s.seg k).valid && (s.seg k).slice = n with
  | some k => s.spine.trayBase ++ BitVec.ofNat 6 k ++ BitVec.ofNat 20 (64 * i)
  | none => 0

/-- TRAY_SCRUB: the next tray line read, what it corrects written back. -/
def trayScrub (n : Nat) (s : State) : State :=
  let c := s.trayLines
  let sl := s.slice n
  if c = 0 || sl.conds.phase = .off || sl.conds.phase = .hold || !s.trayOpen n || !sl.slotOpen then s
  else
    let i := sl.arr.trayScrub % c
    let s := (trayRead n (s.trayNth i) (s.trayAddr n i) (bill n .scan (useTray n s))).1
    s.updSlice n fun sl => { sl with arr := { sl.arr with trayScrub := (i + 1) % c } }

/-! ### Meanings -/

/-- A message for a tracker, found by HTRK. A slice in HOLD discards every RSP and DAT message (13 R337). -/
def onTracker (n : Nat) (f : Nat → Rx → Tracker → State → State) (rx : Rx) (s : State) : State :=
  if (s.slice n).conds.phase = .hold then s
  else match s.trk n rx.m.trkNo with
    | some k => f rx.m.trkNo rx k s
    | none => stray n rx s

/-- A handler that a slice in HOLD skips. -/
def unlessHold (n : Nat) (f : Rx → State → State) (rx : Rx) (s : State) : State :=
  if (s.slice n).conds.phase = .hold then s else f rx s

def execMbIssue (n e : Nat) (s : State) : Res := atSlice n s (mirrorBound n (mbIssue n e))
def execTrayScrub (n : Nat) (s : State) : Res := atSlice n s (trayScrub n)

end Sys2Proof.Machine
end

