-- ==== Sys2Proof/Machine/Census.lean ====
section
/-! DEFINITION. Census (02 R59 to R61, Table 02-8; 05 R156, R157; 09 R245, R254; 12 R312): walks, reports, completion. -/

namespace Sys2Proof.Machine

/-! ### Completion (02 R61) -/

/-- The slice's census condition follows its pending records (13 Table 13-2 L_CENSUS); a suspect record whose buckets have
all been walked, or have left the slice, is cleared (02 R61), at the target of a copy too (13 R334). -/
def settleCensus (n : Nat) (done : List Nat) (s : State) : State :=
  let keep b := !done.contains b && ((s.bkt n b).kind = .owned || (s.bkt n b).kind = .frozen || (s.bkt n b).incoming)
  let pending := (s.slice n).census.any fun c => c.left.isEmpty
  let s := s.updSlice n fun sl => { sl with susFine := sl.susFine.settle keep, susLoaf := sl.susLoaf.settle keep }
  let s := match s.copyPeer n with
    | some m => s.updSlice m fun sl => { sl with
        susFine := sl.susFine.settle (fun b => !done.contains b), susLoaf := sl.susLoaf.settle fun b => !done.contains b }
    | none => s
  if pending then s else s.setConds n fun c => { c with lCensus := false }

/-- The U fine entries of a bucket, with their sets and ways. -/
def State.uEntries (s : State) (n b : Nat) : List PA :=
  ((s.slice n).arr.fine.filter fun kv =>
    let e := decFine kv.2
    s.fineLive n (kv.1 % 16) && e.hstate = hsU && bucketOf (e.line (kv.1 / 16)) = b).map
    fun kv => (decFine kv.2).line (kv.1 / 16)

/-- The unknown loaves of a bucket: set and way. -/
def State.unknownLoaves (s : State) (n b : Nat) : List (Nat × Nat) :=
  ((s.slice n).arr.loaf.filter fun kv =>
    let l := decLoaf kv.2
    s.loafLive n (kv.1 % 8) && l.lstate = lfUnknown && bucketOf (l.region (kv.1 / 8)) = b).map
    fun kv => (kv.1 / 8, kv.1 % 8)

/-- The completion steps of a census of bucket b: U entries, unknown loaves, frontier. Lines that a tracker blocks are
left to it, and lines that an agent holds to the end of the hold (06 R178; DEDUCED, log 88). -/
def completionSteps (n : Nat) (c : Census) (s : State) : State :=
  let us := s.uEntries n c.bucket
  let ls := s.unknownLoaves n c.bucket
  let blocked a := ((s.slice n).trk.any fun kv => kv.2.blocks a) || (s.slice n).heldLine a
  let left := (us ++ ls.flatMap fun p => (s.loafAt n p.1 p.2).lines p.1).filter blocked
  let s := eachOf (us.filter fun a => !blocked a) (completeFine n) s
  let s := eachOf ls (completeLoaf n c left) s
  let s := s.updSlice n fun sl => { sl with
    frontiers := sl.frontiers.filter fun f => f.1 != c.bucket,
    census := sl.census.map fun d => if d = c then { d with left } else d }
  if (s.slice n).frontiers.isEmpty then
    (s.updSlice n fun sl => { sl with salvList := [] }).setConds n fun c => { c with lFront := false }
  else s

/-- A bucket of CENSUS_RANGE walked, for its job (12 R312). -/
def rangeWalked (job b : Nat) (s : State) : State :=
  match s.job job with
  | some { kind := .censusRange left walked part, .. } =>
    let left' := left.filter (· != b)
    let s := s.updJob job fun _ => .censusRange left' (walked + 1) part
    if left'.isEmpty then finishJob job (if part then ccPARTIAL else ccOK) (walked + 1) s else s
  | _ => s

/-- Every agent has reported for a started census: it completes, unless an agent has not answered (09 R254), some
admitted caching agent runs revision 1, or a newer census of the bucket waits to start (its cause came after this
walk; DEDUCED, log 18). A CENSUS_RANGE that revision-1 agents keep from completing ends without its steps. -/
def censusEnd (n : Nat) (c : Census) (s : State) : State :=
  let sl := s.slice n
  if !(c.started && c.waiting.isEmpty && c.unanswered.isEmpty && c.left.isEmpty) then s
  else
    let rev1 := sl.anyRev1 sl.admList
    let newer := sl.census.any fun d => d.own && d.bucket = c.bucket && !d.started
    if rev1 && c.job.isNone then s
    else
      let s := if rev1 || newer then s else completionSteps n c s
      let s := s.updSlice n fun sl => { sl with
        census := sl.census.filter fun d =>
          !(d.started && d.bucket = c.bucket && d.job = c.job && d.waiting.isEmpty && d.unanswered.isEmpty &&
            d.left.isEmpty) }
      let s := match c.job with | some j => rangeWalked j c.bucket s | none => s
      settleCensus n (if rev1 || newer || !c.own then [] else [c.bucket]) s

/-- Every started census of slice n that can complete. -/
def censusEnds (n : Nat) (s : State) : State := eachOf (s.slice n).census (censusEnd n) s

/-! ### Walks -/

/-- CENSUS_WALK_START: the first pending census of bucket b starts its walk on tracker t (02 R59, 03 R81): SnCensus to
every admitted caching agent at revision 2 or later (03 R80). -/
def censusWalkStart (n t b : Nat) (s : State) : State :=
  let sl := s.slice n
  match sl.census.find? fun c => c.bucket = b && !c.started with
  | none => s
  | some c =>
    if !sl.serving || (sl.trk.any fun kv => kv.2.kind = .walk b) then s
    else match allocOwn n t (.walk b) (BitVec.ofNat 52 b) .live s with
      | none => s
      | some s =>
        let l := sl.admList.filter fun a => sl.rev a != some 1
        let s := s.updTrk n t fun k => { k with
          round := { all := snoopAll l .snCensus, todo := snoopAll l .snCensus } }
        let c' := { c with started := true, waiting := l }
        let s := s.updSlice n fun sl => { sl with census := sl.census.map fun d => if d = c then c' else d }
        if l.isEmpty then censusEnd n c' (closeTrk n t s) else pump n t s

/-- An agent has finished, or counts as having finished, the walk of tracker t. -/
def walkDone (n t b a : Nat) (s : State) : State :=
  let s := s.updSlice n fun sl => { sl with census := sl.census.map fun c =>
    if c.bucket = b && c.started then
      { c with waiting := c.waiting.filter (· != a), unanswered := c.unanswered.filter (· != a) }
    else c }
  let s := s.updTrk n t fun k => { k with
    round := { k.round with todo := k.round.todo.filter fun p => p.1 != a, sent := k.round.sent.erase a } }
  let s := match s.trk n t with
    | some k => if k.stage = .live && k.kind = .walk b && k.round.ended then closeTrk n t s else s
    | none => s
  censusEnds n s

/-- A census report of an agent for the walk of tracker t waits in the input buffer. -/
def Slice.reportWaits (sl : Slice) (t a : Nat) : Bool :=
  sl.inBuf.any fun f => flitOp f = some .cnsLine && (decHdr .cnsLine f.hdr).src.toNat = a &&
    (decHdr .cnsLine f.hdr).trkNo = t

/-- SnDone at a tracker: the end of an agent's walk, behind its reports that still wait, or a snoop answer. -/
def takeDone (n t : Nat) (rx : Rx) (k : Tracker) (s : State) : State :=
  match k.kind with
  | .walk b =>
    let a := rx.m.src.toNat
    if k.stage = .live && k.round.sent.contains a then
      if (s.slice n).reportWaits t a then keepFlits n (encode rx.m) s else walkDone n t b a s
    else if k.owes a .snDone then quarDone n t a rx.m.aux k s
    else stray n rx s
  | _ => takeSnDone n t rx k s

/-! ### Reports (02 Table 02-8) -/

/-- A request's resolution round for the line is in progress: the report is discarded (05 R157). -/
def Slice.resolving (sl : Slice) (a : PA) : Bool :=
  sl.trk.any fun kv => kv.2.blocks a && kv.2.stage = .live && kv.2.look.res = .u &&
    match kv.2.kind with
    | .msg op => !op.isWbk
    | _ => true

/-- A line placed in P by conflicting reports, at once or by the tracker that blocks it, its sharer field unchanged (02
R33). A CENSUS_RANGE whose census this is ends PARTIAL. -/
def conflictP (n wt : Nat) (c : Census) (a : PA) (s : State) : State :=
  let src := match s.trk n wt with | some k => k.src | none => 0
  let s := raiseSlice n 0x17 { syn := BitVec.ofNat 16 wt, node := src, addr := a } s
  let s := match c.job with
    | some j => s.updJob j fun
      | .censusRange l w _ => .censusRange l w true
      | k => k
    | none => s
  poisonLine n a s

/-- A report for a U fine entry. -/
def reportFine (n wt : Nat) (c : Census) (a : PA) (w agent : Nat) (st : BitVec 3) (s : State) : State :=
  let e := s.fineAt n (fineSet a) w
  if ownish st then
    if !e.stash then
      ownSlot n (writeFine n a w { e with stash := true, sfmt := true, shr := fmt1 agent e.gvec } s)
    else if e.slot0 = agent then s
    else conflictP n wt c a s
  else ownSlot n (writeFine n a w
    { e with sfmt := true, shr := fmt1 e.slot0 (setBit e.gvec (groupOf agent) true) } s)

/-- The census that the walk of bucket b serves for an agent: the one that still waits for the agent. -/
def Slice.walkOf (sl : Slice) (b a : Nat) : Option Census :=
  sl.census.find? fun c => c.bucket = b && c.started && c.left.isEmpty && c.waiting.contains a

/-- A reported line placed in a loaf way, and noted as placed by its census. -/
def placeReported (n : Nat) (a : PA) (c : Census) (agent w : Nat) (st : BitVec 3) (s : State) : State :=
  (ownSlot n (addToLoaf n a w (groupVec [agent]) (ownish st) s)).updSlice n fun sl => { sl with
    census := sl.census.map fun (d : Census) =>
      if d.bucket = c.bucket && d.started then { d with placed := addNew d.placed a } else d }

/-- An untracked line of a suspect set placed in its loaf; with no loaf, it is force-invalidated at its reporter. Own
tracker t holds the eviction that a new loaf or the invalidation may need; none when it is not free. -/
def placeReport (n t : Nat) (a : PA) (c : Census) (agent : Nat) (st : BitVec 3) (s : State) : Option State :=
  match s.loafFind n a with
  | some w => some (placeReported n a c agent w st s)
  | none =>
    match newLoaf n noTracker a c.colour none s with
    | (s, some w) => some (placeReported n a c agent w st s)
    | (_, none) =>
      match allocWork n t .evictOnly a .ended s with
      | none => none
      | some s =>
        let s := s.updTrk n t fun k => { k with colour := c.colour }
        let s : State := match newLoaf n t a c.colour none s with
          | (s, some w) => placeReported n a c agent w st s
          | (s, none) =>
            let sn := [(agent, if ownish st then Op.snOwn else .snKill)]
            (ownSlot n s).updTrk n t fun k => { k with evict := some (
              { isLoaf := false, lines := [{ line := a, round := { all := sn, todo := sn } }] } : Evict) }
        some (advance n t s)

/-- One report of a line (02 Table 02-8); none when it must wait for a tracker. A line that this census itself placed in a
loaf that is not unknown takes the groups and owner state of later reports too: with them dropped its other holders would be lost, and a census never
under-states a holder (05, after Table 05-12; DEDUCED, log 64). -/
def applyReport (n t wt : Nat) (c : Census) (a : PA) (agent : Nat) (st : BitVec 3) (s : State) : Option State :=
  if (s.slice n).resolving a then some s
  else match s.fineFind n a with
    | some w => some (if (s.fineAt n (fineSet a) w).hstate = hsU then reportFine n wt c a w agent st s else s)
    | none =>
      match s.loafFind n a with
      | some w =>
        let l := s.loafAt n (loafSet a) w
        if bit l.pres (lineInLoaf a) then
          if l.lstate = lfUnknown then some (ownSlot n (noteReport n a (groupVec [agent]) (ownish st) s))
          else if c.placed.contains a then some (ownSlot n (addToLoaf n a w (groupVec [agent]) (ownish st) s))
          else some s
        else if s.suspect n a then placeReport n t a c agent st s else some s
      | none => if s.suspect n a then placeReport n t a c agent st s else some s

/-- A census report for the walk that its HTRK names (02 R60), placed with own tracker t; it waits in the input buffer
while no tracker is free for a placement that needs one. For a tracker that runs no walk it is a stray response (DESIGN CHOICE, log
91). -/
def takeReport (n t : Nat) (f : Flits) (rx : Rx) (s : State) : State :=
  let m := rx.m
  let a := m.src.toNat
  if (s.slice n).conds.phase = .hold then s
  else match s.trk n m.trkNo with
    | none => stray n rx s
    | some k =>
      match k.kind with
      | .walk b =>
        if k.owes a .snDone then s
        else if !(k.stage = .live && k.round.sent.contains a) then stray n rx s
        else if m.sub = lsI || 4 < m.sub.toNat || bucketOf m.addr != b then raiseSlice n 0x0E rx.det s
        else match (s.slice n).walkOf b a with
          | some c => (applyReport n t m.trkNo c (lineOf m.addr) a m.sub s).getD (keepFlits n f s)
          | none => s
      | _ => stray n rx s

/-- CNS_LINE. -/
def cnsLine (n t : Nat) (f : Flits) (s : State) : State := rxSlice n (· = .cnsLine) f (takeReport n t f) s

/-- CENSUS_WALK_TIMEOUT: the walk's snoop-response timer (09 R254). -/
def censusWalkTimeout (n t : Nat) (s : State) : State :=
  match s.trk n t with
  | none => s
  | some k =>
    match k.kind with
    | .walk b =>
      if k.stage = .live && k.snoopTimer && (s.slice n).conds.phase != .hold then
        let late := k.round.sent
        let s := raiseSlice n 0x11
          { syn := BitVec.ofNat 16 t, node := BitVec.ofNat 9 (late.headD 0), addr := k.addr } s
        let s := s.updSlice n fun sl => { sl with census := sl.census.map fun c =>
          if c.bucket = b && c.started && c.left.isEmpty then
            { c with unanswered := c.unanswered ++ c.waiting, waiting := [] }
          else c }
        let s := s.updTrk n t fun k => { k with
          round := {}, quar := k.quar ++ late.map fun a => (a, .snDone) }
        closeTrk n t s
      else s
    | _ => s

def execCensusWalkStart (n t b : Nat) (s : State) : Res := atSlice n s (censusWalkStart n t b)
end Sys2Proof.Machine
end

