-- ==== Sys2Proof/Machine/Timers.lean ====
section
/-! DEFINITION. Transaction timers (04 R129 to R136, R455; 05 R153, R165), hold expiry (06 R178), Anvil idle exit and
cool-down (06 Table 06-6), and the end of trackers that wait on a retired agent (05 R155, 09 R247). Timers of a slice
in HOLD do not fire (13 R337; log 19). -/

namespace Sys2Proof.Machine

/-! ### The snoop-response timer (04 R131, R455) -/

/-- The snoop-response timeout of a tracker's own round (04 R131, R165). -/
def snoopTimedOut (n t : Nat) (s : State) : State :=
  match s.trk n t with
  | none => s
  | some k => roundTimedOut n t k.round.late (timeoutFin k) s

/-- Timers run in a slice that is not in HOLD. -/
def Slice.timers (sl : Slice) : Bool := sl.conds.phase != .hold && sl.conds.phase != .off

/-- SNOOP_RESPONSE_TIMEOUT. -/
def snoopResponseTimeout (n t : Nat) (s : State) : State :=
  match s.trk n t with
  | none => s
  | some k =>
    let walk := match k.kind with | .walk _ => true | _ => false
    if k.stage = .live && k.snoopTimer && !k.round.ended && !walk && (s.slice n).timers then
      advance n t (snoopTimedOut n t s)
    else s

/-- An eviction slot's victims that have not all been answered placed in P, and the slot quarantined (04 R455). -/
def evictTimedOut (n t : Nat) (k : Tracker) (e : Evict) (s : State) : State :=
  let late := e.lines.filter fun l => !l.round.ended
  let owed := late.flatMap fun l => l.round.owes
  let s := s.updTrk n t fun k => { k with
    quar := k.quar ++ owed
    evict := some { e with timer := false, quarantined := true, lines := e.lines.filter fun l => l.round.ended } }
  let s := linesTimedOut n t k (late.flatMap fun l => l.round.late) late Round.late s
  s.updTrk n t fun k => if owed.isEmpty then { k with evict := none } else k

/-- EVICTION_SNOOP_TIMEOUT. -/
def evictionSnoopTimeout (n t : Nat) (s : State) : State :=
  let s := closeEvict n t s
  match s.trk n t with
  | none => s
  | some k =>
    match k.evict with
    | some e =>
      if e.timer && !e.quarantined && (e.lines.any fun l => !l.round.ended) && (s.slice n).timers then
        advance n t (evictTimedOut n t k e s)
      else s
    | none => s

/-! ### The Seal timer (04 R132, 05 R153) -/

/-- The entry that R132 writes: the holder set and whether the line enters P. A read that gave a copy to keep leaves the
entry it would have written, with its requester and any target still to answer named; a write or report leaves the holders
that remain, and its sender. A forwarded read whose SnDone had DFWD clear, and whose own data the home has not sent yet, gave
no copy: it leaves what it would have written, with no P (DESIGN CHOICE, log 94). -/
def sealFin (s : State) (n : Nat) (k : Tracker) : Fin × Bool :=
  let f := s.finOf n k
  let who := if isCaching k.src.toNat then [k.src.toNat] else []
  if k.waitDat then
    match f with
    | .keep => if k.look.res = .p then (.keep, false) else (withHolder (s.heldFin n k) who 0, true)
    | f => (withHolder f who 0, true)
  else if k.keeps then
    match f with
    | .keep => (withHolder (s.heldFin n k) (addEach who k.round.late) 0, true)
    | f => (withHolder f k.round.late 0, true)
  else (f, k.toP)

/-- A transaction ended as by its Seal timer, with its record `f`. Whatever its round or read still awaits is left to
quarantine, as after the other timers: the spec gives the Seal timer none (DESIGN CHOICE, log 62). -/
def sealEnd (n t : Nat) (k : Tracker) (f : Fin × Bool) (s : State) : State :=
  let s := leaveEntry n t k f.1 f.2 (countEvents n k (if f.2 then .keep else f.1) s)
  let s := addLat n k (bill n k.class s)
  let s := s.updTrk n t fun k => { k with
    round := {}, memNode := none, quar := k.quar ++ k.round.owes ++ k.owesMem }
  endTrk n t s

/-- The Seal timer's end of a transaction, without its wait: fault, entry, fence (R132, R153; 14 R363). The fence holds the
transaction's requester and RQTX, a stash's too; the fault names the sender of the missing Seal (DEDUCED, log 97). -/
def sealTimedOut (n t : Nat) (s : State) : State :=
  match s.trk n t with
  | none => s
  | some k =>
    let who := k.sealer
    let s := raiseSlice n 0x12 { syn := BitVec.ofNat 16 t, node := who.1, addr := lineOf k.addr } s
    let s := s.updSlice n fun sl => { sl with fences := mins sl.fences t (k.src, k.rqtx) }
    if k.stage = .denied then endDenied n t k s
    else sealEnd n t k (sealFin s n k) s

/-- SEAL_TIMEOUT. -/
def sealTimeout (n t : Nat) (s : State) : State :=
  match s.trk n t with
  | none => s
  | some k => if k.sealTimer && k.stage != .ended && (s.slice n).timers then sealTimedOut n t s else s

/-! ### The memory-read timer (04 R133) -/

/-- The holders that the P entry of a line whose memory read timed out names; the spec names none: those of the entry or loaf
found, and for a line in U the targets that keep it or have not answered (DESIGN CHOICE, log 93). -/
def memoryFin (k : Tracker) : Fin :=
  match k.look.res with
  | .u => match promo k.round k.round.late with
    | .hold o _ l v => .hold o false l v
    | f => f
  | _ => .keep

/-- MEMORY_READ_TIMEOUT. A hint is abandoned: its tracker waits for the MemDat, and its line is free. No fault is raised
for it: "abandoned instead" is read as in place of all four steps (DESIGN CHOICE, log 63). -/
def memoryReadTimeout (n t : Nat) (s : State) : State :=
  match s.trk n t with
  | none => s
  | some k =>
    match k.memNode with
    | none => s
    | some node =>
      if !(k.memTimer && k.stage = .live && (s.slice n).timers) then s
      else if k.kind = .msg .pfHint then
        endTrk n t (leavePoison n t
          (bill n .lookup (s.updTrk n t fun k => { k with memNode := none, quar := k.quar ++ k.owesMem })))
      else
        let s := raiseSlice n 0x13 { syn := BitVec.ofNat 16 t, node, addr := lineOf k.addr } s
        let r := answerP n t s
        advance n t (endInP n t k (memoryFin k) (k.round.owes ++ k.owesMem ++ r.2) r.1)

/-! ### The stash-answer timer (04 R134) -/

/-- The wait for a stash answer given up: the line is written from the line buffer. -/
def stashRefused (n t : Nat) (owed : List (Nat × Owed)) (s : State) : State :=
  let s := s.updTrk n t fun k => { k with
    waitStash := false, stashTimer := false, round := { k.round with todo := [], sent := [] }, quar := k.quar ++ owed }
  advance n t (writeBuf n t s)

/-- STASH_ANSWER_TIMEOUT. -/
def stashAnswerTimeout (n t : Nat) (s : State) : State :=
  match s.trk n t with
  | none => s
  | some k =>
    if k.waitStash && k.stashTimer && (s.slice n).timers then
      let s := raiseSlice n 0x11 { syn := BitVec.ofNat 16 t, node := k.peer, addr := lineOf k.addr } s
      stashRefused n t [(k.peer.toNat, .stash)] s
    else s

/-! ### Holds and Anvil times -/

/-- HOLD_EXPIRY (06 R178). -/
def holdExpiry (n : Nat) (line : PA) (s : State) : State :=
  censusLeft n (lineOf line) (s.updSlice n fun sl => { sl with holds := sl.holds.filter fun h => h.line != lineOf line })

/-- ANVIL_IDLE_EXIT (06 Table 06-7): the line exits when no tracker serves it. -/
def anvilIdleExit (n : Nat) (line : PA) (s : State) : State :=
  let a := lineOf line
  let busy := (s.slice n).trk.any fun kv => kv.2.blocks a
  if (s.slice n).timers && s.owns n a && !busy && (List.range 16).any fun w => s.fineLive n w && (s.fineAt n (fineSet a) w).anvil &&
      (s.fineAt n (fineSet a) w).isFor a then anvilExit n a s
  else s

/-- ANVIL_COOLDOWN_END (06 Table 06-6). -/
def anvilCooldownEnd (n : Nat) (line : PA) (s : State) : State :=
  s.updSlice n fun sl => { sl with cooldowns := sl.cooldowns.filter (· != lineOf line) }

/-! ### Trackers that wait on a retired agent (05 Table 05-11, 09 R247) -/

/-- The agent was the owner or holder that a round depends on. -/
def Tracker.ownedBy (k : Tracker) (a : Nat) : Bool :=
  (k.look.res = .x || k.look.res = .o) && k.look.fine.owner = some a

/-- SnDone STATE I, HELD clear, recorded for an agent that is gone. -/
def Round.gone' (r : Round) (a : Nat) : Round :=
  { r with todo := r.todo.filter fun p => p.1 != a, sent := r.sent.erase a, early := r.early.erase a,
           answers := r.answers ++ ([{ agent := a, st := lsI, aux := 0 }] : List Answer) }

/-- An agent that is gone, whose answer hangs on what the other targets return (05 Table 05-11, third row). -/
def Round.goneLater (r : Round) (a : Nat) : Round :=
  { r with todo := r.todo.filter fun p => p.1 != a, sent := r.sent.erase a, gone := addNew r.gone a }

/-- The round waits on an agent, sent or not. -/
def Round.waitsOn (r : Round) (a : Nat) : Bool := r.at a || r.todo.any fun p => p.1 = a

/-- The own round of tracker t, for an agent that has retired (05 Table 05-11, rows 1 to 4). "The holders that answered" of row 2
are read as the targets that answered that they keep the line (DESIGN CHOICE, log 105). -/
def goneOwn (n t a : Nat) (k : Tracker) (s : State) : State :=
  let timeout (l : List Nat) : State :=
    roundTimedOut n t [a] (.hold none false l 0)
      (s.updTrk n t fun k => { k with round := { k.round with
        sent := k.round.sent.erase a, owed := k.round.owed.erase a, todo := k.round.todo.filter fun p => p.1 != a } })
  if k.round.owed.contains a then timeout (addNew (k.round.answers.map (·.agent)) a)
  else if k.ownedBy a then timeout k.round.keepers
  else
    let wait := k.look.res = .u || k.look.res = .coarseO
    advance n t (s.updTrk n t fun k => { k with round := if wait then k.round.goneLater a else k.round.gone' a })

/-- A line of an eviction slot, for an agent that has retired: the agents that P is to name when the line is lost (rows 1
and 2 of Table 05-11), or none and the line with the agent's answer given or left to the other targets'. -/
def EvLine.lose (e : Evict) (a : Nat) (l : EvLine) : Option (List Nat) × EvLine :=
  if l.round.owed.contains a then (some (addNew (l.round.answers.map (·.agent)) a), l)
  else if !l.round.waitsOn a then (none, l)
  else if !e.isLoaf && e.fine.owner = some a then (some l.round.keepers, l)
  else if e.isLoaf && e.loaf.lstate != lfClean then (none, { l with round := l.round.goneLater a })
  else (none, { l with round := l.round.gone' a })

/-- The eviction slot of tracker t, for an agent that has retired. -/
def goneEvict (n t a : Nat) (k : Tracker) (e : Evict) (s : State) : State :=
  let x := e.lines.map fun l => l.lose e a
  let bad := x.filter fun y => y.1.isSome
  let rest := (x.filter fun y => y.1.isNone).map (·.2)
  let owed := bad.flatMap fun y => y.2.round.owes.filter fun q => q.1 != a
  let s := s.updTrk n t fun k => { k with quar := k.quar ++ owed, evict := some { e with lines := rest } }
  let s :=
    if bad.isEmpty then s
    else
      let addr := (bad.map (·.2.line)).headD 0
      let s := raiseSlice n 0x11 { syn := BitVec.ofNat 16 t, node := BitVec.ofNat 9 a, addr } s
      eachOf bad (fun y s => placeP n t y.2.line k.colour (y.1.getD []) 0 s) s
  advance n t s

/-- A tracker of the retired agent's own message (09 R247, 05 Table 05-11 rows 5 to 8). One whose answer is sent and sealed
waits for nothing of its agent, and ends as it would. Table 05-11 has no row for the Seal after a Grant of STATE E or M (an
Upgrade): it ends as by the Seal timer, P with the agent named (DESIGN CHOICE, log 95). -/
def goneOwner (n t : Nat) (k : Tracker) (s : State) : State :=
  match k.stage with
  | .chain | .ready => endTrk n t ((leavePoison n t s).updTrk n t fun k => { k with kind := .evictOnly })
  | .denied => endDenied n t k s
  | .live =>
    if k.ans.isSome && k.sealGot then s
    else if k.waitSeal then
      match k.ans with
      | some (.datS, _) =>
        advance n t (s.updTrk n t fun k => { k with sealGot := true, waitSeal := false, sealTimer := false, silent := true })
      | some (.datFwd, _) =>
        if k.rdone then goneSeal s
        else advance n t (s.updTrk n t fun k => { k with
          sealGot := true, waitSeal := false, sealTimer := false, silent := true })
      | some (.datX, _) | some (.datO, _) | some (.datAtom, _) | some (.grant, _) => goneSeal s
      | _ => s
    else if k.waitDat then goneSeal s
    else match k.kind with
      | .msg .drainW => s.updSlice n (·.dropTrk t)
      | .msg op =>
        if k.ans.isNone && op.sealed && op != .atomOp then
          advance n t (s.updTrk n t fun k => { k with silent := true, sealGot := true })
        else s.updTrk n t fun k => { k with silent := true }
      | _ => s
  | .ended => s
where
  /-- Seal timeout without the wait, with the agent named. -/
  goneSeal (s : State) : State :=
    match s.trk n t with
    | some k =>
      let s := raiseSlice n 0x12 { syn := BitVec.ofNat 16 t, node := k.sealer.1, addr := lineOf k.addr } s
      let f := sealFin s n k
      let who := if isCaching k.src.toNat then [k.src.toNat] else []
      let atom := k.ans.map (·.1) = some .datAtom && k.look.res != .p
      sealEnd n t k (if atom then withHolder f.1 who 0 else f.1, f.2 || atom) s
    | none => s

/-- A quarantine without what an agent owes. -/
def goneQuar (a : Nat) (k : Tracker) : Tracker :=
  let q := k.quar.filter fun x => x.1 != a
  let e := match k.evict with
    | some e => if e.quarantined && q.isEmpty then none else some e
    | none => none
  { k with quar := q, evict := e }

/-- Everything that tracker t waits for from agent a, given up. -/
def goneTracker (n a t : Nat) (s : State) : State :=
  let s : State := s.updTrk n t (goneQuar a)
  let s : State := match s.trk n t with
    | some k =>
      match k.kind with
      | .walk b => if k.stage = .live && k.round.waitsOn a then walkDone n t b a s else s
      | _ =>
        if k.stage = .live && k.waitStash && k.peer.toNat = a then stashRefused n t [] s
        else if k.stage = .live && k.stashed && !k.sealGot && k.peer.toNat = a then goneOwner n t k s
        else if k.stage = .live && k.round.waitsOn a then goneOwn n t a k s
        else s
    | none => s
  let s : State := match s.trk n t with
    | some k =>
      match k.evict with
      | some e => if !e.quarantined && e.lines.any (fun l => l.round.waitsOn a) then goneEvict n t a k e s else s
      | none => s
    | none => s
  let s : State := match s.trk n t with
    | some k =>
      match k.kind with
      | .msg _ =>
        if k.src.toNat != a then s
        else if k.stashed then s.updTrk n t fun k => { k with silent := true }
        else goneOwner n t k s
      | _ => s
    | none => s
  freeIfDone n t s

/-- A census counts a retired agent as having reported (05 Table 05-12). -/
def goneCensus (n a : Nat) (s : State) : State :=
  censusEnds n (s.updSlice n fun sl => { sl with census := sl.census.map fun c =>
    { c with waiting := c.waiting.filter (· != a), unanswered := c.unanswered.filter (· != a) } })

/-- Step 3 of 09 R246 at slice n. -/
def goneSlice (a n : Nat) (s : State) : State :=
  if (s.slice n).conds.phase = .hold then s
  else
    let held := ((s.slice n).holds.filter fun h => h.agent = a).map (·.line)
    let s := s.updSlice n fun sl => { sl with
      fences := sl.fences.filter fun kv => kv.2.1.toNat != a,
      holds := sl.holds.filter fun h => h.agent != a }
    sweep n (goneCensus n a (eachOf ((s.slice n).byAge.map (·.1)) (goneTracker n a) (holdsEnded n held s)))

end Sys2Proof.Machine
end

