-- ==== Sys2Proof/Machine/Receive.lean ====
section
/-! DEFINITION. The meanings of the messages that slices receive and of their timers. Messages that a slice has accepted and
not yet handled (a pause, 13 R352; a census report that waits for a tracker, 03 R95) are handled, in order, as soon as they
can be. -/

namespace Sys2Proof.Machine

/-- An accepted RSP or DAT message handled; own tracker t serves what a census report may need. -/
def sliceMessage (n t : Nat) (f : Flits) (s : State) : State :=
  readSlice n f (fun rx s =>
    match rx.m.op with
    | .snDone => onTracker n (takeDone n) rx s
    | .cnsLine => takeReport n t f rx s
    | .datWb => onTracker n (takeDatWb n) rx s
    | .seal => unlessHold n (takeSeal n) rx s
    | .stashTake => unlessHold n (takeStash n true) rx s
    | .stashRefuse => unlessHold n (takeStash n false) rx s
    | .memDat => unlessHold n (takeMemDat n) rx s
    | .memAck => unlessHold n (takeMemAck n) rx s
    | .memRd | .memWr | .memWd => unlessHold n (trayMessage n) rx s
    | _ => s) s

/-- A message whose handling must wait for mirrored writes to be acknowledged stays in the input buffer (13 R336); `take` takes
it out of the mesh. -/
def orBuffer (n : Nat) (f : Flits) (take : State → State) (go : State → State) (s : State) : State :=
  let s' := go s
  if s.mirrorOver n s' then keepFlits n f (take s) else s'

/-- The input buffer of slice n handled; what must wait longer goes back to it. -/
def drainIn (n : Nat) (s : State) : State :=
  let l := (s.slice n).inBuf
  if l.isEmpty || s.paused n || (s.slice n).conds.phase = .off then s
  else eachOf l (fun f s => orBuffer n f id (sliceMessage n (s.slice n).freeTrk f) s)
    (s.updSlice n fun sl => { sl with inBuf := [] })

/-- An event at slice n, then what its input buffer held. -/
def thenDrain (n : Nat) (f : State → State) (s : State) : State := drainIn n (f s)

/-- A message received by slice n. -/
def onMessage (n : Nat) (want : Op → Bool) (f : Flits) (go : Rx → State → State) (s : State) : Res :=
  atSlice n s (thenDrain n (orBuffer n f (takeFlits f) (rxSlice n want f go)))

/-- A timer of slice n. What it does waits while the slice pauses its array access (13 R352, 17 R423; DEDUCED, log 89). -/
def onTimer (n : Nat) (f : State → State) (s : State) : Res :=
  atSlice n s (thenDrain n (mirrorBound n fun s => if s.paused n then s else f s))

def execSnDone (n : Nat) (f : Flits) (s : State) : Res := onMessage n (· = .snDone) f (onTracker n (takeDone n)) s
def execCnsLine (n t : Nat) (f : Flits) (s : State) : Res := atSlice n s (thenDrain n (orBuffer n f (takeFlits f) (cnsLine n t f)))
def execDatWb (n : Nat) (f : Flits) (s : State) : Res := onMessage n (· = .datWb) f (onTracker n (takeDatWb n)) s
def execSeal (n : Nat) (f : Flits) (s : State) : Res := onMessage n (· = .seal) f (unlessHold n (takeSeal n)) s
def execStashTake (n : Nat) (f : Flits) (s : State) : Res :=
  onMessage n (· = .stashTake) f (unlessHold n (takeStash n true)) s
def execStashRefuse (n : Nat) (f : Flits) (s : State) : Res :=
  onMessage n (· = .stashRefuse) f (unlessHold n (takeStash n false)) s
def execMemDat (n : Nat) (f : Flits) (s : State) : Res := onMessage n (· = .memDat) f (unlessHold n (takeMemDat n)) s
def execMemAck (n : Nat) (f : Flits) (s : State) : Res := onMessage n (· = .memAck) f (unlessHold n (takeMemAck n)) s
def execTrayAccess (n : Nat) (f : Flits) (s : State) : Res :=
  onMessage n (fun o => o = .memRd || o = .memWr || o = .memWd) f (unlessHold n (trayMessage n)) s
def execCensusWalkTimeout (n t : Nat) (s : State) : Res := onTimer n (censusWalkTimeout n t) s
def execSnoopResponseTimeout (n t : Nat) (s : State) : Res := onTimer n (snoopResponseTimeout n t) s
def execEvictionSnoopTimeout (n t : Nat) (s : State) : Res := onTimer n (evictionSnoopTimeout n t) s
def execSealTimeout (n t : Nat) (s : State) : Res := onTimer n (sealTimeout n t) s
def execMemoryReadTimeout (n t : Nat) (s : State) : Res := onTimer n (memoryReadTimeout n t) s
def execStashAnswerTimeout (n t : Nat) (s : State) : Res := onTimer n (stashAnswerTimeout n t) s
def execHoldExpiry (n : Nat) (line : PA) (s : State) : Res := onTimer n (holdExpiry n line) s
def execAnvilIdleExit (n : Nat) (line : PA) (s : State) : Res := onTimer n (anvilIdleExit n line) s
def execAnvilCooldownEnd (n : Nat) (line : PA) (s : State) : Res := onTimer n (anvilCooldownEnd n line) s
end Sys2Proof.Machine
end

