-- ==== Sys2Proof/Machine/Engines.lean ====
section
/-! DEFINITION. Engines of a slice: local steals (08 R218 to R220) and recipe activation (13 R349). -/

namespace Sys2Proof.Machine

/-! ### Ready queues -/

/-- Ready trackers of an engine. -/
def State.readyOf (s : State) (n e : Nat) : Nat :=
  ((s.slice n).trk.filter fun kv => (s.slice n).queued kv.2 && s.engineOf n kv.2 = e).length

/-- Ready trackers of a bucket. -/
def Slice.readyIn (sl : Slice) (b : Nat) : Nat :=
  (sl.trk.filter fun kv => sl.queued kv.2 && bucketOf kv.2.addr = b).length

/-- Buckets an engine owns. -/
def State.engineBuckets (s : State) (n e : Nat) : List Nat :=
  (s.heldBuckets n).filter fun b => (s.bkt n b).engine = e

/-! ### What a steal or a freeze ends at once -/

/-- The lines of a slice in Anvil mode. -/
def State.anvilLines (s : State) (n : Nat) : List PA :=
  ((s.slice n).arr.fine.filter fun kv => s.fineLive n (kv.1 % 16) && (decFine kv.2).anvil).map fun kv =>
    (decFine kv.2).line (kv.1 / 16)

/-- Every hold of a line of bucket b ends, and every line of b in Anvil mode exits (06 R178, Table 06-7). While the slice pauses
its array access nothing is written: what is left is done before the bucket passes on (17 R423). -/
def quietBucket (n b : Nat) (s : State) : State :=
  if s.paused n then s
  else
    let held := ((s.slice n).holds.map (·.line)).filter fun a => bucketOf a = b
    let s := s.updSlice n fun sl => { sl with holds := sl.holds.filter fun h => bucketOf h.line != b }
    eachOf ((s.anvilLines n).filter fun a => bucketOf a = b) (anvilExit n) (holdsEnded n held s)

/-- An eviction slot outside quarantine, or a write waiting for the merging buffer, holds a line of bucket b. -/
def Tracker.evictsIn (k : Tracker) (b : Nat) : Bool :=
  (k.pendWr.any fun w => bucketOf w.1 = b) ||
  match k.evict with
  | some e => !e.quarantined && e.lines.any fun l => bucketOf l.line = b
  | none => false

/-- No tracker serves a line of bucket b and no eviction slot holds one; quarantine does not count (08 R219). -/
def Slice.quiet (sl : Slice) (b : Nat) : Bool :=
  !sl.trk.any fun kv => (kv.2.stage = .live && kv.2.lineUser && bucketOf kv.2.addr = b) || kv.2.evictsIn b

/-- A map update sent to every shim without acknowledgment: the entry's ENGINE alone changes (08 R217). -/
def sendEngine (b : Nat) (s : State) : State :=
  let s := tableCheck tblMaster b s
  let g := s.master b
  eachOf s.shimNums (fun sh s => s.wire (.mapUpdate sh b g.slice g.engine g.gen false)) s

/-! ### Steals -/

/-- Steps 1 and 2 of 08 R219. -/
def startSteal (n b thief : Nat) (why : StealWhy) (s : State) : State :=
  quietBucket n b (s.updSlice n fun sl => { sl with
    steal := some { bucket := b, victim := (s.bkt n b).engine, thief, why } })

/-- The bucket an idle engine steals: the victim's with most ready trackers, neither frozen nor under its hold-off. -/
def State.stealBucket (s : State) (n v : Nat) : Option Nat :=
  argMax (s.slice n).readyIn ((s.ownedBuckets n).filter fun b => (s.bkt n b).engine = v && !(s.slice n).holdoffs.contains b)

/-- STEAL_IDLE_START: engine e, idle for IDLE HCLK, steals from the engine with most ready trackers (08 R218). -/
def stealIdleStart (n e : Nat) (s : State) : State :=
  let sl := s.slice n
  if !sl.serving || 4 ≤ e || sl.steal.isSome || s.readyOf n e != 0 || mget 0 sl.idleFor e < sl.stealCfg.idle then s
  else
    match argMax (s.readyOf n) ((List.range 4).filter (· != e)) with
    | some v =>
      if s.readyOf n v < sl.stealCfg.minq then s
      else match s.stealBucket n v with
        | some b => startSteal n b e .idle s
        | none => s
    | none => s

/-! ### Recipe activation (13 R349) -/

/-- The record of an engine's activation: 0 done, 1 skipped, 2 failed, 3 refused (16 Table 16-2 0x304). -/
def recipeRec (n e what : Nat) (id : BitVec 32) (s : State) : State :=
  s.feed (sliceFeed n) (hrec 0x304 1 (sliceNode n) (p48 (n + 256 * e + 4096 * what)) (id.setWidth 48) 0)

/-- The highest revision that an agent has negotiated. -/
def State.topRev (s : State) : Nat := s.shims.foldl (fun r kv => max r kv.2.neg) 0

/-- The shadow bank of engine e as an activation reads it: a word that fails parity clears VALID (15 source 0x1E). -/
def checkShd (n e : Nat) (s : State) : State :=
  let x := s.shdBank n e
  if !x.valid then s
  else
    let r := injSlice n 0x1E s
    if x.bad != r.1 then
      (raiseSlice n 0x1E { syn := x.failSyn e, inj := r.1 } r.2).setShdBank n e { x with valid := false }
    else r.2

/-- Step 1: the next named engine whose shadow bank is VALID and has its digest; the activation ends after the last. An
image below the negotiated revision of an admitted agent is refused here too, if it was loaded since the commit (R350). -/
def recipeEngine (n : Nat) (r : RecipeAct) : List Nat → State → State
  | [], s => (s.updSlice n fun sl => { sl with recipe := none }).setConds n fun c => { c with pRecipe := false }
  | e :: rest, s =>
    let s := checkShd n e s
    let x := s.shdBank n e
    if x.valid && r.digests.contains (e, sha256 x.image) && x.lcp < s.topRev then
      recipeEngine n r rest (recipeRec n e 3 x.id s)
    else if x.valid && r.digests.contains (e, sha256 x.image) then
      s.updSlice n fun sl => { sl with
        recipe := some { engines := rest, digests := r.digests, current := some e } }
    else recipeEngine n r rest (recipeRec n e 1 x.id s)

/-- The waiting trackers of a bucket whose steal is over are to start in age order (08 R219 step 4, R220). -/
def parkBucket (b : Nat) (sl : Slice) : Slice :=
  let park (k : Tracker) : Tracker :=
    if k.lineUser && (k.stage = .ready || k.stage = .chain) && bucketOf k.addr = b then { k with parked := true } else k
  { sl with trk := mmap (fun _ => park) sl.trk }

/-- Step 2: the next bucket of engine e goes to the sibling that owns the fewest. The rule gives no order among the buckets: the
lowest-numbered goes first, and comes back first (DESIGN CHOICE, log 115). -/
def recipeOut (n : Nat) (s : State) : State :=
  match (s.slice n).recipe with
  | some { current := some e, retry := none, .. } =>
    match (s.ownedBuckets n).find? fun b => (s.bkt n b).engine = e with
    | some b =>
      match argMin (fun x => (s.engineBuckets n x).length) ((List.range 4).filter (· != e)) with
      | some x => startSteal n b x .recipe s
      | none => s
    | none => s
  | _ => s

/-- The activation goes on: out, back (step 4), and to the next engine. A bucket that another steal has passed on comes back
from where it is; a frozen one is waited for, until it is served again or has gone to another slice. -/
def recipeNext (n : Nat) (s : State) : State :=
  if (s.slice n).steal.isSome then s
  else match (s.slice n).recipe with
    | none => s
    | some r =>
      match r.current with
      | none => recipeOut n (recipeEngine n r r.engines s)
      | some e =>
        if !r.returning then recipeOut n s
        else if r.retry.isSome then s
        else match r.out.find? fun x => (s.heldBuckets n).contains x.1 && (s.bkt n x.1).engine != e with
          | some x => if (s.bkt n x.1).kind = .owned then startSteal n x.1 e .recipe s else s
          | none =>
            let s := if r.failed then s else recipeRec n e 0 (s.actBank n e).id s
            recipeOut n (recipeEngine n r r.engines s)

/-- A recipe steal of bucket b to engine x ended at its flip. -/
def recipeStolen (b x : Nat) (r : RecipeAct) : RecipeAct :=
  if r.returning then { r with out := r.out.filter fun y => y.1 != b, fails := 0 }
  else { r with out := r.out ++ [(b, x)], fails := 0 }

/-- A recipe steal of bucket b abandoned: tried again after the hold-off, up to 8 times. A bucket that fails 8 times on
its way back stays where it is (log 21). -/
def recipeFailed (n b : Nat) (s : State) : State :=
  match (s.slice n).recipe with
  | some r =>
    if r.fails + 1 < 8 then
      s.updSlice n fun sl => { sl with recipe := some { r with fails := r.fails + 1, retry := some b } }
    else
      let s := s.updSlice n fun sl => { sl with recipe := some (
        if r.returning then { r with out := r.out.filter fun y => y.1 != b, fails := 0 }
        else { r with returning := true, failed := true, fails := 0 }) }
      match r.current with
      | some e => recipeRec n e 2 (s.shdBank n e).id s
      | none => s
  | none => s

/-- RECIPE_BANK_SWAP: step 3 of 13 R349. -/
def recipeBankSwap (n : Nat) (s : State) : State :=
  match (s.slice n).recipe with
  | some r =>
    match r.current with
    | some e =>
      if r.returning || (s.slice n).steal.isSome || !(s.engineBuckets n e).isEmpty ||
          !((s.slice n).serving || (s.slice n).conds.phase = .retain) then s
      else
        let a := s.actBank n e
        let s := (s.setActBank n e (s.shdBank n e)).setShdBank n e a
        recipeNext n (s.updSlice n fun sl => { sl with recipe := some { r with returning := true, fails := 0 } })
    | none => s
  | none => s

/-! ### Ends of a steal -/

/-- The steal is over: the bucket is under its hold-off (08 R220), and an activation goes on. -/
def endSteal (n b : Nat) (s : State) : State :=
  recipeNext n (s.updSlice n fun sl => { sl with steal := none, holdoffs := addNew sl.holdoffs b })

/-- The steal abandoned: V resumes the bucket. -/
def dropSteal (n : Nat) (x : Steal) (s : State) : State :=
  let s := s.updSlice n fun sl => parkBucket x.bucket { sl with steal := none }
  let s := match x.why with
    | .idle => s
    | .command job => finishJob job ccABORTED 0 s
    | .recipe => recipeFailed n x.bucket s
  endSteal n x.bucket s

/-- STEAL_FLIP: steps 3 to 5 of 08 R219. A hold recorded, or a line that entered Anvil mode, while the bucket drained ends
with it. -/
def stealFlip (n : Nat) (s : State) : State :=
  let sl := s.slice n
  match sl.steal with
  | none => s
  | some x =>
    if !sl.serving || s.paused n || !sl.quiet x.bucket then s
    else
      let e := s.bkt n x.bucket
      let s := (quietBucket n x.bucket s).updSlice n (parkBucket x.bucket)
      let s := s.setBkt n x.bucket { e with engine := x.thief }
      let s := s.setMaster x.bucket { s.master x.bucket with engine := x.thief }
      let s := sendEngine x.bucket s
      let s := match x.why with
        | .idle => s
        | .command job => finishJob job ccOK (e.gen.toNat + 256 * n) s
        | .recipe => s.updSlice n fun sl => { sl with recipe := sl.recipe.map (recipeStolen x.bucket x.thief) }
      endSteal n x.bucket s

/-- STEAL_ABANDON: the drain has not ended within DRAIN microseconds (08 R220). -/
def stealAbandon (n : Nat) (s : State) : State :=
  match (s.slice n).steal with
  | some x => if (s.slice n).serving && !(s.slice n).quiet x.bucket then dropSteal n x s else s
  | none => s

/-- STEAL_HOLDOFF_END. -/
def stealHoldoffEnd (n b : Nat) (s : State) : State :=
  if (s.slice n).holdoffs.contains b then
    recipeNext n (s.updSlice n fun sl => { sl with
      holdoffs := sl.holdoffs.filter (· != b)
      recipe := sl.recipe.map fun r => if r.retry = some b then { r with retry := none } else r })
  else s

/-! ### Recipe activation by two-party change (13 R349, R350, 14 R375) -/

/-- Slice n takes the named engines. The record of a refused RECIPE_ACTIVATE is 3: it names an image below the negotiated
revision of an admitted agent (13 R350), or its slice has no banks to swap, OFF or in HOLD; engines named during an activation
follow it (DEDUCED, log 43). -/
def recipeActivate (n : Nat) (l : List (Nat × BitVec 256)) (s : State) : State :=
  let named (e : Nat × BitVec 256) : Bool := (s.shdBank n e.1).valid && sha256 (s.shdBank n e.1).image = e.2
  let low := l.find? fun e => named e && (s.shdBank n e.1).lcp < s.topRev
  let ph := (s.slice n).conds.phase
  match low, l with
  | some e, _ => recipeRec n e.1 3 (s.shdBank n e.1).id s
  | none, [] => s
  | none, e :: _ =>
    if ph = .off || ph = .hold then recipeRec n e.1 3 (s.shdBank n e.1).id s
    else match (s.slice n).recipe with
      | some r =>
        s.updSlice n fun sl => { sl with
          recipe := some { r with engines := r.engines ++ l.map (·.1), digests := r.digests ++ l } }
      | none =>
        let s := s.updSlice n fun sl => { sl with recipe := some { engines := l.map (·.1), digests := l } }
        recipeNext n (s.setConds n fun c => { c with pRecipe := true })

/-- The COUNTERMARK of a job completed, and the recipe activations that its record orders. -/
def countermarked (id pid : Nat) (acts : List (Nat × List (Nat × BitVec 256))) (s : State) : State :=
  eachOf acts (fun x => recipeActivate x.1 x.2) (finishJob id ccOK pid s)

/-- Slice n has no more to recolour for a COUNTERMARK. -/
def recoloured (id n : Nat) (s : State) : State :=
  match s.job id with
  | some { kind := .countermark pid left acts, .. } =>
    let left := left.filter (· != n)
    if left.isEmpty then countermarked id pid acts s else s.updJob id fun _ => .countermark pid left acts
  | _ => s

/-- Slice n has nothing more to recolour. -/
def recolouredAll (n : Nat) (s : State) : State :=
  eachOf s.spine.jobs (fun j s => match j.kind with
    | .countermark _ left _ => if left.contains n then recoloured j.id n s else s
    | _ => s) s

def execStealIdleStart (n e : Nat) (s : State) : Res := atSlice n s (stealIdleStart n e)
def execStealFlip (n : Nat) (s : State) : Res := atSlice n s (stealFlip n)
def execStealAbandon (n : Nat) (s : State) : Res := atSlice n s (stealAbandon n)
def execStealHoldoffEnd (n b : Nat) (s : State) : Res := atSlice n s (stealHoldoffEnd n b)
def execRecipeBankSwap (n : Nat) (s : State) : Res := atSlice n s (recipeBankSwap n)

end Sys2Proof.Machine
end

