-- ==== Sys2Proof/Machine/Move.lean ====
section
/-! DEFINITION. Moving buckets between slices (08 R221 to R232; 13 R330 to R336): copying, freeze, flip, stubs, purge,
evacuation and the end of a slice copy. -/

namespace Sys2Proof.Machine

/-! ### Taking part in a move or a copy -/

/-- A scan whose buckets are moving, or are to be purged. -/
def Scan.moving (sc : Scan) : Bool := sc.kind = .move || sc.kind = .purge

/-- Slice n is source or target of a move scan whose purge has not ended (08 R222). -/
def State.inMove (s : State) (n : Nat) : Bool :=
  ((s.slice n).scans.any Scan.moving) ||
  s.sliceNums.any fun m => (s.slice m).scans.any fun sc => sc.moving && (sc.moves ++ sc.flipped).any fun x => x.target = n

/-- Slice n is source or target of a SLICE_COPY. -/
def State.inCopy (s : State) (n : Nat) : Bool :=
  s.spine.jobs.any fun j => match j.kind with
    | .copy src tgt _ _ _ => src = n || tgt = n
    | _ => false

/-- P_MOVE follows the scans (13 Table 13-2). -/
def settleMove (s : State) (n : Nat) : State :=
  let b := s.inMove n
  if (s.slice n).conds.pMove = b then s else s.setConds n fun c => { c with pMove := b }

def settleMoves (l : List Nat) (s : State) : State := eachOf l (fun n s => settleMove s n) s

/-- The slice enters RETAIN; ways that Assay disabled stay disabled. It has no line left to recolour (14 R375), and no way to convert:
the next SEED clears its arrays (07 R208). -/
def enterRetain (n : Nat) (s : State) : State :=
  recolouredAll n ((s.updSlice n fun sl => { sl with
    scans := sl.scans.filter fun sc => sc.kind != .recolour && sc.kind != .tray }).setConds n (·.into .retain))

/-! ### Slice reset (17 R431) and SEED (13 R328) -/

/-- What SEED clears. -/
def Slice.seeded (sl : Slice) : Slice :=
  { sl with
    arr := {}, susFine := {}, susLoaf := {}, holds := [], contention := [],
    cooldowns := [], temper := {}, ledger := {}, census := [], mirrored := [], mirrorQ := [], frontiers := [], salvList := [] }

/-- SEED entered, with what follows it. -/
def enterSeed (n : Nat) (next : SeedNext) (s : State) : State :=
  (s.updSlice n Slice.seeded).setConds n fun c => { c.into .seed with seedNext := next }

/-- The base recipe in every active bank, no image in any shadow bank (13 R347). -/
def Slice.baseRecipe (sl : Slice) : Slice := { sl with act := [], shd := [], recipe := none }

/-- What a slice reset clears beside SEED's share: trackers, fences, the merging buffer, engines' work, disabled ways
(17 Table 17-3, 13 Table 13-3). -/
def Slice.cleared (sl : Slice) : Slice :=
  { sl.baseRecipe with
    mb := [], trk := [], fences := [], allocSeq := 0, wbkTurn := true, waiting := [], inBuf := [], engSlot := [], rrNext := 0,
    steal := none, holdoffs := [], idleFor := [],
    scans := [], wayErr := [], fineDis := 0, loafDis := 0, hlcDis := 0, fineDising := 0, loafDising := 0, hlcDising := 0,
    fbFine := 0, fbLoaf := 0, fbHlc := 0, trayHalves := [], rdCredits := [], wrCredits := [] }

/-- The slice owns no bucket and holds no stub: its table has no entry (log 22). -/
def noBuckets (n : Nat) (s : State) : State :=
  let owned := allBuckets.filter fun b => (bktInit s.par n b).kind = .owned
  let s := s.updSlice n fun sl => { sl with bkt := [] }
  eachOf owned (fun b s => s.setBkt n b {}) s

/-- The shims take messages of a slice that was lost again, as it is reset (13 R340). -/
def shimsForget (n : Nat) (s : State) : State :=
  eachOf s.shimNums (fun sh s =>
    let x := s.shim sh
    if x.lost.contains n || x.stashes.any fun p => p.1 = n then s.updShim sh fun x => { x with
      lost := x.lost.filter (· != n), lostAns := x.lostAns.filter (fun p => p.1 != n)
      stashes := x.stashes.filter fun p => p.1 != n } else s) s

/-- Slice reset: SEED, then RETAIN. -/
def resetSlice (n : Nat) (next : SeedNext) (s : State) : State :=
  let s := noBuckets n (s.updSlice n Slice.cleared)
  let s := { s with wires := s.wires.filter fun w => match w with
    | .copyFine a b _ _ _ _ _ _ | .copyLoaf a b _ _ _ _ _ _ | .copyRefuse a b _ _ _ | .copyAck a b _ _ _ =>
      a != n && b != n
    | _ => true }
  let s := shimsForget n s
  (s.updSlice n Slice.seeded).setConds n fun c => { phase := .seed, seedNext := next, pCal := c.pCal }

/-! ### Slice power (13 R325, 17 R422, 18 R446) -/

/-- The slice without what its power held; the admitted map is the spine's to give back (log 29), and the levels of its fault
status fall (15 R392). -/
def powerOff (n : Nat) (phase : Phase) (s : State) : State :=
  let s := s.updSlice n fun sl => { (Slice.initial s.par n) with
    conds := sl.conds, adm := sl.adm, us := sl.us, hclk := sl.hclk, cap := sl.cap, capNext := sl.capNext }
  let s := noBuckets n s
  fallLevels (s.setConds n fun _ => { phase })

/-- A job of a kind that names slice n. -/
def finishFor (p : JobKind → Bool) (code : BitVec 8) (s : State) : State :=
  eachOf s.spine.jobs (fun j s => if p j.kind then finishJob j.id code 0 s else s) s

/-- The OFF row of Table 13-3: SEED, then RETAIN. A CAL_WRITE that waited for power has been applied (17 R429, R442). A slice whose
power went while it served counts as reset for the shims (13 R340; DEDUCED, log 29). -/
def powerUp (n : Nat) (s : State) : State :=
  let s := s.updSpine fun sp => { sp with
    salvageQ := sp.salvageQ.filter (· != n), srst := sp.srst.filter (· != n), offDue := sp.offDue.filter (· != n) }
  finishFor (fun k => match k with | .calWrite m => m = n | _ => false) ccOK (enterSeed n .retain (powerOff n .off (shimsForget n s)))

/-! ### Freeze (08 R227) -/

/-- An order that meets a frozen bucket is sent again later (12 R311). -/
def redoRange (job : Nat) (a : PA) (s : State) : State :=
  s.updJob job fun
    | .range r next stop out count part redo => .range r next stop (out - 1) count part (redo ++ [a])
    | j => j

/-- A command whose work is to start afresh. -/
def restartCmd (job : Nat) (s : State) : State :=
  match s.job job with
  | some { cmd := some c, .. } =>
    (s.dropJob job).updFn c.1 fun f => { f with
      taken := f.taken.map fun k => if k.idx = c.2 then { k with started := false } else k }
  | _ => s.dropJob job

/-- A tracker of a frozen bucket that has not reached its decision step. -/
def freezeTracker (n t : Nat) (s : State) : State :=
  match s.trk n t with
  | none => s
  | some k =>
    if !(k.stage = .chain || k.stage = .ready) then s
    else match k.kind with
      | .msg .pfHint => dropHint n t s
      | .msg _ => restTrk n t k rsFreeze s
      | .range _ job => closeTrk n t (leavePoison n t (redoRange job (lineOf k.addr) s))
      | .restore job => closeTrk n t (leavePoison n t (restartCmd job s))
      | _ => closeTrk n t (leavePoison n t s)

/-- Steps 1 and 2 of 08 R227. -/
def freezeBucket (n b : Nat) (s : State) : State :=
  let s := s.setBkt n b { s.bkt n b with kind := .frozen }
  let l := ((s.slice n).byAge.filter fun kv => kv.2.lineUser && bucketOf kv.2.addr = b).map (·.1)
  quietBucket n b (eachOf l (freezeTracker n) s)

/-- A frozen bucket served again. -/
def unfreeze (n b : Nat) (s : State) : State :=
  if (s.bkt n b).kind = .frozen then recipeNext n (s.setBkt n b { s.bkt n b with kind := .owned }) else s

/-! ### Starting a move -/

/-- The move scan of some buckets started (08 R222, R223), or their takeover, which copies nothing (13 R332). -/
def startMove (n : Nat) (l : List Mv) (takeover : Bool) (job : Nat) (s : State) : State :=
  let period := s.spine.scanCode
  let s := s.updSlice n fun sl => { sl with scans := sl.scans ++
    ([{ kind := .move, pos := if takeover then 12288 else 0, stop := 12288, period, moves := l, takeover, job }] : List Scan) }
  let s := eachOf l (fun m s =>
    let s := s.setMaster m.b { s.master m.b with moving := true }
    s.setBkt m.target m.b { s.bkt m.target m.b with incoming := !takeover }) s
  let s := settleMoves (n :: l.map (·.target)) s
  if takeover then eachOf l (fun m => freezeBucket n m.b) s else s

/-- Some slice holds a stub for bucket b (08 R221). -/
def State.stubbed (s : State) (b : Nat) : Bool := s.sliceNums.any fun n => (s.bkt n b).kind = .stub

/-- Stubs that a slice holds. -/
def State.stubs (s : State) (n : Nat) : List Nat :=
  ((s.slice n).bkt.filter fun kv => kv.2.kind = .stub).map (·.1)

/-- A census of bucket b is in progress somewhere (08 R221). -/
def State.censusOf (s : State) (b : Nat) : Bool :=
  s.sliceNums.any fun n => (s.slice n).census.any fun c => c.bucket = b && c.left.isEmpty

/-- The slices that shedding, evacuation and salvage choose targets from, lowest OCC first (08 R236 step 3): active in
TRACK, not slow, in no move or copy. -/
def State.roomy (s : State) (n : Nat) : List Nat :=
  sortBy (fun m => (s.slice m).temper.occ) (s.sliceNums.filter fun m =>
    m != n && (s.slice m).mode = .track && !(s.slice m).temper.slow && !s.inMove m && !s.inCopy m)

/-- Each bucket with a target, at most 4 for each, and the engine the spine chooses. -/
def assignTargets (targets bs : List Nat) : List Mv :=
  (bs.zip (targets.flatMap fun m => List.replicate 4 m)).map fun x =>
    { b := x.1, target := x.2, engine := (Config.spineEngine x.1 x.2).val }

/-! ### Stubs and map updates (08 R228 to R230) -/

/-- A slice in HOLD whose last stub is freed: H_SALV clears (13 R338), and a slice reset that waits for it is made; one that lost
its power takes the OFF row once it is powered (17 R422), whether or not it had a bucket to salvage. -/
def holdFreed (n : Nat) (s : State) : State :=
  if (s.slice n).conds.phase = .hold && (s.stubs n).isEmpty && (s.heldBuckets n).isEmpty &&
      !(s.spine.salvage.any fun v => v.slice = n) && !s.spine.salvageQ.contains n then
    let s := if (s.slice n).conds.hSalv then s.setConds n fun c => { c with hSalv := false } else s
    if s.spine.offDue.contains n then
      if bit s.spine.pwr n then powerUp n s else s
    else if s.spine.srst.contains n then
      resetSlice n .resetRetain (s.updSpine fun sp => { sp with srst := sp.srst.filter (· != n) })
    else s
  else s

/-- Every shim has acknowledged bucket b: its stubs are freed (08 R230). DESIGN CHOICE (log 103): GEN, ENGINE and PEER of an entry whose
KIND has become none read 0. -/
def freeStubs (b : Nat) (s : State) : State :=
  let l := s.sliceNums.filter fun n => (s.bkt n b).kind = .stub
  eachOf l (fun n s =>
    let e := s.bkt n b
    holdFreed n (s.setBkt n b { incoming := e.incoming, purge := e.purge })) s

/-- The new entry of the master map sent to every shim (08 R228 step 3, R229). -/
def sendMap (b : Nat) (s : State) : State :=
  let s := tableCheck tblMaster b s
  let need := s.shimNums.filter fun sh => (s.shim sh).acks
  let s := s.setMaster b { s.master b with unacked := need }
  let g := s.master b
  let s := eachOf s.shimNums (fun sh s =>
    s.wire (.mapUpdate sh b g.slice g.engine g.gen ((s.shim sh).acks))) s
  if need.isEmpty then freeStubs b s else s

/-- A shim acknowledges the current generation of bucket b. -/
def ackMap (sh b : Nat) (gen : BitVec 6) (s : State) : State :=
  let g := s.master b
  if g.gen = gen && g.unacked.contains sh then
    let l := g.unacked.filter (· != sh)
    let s := s.setMaster b { g with unacked := l }
    if l.isEmpty then freeStubs b s else s
  else s

/-- A shim that is closed, or held in reset, counts as having acknowledged every bucket (08 R229). -/
def shimAcksAll (sh : Nat) (s : State) : State :=
  eachOf ((s.spine.master.filter fun kv => kv.2.unacked.contains sh).map fun kv => (kv.1, kv.2.gen))
    (fun x => ackMap sh x.1 x.2) s

/-! ### The flip (08 R228) -/

/-- A suspect record names the bucket. -/
def Suspects.names (x : Suspects) (b : Nat) : Bool :=
  (x.recs.any fun r => r.2.contains b) || x.all.any (·.contains b)

/-- A bucket that a slice has received needs its census there: it has entries in U, unknown loaves, or a place in a suspect
record. -/
def State.needsCensus (s : State) (n b : Nat) : Bool :=
  !(s.uEntries n b).isEmpty || !(s.unknownLoaves n b).isEmpty || (s.slice n).susFine.names b || (s.slice n).susLoaf.names b

/-- The frontier of a bucket taken over: everything from these sets on is suspect (13 R332, R342). -/
def setFrontier (n b fine loaf : Nat) (s : State) : State :=
  let s := s.updSlice n fun sl => { sl with frontiers := (sl.frontiers.filter fun f => f.1 != b) ++ [(b, fine, loaf)] }
  requestCensus n [b] (s.setConds n fun c => { c with lFront := true })

/-- Fine sets, then 64 places (way and line) of each loaf set. -/
def scrubStop : Nat := 8192 + 4096 * 64

/-- The scrub scan of a retired agent started at a slice, or begun again (09 R246 step 4). -/
def startScrub (n agent : Nat) (s : State) : State :=
  let period := s.spine.scanCode
  s.updSlice n fun sl => { sl with
    scans := (sl.scans.filter fun sc => !(sc.kind = .scrub && sc.agent = agent)) ++
      ([{ kind := .scrub, stop := scrubStop, period, agent }] : List Scan) }

/-- A slice that takes over a bucket while scrubs run scrubs from the start. -/
def scrubAgain (n : Nat) (s : State) : State :=
  eachOf (s.scrubbing.filter fun a => (s.shim a).silenced) (startScrub n) s

/-- Bucket b passes from slice n to a target: the target owns it, the source keeps a stub, the master map changes. A
CENSUS_RANGE walks the bucket at its new home, and a retire scrub there begins again. -/
def flipBucket (n b tgt e : Nat) (purge : Bool) (s : State) : State :=
  let g := (s.bkt n b).gen + 1
  let s := match (s.slice n).steal with
    | some x => if x.bucket = b then dropSteal n x s else s
    | none => s
  let s := s.setBkt tgt b { s.bkt tgt b with kind := .owned, engine := e, gen := g, peer := 0, incoming := false, bad := false }
  let s := s.setBkt n b { kind := .stub, gen := g, peer := tgt, purge }
  let range := ((s.slice n).census.filter fun c => c.bucket = b && c.job.isSome).map fun c =>
    { c with started := false, waiting := [], unanswered := [], reports := [], placed := [], left := [] }
  let s := s.updSlice n fun sl => { sl with census := sl.census.filter fun c => c.bucket != b }
  let s := scrubAgain tgt (s.updSlice tgt fun sl => { sl with census := sl.census ++ range })
  let s := if range.isEmpty then s else s.setConds tgt fun c => { c with lCensus := true }
  let s := settleCensus n [] s
  let s := s.setMaster b { slice := tgt, engine := e, gen := g }
  sendMap b s

/-- A copied or mirrored message of slice n for bucket b is under way. -/
def Wire.about (n b : Nat) (w : Wire) : Bool :=
  match w with
  | .copyFine src _ set _ old e _ _ => src = n && (fineBucket set e = some b || fineBucket set old = some b)
  | .copyLoaf src _ set _ old e _ _ => src = n && (loafBucket set e = some b || loafBucket set old = some b)
  | .copyRefuse _ dst set isLoaf e => dst = n && (if isLoaf then loafBucket set e else fineBucket set e) = some b
  | .copyAck _ dst _ _ c => dst = n && c = b
  | _ => false

/-- The drain of a frozen bucket has ended (08 R227 step 4). -/
def State.drainedOut (s : State) (n b : Nat) : Bool :=
  let sl := s.slice n
  sl.quiet b && !(sl.mb.any fun kv => kv.2.st != .free && bucketOf kv.2.line = b) &&
  !(sl.mirrored.any fun m => m.2.2 = b) && !(sl.mirrorQ.any fun m => m.1.2.2 = b) && !s.wires.any (Wire.about n b)

/-- Suspect records of the source of a move carried to the new home of bucket b (DEDUCED, log 23). Records that would make a
ninth make every set suspect until a census of all the buckets of the new home (02 R58). -/
def carrySuspects (n tgt b : Nat) (s : State) : State :=
  let sl := s.slice n
  let x := s.slice tgt
  if sl.susFine.isEmpty && sl.susLoaf.isEmpty then s
  else
    let owned := s.ownedBuckets tgt
    let f := x.susFine.carry sl.susFine b
    let l := x.susLoaf.carry sl.susLoaf b
    let overF := x.susFine.all.isNone && f.all.isSome
    let overL := x.susLoaf.all.isNone && l.all.isSome
    let s := s.updSlice tgt fun x => { x with
      susFine := if overF then { f with all := some owned } else f
      susLoaf := if overL then { l with all := some owned } else l }
    let s := if overF then raiseSlice tgt 0x04 {} s else s
    let s := if overL then raiseSlice tgt 0x04 { syn := 1 } s else s
    requestCensus tgt (if overF || overL then owned else [b]) s

/-- The frontier that a source holds for bucket b goes with the bucket in a copy; its census is requested after the last flip
(13 R333). -/
def carryFrontier (old : Slice) (tgt b : Nat) (s : State) : State :=
  match old.frontiers.find? fun f => f.1 = b with
  | some f => (s.updSlice tgt fun x => { x with
      frontiers := (x.frontiers.filter fun f => f.1 != b) ++ [f]
      salvList := old.salvList.foldl addNew x.salvList }).setConds tgt fun c => { c with lFront := true }
  | none => s

/-! ### The end of a slice copy (13 R334 steps 4 and 5) -/

/-- A tray message on its way to slice k, or in its input buffer. -/
def State.trayBound (s : State) (k : Nat) : Bool :=
  let tray (o : Op) : Bool := o = .memRd || o = .memWr || o = .memWd
  (s.mesh.any fun m => m.dst = sliceNode k && tray m.op) || (s.slice k).inBuf.any fun f => (flitOp f).any tray

/-- Step 4: the segments that name the source move once no tray message to it is outstanding; their words are in the
target. A slice in HOLD takes no answer: only what it sent before counts. Answers whether no segment names it. -/
def moveSegments (src tgt : Nat) (s : State) : State × Bool :=
  let l := (s.spine.traySeg.filter fun kv => kv.2.valid && kv.2.slice = src).map (·.1)
  if l.isEmpty then (s, true)
  else
    let node := (sliceNode src).toNat
    if s.trayBound src || (s.sliceNums.any fun n => (s.slice n).conds.phase != .hold &&
        (mget 0 (s.slice n).rdCredits node != 0 || mget 0 (s.slice n).wrCredits node != 0)) then
      (s, false)
    else
      let s := s.updSpine fun sp => { sp with
        traySeg := l.foldl (fun m k => mput {} m k { valid := true, slice := tgt }) sp.traySeg }
      (eachOf s.sliceNums sweep s, true)

/-- Steps 4 and 5 of the copy with a job number, when they can be taken. -/
def copyRelease (id : Nat) (s : State) : State :=
  match s.job id with
  | some { kind := .copy src tgt flipped linesP false, .. } =>
    if !(s.slice src).serving || !(s.slice tgt).serving ||
        !((s.slice src).scans.any fun sc => sc.kind = .copy && sc.stop ≤ sc.pos && sc.moves.isEmpty) then s
    else
      let r := moveSegments src tgt s
      let s := r.1
      if !r.2 || !(s.stubs src).isEmpty then s
      else
        let own := ((s.slice src).census.filter (·.own)).map (·.bucket)
        let own := ((s.ownedBuckets tgt).filter fun b => (s.slice tgt).susFine.names b || (s.slice tgt).susLoaf.names b).foldl addNew own
        let s := s.updSlice src fun sl => { sl with
          scans := sl.scans.filter fun sc => sc.kind != .copy, census := [], susFine := {}, susLoaf := {} }
        let s := enterRetain src (noBuckets src s)
        let s := s.setConds tgt fun c => { c with pCopy := false }
        let s := if own.isEmpty then s else requestCensus tgt own s
        finishJob id ccOK (flipped + 65536 * linesP) s
  | _ => s

/-- Every copy that can be released. -/
def copyReleases (s : State) : State := eachOf (s.spine.jobs.map (·.id)) copyRelease s

/-- The next bucket of a copy, the lowest, is frozen (13 R334 step 3). -/
def freezeNext (n : Nat) (s : State) : State :=
  match (s.slice n).scans.find? fun sc => sc.kind = .copy with
  | some sc => match argMin (·.b) sc.moves with
    | some m => freezeBucket n m.b s
    | none => s
  | none => s

/-! ### BUCKET_FLIP -/

/-- What a flip adds to its job. -/
def countFlip (job : Nat) (s : State) : State :=
  s.updJob job fun
    | .evacuate n k moved r => .evacuate n k (moved + 1) r
    | .copy src tgt f l x => .copy src tgt (f + 1) l x
    | j => j

/-- BUCKET_FLIP: the drain of frozen bucket b has ended. A hold recorded, or a line that entered Anvil mode, since the freeze
ends first. -/
def bucketFlip (b : Nat) (s : State) : State :=
  let at' (n : Nat) := (s.slice n).scans.find? fun sc =>
    (sc.kind = .move || sc.kind = .copy) && sc.stop ≤ sc.pos && sc.moves.any fun m => m.b = b
  match s.sliceNums.find? fun n => (at' n).isSome && (s.bkt n b).kind = .frozen && (s.slice n).serving with
  | none => copyReleases s
  | some n =>
    match at' n with
    | none => s
    | some sc =>
      match sc.moves.find? fun m => m.b = b with
      | none => s
      | some m =>
        let s := if (s.slice n).quiet b then quietBucket n b s else s
        if !s.drainedOut n b || !(s.slice m.target).serving || s.paused n || s.paused m.target then s
        else
          let copy := sc.kind = .copy
          let e := if copy then (s.bkt n b).engine else m.engine
          let old := s.slice n
          let s := flipBucket n b m.target e true s
          let s := if sc.takeover then setFrontier m.target b 0 0 s
            else if copy then carryFrontier old m.target b s
            else carrySuspects n m.target b s
          let s := if copy then s.updSlice n fun sl => { sl with
              census := sl.census ++ old.census.filter fun c => c.own && c.bucket = b && !sl.census.contains c }
            else s
          let s := if !copy && !sc.takeover && s.needsCensus m.target b then requestCensus m.target [b] s else s
          let s := countFlip sc.job s
          let s := s.updSlice n fun sl => { sl with scans := sl.scans.map fun x =>
            if x.kind = sc.kind then { x with
              moves := x.moves.filter fun y => y.b != b, flipped := if copy then [] else x.flipped ++ [m] }
            else x }
          recipeNext m.target (recipeNext n (if copy then copyReleases (freezeNext n s) else endMoves n s))

/-! ### Evacuation (13 R330 to R332) -/

/-- The record of an evacuation without a command (16 Table 16-2 0x301). -/
def evacRec (n flags moved : Nat) (s : State) : State :=
  s.feed spineFeed (hrec 0x301 1 spineNode (p48 (n + flags)) (p48 moved) 0)

/-- The evacuation of slice n has ended: RETAIN, and the slice reset that it was started for (15 R389). -/
def evacEnd (j : Job) (n moved : Nat) (reset : Bool) (s : State) : State :=
  let s := enterRetain n s
  let s := if j.cmd.isNone then evacRec n 256 moved s else s
  let s := finishJob j.id ccOK moved s
  if reset || s.spine.srst.contains n then
    resetSlice n .resetRetain (s.updSpine fun sp => { sp with srst := sp.srst.filter (· != n) })
  else s

/-- The buckets of an evacuated slice that may move now (08 R221). -/
def State.evacuable (s : State) (n : Nat) (takeover : Bool) : List Nat :=
  (s.ownedBuckets n).filter fun b => !s.stubbed b && (takeover || !s.censusOf b)

/-- The next batch of an evacuation, when no scan of the slice runs. A slice that has lost its tracking goes on in
takeover form (13 R345), which freezes its buckets at once and so waits for the end of a pause (17 R423). R331 gives no order among
the buckets and R236 step 3 orders the targets only: the lowest-numbered buckets go first, four to each target in turn (DESIGN CHOICE, log
116). -/
def evacStep (id : Nat) (s : State) : State :=
  match s.job id with
  | some ({ kind := .evacuate n takeover moved reset, .. } : Job) =>
    if !(s.slice n).serving || s.inMove n then s
    else if (s.heldBuckets n).isEmpty then
      match s.job id with | some j => evacEnd j n moved reset s | none => s
    else
      let takeover := takeover || (s.slice n).mode = .broadcast
      let sus := (s.slice n)
      let blocked := !takeover && !(sus.susFine.isEmpty && sus.susLoaf.isEmpty)
      let room := 63 - (s.stubs n).length
      let l := assignTargets (s.roomy n) ((s.evacuable n takeover).take room)
      if blocked || l.isEmpty || (takeover && s.paused n) then s
      else startMove n l takeover id (s.updJob id fun _ => .evacuate n takeover moved reset)
  | _ => s

/-- Every evacuation that waits. -/
def evacSteps (s : State) : State := eachOf (s.spine.jobs.map (·.id)) evacStep s

/-! ### SPINE_MAP_ACK, PURGE_SCAN_END -/

/-- SPINE_MAP_ACK: the spine takes the k-th map acknowledgment that has arrived. -/
def spineMapAck (k : Nat) (s : State) : State :=
  match s.findWire k fun w => match w with | .mapAck _ _ _ => true | _ => false with
  | some (.mapAck sh b gen) =>
    evacSteps (copyReleases (ackMap sh b gen (s.takeWire (.mapAck sh b gen))))
  | _ => s

/-- The jobs that a purge at slice n completes (12 R317, 08 R236). RECHECK windows are counted from here: the scan of a shed
ends with its purge, as PROOF does (R222) (DESIGN CHOICE, log 70). -/
def purgeJobs (n : Nat) (s : State) : State :=
  eachOf s.spine.jobs (fun j s =>
    match j.kind with
    | .move src _ tgt gen aborted =>
      if src = n then (if aborted then finishJob j.id ccABORTED 0 s else finishJob j.id ccOK (gen.toNat + 256 * tgt) s)
      else s
    | .shed src =>
      if src = n then (s.dropJob j.id).updSlice n fun sl => { sl with temper := { sl.temper with shed := false, sinceShed := 0 } }
      else s
    | _ => s) s

/-- PURGE_SCAN_END (08 R231). -/
def purgeScanEnd (n : Nat) (s : State) : State :=
  match (s.slice n).scans.find? fun sc => sc.kind = .purge && sc.stop ≤ sc.pos with
  | none => s
  | some sc =>
    let s := s.updSlice n fun sl => { sl with scans := sl.scans.filter fun x => x.kind != .purge }
    let s := eachOf (((s.slice n).bkt.filter fun kv => kv.2.purge).map (·.1)) (fun b s =>
      s.setBkt n b { s.bkt n b with purge := false }) s
    let s := settleCensus n [] (settleMoves (n :: sc.flipped.map (·.target)) s)
    evacSteps (purgeJobs n s)

/-! ### Copied entries (08 R224, R225) -/

/-- The entry is copied: it is not free. An Anvil line's goes with the others; it exits at the freeze (08 R227). -/
def FineEntry.sent (e : FineEntry) : Bool := !e.free

/-- A line recorded at a target; false when it can be placed nowhere, as an Anvil entry without a way: a loaf cannot hold it
(DEDUCED, log 71). Tracker t holds the eviction that this needs. -/
def placeFine (n t : Nat) (a : PA) (e : FineEntry) (s : State) : State × Bool :=
  match s.fineFind n a with
  | some w => (moveFine n a w e s, true)
  | none =>
    let known := e.hstate = hsP || e.hstate = hsU
    match allocFine n t a (if known then s.fineOpen n else s.fineMask n t e.colour) e.colour none 17 s with
    | (s, some w) => (clearPres n a (moveFine n a w e s), true)
    | (s, none) =>
      if known then (alsoFine n (fineSet a) (bucketOf a) (suspectFine n (fineSet a) s), true)
      else if e.anvil then (s, false)
      else match placeLoaf n t a e.colour none s with
        | (s, some w) => (addToLoaf n a w e.groups (e.hstate = hsX || e.hstate = hsO) s, true)
        | (s, none) => (s, false)

/-- A line that the source no longer names dropped at a target: its fine entry, or a presence bit that its loaf at the
source does not show. -/
def dropCopied (n src : Nat) (a : PA) (s : State) : State :=
  match s.fineFind n a with
  | some w => freeFine n (fineSet a) w s
  | none =>
    let shown := match s.loafFind src a with
      | some w => bit (s.loafAt src (loafSet a) w).pres (lineInLoaf a)
      | none => false
    if shown then s else clearPres n a s

/-- A placement at a target with a reserved tracker for the forced invalidation it may need. While none is free, a
placement that needs no forced invalidation goes on, and another waits: none. -/
def withOwn (n t : Nat) (a : PA) (f : Nat → State → State × Bool) (s : State) : Option (State × Bool) :=
  match allocOwn n t .evictOnly a .ended s with
  | some s =>
    let r := f t s
    some (advance n t (r.1.updTrk n t fun k => { k with heldLoaf := none }), r.2)
  | none =>
    let r := f noTracker (s.updSlice n fun sl => sl.putTrk noTracker
      { kind := .evictOnly, pool := .own, age := sl.allocSeq, src := sliceNode n, addr := a, stage := .ended, start := sl.hclk })
    match (r.1.trk n noTracker).bind (·.evict) with
    | some _ => none
    | none => some (r.1.updSlice n (·.dropTrk noTracker), r.2)

/-- A fine word received: none while it waits; else whether it was placed. -/
def takeFine (n t src set way : Nat) (old e : Entry) (exact : Bool) (s : State) : Option (State × Bool) :=
  let o := decFine old
  let x := decFine e
  let cur := s.fineAt n set way
  let s := if o.sent && !(x.sent && x.line set = o.line set) then
      (if exact && !cur.free && cur.line set = o.line set then freeFine n set way s else dropCopied n src (o.line set) s)
    else s
  if !x.sent then some (s, true)
  else
    let a := x.line set
    let cur := s.fineAt n set way
    let here := match s.fineFind n a with | some w => w = way | none => true
    if exact && here && s.fineLive n way && (cur.free || cur.line set = a) then some (moveFine n a way x s, true)
    else
      withOwn n t a (fun t s => placeFine n t a x s) s

/-- The lines of a target's loaf after a loaf word of the source: those the word replaces go, its own come. -/
def mergeLoaf (cur o x : LoafEntry) : LoafEntry :=
  let extra := cur.pres &&& ~~~ o.pres &&& ~~~ x.pres
  { x with
    pres := extra ||| x.pres, gvec := (if extra = 0 then 0 else cur.gvec) ||| x.gvec
    lstate := if x.lstate = lfUnknown then lfUnknown
      else if x.lstate = lfOwner || (cur.lstate = lfOwner && extra != 0) then lfOwner else lfClean }

/-- A loaf word received. -/
def takeLoaf (n t set way : Nat) (old e : Entry) (exact : Bool) (s : State) : Option (State × Bool) :=
  let o := decLoaf old
  let x := decLoaf e
  let r := x.region set
  let s := if o.lstate != 0 && (x.lstate = 0 || o.region set != r) then
      match s.loafFind n (o.region set) with
      | some w =>
        let c := s.loafAt n set w
        writeLoaf n set w { c with pres := c.pres &&& ~~~ o.pres } s
      | none => s
    else s
  if x.lstate = 0 then some (s, true)
  else match s.loafFind n r with
    | some w =>
      let c := s.loafAt n set w
      let o' := if o.lstate != 0 && o.region set = r then o else { pres := 0 }
      some (writeLoaf n set w (mergeLoaf c o' x) s, true)
    | none =>
      if exact && s.loafLive n way && (s.loafAt n set way).lstate = 0 then some (writeLoafW n set way e s, true)
      else
        withOwn n t r (fun t s =>
          match newLoaf n t r x.colour none s with
          | (s, some w) => (writeLoaf n set w x s, true)
          | (s, none) =>
            if x.lstate = lfUnknown then (alsoLoaf n set (bucketOf r) (suspectLoaf n set s), true) else (s, false)) s

/-- The target takes copies for a bucket: it is receiving it, or it is the target of a copy. -/
def State.receiving (s : State) (n : Nat) (b : Option Nat) (exact : Bool) : Bool :=
  match b with
  | some b => (s.bkt n b).incoming
  | none => exact

/-- The source, filter and set of an entry copied to slice n. -/
def Wire.copied (n : Nat) (w : Wire) : Option (Nat × Bool × Nat) :=
  match w with
  | .copyFine src dst set .. => if dst = n then some (src, false, set) else none
  | .copyLoaf src dst set .. => if dst = n then some (src, true, set) else none
  | _ => none

/-- The copied entries that slice n may take next: of each set, the first that its source sent (08 R224). -/
def firstCopies (n : Nat) : List (Nat × Bool × Nat) → List Wire → List Wire
  | _, [] => []
  | seen, w :: r =>
    match w.copied n with
    | some x => if seen.contains x then firstCopies n seen r else w :: firstCopies n (x :: seen) r
    | none => firstCopies n seen r

/-- COPY_ENTRY_RECEIVE: target n takes the k-th copied entry or mirrored write that it may take next, with own tracker t if
it needs one. -/
def copyEntryReceive (n t k : Nat) (s : State) : State :=
  let finish (w : Wire) (src set : Nat) (isLoaf mirror : Bool) (e : Entry) (b : Option Nat) (r : Option (State × Bool)) :
      State :=
    match r with
    | none => s
    | some (s', placed) =>
      let s' := s'.takeWire w
      let s' := if placed then s' else s'.wire (.copyRefuse n src set isLoaf e)
      if mirror then s'.wire (.copyAck n src set isLoaf (b.getD noBucket)) else s'
  if !(s.slice n).serving || s.paused n then s
  else match (firstCopies n [] s.wires)[k]? with
    | some (.copyFine src dst set way old e exact mirror) =>
      let b := (fineBucket set e).orElse fun _ => fineBucket set old
      finish (.copyFine src dst set way old e exact mirror) src set false mirror e b
        (if s.receiving n b exact then takeFine n t src set way old e exact s else some (s, true))
    | some (.copyLoaf src dst set way old e exact mirror) =>
      let b := (loafBucket set e).orElse fun _ => loafBucket set old
      finish (.copyLoaf src dst set way old e exact mirror) src set true mirror e b
        (if s.receiving n b exact then takeLoaf n t set way old e exact s else some (s, true))
    | _ => s

/-- COPY_REFUSAL_RECEIVE: source n force-invalidates the line or loaf that the k-th refusal names, with own tracker t; an
Anvil line exits. It waits while a tracker serves the line. -/
def copyRefusalReceive (n t k : Nat) (s : State) : State :=
  match s.findWire k fun w => match w with | .copyRefuse _ dst .. => dst = n | _ => false with
  | some (.copyRefuse src dst set isLoaf e) =>
    let w := Wire.copyRefuse src dst set isLoaf e
    let sl := s.slice n
    if !sl.serving || s.paused n then s
    else if isLoaf then
      let r := (decLoaf e).region set
      match s.loafFind n r with
      | none => s.takeWire w
      | some v =>
        let l := s.loafAt n set v
        if l.lstate = lfUnknown then s.takeWire w
        else if (l.lines set).any sl.busyLine then s
        else match allocOwn n t .evictOnly r .ended s with
          | some s' => advance n t (evictLoaf n t set v (s'.takeWire w))
          | none => s
    else
      let a := (decFine e).line set
      match s.fineFind n a with
      | none => s.takeWire w
      | some v =>
        let x := s.fineAt n set v
        if !x.sent || x.hstate = hsP || x.hstate = hsU then s.takeWire w
        else if sl.busyLine a then s
        else if x.anvil then anvilExit n a (s.takeWire w)
        else match allocOwn n t .evictOnly a .ended s with
          | some s' => advance n t (evictFine n t set v (s'.takeWire w))
          | none => s
  | _ => s

/-- COPY_ACK_RECEIVE: the k-th acknowledgment waiting for source n. What waited for it goes on (13 R336). -/
def copyAckReceive (n k : Nat) (s : State) : State :=
  match s.findWire k fun w => match w with | .copyAck _ dst .. => dst = n | _ => false with
  | some (.copyAck src dst set isLoaf b) =>
    mirrorNext n ((s.takeWire (.copyAck src dst set isLoaf b)).updSlice n fun sl => { sl with
      mirrored := sl.mirrored.erase (isLoaf, set, b) })
  | _ => s

def execBucketFlip (b : Nat) (s : State) : Res := .next (bucketFlip b s)
def execSpineMapAck (s : State) (k : Nat := 0) : Res := .next (spineMapAck k s)
def execPurgeScanEnd (n : Nat) (s : State) : Res := atSlice n s (purgeScanEnd n)
def execCopyEntryReceive (n t : Nat) (s : State) (k : Nat := 0) : Res := atSlice n s (copyEntryReceive n t k)
def execCopyRefusalReceive (n t : Nat) (s : State) (k : Nat := 0) : Res := atSlice n s (mirrorBound n (copyRefusalReceive n t k))
def execCopyAckReceive (n : Nat) (s : State) (k : Nat := 0) : Res := atSlice n s (thenDrain n (copyAckReceive n k))

end Sys2Proof.Machine
end

