-- ==== Sys2Proof/Machine/Scans.lean ====
section
/-! DEFINITION. The scans of a slice, one set for each slot (08 R223): move, copy, purge, retire scrub (09 R246 to R249),
recolour (14 R359), way disabling (15 R396) and tray conversion (07 R208), and the ends of the last three. -/

namespace Sys2Proof.Machine

/-! ### Scan positions -/

/-- The first unfinished scan of a kind changed. -/
def onScan (k : ScanKind) (f : Scan → Scan) : List Scan → List Scan
  | [] => []
  | sc :: r => if sc.kind = k && sc.pos < sc.stop then f sc :: r else sc :: onScan k f r

/-- The scan of a kind at its next position. -/
def setPos (n : Nat) (k : ScanKind) (pos : Nat) (s : State) : State :=
  s.updSlice n fun sl => { sl with scans := onScan k (fun sc => { sc with pos }) sl.scans }

def dropScan (n : Nat) (k : ScanKind) (s : State) : State :=
  s.updSlice n fun sl => { sl with scans := sl.scans.filter fun sc => sc.kind != k }

/-- Every live fine way of a set read with its checks. -/
def readFineSet (n set : Nat) (s : State) : State :=
  let l := (List.range 16).filter (s.fineLive n)
  eachOf l (readFine n set) (eachOf l (probeFine n set) s)

def readLoafSet (n set : Nat) (s : State) : State :=
  eachOf ((List.range 8).filter (s.loafLive n)) (probeLoaf n set) s

def readHlcSet (n set : Nat) (s : State) : State :=
  eachOf ((List.range 8).filter (s.hlcLive n)) (probeHlc n set) s

/-- Ways in turn, until one answers false: whether all were done. -/
def eachWay (f : Nat → State → State × Bool) : List Nat → State → State × Bool
  | [], s => (s, true)
  | w :: r, s => match f w s with
    | (s, true) => eachWay f r s
    | (s, false) => (s, false)

/-! ### Move, copy and purge -/

/-- The tray lines whose first set is number p in scan order. -/
def State.trayAt (s : State) (p : Nat) : List TrayPlace :=
  if p < 8192 && p % 8 = 0 then (List.range s.spine.trayFt).map fun i => .fine (15 - i) p
  else if 12288 ≤ p then (List.range s.spine.trayHt).map fun i => .hlc (7 - i) (p - 12288)
  else []

/-- The converted tray words of a set sent to the target of a copy; a tray line with its first set. -/
def sendTray (n p tgt : Nat) (s : State) : State :=
  eachOf (s.trayAt p) (fun x s => let l := (s.slice n).trayLine x; s.updSlice tgt (·.putTray x l)) s

/-- One set of a move or copy scan sent (08 R223, 13 R334), once its checks are made. -/
def sendSet (n p : Nat) (kind : ScanKind) (s : State) : State :=
  let copy := kind = .copy
  let tgt (s : State) (b : Option Nat) : Option Nat := match b, (s.slice n).scan kind with
    | some b, some sc => (sc.moves.find? fun m => m.b = b).map (·.target)
    | _, _ => none
  if p < 8192 then
    let s := readFineSet n p s
    eachOf ((List.range 16).filter (s.fineLive n)) (fun w s =>
      let e := (s.slice n).fineE p w
      match tgt s (fineBucket p e) with
      | some d => if (decFine e).sent then s.wire (.copyFine n d p w 0 e copy false) else s
      | none => s) s
  else if p < 12288 then
    let set := p - 8192
    let s := readLoafSet n set s
    eachOf ((List.range 8).filter (s.loafLive n)) (fun w s =>
      let e := (s.slice n).loafE set w
      match tgt s (loafBucket set e) with
      | some d => s.wire (.copyLoaf n d set w 0 e copy false)
      | none => s) s
  else s

/-- A slot of a move scan; after the last set every moving bucket is frozen (08 R227). The set counts as read once it is
sent, so that what its checks find abandons moves still in their scan (R226). -/
def moveSlot (n : Nat) (sc : Scan) (s : State) : State :=
  let s := setPos n .move (sc.pos + 1) (sendSet n sc.pos .move s)
  match (s.slice n).scan .move with
  | some x => if x.stop ≤ x.pos then eachOf (x.moves.map (·.b)) (freezeBucket n) s else s
  | none => s

/-- A slot of a copy scan: the first sends the trees, the contention table and the suspect records too; after the last the first bucket is
frozen. -/
def copySlot (n : Nat) (sc : Scan) (s : State) : State :=
  let tgt := match s.job sc.job with | some { kind := .copy _ tgt _ _ _, .. } => tgt | _ => n
  let s := sendTray n sc.pos tgt (sendSet n sc.pos .copy s)
  let x := s.slice n
  let s := if sc.pos = 0 then s.updSlice tgt fun sl => { sl with
      contention := x.contention
      susFine := sc.moves.foldl (fun y m => y.carry x.susFine m.b) sl.susFine
      susLoaf := sc.moves.foldl (fun y m => y.carry x.susLoaf m.b) sl.susLoaf
      arr := { sl.arr with fineTree := x.arr.fineTree, loafTree := x.arr.loafTree, hlcTree := x.arr.hlcTree } }
    else s
  let s := setPos n .copy (sc.pos + 1) s
  if sc.pos + 1 < sc.stop then s else copyReleases (freezeNext n s)

/-- The bucket of a purged entry: neither owned nor incoming (08 R231). -/
def State.purgeable (s : State) (n b : Nat) : Bool :=
  let e := s.bkt n b
  !(e.kind = .owned || e.kind = .frozen) && !e.incoming

/-- A slot of a purge scan. -/
def purgeSlot (n p : Nat) (s : State) : State :=
  let s := setPos n .purge (p + 1) s
  if p < 8192 then
    eachOf (List.range 16) (fun w s =>
      match fineBucket p ((s.slice n).fineE p w) with
      | some b => if s.purgeable n b then freeFine n p w s else s
      | none => s) s
  else if p < 12288 then
    eachOf (List.range 8) (fun w s =>
      match loafBucket (p - 8192) ((s.slice n).loafE (p - 8192) w) with
      | some b => if s.purgeable n b then writeLoafW n (p - 8192) w 0 s else s
      | none => s) s
  else
    eachOf (List.range 8) (fun w s =>
      let x := (s.slice n).hlcW (p - 12288) w
      if hlcV x.tagw && s.purgeable n (bucketOf (hlcAddr (p - 12288) (hlcTagOf x.tagw))) then
        s.updSlice n (·.dropHlc (p - 12288) w)
      else s) s

/-! ### Clearing ways (14 R359, 15 R396, 07 R208) -/

/-- A fine entry taken out of its way, which no tracker may have reserved, by tracker t: demoted, or force-invalidated where no
loaf can be had; an Anvil line exits; an entry in P or U is placed again under 04 R136 (DEDUCED, log 25). False when it must wait. -/
def clearFine (n t set w : Nat) (s : State) : State × Bool :=
  let e := s.fineAt n set w
  let a := e.line set
  if (s.slice n).reservedFine set w then (s, false)
  else if e.free then (s, true)
  else if (s.slice n).busyLine a then (s, false)
  else if e.anvil then (anvilExit n a s, true)
  else if e.hstate = hsP || e.hstate = hsU then
    match allocFine n t a (fun x => s.fineOpen n x && x != w) e.colour none 17 s with
    | (s, some v) => (moveFine n a v e (freeFine n set w s), true)
    | (s, none) => (suspectFine n set (freeFine n set w s), true)
  else demote n t set w none s

/-- A loaf that no tracker keeps force-invalidated by tracker t (02 R454). -/
def clearLoaf (n t set w : Nat) (s : State) : State × Bool :=
  let l := s.loafAt n set w
  if (s.slice n).keptLoaf set w then (s, false)
  else if l.lstate = 0 then (s, true)
  else if (l.lines set).any (s.slice n).busyLine || !s.slotFree n t then (s, false)
  else (evictLoaf n t set w s, true)

/-- V cleared in an HLC way; a pinned line leaves Anvil mode first. -/
def clearHlc (n set w : Nat) (s : State) : State × Bool :=
  let x := (s.slice n).hlcW set w
  if !hlcV x.tagw then (s, true)
  else
    let a := hlcAddr set (hlcTagOf x.tagw)
    if (s.slice n).pin set w && (s.slice n).busyLine a then (s, false)
    else
      let s := if (s.slice n).pin set w then anvilExit n a s else s
      (s.updSlice n (·.dropHlc set w), true)

/-- Work on one set with own tracker t for an eviction: the scan moves on when all of it was done. Without a free tracker
what needs an eviction waits. -/
def withTracker (n t : Nat) (k : ScanKind) (p : Nat) (f : Nat → State → State × Bool) (s : State) : State :=
  match allocOwn n t .evictOnly 0 .ended s with
  | some s' =>
    let r := f t s'
    let s := advance n t (r.1.updTrk n t fun x => { x with heldLoaf := none })
    if r.2 then setPos n k (p + 1) s else s
  | none =>
    let r := f noTracker s
    if r.2 then setPos n k (p + 1) r.1 else r.1

/-- A slot of a disable walk or tray conversion: the ways that the scan names. -/
def clearSlot (n t : Nat) (sc : Scan) (s : State) : State :=
  let p := sc.pos
  let fw := (List.range 16).filter fun w => bit sc.fineW w
  let lw := (List.range 8).filter fun w => bit sc.loafW w
  let hw := (List.range 8).filter fun w => bit sc.hlcW w
  withTracker n t sc.kind p (fun t s =>
    if p < 8192 then
      eachWay (fun w s => clearFine n t p w s) fw (eachOf fw (fun w s => readFine n p w (probeFine n p w s)) s)
    else if p < 12288 then
      eachWay (fun w s => clearLoaf n t (p - 8192) w s) lw (eachOf lw (probeLoaf n (p - 8192)) s)
    else eachWay (fun w s => clearHlc n (p - 12288) w s) hw s) s

/-- A fine entry outside its colour's mask: an entry in P or U, which no loaf can take, goes to a way that its colour may allocate; with
none to have its way is freed and its set becomes suspect, as 04 R136 gives (DEDUCED, log 25). -/
def recolourFine (n t set w : Nat) (s : State) : State × Bool :=
  let e := s.fineAt n set w
  let a := e.line set
  if (e.hstate = hsP || e.hstate = hsU) && !(s.slice n).reservedFine set w && !(s.slice n).busyLine a then
    match allocFine n t a (fun x => s.fineMask n t e.colour x) e.colour none 17 s with
    | (s, some v) => (moveFine n a v e (freeFine n set w s), true)
    | (s, none) => (suspectFine n set (freeFine n set w s), true)
  else clearFine n t set w s

/-- A slot of a recolour scan. -/
def recolourSlot (n t : Nat) (sc : Scan) (s : State) : State :=
  let p := sc.pos
  withTracker n t .recolour p (fun t s =>
    if p < 8192 then
      eachWay (fun w s =>
        let e := s.fineAt n p w
        if !e.free && s.fineLive n w && !bit (s.mask e.colour).fine w then recolourFine n t p w s
        else (s, true)) (List.range 16) (readFineSet n p s)
    else if p < 12288 then
      eachWay (fun w s =>
        let l := s.loafAt n (p - 8192) w
        if l.lstate != 0 && s.loafLive n w && !bit (s.mask l.colour).loaf w then clearLoaf n t (p - 8192) w s
        else (s, true)) (List.range 8) (readLoafSet n (p - 8192) s)
    else
      eachWay (fun w s =>
        if bit sc.hlcW w && !(s.slice n).pin (p - 12288) w then clearHlc n (p - 12288) w s else (s, true))
        (List.range 8) (readHlcSet n (p - 12288) s)) s

/-! ### The retire scrub (09 R246 step 4, R248, R249) -/

/-- A fine set: entries that no tracker blocks pass through Table 09-4. -/
def scrubFineSet (n set agent : Nat) (s : State) : State :=
  let s := readFineSet n set s
  eachOf ((List.range 16).filter (s.fineLive n)) (fun w s =>
    let e := s.fineAt n set w
    let a := e.line set
    if e.free || (scrubEntry agent e).1 = e || (s.slice n).trk.any fun kv => kv.2.blocks a then s
    else writeFine n a w e s) s

/-- The line of a place in a loaf set, if the scrub must ask for it: present in a may-hold-owner loaf whose GVEC has the
agent's group. -/
def State.scrubAsks (s : State) (n set agent i : Nat) : Option PA :=
  let l := s.loafAt n set (i / 8)
  if s.loafLive n (i / 8) && l.lstate = lfOwner && bit l.pres (i % 8) && bit l.gvec (groupOf agent) then
    some (regionLine (l.region set) (i % 8))
  else none

/-- A slot of the scrub in the loaf sets: own tracker t takes the next line to ask for; with none left in the set the scan
moves on. -/
def scrubLoafSlot (n t agent pos : Nat) (s : State) : State :=
  let set := (pos - 8192) / 64
  let first := (pos - 8192) % 64
  let s := if first = 0 then readLoafSet n set s else s
  match ((List.range 64).filter (first ≤ ·)).findSome? fun i => (s.scrubAsks n set agent i).map fun a => (i, a) with
  | none => setPos n .scrub (8192 + (set + 1) * 64) s
  | some (i, a) =>
    let age := (s.slice n).allocSeq
    let stage := if (s.slice n).lineFree a (sliceNode n).toNat age then Stage.ready else .chain
    match allocOwn n t (.scrubLine agent) a stage s with
    | some s => setPos n .scrub (8192 + set * 64 + i + 1) s
    | none => s

/-! ### MOVE_SCAN_SLOT -/

/-- A disable walk begins when ways wait for one (15 R396). -/
def startWalk (n : Nat) (s : State) : State :=
  let sl := s.slice n
  if (sl.scan .disable).isSome || (sl.fineDising = 0 && sl.loafDising = 0 && sl.hlcDising = 0) then s
  else
    let period := s.spine.scanCode
    s.updSlice n fun sl => { sl with scans := sl.scans ++
      ([{ kind := .disable, stop := 12544, period, fineW := sl.fineDising, loafW := sl.loafDising, hlcW := sl.hlcDising }] : List Scan) }

/-- A slot of the scan of a kind taken: its next is due SCAN HCLK later (08 R223). -/
def spendSlot (n : Nat) (k : ScanKind) (s : State) : State :=
  s.updSlice n fun sl =>
    { sl with scans := onScan k (fun sc => { sc with due := sl.hclk + sc.every, used := sc.used + 1 }) sl.scans }

/-- A due slot of a scan of kind k, with own tracker t for work that needs one. In BROADCAST the arrays are not used (13
R344): only a purge has anything to do. -/
def scanSlot (n t : Nat) (k : ScanKind) (s : State) : State :=
  let s := if k = .disable && (s.slice n).serving then startWalk n s else s
  let sl := s.slice n
  match sl.scan k with
  | none => s
  | some sc =>
    if !sl.serving || s.paused n || !sl.slotOpen || !s.slotDue n sc then s
    else
      let s := spendSlot n k (ownSlot n s)
      let lost := sl.mode = .broadcast
      match k with
      | .move => moveSlot n sc s
      | .copy => copySlot n sc s
      | .purge => purgeSlot n sc.pos s
      | .scrub =>
        if lost then setPos n .scrub sc.stop s
        else if sc.pos < 8192 then setPos n .scrub (sc.pos + 1) (scrubFineSet n sc.pos sc.agent s)
        else scrubLoafSlot n t sc.agent sc.pos s
      | .recolour => if lost then setPos n k sc.stop s else recolourSlot n t sc s
      | .disable => if lost then setPos n k sc.stop s else clearSlot n t sc s
      | .tray => if lost then setPos n k sc.stop s else clearSlot n t sc s

/-- MOVE_SCAN_SLOT. A slot whose writes would exceed the mirrored writes that may wait for acknowledgment waits (13 R336). -/
def moveScanSlot (n t : Nat) (k : ScanKind) (s : State) : State := mirrorBound n (scanSlot n t k) s

/-! ### WAY_DISABLE_WALK_END (15 R396, R397, 13 R344) -/

/-- A colour with no usable way left in an array falls back to every enabled way, once (15 R397). -/
def fallback (n array c : Nat) (s : State) : State :=
  let c4 := BitVec.ofNat 4 c
  let sl := s.slice n
  let r : Bool × Slice := match array with
    | 0 => (!bit sl.fbFine c && !(List.range 16).any fun w => s.fineLive n w && bit (s.mask c4).fine w,
        { sl with fbFine := setBit sl.fbFine c true })
    | 1 => (!bit sl.fbLoaf c && !(List.range 8).any fun w => s.loafLive n w && bit (s.mask c4).loaf w,
        { sl with fbLoaf := setBit sl.fbLoaf c true })
    | _ => (!bit sl.fbHlc c && !(List.range 8).any fun w => s.hlcLive n w && bit (s.mask c4).hlc w,
        { sl with fbHlc := setBit sl.fbHlc c true })
  if r.1 then
    (s.setSlice n r.2).feed (sliceFeed n) (hrec 0x207 1 (sliceNode n) (p48 (c + 16 * array)) (p48 n) 0)
  else s

/-- Every colour of slice n checked for a usable way in each array (15 R397). -/
def fallbacks (n : Nat) (s : State) : State :=
  if (s.slice n).serving then eachOf (List.range 48) (fun i => fallback n (i / 16) (i % 16)) s else s

/-- Tracking is unusable: every non-tray fine way, or every loaf way, is disabled (13 R344). The slice serves in BROADCAST,
and its automatic evacuation is due. -/
def checkLost (n : Nat) (s : State) : State :=
  let none' (l : List Bool) := !l.any id
  if (s.slice n).conds.bLost then s
  else if none' ((List.range 16).map (s.fineLive n)) || none' ((List.range 8).map (s.loafLive n)) then
    let s := s.setConds n fun c => { c with bLost := true }
    s.updSpine fun sp => { sp with autoEvac := addNew sp.autoEvac n }
  else s

/-- The ways of a finished walk out of lookup too. -/
def wayDisableWalkEnd (n : Nat) (s : State) : State :=
  match (s.slice n).scan .disable with
  | none => s
  | some sc =>
    if sc.pos < sc.stop || !(s.slice n).serving then s
    else
      let s := dropScan n .disable s
      let s := s.updSlice n fun sl => { sl with
        fineDis := sl.fineDis ||| sc.fineW, loafDis := sl.loafDis ||| sc.loafW, hlcDis := sl.hlcDis ||| sc.hlcW,
        fineDising := sl.fineDising &&& ~~~ sc.fineW, loafDising := sl.loafDising &&& ~~~ sc.loafW,
        hlcDising := sl.hlcDising &&& ~~~ sc.hlcW }
      let s := s.setConds n fun c => { c with lWays := true }
      checkLost n (fallbacks n s)

/-! ### TRAY_CONVERT_END, RECOLOUR_SCAN_END -/

/-- Ways that convert. -/
def convertFine (old new : Nat) : BitVec 16 :=
  ((List.range 16).filter fun w => 16 - new ≤ w && w < 16 - old).foldl (fun v w => setBit v w true) 0

def convertHlc (old new : Nat) : BitVec 8 :=
  ((List.range 8).filter fun w => 8 - new ≤ w && w < 8 - old).foldl (fun v w => setBit v w true) 0

/-- The conversion of a serving slice begins: it shows P_TRAY until its scan has ended (07 R208, 13 Table 13-2). -/
def startTray (ft ht n : Nat) (s : State) : State :=
  let period := s.spine.scanCode
  let fineW := convertFine s.spine.trayFt ft
  let hlcW := convertHlc s.spine.trayHt ht
  let s := s.updSlice n fun sl => { sl with
    scans := sl.scans ++ ([{ kind := .tray, stop := 12544, period, fineW, hlcW }] : List Scan) }
  s.setConds n fun c => { c with pTray := true }

/-- A slice that comes to serve while a TRAY_CONFIGURE waits for it converts its ways as the others do. -/
def joinTray (n : Nat) (s : State) : State :=
  match s.spine.jobs.findSome? fun j => match j.kind with
    | .tray ft ht l _ => if l.contains n then some (ft, ht) else none
    | _ => none with
  | some g => startTray g.1 g.2 n s
  | none => s

/-- TRAY_CONVERT_END: slice n has converted or returned its ways (07 R208); the last slice lets the command complete. A
slice whose other ways are disabled may be left without a usable one (13 R344, 15 R397). A pause holds it back (17 R423). -/
def trayConvertEnd (n : Nat) (s : State) : State :=
  match s.spine.jobs.find? fun j => match j.kind with | .tray _ _ l _ => l.contains n | _ => false with
  | some { id := id, kind := .tray ft ht left fl, .. } =>
    let done := !(s.slice n).serving || (s.slice n).scans.any fun sc => sc.kind = .tray && sc.stop ≤ sc.pos
    if !s.trayFlushed || !done || s.paused n then s
    else
      let s := dropScan n .tray s
      let s := s.updSlice n fun sl => { sl with arr := { sl.arr with trayFine := [], trayHlc := [] } }
      let s := if (s.slice n).conds.pTray then s.setConds n fun c => { c with pTray := false } else s
      let left := left.filter (· != n)
      if left.isEmpty then
        let s := s.updSpine fun sp => { sp with trayFt := ft, trayHt := ht }
        finishJob id ccOK 0 (eachOf (s.sliceNums.filter fun n => (s.slice n).serving) (fun n s => checkLost n (fallbacks n s)) s)
      else s.updJob id fun _ => .tray ft ht left fl
  | _ => s

/-- RECOLOUR_SCAN_END (14 R359, R375). -/
def recolourScanEnd (n : Nat) (s : State) : State :=
  match (s.slice n).scan .recolour with
  | none => s
  | some sc =>
    if sc.pos < sc.stop then s
    else
      recolouredAll n (dropScan n .recolour s)

def execMoveScanSlot (n t : Nat) (k : ScanKind) (s : State) : Res := atSlice n s (moveScanSlot n t k)
def execWayDisableWalkEnd (n : Nat) (s : State) : Res := atSlice n s (wayDisableWalkEnd n)
def execTrayConvertEnd (n : Nat) (s : State) : Res := atSlice n s (trayConvertEnd n)
def execRecolourScanEnd (n : Nat) (s : State) : Res := atSlice n s (recolourScanEnd n)

end Sys2Proof.Machine
end

