-- ==== Sys2Proof/Machine/Temper.lean ====
section
/-! DEFINITION. The Temper monitor (08 R233 to R236): the measurements of a window, slow slices, shedding. -/

namespace Sys2Proof.Machine

/-- The measurements of the window that ends (08 R233): means rounded down (DEDUCED, log 26). OCC of a window without a
sample, and LAT of one in which no transaction ended, are 0 (DESIGN CHOICE, log 72). -/
def Temper.close (x : Temper) : Temper :=
  { x with
    occ := if x.occN = 0 then 0 else x.occSum / x.occN
    lat := if x.latN = 0 then 0 else x.latSum / x.latN
    qDepth := x.qSum.map fun q => if x.occN = 0 then 0 else min 65535 (256 * q / x.occN)
    bktLast := x.bktNow, bktNow := [], occSum := 0, occN := 0, latSum := 0, latN := 0, qSum := [0, 0, 0, 0]
    sinceShed := if x.shed then 0 else x.sinceShed + 1 }

/-- Twice the median of a list of numbers. -/
def median2 (l : List Nat) : Nat :=
  let l := sortBy id l
  let k := l.length
  if k = 0 then 0 else l.getD ((k - 1) / 2) 0 + l.getD (k / 2) 0

/-- The active slices in TRACK. -/
def State.tracking (s : State) : List Nat := s.sliceNums.filter fun n => (s.slice n).mode = .track

/-- Twice MED. -/
def State.med2 (s : State) : Nat := median2 (s.tracking.map fun n => (s.slice n).temper.lat)

/-- The window just closed is slow for slice n (08 R234). -/
def State.slowWindow (s : State) (n med2 count : Nat) : Bool :=
  let c := s.spine.temperNow
  let x := (s.slice n).temper
  4 ≤ count && c.ratio * med2 < 16 * x.lat && c.occmin ≤ x.occ

/-- The run of slow or not-slow windows of a slice in TRACK. A slice that becomes slow may be shed at once. -/
def judge (n med2 count : Nat) (s : State) : State :=
  let x := (s.slice n).temper
  let turn := s.slowWindow n med2 count != x.slow
  let run := if turn then x.run + 1 else 0
  if run < s.spine.temperNow.consec || !turn then s.updSlice n fun sl => { sl with temper := { sl.temper with run } }
  else
    let s := s.updSlice n fun sl => { sl with temper := { sl.temper with run := 0, slow := !x.slow, sinceShed := 64 } }
    if x.slow then s else raiseSlice n 0x18 {} s

/-- Buckets that slice n is to shed (08 R236 steps 1 and 2). Of buckets with equal counts the lower-numbered goes first (DESIGN
CHOICE, log 106). -/
def State.shedList (s : State) (n med2 : Nat) : List Nat :=
  let x := (s.slice n).temper
  let own := s.ownedBuckets n
  let keep := max s.spine.temperNow.floor (if x.lat = 0 then own.length else own.length * med2 / (2 * x.lat))
  let count := own.length - keep
  (sortBy (fun b => 2 ^ 32 - mget 0 x.bktLast b) own).take count

/-- The buckets of a list that R221 lets slice n move now. -/
def State.mayShed (s : State) (n : Nat) (l : List Nat) : List Nat :=
  let sl := s.slice n
  let slice := sl.susFine.isEmpty && sl.susLoaf.isEmpty && !s.inMove n && !s.inCopy n &&
    !s.spine.jobs.any fun j => match j.kind with | .evacuate m _ _ _ => m = n | _ => false
  if slice then (l.filter fun b => !s.stubbed b && !s.censusOf b).take (63 - (s.stubs n).length) else []

/-- A slow slice sheds in one scan. Moves that R221 forbids are deferred to the next window; step 1 is taken again RECHECK
windows after a scan. -/
def shed (n med2 : Nat) (s : State) : State :=
  let x := (s.slice n).temper
  let put (l : List Nat) (on : Bool) (s : State) : State := s.updSlice n fun sl => { sl with
    temper := { sl.temper with deferred := l, shed := sl.temper.shed || on } }
  if !x.slow || !(s.slice n).serving || !s.spine.temperNow.shedEn then (if x.deferred.isEmpty then s else put [] false s)
  else
    let fresh := !x.shed && s.spine.temperNow.recheck ≤ x.sinceShed && x.deferred.isEmpty
    let want := if fresh then s.shedList n med2 else x.deferred.filter (s.ownedBuckets n).contains
    let may := s.mayShed n want
    let l := assignTargets (s.roomy n) may
    let s := put (want.filter fun b => !may.contains b) (!l.isEmpty) s
    if l.isEmpty then s
    else
      let r := s.addJob none (.shed n)
      startMove n l false r.2 r.1

end Sys2Proof.Machine
end

