-- ==== Sys2Proof/Machine/Modes.lean ====
section
/-! DEFINITION. Slices that fail, are reset, powered or evacuated: salvage (13 R337 to R343, Table 13-5), the end of SEED
(R328, R329, R334), slice power (R325, R326, 17 R422), automatic evacuation (R345) and the SRST reaction (15 R389). -/

namespace Sys2Proof.Machine

/-! ### Work that a slice in HOLD leaves -/

/-- Moves of buckets towards slice n given up at their sources; what n received is lost with it. -/
def dropTarget (n m : Nat) (s : State) : State :=
  match (s.slice m).scans.find? fun sc => sc.kind = .move && sc.moves.any fun x => x.target = n with
  | none => s
  | some sc =>
    let l := (sc.moves.filter fun x => x.target = n).map (·.b)
    let s := eachOf l (fun b s =>
      let s := s.setMaster b { s.master b with moving := false }
      let s := s.setBkt n b { s.bkt n b with incoming := false }
      unfreeze m b s) s
    let s := s.updSlice m fun sl => { sl with
      mirrored := sl.mirrored.filter fun x => !l.contains x.2.2
      mirrorQ := sl.mirrorQ.filter fun x => !l.contains x.1.2.2
      scans := sl.scans.map fun x =>
        if x.kind = .move then { x with moves := x.moves.filter fun y => y.target != n } else x }
    let s := eachOf (List.range 32) (fun _ => mirrorNext m) s
    let s := s.updSpine fun sp => { sp with jobs := sp.jobs.map fun j => match j.kind with
      | .move src b t g _ => if src = m && l.contains b then { j with kind := .move src b t g true } else j
      | _ => j }
    endMoves m s

/-- The moves out of slice n given up: their targets purge what they received (08 R231). -/
def dropSource (n : Nat) (s : State) : State :=
  let l := ((s.slice n).scans.filter fun sc => sc.kind = .move).flatMap (·.moves)
  let f := ((s.slice n).scans.filter Scan.moving).flatMap (·.flipped)
  let s := s.updSlice n fun sl => { sl with scans := sl.scans.filter fun sc => sc.kind = .copy }
  let s := eachOf l (fun x s =>
    let s := s.setMaster x.b { s.master x.b with moving := false }
    let e := s.bkt x.target x.b
    if e.incoming then startPurge x.target [] (s.setBkt x.target x.b { e with incoming := false, purge := true })
    else s) s
  settleMoves ((l ++ f).map (·.target)) s

/-- A copy towards slice n given up: the source keeps the buckets it has (13 R343). -/
def dropCopyTarget (n : Nat) (s : State) : State :=
  eachOf s.spine.jobs (fun j s => match j.kind with
    | .copy src tgt _ _ _ =>
      if tgt = n then
        let l := ((s.slice src).scans.filter fun sc => sc.kind = .copy).flatMap (·.moves)
        let s := dropScan src .copy (eachOf l (fun x s =>
          let s := s.setBkt n x.b { s.bkt n x.b with incoming := false }
          unfreeze src x.b (s.setMaster x.b { s.master x.b with moving := false })) s)
        let s := s.updSlice src fun sl => { sl with mirrored := [], mirrorQ := [] }
        let s := if (s.slice src).serving then s.setConds src fun c => { c with pCopy := false } else s
        finishJob j.id ccABORTED 0 s
      else s
    | _ => s) s

/-- Commands that the slice's entry into HOLD ends or sends elsewhere. Codes of SLICE_ADMIT and SLICE_RESET: log 27. -/
def holdCommands (n : Nat) (s : State) : State :=
  let s := match (s.slice n).steal with
    | some { why := .command job, .. } => finishJob job ccABORTED 0 s
    | _ => s
  let s := (s.updSlice n fun sl => { sl with steal := none, recipe := none }).setConds n fun c => { c with pRecipe := false }
  let s := eachOf (s.slice n).byAge (fun kv s =>
    match kv.2.kind with
    | .range _ job => if kv.2.stage = .ended then s else redoRange job (lineOf kv.2.addr) s
    | .restore job => if kv.2.stage = .ended then s else restartCmd job s
    | _ => modeSetEnded n kv.1 s) s
  eachOf s.spine.jobs (fun j s => match j.kind with
    | .admitSlice k => if k = n then finishJob j.id ccSTATE 0 s else s
    | .resetSlice k => if k = n then finishJob j.id ccSTATE 0 s else s
    | .move src b _ _ _ => if src = n then finishJob j.id ccABORTED 0 (s.setMaster b { s.master b with moving := false }) else s
    | .shed k => if k = n then s.dropJob j.id else s
    | .evacuate k _ moved _ =>
      if k = n then finishJob j.id ccABORTED moved (if j.cmd.isNone then evacRec n 256 moved s else s) else s
    | _ => s) (recolouredAll n s)

/-- Everything that slice n's entry into HOLD ends outside it. -/
def holdCleanup (n : Nat) (s : State) : State :=
  let s := eachOf s.sliceNums (fun m s => if m = n then s else dropTarget n m s) s
  let s := dropCopyTarget n (holdCommands n (dropSource n s))
  let copying := s.inCopy n
  { s with wires := s.wires.filter fun w => match w with
    | .copyFine a b .. | .copyLoaf a b .. => b != n && (a != n || copying)
    | .copyRefuse a b .. | .copyAck a b .. => a != n && b != n
    | _ => true }

/-! ### The records of a failed slice (13 R339, Table 13-5) -/

/-- The tracker holds dirty data that is not in the merging buffer, an AtomOp's operand from its allocation on and a stash's write
data until its end, or waits for write data whose Grant it sent, or restores a line in P. -/
def Tracker.lostP (k : Tracker) : Bool :=
  match k.kind with
  | .msg op =>
    k.waitDat ||
    (op = .atomOp && !k.atomDone && (k.stage = .chain || k.stage = .ready || k.stage = .live)) ||
    (k.stage = .live && ((op != .atomOp && k.round.data.isSome) || k.waitStash || k.stashed))
  | .restore _ => k.stage = .live
  | _ => k.stage = .live && k.round.data.isSome && !k.rdone

/-- The tracker leaves its line in U: it sent its first answer, or is past its decision step. -/
def Tracker.lostU (k : Tracker) : Bool :=
  match k.kind with
  | .msg op => op != .pfHint && op != .drainW && (k.stage = .live || k.stage = .denied)
  | .walk _ => false
  | .evictOnly => false
  | _ => k.stage = .live

/-- The outcomes of one tracker record: lines to P and lines to U. -/
def Tracker.lost (k : Tracker) : List PA × List PA :=
  let own := lineOf k.addr
  let ev := match k.evict with | some e => if e.quarantined then [] else e.lines | none => []
  ((if k.lostP then [own] else []) ++ k.pendWr.map (·.1) ++ (ev.filter fun l => l.round.data.isSome).map (·.line),
   (if !k.lostP && k.lostU then [own] else []) ++ (ev.filter fun l => l.round.data.isNone).map (·.line))

/-- The lines that a failed slice leaves in P and in U. Records that cannot be read leave none (R341). -/
def State.lostLines (s : State) (n : Nat) (v : Salvage) : List PA × List PA :=
  if v.unreadable then ([], [])
  else
    let sl := s.slice n
    let mb := (sl.mb.filter fun kv => kv.2.st = .opened ||
      (kv.2.st = .sent && v.silent.any fun p => kv.2.target = portNode p)).map (·.2.line)
    let r := (sl.trk.filter fun kv => !kv.2.bad).map fun kv => kv.2.lost
    let p := (mb ++ r.flatMap (·.1)).foldl addNew []
    (p, ((r.flatMap (·.2)).foldl addNew []).filter fun a => !p.contains a)

/-- Work at a slice with an own tracker, if one can be had, for the eviction it may need. -/
def withAuto (n : Nat) (a : PA) (f : Nat → State → State) (s : State) : State :=
  match (List.range 256).find? fun t => ((s.slice n).tracker t).isNone with
  | some t => match allocWork n t .evictOnly a .ended s with
    | some s => advance n t ((f t s).updTrk n t fun k => { k with heldLoaf := none })
    | none => f noTracker s
  | none => f noTracker s

/-- The slice's entry of a line is in P. -/
def State.inPAt (s : State) (n : Nat) (a : PA) : Bool :=
  match s.fineFind n a with
  | some w => (s.fineAt n (fineSet a) w).hstate = hsP
  | none => false

/-- A line written U in census form, in a way chosen as 04 R136 chooses; an entry in P stays (04 R137). -/
def placeU (n t : Nat) (a : PA) (s : State) : State :=
  match s.fineFind n a with
  | some w => if s.inPAt n a then s else writeFine n a w (s.fineAt n (fineSet a) w).setU s
  | none => match allocFine n t a (s.fineOpen n) 0 none 17 (clearPres n a s) with
    | (s, some w) => writeFine n a w ({} : FineEntry).setU s
    | (s, none) => suspectFine n (fineSet a) s

/-! ### Salvage (13 R338) -/

/-- The copy target of a failed source, with how far the scan had read (13 R338 step 5, R342): also one that is still in
SEED, whose scan has not begun. -/
def State.copyTarget (s : State) (n : Nat) : Option (Nat × Nat × Nat) :=
  s.spine.jobs.findSome? fun j => match j.kind with
    | .copy src tgt _ _ _ =>
      let c := (s.slice tgt).conds
      if src = n && ((s.slice tgt).serving || (c.phase = .seed && c.seedNext = .copyTarget j.id)) then
        some (j.id, tgt, match (s.slice n).scan .copy with | some sc => sc.pos | none => 0)
      else none
    | _ => none

/-- A copy whose source entered HOLD has ended: `taken` buckets were taken over, `p` lines placed in P (13 R343). -/
def endLostCopy (n taken p : Nat) (s : State) : State :=
  eachOf s.spine.jobs (fun j s => match j.kind with
    | .copy src tgt flipped _ _ =>
      if src = n then
        let s := dropScan src .copy s
        let s := if (s.slice tgt).serving then s.setConds tgt fun c => { c with pCopy := false }
          else if (s.slice tgt).conds.phase = .seed then s.setConds tgt fun c => { c with seedNext := .retain }
          else s
        finishJob j.id ccABORTED (flipped + taken + 65536 * p) s
      else s
    | _ => s) s

/-- A tray segment that names a failed slice becomes a hole (13 R338). -/
def loseSegments (n : Nat) (s : State) : State :=
  let l := (s.spine.traySeg.filter fun kv => kv.2.valid && kv.2.slice = n).map (·.1)
  eachOf l (fun k s =>
    (s.updSpine fun sp => { sp with traySeg := mput {} sp.traySeg k { valid := false, slice := n } }).feed spineFeed
      (hrec 0x303 2 spineNode (p48 k) (p48 n) 0)) s

/-- A slice in HOLD that owns no bucket, and had no salvage, is done with: the commands that named it end, a copy out of it with
ABORTED (R343), and its tray segments are lost (DEDUCED, log 75). -/
def holdOver (n : Nat) (s : State) : State := loseSegments n (endLostCopy n 0 0 (holdCleanup n s))

/-- The records read (step 3): a tracker record, or a merging-buffer control record in use, that fails its check raises
salvage-failure (R341). The buffer's records are numbered from 256 on (DESIGN CHOICE, log 73). -/
def readRecords (n : Nat) (unreadable : Bool) (s : State) : State :=
  let fail (i : Nat) (inj : Bool) (s : State) : State :=
    raiseSpine spineNode 0x64 { syn := BitVec.ofNat 16 i, node := sliceNode n, inj } s
  if unreadable then fail 0 false s
  else
    let s := eachOf (s.slice n).trk (fun kv s =>
      let r := injSlice n 0x1B s
      if kv.2.bad != r.1 then (fail kv.1 r.1 r.2).updTrk n kv.1 fun k => { k with bad := true } else r.2) s
    eachOf (s.slice n).mb (fun kv s =>
      if kv.2.st = .free then s
      else
        let r := injSlice n 0x07 s
        if kv.2.maskBad != r.1 then fail (256 + kv.1) r.1 r.2 else r.2) s

/-- The RQTXs of an agent that trackers of a slice hold, each with its line's bucket. -/
def Slice.rqtxsOf (sl : Slice) (sh : Nat) : List (BitVec 10 × Nat) :=
  sl.trk.filterMap fun kv => match kv.2.kind with
    | .msg op => if kv.2.src.toNat = sh && op != .drainW && op != .pfHint then some (kv.2.rqtx, bucketOf kv.2.addr) else none
    | _ => none

/-- The next slice in HOLD to be salvaged: the first that entered HOLD and owned buckets (15 R398). -/
def State.salvageNext (s : State) : Option Nat := s.spine.salvageQ.find? fun m => !(s.heldBuckets m).isEmpty

/-- SALVAGE_START: steps 1 to 3 for the first slice that entered HOLD and owned buckets. A slice without buckets needs no
salvage (15 R398) and waits for none: what it leaves is ended, here or at the next HCLK, and a slice reset or the OFF row that waited
for it is taken (15 R389, 17 R422; DEDUCED, log 75). -/
def salvageStart (n : Nat) (s : State) : State :=
  if !s.spine.salvageQ.contains n || (s.slice n).conds.phase != .hold ||
      (!(s.heldBuckets n).isEmpty && (s.salvageNext != some n || s.spine.salvage.isSome)) then s
  else
    let s := s.updSpine fun sp => { sp with salvageQ := sp.salvageQ.erase n }
    let s := if (s.heldBuckets n).isEmpty then holdOver n s else holdCleanup n s
    let held := s.heldBuckets n
    if held.isEmpty then holdFreed n s
    else
      let lost := !bit s.spine.pwr n || s.spine.offDue.contains n
      let s := eachOf held (fun b s => s.setBkt n b { s.bkt n b with kind := .frozen }) s
      let s := s.setConds n fun c => { c with hSalv := true }
      let s := loseSegments n s
      let s := s.feed spineFeed (hrec 0x302 2 spineNode (p48 n) 0 0)
      let s := readRecords n lost s
      let ports := List.range s.par.nMport
      let s := eachOf ports (fun p s => s.updPort p fun x => { x with notices := addNew x.notices n }) s
      let sl := s.slice n
      let s := eachOf s.shimNums (fun sh s =>
        s.wire (.lostNotice sh n (if lost then [] else sl.rqtxsOf sh))) s
      let s := eachOf s.fnNums (loseForRequester n) s
      s.updSpine fun sp => { sp with salvage := some {
        slice := n, ports, unreadable := lost, copyJob := (s.copyTarget n).map (·.1) } }

/-- Slices in HOLD that own no bucket: each is done with. -/
def holdsOver (s : State) : State :=
  eachOf (s.spine.salvageQ.filter fun n => (s.slice n).conds.phase = .hold && (s.heldBuckets n).isEmpty) salvageStart s

/-- What the copied messages of a failed source leave at its target: those already sent arrive (13 R342). -/
def drainCopies (n tgt : Nat) (s : State) : State :=
  eachOf s.wires (fun w s =>
    match w with
    | .copyFine src dst set way old e exact _ =>
      if src = n && dst = tgt then
        let s := s.takeWire w
        withAuto tgt 0 (fun t s => match takeFine tgt t src set way old e exact s with | some r => r.1 | none => s) s
      else s
    | .copyLoaf src dst set way old e exact _ =>
      if src = n && dst = tgt then
        let s := s.takeWire w
        withAuto tgt 0 (fun t s => match takeLoaf tgt t set way old e exact s with | some r => r.1 | none => s) s
      else s
    | _ => s) s

/-- The outcomes of Table 13-5 for the lines of some buckets, written at their targets. -/
def applyLost (n : Nat) (v : Salvage) (l : List Mv) (s : State) : State :=
  let r := s.lostLines n v
  let tgt (a : PA) : Option Nat := (l.find? fun m => m.b = bucketOf a).map (·.target)
  let p := r.1.filterMap fun a => (tgt a).map fun m => (m, a)
  let u := r.2.filterMap fun a => (tgt a).bind fun m => if s.inPAt m a then none else some (m, a)
  let s := eachOf u (fun x s => withAuto x.1 x.2 (fun t s => placeU x.1 t x.2 s) s) s
  let s := eachOf p (fun x s => withAuto x.1 x.2 (fun t s => placeP x.1 t x.2 0 [] 0xFFFF s) s) s
  s.updSpine fun sp => { sp with salvage := sp.salvage.map fun v => { v with toP := v.toP + p.length, toU := v.toU + u.length } }

/-- The salvage of a slice ended: its record, and the end of a copy it was the source of (13 R343). -/
def salvageEnd (v : Salvage) (taken : Nat) (s : State) : State :=
  let s := s.feed spineFeed (hrec 0x302 2 spineNode (p48 (v.slice + 256)) (p48 v.toP) (p48 v.toU))
  let s := s.updSpine fun sp => { sp with salvage := none }
  holdFreed v.slice (endLostCopy v.slice (if v.copyJob.isSome then taken else 0) v.toP s)

/-- SALVAGE_TAKEOVER: steps 5 to 7, once every port has answered and a copy target has left SEED, for as many buckets as
targets can be had for, the lowest-numbered first (DESIGN CHOICE, log 116). -/
def salvageGo (s : State) : State :=
  match s.spine.salvage with
  | none => s
  | some v =>
    let n := v.slice
    let copy := if v.copyJob.isSome then s.copyTarget n else none
    let paused (s : State) := match copy with
      | some c => s.paused c.2.1
      | none => (s.roomy n).any s.paused
    if !v.ports.isEmpty || (copy.any fun c => !(s.slice c.2.1).serving) || paused s then s
    else
      let frozen := s.heldBuckets n
      let l : List Mv := match copy with
        | some c => frozen.map fun b => { b, target := c.2.1, engine := (s.bkt n b).engine }
        | none => assignTargets (s.roomy n) frozen
      let s := match copy with
        | some c =>
          let sent := (s.slice n).mirrored ++ (s.slice n).mirrorQ.map (·.1)
          let list := (sent.map fun m => (m.1, m.2.1)).foldl addNew
            (if (s.slice n).frontiers.isEmpty then [] else (s.slice n).salvList)
          (drainCopies n c.2.1 s).updSlice c.2.1 fun sl => { sl with salvList := list.foldl addNew sl.salvList }
        | none => s
      let s := applyLost n v l s
      let s := eachOf l (fun m s =>
        let s := flipBucket n m.b m.target m.engine false s
        match copy with
        | some c =>
          let own := ((s.slice n).frontiers.find? fun f => f.1 = m.b).getD (m.b, 8192, 4096)
          setFrontier m.target m.b (min (min c.2.2 8192) own.2.1) (min (min (c.2.2 - 8192) 4096) own.2.2) s
        | none => setFrontier m.target m.b 0 0 s) s
      let s := eachOf ((l.map (·.target)).foldl addNew []) recipeNext s
      if (s.heldBuckets n).isEmpty then
        match s.spine.salvage with
        | some v => salvageEnd v l.length s
        | none => s
      else s

/-- PORT_NOTICE_ANSWER: port p answers the notice for slice n once no write of the slice is half received, held or
outstanding there. -/
def portNoticeAnswer (p n : Nat) (s : State) : State :=
  let x := s.port p
  let node := sliceNode n
  if !x.notices.contains n || (x.halves.any fun h => h.src = node) || (x.writes.any fun w => w.src = node) then s
  else
    let s := s.updPort p fun x => { x with notices := x.notices.filter (· != n) }
    salvageGo (s.updSpine fun sp => { sp with salvage := sp.salvage.map fun v =>
      if v.slice = n then { v with ports := v.ports.filter (· != p) } else v })

/-- PORT_QUIESCE_TIMEOUT: ports that have not answered after 8 us lost the slice's SENT writes, and discard its unmatched
halves. -/
def portQuiesceTimeout (n : Nat) (s : State) : State :=
  match s.spine.salvage with
  | none => s
  | some v =>
    if v.slice != n || v.ports.isEmpty then s
    else
      let s := eachOf v.ports (fun p s => s.updPort p fun x => { x with
        notices := x.notices.filter (· != n), halves := x.halves.filter fun h => h.src != sliceNode n }) s
      salvageGo (s.updSpine fun sp => { sp with salvage := some { v with silent := v.ports, ports := [] } })

/-! ### Evacuation and SRST -/

/-- The slices that would own buckets after an evacuation of slice n: those that own one now, and the targets that its
buckets would go to (DEDUCED, log 28). -/
def State.ownersAfter (s : State) (n : Nat) : List Nat :=
  let new := (assignTargets (s.roomy n) (s.ownedBuckets n)).map (·.target)
  s.sliceNums.filter fun m => m != n && (!(s.ownedBuckets m).isEmpty || new.contains m)

/-- Why SLICE_EVACUATE cannot start (13 R330). -/
def State.evacRefused (s : State) (n : Nat) : Option (BitVec 8) :=
  if !(s.slice n).serving || (s.spine.traySeg.any fun kv => kv.2.valid && kv.2.slice = n) ||
      (s.ownersAfter n).length < 32 then some ccSTATE
  else if s.inMove n || s.inCopy n ||
      (s.spine.jobs.any fun j => match j.kind with | .evacuate m _ _ _ => m = n | _ => false) then some ccBUSY
  else none

/-- The evacuation of slice n started, in the form its mode gives (13 R331). -/
def startEvac (n : Nat) (cmd : Option (Nat × Nat)) (reset : Bool) (s : State) : State :=
  let m := (s.slice n).mode
  let r := s.addJob cmd (.evacuate n (m = .limp || m = .broadcast) 0 reset)
  evacStep r.2 (if cmd.isNone then evacRec n 0 0 r.1 else r.1)

/-- AUTO_EVACUATE (13 R345). -/
def autoEvacuate (n : Nat) (s : State) : State :=
  if !s.spine.autoEvac.contains n then s
  else
    let left (s : State) := s.updSpine fun sp => { sp with autoEvac := sp.autoEvac.filter (· != n) }
    if (s.slice n).mode != .broadcast then left s
    else if s.spine.jobs.any fun j => match j.kind with | .evacuate m _ _ _ => m = n | _ => false then left s
    else match s.evacRefused n with
      | some _ => s
      | none => startEvac n none false (left s)

/-- SRST_REACTION (15 R389) for slice n. -/
def srstApply (n : Nat) (s : State) : State :=
  let wait := s.updSpine fun sp => { sp with srst := addNew sp.srst n }
  match (s.slice n).conds.phase with
  | .off => s
  | .seed => wait
  | .retain => resetSlice n .resetRetain s
  | .hold =>
    if (s.slice n).conds.hSalv || !(s.heldBuckets n).isEmpty || s.spine.offDue.contains n then wait
    else resetSlice n .resetRetain ((holdOver n s).updSpine fun sp => { sp with salvageQ := sp.salvageQ.filter (· != n) })
  | .service =>
    match s.evacRefused n with
      | some _ => evacRec n 512 0 s
      | none => startEvac n none true s

/-! ### The end of SEED (13 R328, R329, R334; 17 Table 17-4 step 5) -/

/-- An activation whose engine has not swapped its banks begins again with that engine: its shadow bank is another (13 R349 step
1). -/
def RecipeAct.again (r : RecipeAct) : RecipeAct :=
  match r.current with
  | some e => if r.returning then r else { engines := e :: r.engines, digests := r.digests }
  | none => r

/-- Step 1 of 13 R334 ended, and step 2 begins: the target has the source's recipe banks; the scan starts. A source that
entered HOLD meanwhile has its buckets taken over here (R338 step 5). -/
def startCopyScan (n job : Nat) (s : State) : State :=
  match s.job job with
  | some { kind := .copy src tgt _ _ _, .. } =>
    if tgt != n || !((s.slice src).serving || (s.slice src).conds.phase = .hold) then
      s.setConds n fun c => { c with phase := .retain }
    else
      let x := s.slice src
      let s := s.updSlice n fun sl => { sl with
        act := x.act, shd := x.shd, recipe := sl.recipe.map RecipeAct.again }
      let s := s.setConds n fun c => { c with phase := .service, pCopy := true }
      let s := recipeNext n (checkLost n (fallbacks n (joinTray n s)))
      if !(s.slice src).serving then salvageGo s
      else
        let s := s.setConds src fun c => { c with pCopy := true }
        let l : List Mv := (s.ownedBuckets src).map fun b => { b, target := n, engine := (s.bkt src b).engine }
        let period := s.spine.scanCode
        let stop := if s.spine.trayHt = 0 then 12288 else 12544
        let s := eachOf l (fun m s => s.setBkt n m.b { s.bkt n m.b with incoming := true }) s
        s.updSlice src fun sl => { sl with scans := sl.scans ++ ([{ kind := .copy, stop, period, moves := l, job }] : List Scan) }
  | _ => s.setConds n fun c => { c with phase := .retain }

/-- SEED_END. SEED leaves the ledger at 0 (13 R328, 17 R431). -/
def seedEnd (n : Nat) (s : State) : State :=
  let c := (s.slice n).conds
  if c.phase != .seed || s.spine.dvfsTaken then s
  else
    let next := c.seedNext
    let s := s.updSlice n fun sl => { sl with ledger := {} }
    let clean (p : Phase) (c : Conds) : Conds := c.into p
    let s := match next with
      | .retain => s.setConds n (clean .retain)
      | .resetRetain =>
        finishFor (fun k => match k with | .resetSlice m => m = n | _ => false) ccOK (s.setConds n (clean .retain))
      | .track =>
        finishFor (fun k => match k with | .admitSlice m => m = n | _ => false) ccOK
          (checkLost n (fallbacks n (joinTray n (s.setConds n (clean .service)))))
      | .copyTarget job => startCopyScan n job s
      | .coldReset =>
        let s := if n < s.par.nActive then s.updSlice n fun sl => { sl with bkt := [] } else s
        let s := s.setConds n (clean (if n < s.par.nActive then .service else .retain))
        endSequence s
    if s.spine.srst.contains n then
      srstApply n (s.updSpine fun sp => { sp with srst := sp.srst.filter (· != n) })
    else s

/-! ### Slice power (13 R325, R326, 17 R422, 18 R446) -/

/-- hk_slice_offok[n]. -/
def State.offOk (s : State) (n : Nat) : Bool :=
  (s.slice n).conds.phase = .retain &&
  !s.spine.jobs.any fun j => match j.kind with | .copy _ tgt _ _ _ => tgt = n | _ => false

/-- What a slice loses with its power beside the records that its salvage takes as unreadable: its SLC_ settings, counters, flags,
recipe banks, calibration status and fault record (18 R446). -/
def Slice.unpowered (sl : Slice) : Slice :=
  { sl.baseRecipe with
    recipe := sl.recipe, stealCfg := {}, temper := {}, ledger := {}, assay := {}
    arr := { sl.arr with hlcFlags := [] }, conds := { sl.conds with pCal := false } }

/-- Power lost where hk_slice_offok is 0 (17 R422): HOLD with every record unreadable. Salvage-failure is raised as the salvage reads
the records; at once where it has read them, or where there is no bucket to salvage (DEDUCED, log 29). -/
def losePower (n : Nat) (s : State) : State :=
  let s := fallLevels ((holdSlice n s).updSlice n Slice.unpowered)
  let s := s.updSpine fun sp => { sp with
    offDue := addNew sp.offDue n
    salvage := sp.salvage.map fun v => if v.slice = n then { v with unreadable := true } else v }
  if (s.slice n).conds.hSalv || (s.heldBuckets n).isEmpty then
    raiseSpine spineNode 0x64 { node := sliceNode n } s
  else s

/-- SLICE_POWER_REMOVED. -/
def slicePowerRemoved (n : Nat) (s : State) : State :=
  if !bit s.spine.pwr n || (s.slice n).conds.phase = .off then s
  else
    let ok := s.offOk n
    let s := s.updSpine fun sp => { sp with pwr := setBit sp.pwr n false }
    if ok then powerOff n .off s else losePower n s

/-- SLICE_POWER_RESTORED: the slice takes the OFF row of Table 13-3, SEED towards RETAIN. One that lost its power in service takes
it when its salvage is over (DEDUCED, log 29). -/
def slicePowerRestored (n : Nat) (s : State) : State :=
  if bit s.spine.pwr n then s
  else
    let s := s.updSpine fun sp => { sp with pwr := setBit sp.pwr n true }
    let c := (s.slice n).conds
    if c.phase = .off then powerUp n s
    else if c.phase = .hold && !c.hSalv && (s.heldBuckets n).isEmpty && (s.stubs n).isEmpty then
      powerUp n (if s.spine.salvageQ.contains n then holdOver n s else s)
    else s

/-! ### TEMPER_WINDOW_END -/

/-- TEMPER_WINDOW_END: every slice's measurements, the slow slices and their shedding; evacuations and salvages that
waited for targets go on. -/
def temperWindowEnd (s : State) : State :=
  let s := s.updSlices fun _ sl => { sl with temper := sl.temper.close }
  let m := s.med2
  let l := s.tracking
  let s := eachOf l (fun n s => judge n m l.length s) s
  let s := eachOf s.sliceNums (fun n s => shed n m s) s
  let s := s.updSpine fun sp => { sp with temperNow := sp.temper }
  evacSteps (copyReleases (salvageGo s))

def execTemperWindowEnd (s : State) : Res := .next (temperWindowEnd s)
def execSeedEnd (n : Nat) (s : State) : Res := atSlice n s (seedEnd n)
def execSlicePowerRemoved (n : Nat) (s : State) : Res := atSlice n s (slicePowerRemoved n)
def execSlicePowerRestored (n : Nat) (s : State) : Res := atSlice n s (slicePowerRestored n)
def execSalvageStart (n : Nat) (s : State) : Res := atSlice n s (salvageStart n)
def execPortNoticeAnswer (p n : Nat) (s : State) : Res :=
  if n < s.par.nSlice then atPort p s (portNoticeAnswer p n) else .fault .notBuilt
def execPortQuiesceTimeout (n : Nat) (s : State) : Res := atSlice n s (portQuiesceTimeout n)
def execAutoEvacuate (n : Nat) (s : State) : Res := atSlice n s (autoEvacuate n)

end Sys2Proof.Machine
end

