-- ==== Sys2Proof/Machine/Shim.lean ====
section
/-! DEFINITION. The port shims: messages from and to agents (03 R70 to R79, R94, R100, 05 R151), drains (06 R167, R168,
R171), stride streams (07 R203 to R205), injection (09 R238), map updates (08 R229), lost slices (13 R340), agent and shim
reset (09 R251, 17 R432). -/

namespace Sys2Proof.Machine

/-! ### Receiving (03 R100) -/

/-- The sources that a part raises for faulty messages. -/
structure RxSrc where
  header : Nat
  data : Nat
  protocol : Nat

/-- A message received: header and data checks (with the injections that `inj` makes), class, opcode, and `reject` for
opcodes never addressed to the part. -/
def receive (src : RxSrc) (inj : Nat → State → Bool × State) (raise : Nat → Detail → State → State)
    (reject : Msg → Bool) (f : Flits) (go : Rx → State → State) (s : State) : State :=
  let h := inj src.header s
  let flits := match flitOp f with | some o => o.dataFlits | none => 0
  let d := if !h.1 && hdrBad f.hdr = 0 then injEach (inj src.data) flits h.2 else (false, h.2)
  let s := d.2
  match decode f h.1 d.1 with
  | .error (.header, det) => raise src.header det s
  | .error (.protocol, det) => raise src.protocol det s
  | .ok rx =>
    if reject rx.m then raise src.protocol rx.det s
    else go rx (if rx.datBad then raise src.data { rx.det with inj := d.1 } s else s)

def shimSrc : RxSrc := { header := 0x40, data := 0x41, protocol := 0x42 }

def agentNode (sh : Nat) : BitVec 9 := BitVec.ofNat 9 sh

/-! ### Rights of an agent (03 R79) -/

/-- The lowest revision at which an agent may send an opcode (03 Tables 03-8, 03-10, 03-12). -/
def Op.agentRev (o : Op) (caching : Bool) : Option Nat :=
  match o with
  | .rdOnce | .wrFull | .wrPart | .seal | .datWb => some 1
  | .wrStash | .drainW => some 2
  | .atomOp => some 3
  | .rdShare | .rdOwn | .upgrade | .wbDirty | .wbClean | .drop | .tlbInvReq | .tlbSync | .snDone | .tlbAck | .datFwd =>
    if caching then some 1 else none
  | .stashTake | .stashRefuse | .cnsLine => if caching then some 2 else none
  | _ => none

/-- The opcode starts a write, an atomic operation or a RdOnce: ORD may be set (03 Table 03-8). -/
def Op.ordered (o : Op) : Bool := o.isWrite || o = .rdOnce || o = .atomOp

/-- Every field that the agent set is one that it may set (03 R74, R79, Tables 03-8 to 03-12; 06 R181). SRCID and DSTID, and
the GEN of a REQ or WBK message, are the shim's to write (R70, R71) and are not looked at; nor is ADDR[5:0] of a line operation,
for which the spec names no check (DESIGN CHOICE, log 92). -/
def Msg.fieldsOk (m : Msg) (rev : Nat) (caching : Bool) : Bool :=
  let o := m.op
  let isSoft := (2 ≤ rev) && (o = .rdShare || o = .rdOwn || (o = .rdOnce && caching))
  let answer := o.cls = 3 || o.cls = 4
  (isSoft || !m.soft) && ((o = .rdOwn && 3 ≤ rev) || !m.hold) && (o.ordered || m.ord = 0) && m.ord.toNat ≤ 1 &&
  !m.fwd && (o = .wrStash || o = .datFwd || m.peer = 0) &&
  (o = .atomOp || o = .cnsLine || o = .snDone || o = .datFwd || m.sub = 0) &&
  (o = .atomOp || o = .snDone || m.aux = 0) && (o = .datWb || m.bmask = 0) &&
  (answer || m.htrk = 0) && (o != .cnsLine || m.gen = 0) &&
  (!(o = .snDone || o = .stashTake || o = .stashRefuse || o = .cnsLine) || m.rqtx = 0) &&
  (o.isLineReq || o.isWbk || o = .cnsLine || m.addr = 0) &&
  (o.isLineReq || o.isWbk || o = .tlbInvReq || m.tid = 0) &&
  (o != .atomOp || (m.sub.toNat ≤ 3 && m.aux.toNat ≤ 9 && m.addr.toNat % 2 ^ m.sub.toNat = 0))

/-- 03 R79. -/
def Msg.legal (m : Msg) (rev : Nat) (caching : Bool) : Bool :=
  (match m.op.agentRev caching with | some r => r ≤ rev | none => false) && m.fieldsOk rev caching

/-! ### Building headers -/

/-- The bucket map entry that a header is built from; one that fails its check is reloaded from the master map (15 source
0x46). -/
def readBmap (sh b : Nat) (s : State) : BMapEntry × State :=
  let r := injShim sh 0x46 s
  let e := r.2.bmap sh b
  if e.bad != r.1 then
    let s := tableCheck tblMaster b (raiseShim sh 0x46 { syn := BitVec.ofNat 16 b, inj := r.1 } r.2)
    let g := s.master b
    let e' : BMapEntry := { slice := g.slice, engine := g.engine, gen := g.gen }
    (e', s.setBmap sh b e')
  else (e, r.2)

/-- SRCID, TID, DSTID and GEN written (03 R70, R71, R73). A TlbSync carries no TID (Table 03-8). -/
def stamp (sh : Nat) (m : Msg) (s : State) : Msg × State :=
  let x := s.shim sh
  let m := { m with src := agentNode sh, tid := if x.tidForce && m.op != Op.tlbSync then x.tidValue else m.tid }
  if m.op = .tlbInvReq || m.op = .tlbSync then ({ m with dst := spineNode, gen := 0 }, s)
  else
    let r := readBmap sh (bucketOf m.addr) s
    ({ m with dst := sliceNode r.1.slice, gen := r.1.gen }, r.2)

def queueReq (sh : Nat) (m : Msg) (s : State) : State :=
  s.updShim sh fun x => { x with reqQ := x.reqQ ++ ([{ m }] : List QMsg) }

/-- A REQ or WBK header built and queued, counted until its first answer. -/
def sendHeader (sh : Nat) (m : Msg) (seq : Nat) (s : State) : State :=
  let r := stamp sh m s
  let s := r.2
  let k := (s.shim sh).seq
  let s := s.updShim sh fun x => { x with seq := k + 1, outst := x.outst ++
    ([{ rqtx := m.rqtx, op := m.op, bucket := bucketOf m.addr, seq, built := some k }] : List Outst) }
  if m.op.isWbk then s.updShim sh fun x => { x with wbkQ := x.wbkQ ++ ([{ m := r.1 }] : List QMsg) }
  else queueReq sh r.1 s

/-! ### Drains (06 R168, R171) -/

/-- The shim's own answer to its agent; its sender is the agent's node (DESIGN CHOICE, log 31). It takes no place in the
mesh-to-agent RSP queue and is handed over at once, past what waits there: the spec says nothing of it (DESIGN CHOICE, log 90). -/
def answerAgent (sh : Nat) (m : Msg) (s : State) : State :=
  s.emit (.toAgent sh { m with src := agentNode sh, dst := agentNode sh })

/-- Every slice that was sent a copy has answered: step 4, and the Grant or the held message, unless that was discarded. -/
def drainDone (sh : Nat) (d : Drain) (s : State) : State :=
  let s := s.updShim sh fun x => { x with drains := x.drains.erase d, drainVec := x.drainVec &&& ~~~ d.bits }
  match d.held with
  | none => if d.gone then s else answerAgent sh { op := .grant, rqtx := d.rqtx } s
  | some m =>
    let s := s.updShim sh fun x => { x with outst := x.outst.filter fun o => !(o.built.isNone && o.rqtx = m.rqtx) }
    sendHeader sh m d.seq s

/-- A drain that waits for no slice is done. -/
def drainNext (sh : Nat) (d : Drain) (s : State) : State := if d.sent && d.waiting.isEmpty then drainDone sh d s else s

/-- Step 1: no REQ taken before the drain began waits for its first answer. -/
def Shim.drainReady (x : Shim) (d : Drain) : Bool :=
  !d.sent && !x.outst.any fun o => o.op.isReq && o.seq < d.seq

/-- REQ messages in the shim's queue (03 Table 03-15): those ready to be injected, held ones, and DrainW messages whose copies
have not been sent. -/
def Shim.reqUsed (x : Shim) : Nat := x.reqQ.length + (x.drains.filter fun d => d.held.isSome || !d.sent).length

/-- Step 2 begins: the slices whose bits are set. The copies for a lost slice count as answered (13 R337, R340). -/
def Drain.begin (d : Drain) (x : Shim) : Drain :=
  let l := (List.range 68).filter fun n => bit x.drainVec n && !x.lost.contains n
  if d.sent then d else { d with sent := true, todo := l, waiting := l, bits := x.drainVec }

/-- DRAIN_COPIES_SEND: step 2 for the first drain that has taken step 1 and has copies to send. Copies enter the REQ queue as it
has room; a queue whose 32 messages are all held ones still takes one copy at a time, in the place of the message that it serves
(DESIGN CHOICE, log 77). -/
def drainCopiesSend (sh : Nat) (s : State) : State :=
  let x := s.shim sh
  match x.drains.find? fun d => x.drainReady d || !d.todo.isEmpty with
  | none => s
  | some d =>
    let e := d.begin x
    let room := max (32 - { x with drains := x.drains.map fun y => if y = d then e else y }.reqUsed)
      (if x.reqQ.isEmpty then 1 else 0)
    let d' := { e with todo := e.todo.drop room }
    let s := s.updShim sh fun x => { x with drains := x.drains.map fun y => if y = d then d' else y }
    let s := eachOf (e.todo.take room) (fun n s =>
      queueReq sh { op := .drainW, src := agentNode sh, dst := sliceNode n, rqtx := d.rqtx } s) s
    drainNext sh d' s

/-- Slice n has answered a drain's copy, or counts as having done so. -/
def drainAnswer (sh n : Nat) (d : Drain) (s : State) : State :=
  let d' := { d with todo := d.todo.filter (· != n), waiting := d.waiting.filter (· != n) }
  drainNext sh d' (s.updShim sh fun x => { x with drains := x.drains.map fun y => if y = d then d' else y })

/-! ### Stride streams (07 R203 to R205) -/

/-- A stream entry that fails its check is invalidated (15 source 0x47). -/
def checkStreams (sh : Nat) (s : State) : State :=
  eachOf (mkeys (s.shim sh).streams) (fun i s =>
    let r := injShim sh 0x47 s
    match mfind (r.2.shim sh).streams i with
    | some e =>
      if e.bad != r.1 then
        (raiseShim sh 0x47 { syn := BitVec.ofNat 16 i, node := agentNode sh, inj := r.1 } r.2).updShim sh fun x =>
          { x with streams := mdel x.streams i }
      else r.2
    | none => r.2) s

/-- Distance in lines. -/
def lineDist (a b : BitVec 46) : Int := (a.toNat : Int) - (b.toNat : Int)

/-- Lines to hint from a, stride st, after nh in the stride's direction, inside a's page: `fuel` multiples from k on, at
most `room` lines. -/
def hintLines (a st nh : Int) (k room : Nat) : Nat → List Int
  | 0 => []
  | fuel + 1 =>
    let x := a + (k : Int) * st
    if room = 0 || x < 0 || x / 64 != a / 64 then []
    else if (0 < st && x ≤ nh) || (st < 0 && nh ≤ x) then hintLines a st nh (k + 1) room fuel
    else x :: hintLines a st nh (k + 1) (room - 1) fuel

/-- A hint sent while fewer than 8 messages wait in the REQ queue (R205), those held for a drain counted (DESIGN CHOICE,
log 77). -/
def sendHint (sh i : Nat) (tid : BitVec 12) (line : Int) (s : State) : State :=
  if 8 ≤ (s.shim sh).reqUsed then s
  else
    let r := readBmap sh (bucketOf (lineAt (BitVec.ofInt 46 line))) s
    queueReq sh { op := .pfHint, src := agentNode sh, dst := sliceNode r.1.slice, gen := r.1.gen, tid,
                  addr := lineAt (BitVec.ofInt 46 line), aux := BitVec.ofNat 4 i } r.2

/-- The stream entry after training with line a (step 2). -/
def Stream.train (e : Stream) (a : BitVec 46) : Stream :=
  let d := lineDist a e.la
  if d = e.st then { e with cf := min (e.cf + 1) 3, la := a } else { e with st := d, cf := 0, nh := a, la := a }

/-- R204. -/
def trainStream (sh : Nat) (tid : BitVec 12) (a : BitVec 46) (s : State) : State :=
  if !(s.shim sh).pfEn then s
  else
    let s := checkStreams sh s
    let x := s.shim sh
    let near (e : Stream) : Bool :=
      let d := lineDist a e.la
      e.tid = tid && d != 0 && -16 ≤ d && d ≤ 16
    let hit := x.streams.find? fun kv => near kv.2
    let i := match hit with | some kv => kv.1 | none => x.streamLru.headD 0
    let e : Stream := match hit with
      | some kv => kv.2.train a
      | none => { tid, la := a, st := 0, cf := 0, nh := a }
    let l := if x.pfMinConf ≤ e.cf && e.st != 0 then hintLines a.toNat e.st e.nh.toNat 1 2 x.pfDepth else []
    let e' := match l.getLast? with | some h => { e with nh := BitVec.ofInt 46 h } | none => e
    let s := s.updShim sh fun x => { x with
      streams := mins x.streams i e', streamLru := x.streamLru.filter (· != i) ++ [i] }
    eachOf l (sendHint sh i tid) s

/-! ### SHIM_AGENT_MESSAGE -/

/-- A REQ or WBK message that the agent may send. -/
def takeReq (sh : Nat) (m : Msg) (s : State) : State :=
  let k := (s.shim sh).seq
  let bump (s : State) : State := s.updShim sh fun x => { x with seq := k + 1 }
  match m.op with
  | .drainW => bump (s.updShim sh fun x => { x with drains := x.drains ++ ([{ rqtx := m.rqtx, held := none, seq := k }] : List Drain) })
  | .tlbInvReq | .tlbSync =>
    let r := stamp sh m s
    queueReq sh r.1 (bump r.2)
  | _ =>
    let s : State :=
      if m.ord = 1 then
        bump (s.updShim sh fun x => { x with
          drains := x.drains ++ ([{ rqtx := m.rqtx, held := some m, seq := k }] : List Drain)
          outst := x.outst ++ ([{ rqtx := m.rqtx, op := m.op, bucket := bucketOf m.addr, seq := k, built := none }] : List Outst) })
      else sendHeader sh m k s
    if (m.op = .rdShare || m.op = .rdOwn || m.op = .rdOnce) && !m.soft then
      let x := s.shim sh
      trainStream sh (if x.tidForce then x.tidValue else m.tid) (lineNo m.addr) s
    else s

/-- The class queue of a message has room (03 R94). -/
def Shim.room (x : Shim) (m : Msg) : Bool :=
  match m.op.cls with
  | 0 => x.reqUsed < 32
  | 1 => x.wbkQ.length < 16
  | 3 => x.rspQ.length < 32
  | _ => x.datQ.length < 16

/-- A whole message from the agent. A retired agent's traffic is discarded (09 R246); a fenced one's REQ and WBK too, and, when
its agent was reset, every message that was not whole by then (R251 step 4). A StashTake is noted: the DatX it leads to answers
no request. -/
def fromAgent (sh : Nat) (rx : Rx) (s : State) : State :=
  let m := rx.m
  let x := s.shim sh
  let req := m.op.isReq || m.op.isWbk
  let rest (reason : BitVec 4) (s : State) : State :=
    if req then answerAgent sh { op := .rest, rqtx := m.rqtx, aux := reason } s else s
  if x.silenced || x.cut then s
  else if x.st = .idle || x.st = .admitting then rest rsNotAdm (raiseShim sh 0x44 rx.det s)
  else if x.st = .fenced && req then s
  else if !m.legal x.neg (isCaching sh) then rest rsIllegal (raiseShim sh 0x43 rx.det s)
  else if req then takeReq sh m s
  else
    let q : QMsg := { m := { m with src := agentNode sh } }
    let s := match nodeSlice m.dst with
      | some n => if m.op = Op.stashTake then s.updShim sh fun x => { x with stashes := addNew x.stashes (n, m.htrk) } else s
      | none => s
    s.updShim sh fun x => if m.op.cls = 3 then { x with rspQ := x.rspQ ++ [q] } else { x with datQ := x.datQ ++ [q] }

/-- SHIM_AGENT_MESSAGE. A message whose queue is full stays with the agent. -/
def shimAgentMessage (sh : Nat) (f : Flits) (s : State) : State :=
  match decode f false false with
  | .ok rx => if !(s.shim sh).room rx.m then s else
      receive shimSrc (injShim sh) (raiseShim sh) (fun _ => false) f (fromAgent sh) s
  | .error _ =>
      receive shimSrc (injShim sh) (raiseShim sh) (fun _ => false) f (fromAgent sh) s

/-! ### SHIM_INJECT (09 R238) -/

/-- The REQ message to inject next: other requests before hints. -/
def Shim.nextReq (x : Shim) : Option QMsg :=
  match x.reqQ.find? fun q => q.m.op != .pfHint with
  | some q => some q
  | none => x.reqQ.head?

/-- The message to inject, and the shim without it: a REQ that waited 64 MCLK, else by class priority. -/
def Shim.inject (x : Shim) : Option (QMsg × Shim) :=
  match x.reqQ.find? fun q => 64 ≤ q.wait with
  | some q => some (q, { x with reqQ := x.reqQ.erase q })
  | none =>
    match x.rspQ, x.datQ, x.wbkQ with
    | q :: l, _, _ => some (q, { x with rspQ := l })
    | [], q :: l, _ => some (q, { x with datQ := l })
    | [], [], q :: l => some (q, { x with wbkQ := l })
    | [], [], [] => x.nextReq.map fun q => (q, { x with reqQ := x.reqQ.erase q })

/-- SHIM_INJECT. -/
def shimInject (sh : Nat) (s : State) : State :=
  match (s.shim sh).inject with
  | none => s
  | some (q, x) => (s.setShim sh x).send q.m

/-! ### SHIM_MESH_MESSAGE -/

/-- Opcodes never addressed to an agent (03 Tables 03-8 to 03-12, R87). -/
def notAtAgent (caching : Bool) (m : Msg) : Bool :=
  let o := m.op
  !(o = .grant || o = .rest || o = .datS || o = .datAtom ||
    (caching && (o.cls = 2 || o = .tlbAck || o = .datX || o = .datO || o = .datFwd)))

/-- The opcodes whose first answer sets a drain-vector bit (06 R167). -/
def Op.drains (o : Op) : Bool := o.isWrite || o = .rdOwn || o = .upgrade || o = .atomOp

/-- The home slice that a first answer names: its sender, or the PEER of a DatFwd. -/
def Msg.home (m : Msg) : Option Nat := if m.op = .datFwd then nodeSlice m.peer else nodeSlice m.src

/-- A first answer counted (05 R151, 06 R167). -/
def firstAnswer (sh : Nat) (m : Msg) (s : State) : State :=
  let x := s.shim sh
  match x.outst.find? fun o => o.rqtx = m.rqtx && o.built.isSome with
  | none => s
  | some o =>
    let s := s.updShim sh fun x => { x with outst := x.outst.erase o }
    let s := match m.home with
      | some n =>
        if m.op != .rest && o.op.drains then s.updShim sh fun x => { x with
          drainVec := setBit x.drainVec n true
          drains := x.drains.map fun d => { d with bits := setBit d.bits n false } }
        else s
      | none => s
    ackUpds sh s

/-- A message comes from, or is a DatFwd of, a lost slice, and is not a Rest FREEZE still awaited (13 R340). -/
def Shim.lostMsg (x : Shim) (m : Msg) : Bool :=
  (match m.home with | some n => x.lost.contains n | none => false) &&
  !(m.op = .rest && m.aux = rsFreeze && x.outst.any fun o => o.rqtx = m.rqtx)

/-- A Grant that answers a drain's copy. -/
def Shim.drainGrant (x : Shim) (m : Msg) : Option (Nat × Drain) :=
  match nodeSlice m.src with
  | some n => if m.op != .grant then none else
      (x.drains.find? fun d => d.sent && d.rqtx = m.rqtx && d.waiting.contains n).map fun d => (n, d)
  | none => none

/-- The message is the DatX of a stash that the agent took: it answers no request of the agent's (04 R120; DEDUCED,
log 87). -/
def Shim.stashData (x : Shim) (m : Msg) : Option (Nat × BitVec 8) :=
  match nodeSlice m.src with
  | some n => if m.op = .datX && m.rqtx = 0 && x.stashes.contains (n, m.htrk) then some (n, m.htrk) else none
  | none => none

/-- The message is the late answer of a lost slice to a request that the shim answered itself (13 R340; DEDUCED,
log 86). -/
def Shim.lateAns (x : Shim) (m : Msg) : Option (Nat × BitVec 10) :=
  match m.home with
  | some n => if x.lostMsg m && x.lostAns.contains (n, m.rqtx) then some (n, m.rqtx) else none
  | none => none

/-- The first answer to a header is counted as the shim receives it. One that comes from the same tracker number of the same slice
shows that the DatX of an earlier stash will not come: its tracker has ended (log 87). -/
def countAnswer (sh : Nat) (m : Msg) (s : State) : State :=
  let x := s.shim sh
  if !m.op.isFirst then s
  else match x.stashData m, x.lateAns m with
    | some p, _ => s.updShim sh fun x => { x with stashes := x.stashes.erase p }
    | none, some p => s.updShim sh fun x => { x with lostAns := x.lostAns.erase p }
    | none, none =>
      firstAnswer sh m (match nodeSlice m.src with
        | some n => if m.op = .rest then s else s.updShim sh fun x => { x with stashes := x.stashes.erase (n, m.htrk) }
        | none => s)

/-- A message put in its mesh-to-agent queue (03 Table 03-15). -/
def Shim.enqueue (x : Shim) (m : Msg) : Shim :=
  match m.op.cls with
  | 2 => { x with snpIn := x.snpIn ++ [m] }
  | 3 => { x with rspIn := x.rspIn ++ [m] }
  | _ => { x with datIn := x.datIn ++ [m] }

/-- The mesh-to-agent queue of a message has room. -/
def Shim.roomIn (x : Shim) (m : Msg) : Bool :=
  match m.op.cls with
  | 2 => x.snpIn.length < 32
  | 3 => x.rspIn.length < 32
  | _ => x.datIn.length < 16

/-- A message for the agent. A fenced agent under R251 gets nothing: its snoops are held. -/
def toAgent (sh : Nat) (rx : Rx) (s : State) : State :=
  let m := rx.m
  let x := s.shim sh
  if x.silenced || x.st = .idle then s
  else match x.drainGrant m with
    | some (n, d) => if x.lostMsg m then s else drainAnswer sh n d s
    | none =>
      let s := countAnswer sh m s
      if x.lostMsg m || (x.cut && m.op.cls != 2) then s else s.updShim sh (·.enqueue m)

/-- SHIM_MESH_MESSAGE. A message whose queue is full stays in the mesh. -/
def shimMeshMessage (sh : Nat) (f : Flits) (s : State) : State :=
  if flitDst f != agentNode sh then s
  else match decode f false false with
    | .ok rx => if !(s.shim sh).roomIn rx.m then s else
        receive shimSrc (injShim sh) (raiseShim sh) (notAtAgent (isCaching sh)) f (toAgent sh) (s.takeMesh rx.m)
    | .error _ => receive shimSrc (injShim sh) (raiseShim sh) (notAtAgent (isCaching sh)) f (toAgent sh) s

/-- One MCLK at the mesh-to-agent queues: the agent takes the message at the front of each (03 R93; DESIGN CHOICE, log 76). The
snoops of a reset agent stay (09 R251). -/
def shimPass (sh : Nat) (s : State) : State :=
  let x := s.shim sh
  let snp := if x.cut then 0 else 1
  let l := x.snpIn.take snp ++ x.rspIn.take 1 ++ x.datIn.take 1
  eachOf l (fun m s => s.emit (.toAgent sh m)) (s.updShim sh fun x => { x with
    snpIn := x.snpIn.drop snp, rspIn := x.rspIn.drop 1, datIn := x.datIn.drop 1 })

/-! ### BUCKET_MAP_UPDATE (08 R229) -/

/-- Generation g is newer than h: 1 to 31 steps ahead, mod 64 (03 R71, 05 R151). -/
def newerGen (g h : BitVec 6) : Bool := 0 < (g - h).toNat && (g - h).toNat < 32

/-- BUCKET_MAP_UPDATE: the k-th map update that has arrived is installed. The mesh gives its messages no order (01 R10): one
whose generation the entry has passed is discarded, and one of the same generation gives the engine (DEDUCED, log 79). -/
def bucketMapUpdate (sh k : Nat) (s : State) : State :=
  match s.findWire k fun w => match w with | .mapUpdate k .. => k = sh | _ => false with
  | some (.mapUpdate q b slice engine gen ack) =>
    let s := s.takeWire (.mapUpdate q b slice engine gen ack)
    let old := s.bmap sh b
    if !newerGen gen old.gen && gen != old.gen then s
    else
      let s := s.setBmap sh b { slice, engine, gen }
      if ack then
        let seq := (s.shim sh).seq
        ackUpds sh (s.updShim sh fun x => { x with
          seq := seq + 1
          upds := (x.upds.filter fun u => u.bucket != b) ++ ([{ bucket := b, gen, seq }] : List MapUpd) })
      else s
  | _ => s

/-! ### LOST_SLICE_NOTICE (13 R340) -/

/-- An RQTX that the lost slice held is answered Rest FREEZE, unless its first answer was passed on; `cut` are the first answers
of the slice that the shim held and has discarded. The bucket of the line tells the request from a later one that reuses the RQTX
at another slice (05 R152; log 86), and a late answer of the slice to it is then none of the requests that reuse the RQTX. -/
def answerLost (sh n : Nat) (cut : List Msg) (q : BitVec 10 × Nat) (s : State) : State :=
  let rqtx := q.1
  let open_ := (s.shim sh).outst.any fun o => o.rqtx = rqtx && o.bucket = q.2 && o.built.isSome
  if open_ || cut.any fun m => m.op.isFirst && m.rqtx = rqtx then
    let m : Msg := { op := .rest, rqtx, aux := rsFreeze }
    let s := if open_ then
        (firstAnswer sh { m with src := sliceNode n } s).updShim sh fun x => { x with lostAns := addNew x.lostAns (n, rqtx) }
      else s
    if (s.shim sh).cut then s else answerAgent sh m s
  else s

/-- LOST_SLICE_NOTICE: the k-th notice that has arrived. -/
def lostSliceNotice (sh k : Nat) (s : State) : State :=
  match s.findWire k fun w => match w with | .lostNotice k .. => k = sh | _ => false with
  | some (.lostNotice q n rqtxs) =>
    let s := s.takeWire (.lostNotice q n rqtxs)
    let from' (m : Msg) : Bool := m.home = some n && !(m.op = .rest && m.aux = rsFreeze)
    let x := s.shim sh
    let cut := (x.rspIn ++ x.datIn).filter fun m => from' m && (x.stashData m).isNone
    let s := s.updShim sh fun x => { x with
      lost := addNew x.lost n
      reqQ := x.reqQ.filter fun q => !(q.m.op = .drainW && q.m.dst = sliceNode n)
      snpIn := x.snpIn.filter fun m => !from' m
      rspIn := x.rspIn.filter fun m => !from' m
      datIn := x.datIn.filter fun m => !from' m }
    let s := if (s.shim sh).silenced || (s.shim sh).st = .idle then s else eachOf rqtxs (answerLost sh n cut) s
    eachOf ((s.shim sh).drains.filter fun d => d.sent && d.waiting.contains n) (drainAnswer sh n) s
  | _ => s

/-! ### Agent and shim reset (09 R251, 17 R432) -/

/-- Steps 1 to 6 of R251, for an agent admitting or admitted. Whole RSP and DAT messages in the queues go on. -/
def agentReset (sh : Nat) (s : State) : State :=
  let x := s.shim sh
  if x.st = .admitting || x.st = .admitted then
    let s := ackUpds sh (s.updShim sh fun x => { x.cutOff with retireDue := x.autoRetire })
    raiseShim sh 0x45 { node := agentNode sh } s
  else s

/-- SHIM_RESET. The retire of R252 runs whatever AUTORETIRE says, since the reset waits for it (DEDUCED, log 32). -/
def shimReset (sh : Nat) (s : State) : State :=
  let s := agentReset sh s
  s.updShim sh fun x => { x with
    resetPending := true
    retireDue := x.retireDue || (x.st = .fenced && x.cut) }

/-- SHIM_RESET_APPLY: the shim idle. RW and RWT settings, fault status and first error stay (17 Table 17-3, 18 R450). -/
def shimResetApply (sh : Nat) (s : State) : State :=
  let x := s.shim sh
  if x.resetPending && x.st = .idle then
    s.setShim sh {
      autoRetire := x.autoRetire, pfEn := x.pfEn, pfMinConf := x.pfMinConf, pfDepth := x.pfDepth,
      tidForce := x.tidForce, tidValue := x.tidValue, lost := x.lost, assay := x.assay }
  else s

def execShimAgentMessage (sh : Nat) (f : Flits) (s : State) : Res := atShim sh s (shimAgentMessage sh f)
def execDrainCopiesSend (sh : Nat) (s : State) : Res := atShim sh s (drainCopiesSend sh)
def execShimInject (sh : Nat) (s : State) : Res := atShim sh s (shimInject sh)
def execShimMeshMessage (sh : Nat) (f : Flits) (s : State) : Res := atShim sh s (shimMeshMessage sh f)
def execBucketMapUpdate (sh : Nat) (s : State) (k : Nat := 0) : Res := atShim sh s (bucketMapUpdate sh k)
def execLostSliceNotice (sh : Nat) (s : State) (k : Nat := 0) : Res := atShim sh s (lostSliceNotice sh k)
def execAgentReset (sh : Nat) (s : State) : Res := atShim sh s (agentReset sh)
def execShimReset (sh : Nat) (s : State) : Res := atShim sh s (shimReset sh)
def execShimResetApply (sh : Nat) (s : State) : Res := atShim sh s (shimResetApply sh)

end Sys2Proof.Machine
end

