-- ==== Sys2Proof/Machine/Relay.lean ====
section
/-! DEFINITION. The translation invalidation relay (10 R256 to R265). -/

namespace Sys2Proof.Machine

/-- A message taken by the spine. The spine has no source for a faulty header, which it discards (03 Table 03-16, 15
Table 15-1); data that fails PAR is poisoned (10 R267). -/
def rxSpine (want : Op) (f : Flits) (go : Msg → State → State) (s : State) : State :=
  if flitDst f != spineNode || flitOp f != some want then s
  else match decode f false false with
    | .ok rx => go rx.m s
    | .error _ => s

/-- The members of a partition's broadcast domain: caching agents past step 4 of AGENT_ADMIT and not past step 5 of
AGENT_RETIRE (10 R256). -/
def State.domain (s : State) (f : Nat) : List Nat :=
  s.shimNums.filter fun a =>
    let x := s.shim a
    isCaching a && x.neg != 0 && x.func = f

/-- The relay entry is complete. -/
def Spine.relayDone (sp : Spine) (e : Nat) : Bool := match mfind sp.relay e with | some r => r.complete | none => true

/-- Every TlbSync whose covered entries are complete is granted, and complete entries that none waits on are freed (R261,
R264). -/
def relaySettle (s : State) : State :=
  let done (w : SyncWait) : Bool := w.covers.all s.spine.relayDone
  let left := s.spine.syncs.filter fun w => !done w
  let l := s.spine.syncs.filter done
  let s := s.updSpine fun sp => { sp with
    syncs := left
    relay := sp.relay.filter fun kv => !kv.2.complete || left.any fun w => w.covers.contains kv.1 }
  s.sendAll (l.map fun w => { op := .grant, src := spineNode, dst := agentNode w.agent, rqtx := w.rqtx })

/-- Entry e has a target less; with none left it is complete (R261). -/
def relayAck (e a : Nat) (s : State) : State :=
  match mfind s.spine.relay e with
  | none => s
  | some r =>
    let l := r.targets.filter (· != a)
    let s := s.updSpine fun sp => { sp with relay := mins sp.relay e { r with targets := l, complete := l.isEmpty } }
    if l.isEmpty then relaySettle s else s

/-- Every relay entry that waits on an agent counts it as having acknowledged (R262). -/
def relayGone (a : Nat) (s : State) : State :=
  eachOf ((s.spine.relay.filter fun kv => kv.2.targets.contains a).map (·.1)) (fun e => relayAck e a) s

/-- TLB_INV (R259). A header waits until an entry is free. The snoop of a target that is past step 2 of its retire is discarded
and answered for it (09 R246). -/
def tlbInv (f : Flits) (s : State) : State :=
  rxSpine .tlbInvReq f (fun m s =>
    match (List.range 64).find? fun e => (mfind s.spine.relay e).isNone with
    | none => s
    | some e =>
      let s := s.takeMesh m
      let a := m.src.toNat
      let x := s.shim a
      if x.neg = 0 then s
      else
        let targets := (s.domain x.func).filter (· != a)
        let r : Relay := { issuer := a, rqtx := m.rqtx, payload := bits m.data 0 256, poison := m.poison, targets }
        let s := s.updSpine fun sp => { sp with relay := mins sp.relay e r }
        let s := s.send { op := .tlbAck, src := spineNode, dst := m.src, htrk := BitVec.ofNat 8 e, rqtx := m.rqtx }
        let s := s.sendAll (targets.map fun t =>
          { op := .tlbInvSnp, src := spineNode, dst := agentNode t, htrk := BitVec.ofNat 8 e, tid := m.tid,
            data := (bits m.data 0 256).setWidth 512, be := 0xFFFF, poison := m.poison })
        let s := eachOf (targets.filter fun t => (s.shim t).silenced) (relayAck e) s
        if targets.isEmpty then relayAck e a s else s) s

/-- TLB_ACK (R261). -/
def tlbAck (f : Flits) (s : State) : State :=
  rxSpine .tlbAck f (fun m s =>
    let s := s.takeMesh m
    match mfind s.spine.relay m.htrk.toNat with
    | some r => if r.targets.contains m.src.toNat then relayAck m.htrk.toNat m.src.toNat s
        else raiseSpine spineNode 0x60 {} s
    | none => raiseSpine spineNode 0x60 {} s) s

/-- TLB_SYNC (R264). -/
def tlbSync (f : Flits) (s : State) : State :=
  rxSpine .tlbSync f (fun m s =>
    let s := s.takeMesh m
    let covers := (s.spine.relay.filter fun kv => kv.2.issuer = m.src.toNat).map (·.1)
    if covers.all s.spine.relayDone then s.send { op := .grant, src := spineNode, dst := m.src, rqtx := m.rqtx }
    else s.updSpine fun sp => { sp with syncs := sp.syncs ++ ([{ agent := m.src.toNat, rqtx := m.rqtx, covers }] : List SyncWait) }) s

/-- RELAY_TIMEOUT (R265): the entry goes on waiting. One detection has one first-error record and one ASSAY record (16 R404), whose
NODE holds the first target that has not acknowledged (DESIGN CHOICE, log 80). -/
def relayTimeout (e : Nat) (s : State) : State :=
  match mfind s.spine.relay e with
  | some r =>
    if r.timer && !r.complete then
      let s := raiseSpine spineNode 0x61 { syn := BitVec.ofNat 16 e, node := agentNode (r.targets.headD 0) } s
      s.updSpine fun sp => { sp with relay := mins sp.relay e { r with timer := false } }
    else s
  | none => s

def execTlbInv (f : Flits) (s : State) : Res := .next (tlbInv f s)
def execTlbAck (f : Flits) (s : State) : Res := .next (tlbAck f s)
def execTlbSync (f : Flits) (s : State) : Res := .next (tlbSync f s)
def execRelayTimeout (e : Nat) (s : State) : Res := .next (relayTimeout e s)

end Sys2Proof.Machine
end

