-- ==== Sys2Proof/Machine/MemPort.lean ====
section
/-! DEFINITION. The memory ports (01 R17, R18, 03 R88, R100). -/

namespace Sys2Proof.Machine

def portSrc : RxSrc := { header := 0x80, data := 0x81, protocol := 0x82 }

/-- A write to the line is outstanding at the controller (01 R18). -/
def Port.writing (x : Port) (a : PA) : Bool := x.writes.any fun w => w.issued && w.line = a

/-- The first held read that may go to the controller handed to it; with none, the first held write that may. -/
def portIssue (p : Nat) (s : State) : State :=
  let x := s.port p
  match x.reads.find? fun r => !r.issued && !x.writing r.line with
  | some r =>
    (s.updPort p fun x => { x with reads := x.reads.map fun y => if y = r then { r with issued := true } else y }).emit
      (.ctrlRead p r.line ((nodeSlice r.src).getD 0) r.htrk.toNat)
  | none =>
    match x.writes.find? fun w => !w.issued && !x.writing w.line with
    | some w =>
      (s.updPort p fun x => { x with writes := x.writes.map fun y => if y = w then { w with issued := true } else y }).emit
        (.ctrlWrite p w.line w.data w.mask w.poison)
    | none => s

/-- Everything that may go to the controller handed to it; `fuel` requests. -/
def portIssues (p : Nat) : Nat → State → State
  | 0, s => s
  | fuel + 1, s => portIssues p fuel (portIssue p s)

def portPump (p : Nat) (s : State) : State := portIssues p ((s.port p).reads.length + (s.port p).writes.length) s

/-- A message at a memory port. NODE of its faults is the SRCID received (DEDUCED, log 66). -/
def rxPort (p : Nat) (want : Op → Bool) (f : Flits) (go : Rx → State → State) (s : State) : State :=
  let foreign (m : Msg) : Bool := !(m.op = .memRd || m.op = .memWr || m.op = .memWd)
  let mine := match flitOp f with
    | some o => want o || !(o = .memRd || o = .memWr || o = .memWd)
    | none => true
  if flitDst f != portNode p || !mine then s
  else
    let s := match decode f false false with
      | .ok rx => s.takeMesh rx.m
      | .error _ => s
    receive portSrc injSpine (raiseSpine (portNode p)) foreign f go s

/-- MEMPORT_MEM_RD. -/
def memportMemRd (p : Nat) (f : Flits) (s : State) : State :=
  rxPort p (· = .memRd) f (fun rx s =>
    portPump p (s.updPort p fun x => { x with
      reads := x.reads ++ ([{ src := rx.m.src, htrk := rx.m.htrk, line := lineOf rx.m.addr }] : List PortRead) })) s

/-- A write whose halves have both arrived. -/
def portWrite (p : Nat) (src : BitVec 9) (slot : BitVec 8) (a : PA) (d : Msg) (s : State) : State :=
  portPump p (s.updPort p fun x => { x with writes := x.writes ++
    ([{ src, slot, line := lineOf a, data := d.data, mask := maskBoth d.bmask d.be, poison := d.poison }] : List PortWrite) })

/-- MEMPORT_WRITE_HALF (03 R88). -/
def memportWriteHalf (p : Nat) (f : Flits) (s : State) : State :=
  rxPort p (fun o => o = .memWr || o = .memWd) f (fun rx s =>
    let m := rx.m
    let wr := m.op = .memWr
    let s := if !wr && m.be != beOf m.bmask then raiseSpine (portNode p) 0x83 rx.det s else s
    match (s.port p).halves.find? fun h => h.src = m.src && h.slot = m.htrk && h.addr.isSome != wr with
    | none => s.updPort p fun x => { x with halves := x.halves ++
        ([{ src := m.src, slot := m.htrk, addr := if wr then some m.addr else none,
            body := if wr then none else some m }] : List PortHalf) }
    | some h =>
      let s := s.updPort p fun x => { x with halves := x.halves.erase h }
      if wr then match h.body with
        | some d => portWrite p m.src m.htrk m.addr d s
        | none => s
      else match h.addr with
        | some a => portWrite p m.src m.htrk a m s
        | none => s) s

/-- MEMPORT_READ_RETURN: the controller returns the read of tracker t of slice n. -/
def memportReadReturn (p n t : Nat) (data : Line) (poison : Bool) (s : State) : State :=
  match (s.port p).reads.find? fun r => r.issued && r.src = sliceNode n && r.htrk.toNat = t with
  | none => s
  | some r =>
    (s.updPort p fun x => { x with reads := x.reads.erase r }).send
      (Msg.full { op := .memDat, src := portNode p, dst := r.src, htrk := r.htrk, data, poison })

/-- MEMPORT_WRITE_DONE: the controller completes the write of merging-buffer entry e of slice n. -/
def memportWriteDone (p n e : Nat) (s : State) : State :=
  match (s.port p).writes.find? fun w => w.issued && w.src = sliceNode n && w.slot.toNat = e with
  | none => s
  | some w =>
    let s := s.updPort p fun x => { x with writes := x.writes.erase w }
    portPump p (s.send { op := .memAck, src := portNode p, dst := w.src, htrk := w.slot })

def execMemportMemRd (p : Nat) (f : Flits) (s : State) : Res := atPort p s (memportMemRd p f)
def execMemportWriteHalf (p : Nat) (f : Flits) (s : State) : Res := atPort p s (memportWriteHalf p f)
def execMemportReadReturn (p n t : Nat) (data : Line) (poison : Bool) (s : State) : Res :=
  atPort p s (memportReadReturn p n t data poison)
def execMemportWriteDone (p n e : Nat) (s : State) : Res := atPort p s (memportWriteDone p n e)

end Sys2Proof.Machine
end

