-- ==== Sys2Proof/Machine/Pcie.lean ====
section
/-! DEFINITION. A function as a PCI Express endpoint: configuration space (11 R275 to R278), MSI-X (R292), enables and power
state (R293, R294), the ATC (10 R268 to R272), function-level reset (11 R295). -/

namespace Sys2Proof.Machine

/-! ### Configuration space (11 Tables 11-1 to 11-3; the layouts inside a capability are PCI Express's: PRESUMED, log 81) -/

/-- Bits of the Uncorrectable Error Status of Advanced Error Reporting. -/
def aerPoisoned : Nat := 12
def aerTimeout : Nat := 14
def aerAbort : Nat := 15
def aerUnexpected : Nat := 16
def aerMalformed : Nat := 18
def aerUnsupported : Nat := 20

/-- An error reported under Advanced Error Reporting. -/
def setAer (fn b : Nat) (s : State) : State := s.updFn fn fun x => { x with aer := setBit x.aer b true }

/-- A BAR request answered as Unsupported Request (R293). -/
def unsupported (fn : Nat) (s : State) : State := (setAer fn aerUnsupported s).emit (.unsupported fn)

/-- One half of a 64-bit BAR: the base address with the type bits, 0b1100 for the prefetchable BAR4 (R278). -/
def Fn.barHalf (x : Fn) (p : Params) (i : Nat) (hi : Bool) : BitVec 32 :=
  let a := x.barBase.getD i 0
  if i = 2 && p.bar4Size = 0 then 0
  else if hi then bits a 32 32 else bits a 0 32 ||| (if i = 2 then 0xC else 0x4)

/-- A doubleword of a function's configuration space. -/
def State.cfgDword (s : State) (fn off : Nat) : BitVec 32 :=
  let x := s.fn fn
  let p := s.par
  let w (l : List (Nat × Nat)) : BitVec 32 := (packWord l).setWidth 32
  match off with
  | 0x000 => p.deviceId ++ p.vendorId
  | 0x004 => w [(1, nb x.memSpace), (2, nb x.busMaster), (20, 1)]
  | 0x008 => p.classCode ++ p.revisionId
  | 0x010 => x.barHalf p 0 false
  | 0x014 => x.barHalf p 0 true
  | 0x018 => x.barHalf p 1 false
  | 0x01C => x.barHalf p 1 true
  | 0x020 => x.barHalf p 2 false
  | 0x024 => x.barHalf p 2 true
  | 0x02C => p.subsystemId ++ p.subVendorId
  | 0x034 => 0x40
  -- Power Management: version 3; No_Soft_Reset 1
  | 0x040 => w [(0, 0x01), (8, 0x50), (16, 3)]
  | 0x044 => w [(0, if x.d3hot then 3 else 0), (3, 1)]
  -- MSI-X: 64 vectors; table and PBA in BAR0
  | 0x050 => w [(0, 0x11), (8, 0x60), (16, 63), (30, nb x.functionMask), (31, 1)]
  | 0x054 => 0xE000
  | 0x058 => 0xF000
  -- PCI Express, version 2: Root Complex Integrated Endpoint, 512 bytes, FLR, extended and 10-bit tags
  | 0x060 => w [(0, 0x10), (16, 2), (20, 9)]
  | 0x064 => w [(0, 2), (5, 1), (15, 1), (28, 1)]
  | 0x084 => w [(16, 1), (17, 1)]
  | 0x100 => w [(0, 0x0001), (16, 2), (20, 0x140)]
  | 0x104 => x.aer
  -- Address Translation Services: Invalidate Queue Depth 0, Page Aligned Request 1, STU 0
  | 0x140 => w [(0, 0x000F), (16, 1), (20, 0x160)]
  | 0x144 => w [(5, 1), (31, nb x.ats)]
  -- Vendor-Specific: ID 0x0001, revision 1, 16 bytes
  | 0x160 => w [(0, 0x000B), (16, 1)]
  | 0x164 => w [(0, 0x0001), (16, 1), (20, 16)]
  | 0x168 => w [(0, fn), (8, p.nFunc), (16, p.nSlice)]
  | 0x16C => p.blockRev
  | _ => 0

/-! ### MSI-X -/

def Fn.vec (x : Fn) (v : Nat) : MsixVec := mget {} x.msix v
def Fn.setVec (x : Fn) (v : Nat) (m : MsixVec) : Fn := { x with msix := mput {} x.msix v m }

/-- The function may issue requests to host memory (R293, R294). -/
def Fn.up (x : Fn) : Bool := x.busMaster && !x.d3hot

/-- BAR requests are answered (R293, R294). -/
def Fn.bars (x : Fn) : Bool := x.memSpace && !x.d3hot

/-- An interrupt on a vector: pending while masked, held while the function may not write (R292, R293). The message is no access
that the ATC translates, also with ATS Enable set. DESIGN CHOICE (log 109). -/
def sendMsix (fn v : Nat) (s : State) : State :=
  let x := s.fn fn
  if x.functionMask || (x.vec v).mask then s.updFn fn fun x => x.setVec v { x.vec v with pending := true }
  else if !x.up then s.updFn fn fun x => { x with heldMsix := x.heldMsix ++ [v] }
  else s.emit (.msix fn v (x.vec v).addr (x.vec v).data)

/-- A pending interrupt that nothing masks any longer is sent. -/
def sendPending (fn v : Nat) (s : State) : State :=
  let x := s.fn fn
  if (x.vec v).pending && !x.functionMask && !(x.vec v).mask then
    sendMsix fn v (s.updFn fn fun x => x.setVec v { x.vec v with pending := false })
  else s

/-- The function has the credits that a request takes: 16 posted headers, 256 units of 16 bytes of posted data, 8 non-posted
headers (R291). A request that finds none waits at the host's root port. -/
def Fn.room (x : Fn) (write : Bool) (len : Nat) : Bool :=
  if write then
    (x.win.filter (·.write)).length < 16 && x.win.foldl (fun k r => k + r.units) 0 + (len + 15) / 16 ≤ 256
  else (x.win.filter fun r => !r.write).length < 8

/-- Configuration requests are answered with Retry: before hk_ready, and after a function-level reset (17 R428, 11 R295). -/
def State.cfgRetry (s : State) (fn : Nat) : Bool := (s.fn fn).notReady || !s.spine.ready

/-- MSIX_UNMASK: a vector's mask clears, or the Function Mask, which lies in configuration space. The vector's mask lies in BAR0,
whose write discards the halves kept for another register (18 R445). -/
def msixUnmask (fn vec : Nat) (functionMask : Bool) (s : State) : State :=
  if functionMask && s.cfgRetry fn then s
  else if functionMask then
    let s := s.updFn fn fun x => { x with functionMask := false }
    eachOf (List.range 64) (sendPending fn) s
  else if vec < 64 then sendPending fn vec ((keepHalf fn none s).updFn fn fun x => x.setVec vec { x.vec vec with mask := false })
  else s

/-! ### Enables and power state -/

/-- The messages that waited for the upstream port are issued, in their order, before the entries and records that wait are written.
DESIGN CHOICE (log 112). -/
def releaseMsix (fn : Nat) (s : State) : State :=
  let l := (s.fn fn).heldMsix
  if (s.fn fn).up then eachOf l (sendMsix fn) (s.updFn fn fun x => { x with heldMsix := [] }) else s

/-- BUS_MASTER_ENABLE_CHANGE: the enables that configuration space holds, MSI-X's Function Mask among them. Before hk_ready, and
after a function-level reset, configuration requests are answered with Retry (17 R428). Clearing ATS Enable keeps the function's
ATC entries and gives up its outstanding Translation Requests. DESIGN CHOICE (log 108). -/
def busMasterEnableChange (fn : Nat) (busMaster memSpace ats functionMask : Bool) (s : State) : State :=
  if s.cfgRetry fn then s
  else
    let s := releaseMsix fn (s.updFn fn fun x => { x with
      busMaster, memSpace, ats, functionMask, transReqs := if ats then x.transReqs else []
      specReqs := if ats then x.specReqs else [], transFails := if ats then x.transFails else [] })
    eachOf (List.range 64) (sendPending fn) s

/-- POWER_STATE_CHANGE: D3hot or D0; every register is kept (R294). -/
def powerStateChange (fn : Nat) (d3hot : Bool) (s : State) : State :=
  if s.cfgRetry fn then s else releaseMsix fn (s.updFn fn fun x => { x with d3hot })

/-! ### ATC -/

/-- The entry translates an address of a function. -/
def AtcEntry.covers (e : AtcEntry) (fn : Nat) (addr : W64) : Bool :=
  e.fn = fn && addr.toNat / 2 ^ e.sizeLog2 = e.page.toNat / 2 ^ e.sizeLog2

def State.atcFind (s : State) (fn : Nat) (addr : W64) : Option AtcEntry := s.spine.atc.find? fun e => e.covers fn addr

/-- The address that an access of a function to host memory is made at: untranslated while ATS Enable is clear, else from the
ATC; none while no entry covers it with the permission that the access needs (R268). -/
def State.hostAddr (s : State) (fn : Nat) (addr : W64) (write : Bool) : Option W64 :=
  if (s.fn fn).ats then
    match s.atcFind fn addr with
    | some e => if (if write then e.write else e.read) then
        some (BitVec.ofNat 64 (e.tpage.toNat / 2 ^ e.sizeLog2 * 2 ^ e.sizeLog2 + addr.toNat % 2 ^ e.sizeLog2)) else none
    | none => none
  else some addr

/-- What a Translation Request asks for: a page, and whether a write needs it. -/
def transKey (addr : W64) (write : Bool) : W64 × Bool := (BitVec.ofNat 64 (addr.toNat / 4096 * 4096), write)

/-- A Translation Request for an address that an access waits for, unless one is outstanding (R268). -/
def needPage (fn : Nat) (addr : W64) (write : Bool) (s : State) : State :=
  let q := transKey addr write
  if (s.hostAddr fn addr write).isSome || (s.fn fn).transReqs.contains q then s
  else (s.updFn fn fun x => { x with transReqs := x.transReqs ++ [q] }).emit (.translationRequest fn q.1 write)

/-- A Translation Request has its completion, or has timed out. -/
def endRequest (fn : Nat) (addr : W64) (write : Bool) (s : State) : State :=
  s.updFn fn fun x => { x with transReqs := x.transReqs.filter fun q => q != transKey addr write }

/-- A speculative Translation Request has ended. -/
def endSpec (fn : Nat) (addr : W64) (write : Bool) (s : State) : State :=
  s.updFn fn fun x => { x with specReqs := x.specReqs.filter fun q => q != transKey addr write }

/-- A demanded translation failed: the access that waits for it learns of it, and of the latest only. -/
def noteFail (fn : Nat) (addr : W64) (write : Bool) (e : Option (Bool × BitVec 4)) (s : State) : State :=
  s.updFn fn fun x => { x with transFails :=
    (x.transFails.filter fun kv => kv.1 != transKey addr write) ++ (e.toList.map fun e => (transKey addr write, e)) }

/-- The record of a host access that the Range Guard denies (14 R365). Its opcode is that of the window line operation that
the access is checked as. DESIGN CHOICE (log 40). -/
def hostDenied (fn : Nat) (a : PA) (write : Bool) (s : State) : State :=
  let tid := (s.fn fn).wtid
  let op : Op := if write then .wrFull else .rdOnce
  s.feed spineFeed { hrec 0x200 2 (fnNode fn)
    (p48 ((fnNode fn).toNat + 2 ^ 12 * tid.toNat + 2 ^ 24 * (s.tidColour tid).toNat + 2 ^ 32 * op.code.2 + 2 ^ 37 * s.rgIndex a))
    (bits a 0 48) ((bits a 48 4).setWidth 48) with fDest := some fn }

/-- A ring, event or operand-buffer access of a function, at its translated address, checked by the Range Guard (14 Table 14-6,
log 13); a denial is recorded. -/
def hostCheck (fn : Nat) (addr : W64) (write : Bool) (s : State) : Bool × State :=
  let a : PA := bits addr 0 52
  let s := tableCheck tblTid (s.fn fn).wtid.toNat (tableCheck tblRg (match s.rgFor a with | some kv => kv.1 | none => 0) s)
  if s.ringOk a fn then (true, s) else (false, hostDenied fn a write s)

/-- The entry used last goes to the end of the list. -/
def atcUse (fn : Nat) (addr : W64) (s : State) : State :=
  if (s.fn fn).ats then
    match s.atcFind fn addr with
    | some e => s.updSpine fun sp => { sp with atc := sp.atc.erase e ++ [e] }
    | none => s
  else s

/-- Without its least recently used unlocked entry. -/
def atcEvict : List AtcEntry → List AtcEntry
  | [] => []
  | e :: r => if e.lock then e :: atcEvict r else r

/-- The entry that a translation fills: at most 1 GiB (R269). -/
def atcEntry (fn : Nat) (addr page : W64) (sizeLog2 : Nat) (read write lock : Bool) : AtcEntry :=
  let k := min 30 (max 12 sizeLog2)
  let off := addr.toNat % 2 ^ sizeLog2 / 2 ^ k * 2 ^ k
  { fn, page := BitVec.ofNat 64 (addr.toNat / 2 ^ k * 2 ^ k), sizeLog2 := k,
    tpage := BitVec.ofNat 64 (page.toNat + off), read, write, lock }

/-- The pages of two entries of one function overlap. -/
def AtcEntry.overlaps (x e : AtcEntry) : Bool :=
  x.fn = e.fn && x.page.toNat < e.page.toNat + 2 ^ e.sizeLog2 && e.page.toNat < x.page.toNat + 2 ^ x.sizeLog2

/-- A miss fills the least recently used unlocked entry of 64. Entries that the new one overlaps are replaced, locked ones only
by an ATC_LOCK or for the same page, whose lock it keeps. -/
def atcFill (e : AtcEntry) (s : State) : State :=
  s.updSpine fun sp =>
    let gone (x : AtcEntry) : Bool :=
      x.overlaps e && (!x.lock || e.lock || (x.page = e.page && x.sizeLog2 = e.sizeLog2))
    let l := sp.atc.filter fun x => !gone x
    { sp with atc := (if l.length < 64 then l else atcEvict l) ++
        [{ e with lock := e.lock || sp.atc.any fun x => gone x && x.lock }] }

/-- Completion statuses of PCI Express. PRESUMED (log 34). -/
def stUR : BitVec 4 := 1
def stCA : BitVec 4 := 4

/-- The detail of a translation failure (15 Table 15-5). A failure without a completion status, and that of a completion with
Successful status, have status 0. DESIGN CHOICE (log 110). -/
def atcDetail (fn : Nat) (addr : W64) (status : BitVec 4) : Detail :=
  { syn := BitVec.ofNat 16 (fn + 16 * status.toNat), node := fnNode fn, addr := bits addr 0 52 }

/-- A failure that an access meets: a walk bus error or not, and its status (R271). -/
def transFailure (read write : Bool) : Translation → Option (Bool × BitVec 4)
  | .success _ _ rd wr => if (read && !rd) || (write && !wr) then some (false, 0) else none
  | .unsupportedRequest => some (true, stUR)
  | .completerAbort => some (true, stCA)
  | .poisoned | .timeout => some (true, 0)

/-- The completion code of a command that a failure ends (12 Table 12-9). -/
def failCode (e : Bool × BitVec 4) : BitVec 8 := if e.1 then ccWALKERR else ccXLATE

/-- The cause of a ring that a failure stops (12 Table 12-4). -/
def failCause (e : Bool × BitVec 4) : BitVec 3 := if e.1 then 2 else 1

/-- The spine's fault for a failure that a demand access met (R271). -/
def raiseFail (fn : Nat) (addr : W64) (e : Bool × BitVec 4) (s : State) : State :=
  raiseSpine spineNode (if e.1 then 0x63 else 0x62) (atcDetail fn addr e.2) s

/-- How a translation ends: the entry filled, or the failure of a demand access with its fault and, for a poisoned completion or
a timeout, its error under Advanced Error Reporting (R271, 11 R276). A speculative one raises nothing (R270). -/
def translate (fn : Nat) (addr : W64) (read write speculative lock : Bool) (r : Translation) (s : State) :
    Option (Bool × BitVec 4) × State :=
  match transFailure read write r, r with
  | none, .success page size rd wr => (none, atcFill (atcEntry fn addr page size rd wr lock) s)
  | none, _ => (none, s)
  | some e, _ =>
    (some e, if speculative then s
      else raiseFail fn addr e (match r with
        | .poisoned => setAer fn aerPoisoned s
        | .timeout => setAer fn aerTimeout s
        | _ => s))

/-- A Translation Request for an address is outstanding, a demanded or a speculative one (R268, R270). -/
def Fn.requested (x : Fn) (addr : W64) (needWrite speculative : Bool) : Bool :=
  x.ats && (if speculative then x.specReqs else x.transReqs).contains (transKey addr needWrite)

/-- ATS_TRANSLATION_COMPLETION. A speculative fill never evicts a locked entry, and no fill does. The access that waits learns of a
failure. A completion that no request awaits is an Unexpected Completion (11 R276). -/
def atsTranslationCompletion (fn : Nat) (addr : W64) (needWrite speculative : Bool) (r : Translation) (s : State) : State :=
  if (s.fn fn).requested addr needWrite speculative then
    let s := if speculative then endSpec fn addr needWrite s else endRequest fn addr needWrite s
    let x := translate fn addr (!needWrite) needWrite speculative false r s
    if speculative then x.2 else noteFail fn addr needWrite x.1 x.2
  else if r = .timeout then s
  else setAer fn aerUnexpected s

/-- The failure of the translation that an access waits for: the one its Translation Request ended in, or one that the command
gives, which ends it here with the spine's fault. None where a translation stands or none is needed (DEDUCED, log 120). -/
def hostFail (fn : Nat) (addr : W64) (write : Bool) (given : Option (Bool × BitVec 4)) (s : State) : Option (Bool × BitVec 4) × State :=
  if (s.hostAddr fn addr write).isSome then (none, s)
  else match (s.fn fn).transFails.find? (fun kv => kv.1 == transKey addr write), given with
    | some (_, e), _ => (some e, noteFail fn addr write none s)
    | none, some e => (some e, raiseFail fn addr e (endRequest fn addr write (needPage fn addr write s)))
    | none, none => (none, s)

/-- The failure that a read, or a write, of host memory gives. -/
def readFailure : HostRead → Option (Bool × BitVec 4)
  | .translationFault _ _ => some (false, 0)
  | .walkBusError _ st => some (true, st)
  | _ => none

def writeFailure : HostWrite → Option (Bool × BitVec 4)
  | .translationFault _ _ => some (false, 0)
  | .walkBusError _ st => some (true, st)
  | .done => none

/-- ATS_INVALIDATION_REQUEST (R272). -/
def atsInvalidationRequest (fn : Nat) (addr : W64) (len : Nat) (s : State) : State :=
  let hits (e : AtcEntry) : Bool :=
    e.fn = fn && e.page.toNat < addr.toNat + len && addr.toNat < e.page.toNat + 2 ^ e.sizeLog2
  let s := eachOf (s.spine.atc.filter fun e => hits e && e.lock) (fun e s =>
    s.feed spineFeed { hrec 0x213 1 (fnNode fn) (p48 fn) (p48 (e.page.toNat / 4096)) 0 with fDest := some fn }) s
  let s := s.updSpine fun sp => { sp with atc := sp.atc.filter fun e => !(hits e && !e.lock) }
  s.emit (.invalidationDone fn)

/-! ### Proposals discarded (14 R374) -/

/-- The record of a discarded proposal: 0 lapse, 1 DIGEST, 2 superseded, 3 reset. -/
def dropProposal (pid why : Nat) (s : State) : State :=
  if s.spine.prot.proposals.any fun p => p.pid = pid then
    (s.updProt fun p => { p with proposals := p.proposals.filter fun x => x.pid != pid }).feed spineFeed
      (hrec 0x206 1 spineNode (p48 (65536 * pid + why)) 0 0)
  else s

/-! ### FUNCTION_LEVEL_RESET (11 R295) -/

/-- The record of a command that completes after a function-level reset. -/
def afterFlr (fn : Nat) (d : Done) (s : State) : State :=
  let r := hrec 0x214 1 (fnNode fn) (p48 (fn + 256 * d.opc.toNat + 65536 * d.code.toNat)) (p48 d.tag.toNat)
    (p48 (d.result.toNat % 64))
  s.feed spineFeed { r with fDest := some fn }

/-- The window line operation in flight, alone: its data is discarded. -/
def Fn.inFlight (x : Fn) : List WinReq :=
  match x.win with
  | r :: _ => if x.winSt = .idle then [] else [{ r with ops := r.ops.take 1, dropped := true }]
  | [] => []

/-- FUNCTION_LEVEL_RESET (Table 11-8), a configuration request. The AER status is kept, as PCI Express has it (PRESUMED, log 81). MSI-X messages held while
Bus Master Enable was 0 are discarded. DESIGN CHOICE (log 113). -/
def functionLevelReset (fn : Nat) (s : State) : State :=
  if s.cfgRetry fn then s
  else
  let x := s.fn fn
  let s := eachOf x.done (afterFlr fn) s
  let s := s.setFn fn { (Fn.initial fn) with
    regview := x.regview, wtid := x.wtid, rights := x.rights, local_ := x.local_, lostRecs := x.lostRecs
    nextCmd := x.nextCmd, taken := x.taken.map fun k => { k with orphan := true }
    win := x.inFlight, winCount := x.winCount, winSt := x.winSt, winDrain := x.winDrain, winRqtx := x.winRqtx
    aer := x.aer, notReady := true }
  let s := s.updSpine fun sp => { sp with
    atc := sp.atc.filter fun e => e.fn != fn }
  eachOf ((s.spine.prot.proposals.filter fun p => p.fn = fn).map (·.pid)) (fun pid => dropProposal pid 3) (syncDone fn s)

/-- READY_FOR_CONFIGURATION_REQUESTS. -/
def readyForConfigurationRequests (fn : Nat) (s : State) : State := s.updFn fn fun x => { x with notReady := false }

def execMsixUnmask (fn vec : Nat) (functionMask : Bool) (s : State) : Res := atFn fn s (msixUnmask fn vec functionMask)
def execBusMasterEnableChange (fn : Nat) (busMaster memorySpace ats : Bool) (s : State) (functionMask : Bool := false) : Res :=
  atFn fn s (busMasterEnableChange fn busMaster memorySpace ats functionMask)
def execPowerStateChange (fn : Nat) (d3hot : Bool) (s : State) : Res := atFn fn s (powerStateChange fn d3hot)
def execAtsTranslationCompletion (fn : Nat) (addr : W64) (needWrite speculative : Bool) (r : Translation) (s : State) : Res :=
  atFn fn s (atsTranslationCompletion fn addr needWrite speculative r)
def execAtsInvalidationRequest (fn : Nat) (addr : W64) (len : Nat) (s : State) : Res :=
  atFn fn s (atsInvalidationRequest fn addr len)
def execFunctionLevelReset (fn : Nat) (s : State) : Res := atFn fn s (functionLevelReset fn)
def execReadyForConfigurationRequests (fn : Nat) (s : State) : Res := atFn fn s (readyForConfigurationRequests fn)

end Sys2Proof.Machine
end

