-- ==== Sys2Proof/Machine/Rings.lean ====
section
/-! DEFINITION. The rings of a function (12 R296 to R308, R314, R318 to R321): doorbells, descriptor fetch, stops and
resumes, completion entries. -/

namespace Sys2Proof.Machine

/-! ### Indices (R297, R298) -/

def Ring.size (r : Ring) : Nat := 2 ^ r.log2

/-- Indices run modulo twice the size. -/
def Ring.span (r : Ring) : Nat := 2 * r.size

/-- From index a forward to index b. -/
def Ring.ahead (r : Ring) (a b : Nat) : Nat := (b + r.span - a % r.span) % r.span

/-- Entries in the ring. -/
def Ring.count (r : Ring) : Nat := r.ahead r.cidx r.pidx

def Ring.full (r : Ring) : Bool := r.count = r.size
def Ring.next (r : Ring) (i : Nat) : Nat := (i + 1) % r.span

/-- PHASE of the entry with an index. -/
def Ring.phase (r : Ring) (i : Nat) : Bool := i < r.size

/-- Host address of the entry with an index, entries of `len` bytes. -/
def Ring.entryAddr (r : Ring) (i len : Nat) : W64 := BitVec.ofNat 64 (r.base.toNat * 4096 + i % r.size * len)

/-- The rings in the order that the records number them. -/
inductive RingId where
  | cmd | cpl | evt
  deriving DecidableEq, Repr

def RingId.num : RingId → Nat
  | .cmd => 0 | .cpl => 1 | .evt => 2

def Fn.ring (x : Fn) : RingId → Ring
  | .cmd => x.cmd | .cpl => x.cpl | .evt => x.evt

def Fn.setRing (x : Fn) (i : RingId) (r : Ring) : Fn :=
  match i with
  | .cmd => { x with cmd := r }
  | .cpl => { x with cpl := r }
  | .evt => { x with evt := r }

def updRing (fn : Nat) (i : RingId) (f : Ring → Ring) (s : State) : State :=
  s.updFn fn fun x => x.setRing i (f (x.ring i))

/-! ### Stops and resumes (R318 to R320) -/

/-- A ring stopped with its cause (Table 12-4), the record and the interrupt. -/
def stopRing (fn : Nat) (i : RingId) (cause : BitVec 3) (addr : W64) (status : BitVec 4) (s : State) : State :=
  let s := updRing fn i (fun r => { r with stop := true, cause }) s
  let s := s.updFn fn fun x => if i = .cmd then { x with retries := 0 } else x
  let s := s.feed spineFeed { hrec 0x212 2 (fnNode fn) (p48 (fn + 16 * i.num + 64 * cause.toNat)) (bits addr 0 48)
    (status.setWidth 48) with fDest := some fn }
  sendMsix fn (s.fn fn).errVec s

/-- A stopped ring restarted. -/
def resumeRing (fn : Nat) (i : RingId) (s : State) : State := updRing fn i (fun r => { r with stop := false, cause := 0 }) s

/-- EN of a ring written (R299, R321): a change from 0 to 1 zeroes its indices. EN of the completion ring stays 1 while
commands are in flight. -/
def setEn (fn : Nat) (i : RingId) (on : Bool) (s : State) : State :=
  let x := s.fn fn
  let r := x.ring i
  if on && !r.en then
    let s := updRing fn i (fun r => { r with en := true, pidx := 0, cidx := 0 }) s
    if i = .cmd then s.updFn fn fun x => { x with retries := 0, cmdMarks := [] } else s
  else if !on && r.en && !(i = .cpl && x.taken.any fun k => !k.orphan) then updRing fn i (fun r => { r with en := false }) s
  else s

/-! ### Doorbells (R300, R301, R302) -/

/-- A doorbell value is refused: a bit above LOG2SIZE, more than SIZE entries, or an index not yet produced. -/
def badBell (r : Ring) (i : RingId) (v : Nat) : Bool :=
  r.span ≤ v || (if i = .cmd then r.size < r.ahead r.cidx v else r.count < r.ahead r.cidx v)

/-- The marks of earlier doorbells that still stand, and the new one: none for a value that delivers no command. -/
def Fn.mark (x : Fn) (v : Nat) : List (Nat × Nat) :=
  let r := x.cmd
  let l := x.cmdMarks.filter fun m => r.ahead r.cidx m.1 ≤ r.ahead r.cidx v
  if r.ahead r.cidx v = 0 || l.any (fun m => m.1 = v) then l else l ++ [(v, x.winCount)]

/-- A doorbell of a function's BAR2; its write discards the halves kept for other registers (18 R445). -/
def doorbell (fn : Nat) (i : RingId) (v : BitVec 32) (s : State) : State :=
  let x := s.fn fn
  let r := x.ring i
  if !x.bars then unsupported fn s
  else if !x.room true 4 then s
  else
  let s := keepHalf fn none s
  if !r.en then s
  else if badBell r i v.toNat then
    let s := s.updFn fn fun x => { x with dberr := true }
    let s := s.feed spineFeed { hrec 0x211 1 (fnNode fn) (p48 (fn + 16 * i.num)) (p48 v.toNat) 0 with fDest := some fn }
    sendMsix fn x.errVec s
  else match i with
    | .cmd => s.updFn fn fun x => { x with cmdMarks := x.mark v.toNat, cmd := { x.cmd with pidx := v.toNat } }
    | .cpl => updRing fn .cpl (fun r => { r with cidx := v.toNat }) s
    | .evt =>
      let s := updRing fn .evt (fun r => { r with cidx := v.toNat }) s
      if (s.fn fn).evt.count = 0 then s else sendMsix fn x.evtVec s

/-! ### Fetching descriptors (R302, R314, R318) -/

/-- The function may take a command: its command ring runs and holds one, the completion ring is neither stopped nor full,
and fewer than 8 commands are held. -/
def Fn.canFetch (x : Fn) : Bool :=
  x.cmd.en && !x.cmd.stop && x.cmd.count ≠ 0 && !x.cpl.stop && !x.cpl.full &&
  (x.taken.filter fun k => !k.orphan).length + x.done.length < 8 && x.up

/-- A descriptor with the expected PHASE taken. -/
def takeDesc (fn : Nat) (desc : BitVec 512) (s : State) : State :=
  let q := s.spine.nextTake
  (s.updSpine fun sp => { sp with nextTake := q + 1 }).updFn fn fun x =>
    let i := x.cmd.cidx
    let j := x.cmd.next i
    { x with
      cmd := { x.cmd with cidx := j }
      retries := 0
      cmdMarks := x.cmdMarks.filter fun m => m.1 != j
      nextCmd := x.nextCmd + 1
      taken := x.taken ++ ([{ idx := x.nextCmd, ring := i, desc, seq := q, winMark := match x.cmdMarks with | m :: _ => m.2 | [] => 0 }] :
        List Taken) }

/-- Pages of host memory that a ring with entries of `len` bytes lies in. -/
def Ring.pages (r : Ring) (len : Nat) : Nat := (r.size * len + 4095) / 4096

/-- Bytes of an entry (R296). -/
def RingId.len : RingId → Nat
  | .cmd => 64 | .cpl => 16 | .evt => 32

/-- A ring's access at an address has been made: its ATC entry is the last used, and the page after it, where the ring has one, is
requested speculatively if the ATC holds no entry for it (10 R270, which lets an engine do so). DESIGN CHOICE (log 117). -/
def ringUse (fn : Nat) (i : RingId) (a : W64) (s : State) : State :=
  let s := atcUse fn a s
  let x := s.fn fn
  let r := x.ring i
  let next : W64 := BitVec.ofNat 64 (a.toNat / 4096 * 4096 + 4096)
  let q := transKey next (i != .cmd)
  if !x.ats || r.base.toNat + r.pages i.len ≤ next.toNat / 4096 || (s.hostAddr fn next q.2).isSome || x.specReqs.contains q ||
      x.transReqs.contains q then s
  else (s.updFn fn fun x => { x with specReqs := x.specReqs ++ [q] }).emit (.translationRequest fn next q.2)

/-- What a fetch or refetch of the descriptor at CIDX leads to: one that the ATC cannot translate waits for its Translation
Request (10 R268). A denied fetch never has the expected PHASE (14 R362). -/
def fetched (fn : Nat) (r : HostRead) (s : State) : State :=
  let x := s.fn fn
  let a := x.cmd.entryAddr x.cmd.cidx 64
  let h := hostFail fn a false (readFailure r) s
  match h.1, h.2.hostAddr fn a false with
  | some e, _ => stopRing fn .cmd (failCause e) a e.2 h.2
  | none, none => needPage fn a false h.2
  | none, some at' =>
    let s := h.2
    match r with
    | .bytes b =>
      let c := hostCheck fn at' false s
      let s := (ringUse fn .cmd a c.2).emit (.hostRead fn at' 64)
      let d : BitVec 512 := BitVec.ofNat 512 (ofBytes (b.take 64))
      if c.1 && bit d 8 = x.cmd.phase x.cmd.cidx then takeDesc fn d s
      else if x.retries < 4 then s.updFn fn fun x => { x with retries := x.retries + 1 }
      else stopRing fn .cmd 6 a 0 s
    | .completionError st => stopRing fn .cmd 3 a st s
    | .poisoned => stopRing fn .cmd 4 a 0 (setAer fn aerPoisoned s)
    | .timeout => stopRing fn .cmd 5 a 0 (setAer fn aerTimeout s)
    | .translationFault _ _ | .walkBusError _ _ => s

/-- COMMAND_FETCH. -/
def commandFetch (fn : Nat) (r : HostRead) (s : State) : State :=
  if (s.fn fn).canFetch && (s.fn fn).retries = 0 then fetched fn r s else s

/-- DESCRIPTOR_REFETCH: 1 us after a wrong PHASE. -/
def descriptorRefetch (fn : Nat) (r : HostRead) (s : State) : State :=
  if (s.fn fn).canFetch && (s.fn fn).retries ≠ 0 then fetched fn r s else s

/-! ### Completion entries (R307, R308, R319) -/

/-- The RESULT field: 0 unless CODE is OK or PARTIAL, but for the ABORTED slice commands whose procedures give one (13 R331,
R343). -/
def Done.resultField (d : Done) : W64 :=
  if d.code = ccOK || d.code = ccPARTIAL || (d.code = ccABORTED && (d.opc = 0x11 || d.opc = 0x12)) then d.result else 0

/-- A completion entry (Table 12-7), byte 0 lowest. -/
def Done.entry (d : Done) (phase : Bool) : BitVec 128 :=
  d.resultField ++ 0#8 ++ d.opc ++ BitVec.ofNat 16 d.ring ++ 0#7 ++ b1 phase ++ d.code ++ d.tag

/-- COMPLETION_WRITE: the first held entry. A write that the Range Guard denies is dropped (14 R362). -/
def completionWrite (fn : Nat) (w : HostWrite) (s : State) : State :=
  let x := s.fn fn
  let r := x.cpl
  match x.done with
  | [] => s
  | d :: l =>
    if !r.en || r.stop || r.full || !x.up then s
    else
      let a := r.entryAddr r.pidx 16
      let h := hostFail fn a true (writeFailure w) s
      match h.1, h.2.hostAddr fn a true with
      | some e, _ => stopRing fn .cpl (failCause e) a e.2 h.2
      | none, none => needPage fn a true h.2
      | none, some at' =>
        if w != .done then h.2 else
          let c := hostCheck fn at' true h.2
          let s := ringUse fn .cpl a c.2
          let s := s.updFn fn fun x => { x with done := l, cpl := { r with pidx := r.next r.pidx } }
          let s := if c.1 then s.emit (.hostWrite fn at' (bytesOf (d.entry (r.phase r.pidx)) 16)) else s
          if d.intr || d.code != ccOK then sendMsix fn x.cplVec s else s

def execDoorbellCmdPidx (fn : Nat) (v : BitVec 32) (s : State) : Res := atFn fn s (doorbell fn .cmd v)
def execDoorbellCplCidx (fn : Nat) (v : BitVec 32) (s : State) : Res := atFn fn s (doorbell fn .cpl v)
def execDoorbellEvtCidx (fn : Nat) (v : BitVec 32) (s : State) : Res := atFn fn s (doorbell fn .evt v)
def execCommandFetch (fn : Nat) (r : HostRead) (s : State) : Res := atFn fn s (commandFetch fn r)
def execDescriptorRefetch (fn : Nat) (r : HostRead) (s : State) : Res := atFn fn s (descriptorRefetch fn r)
def execCompletionWrite (fn : Nat) (w : HostWrite) (s : State) : Res := atFn fn s (completionWrite fn w)

end Sys2Proof.Machine
end

