-- ==== Sys2Proof/Machine/Assay.lean ====
section
/-! DEFINITION. What the spine does about faults (15 R386 to R394): interrupts, the external error output, the trap, slice
and chip reset requests, dual-rail episodes; checks at a slice with no message: the engine watchdog, the margin monitors
(17 R444) and the ledger's leakage (17 R437). -/

namespace Sys2Proof.Machine

/-! ### Interrupts (R387) -/

/-- REGVIEW lets the function see the SPN_ block and the aperture (11 Table 11-5); 0b11 acts as 0b00. -/
def Fn.sees (x : Fn) : Bool := x.regview = 1 || x.regview = 2
def Fn.writes (x : Fn) : Bool := x.regview = 2

/-- The function enables the interrupts of a part, named by its node ID. -/
def State.hears (s : State) (f node : Nat) : Bool :=
  let x := s.fn f
  match nodeSlice (BitVec.ofNat 9 node) with
  | some _ => x.asSlice && x.sees
  | none =>
    if isAgent node then
      (x.asShimAll && x.sees) || (x.asShimOwn && (s.shim node).inPartition && (s.shim node).func = f)
    else x.asSpine && x.sees

/-- MSI-X messages to every function that enables the part's class. -/
def sendIrq (node : Nat) (s : State) : State :=
  eachOf (s.fnNums.filter fun f => s.hears f node) (fun f s => sendMsix f (s.fn f).asVec s) s

/-! ### Reactions (Table 15-6) -/

/-- An EXTERR reaction starts a pulse, or restarts its timer (R391). -/
def errPulse (s : State) : State :=
  s.updSpine fun sp => { sp with errOut := { sp.errOut with active := true, hold := sp.errOut.hold || sp.errOut.autohold } }

/-- First fault source of a part, by node ID. -/
def sourceBase (node : Nat) : Nat :=
  match nodeSlice (BitVec.ofNat 9 node) with
  | some _ => 0x00
  | none => if isAgent node then 0x40 else 0x60

def State.statusOf (s : State) (node : Nat) : W64 :=
  match nodeSlice (BitVec.ofNat 9 node) with
  | some n => (s.slice n).assay.status
  | none => if isAgent node then (s.shim node).assay.status else s.spine.assay.status

/-- The source that an NMI reaction names: the lowest one detected whose configuration has NMI. DESIGN CHOICE (log 37). -/
def State.nmiSource (s : State) (node : Nat) : BitVec 8 :=
  let base := sourceBase node
  match (List.range 64).find? fun n => bit (s.statusOf node) n && (s.src (base + n)).nmi with
  | some n => BitVec.ofNat 8 (base + n)
  | none => 0

/-- An NMI reaction (R388). -/
def raiseNmi (node : Nat) (s : State) : State :=
  s.updSpine fun sp =>
    if sp.nmi.isNone then { sp with nmi := some (BitVec.ofNat 9 node, s.nmiSource node) }
    else { sp with nmiLost := satInc 255 sp.nmiLost }

/-- A chip reset request of a part comes from a source of severity 3, whose detection Hallmark knows of. -/
def State.crstFatal (s : State) (node : Nat) : Bool :=
  let base := sourceBase node
  (List.range 64).any fun n => bit (s.statusOf node) n && (s.src (base + n)).crst && s.sevOf (base + n) = 3

/-- The rising levels of a part, in the order of Table 15-6 (R386, R392). Every chip reset request is a trigger of the last-gasp
flush (16 R414). -/
def react (node : Nat) (up : BitVec 6) (s : State) : State :=
  let s := if bit up 2 then errPulse s else s
  let s := if bit up 3 then raiseNmi node s else s
  let s := if bit up 0 then sendIrq node s else s
  let s := match nodeSlice (BitVec.ofNat 9 node) with
    | some n => if bit up 5 then srstApply n s else s
    | none => s
  if bit up 4 then
    let s := s.updSpine fun sp => { sp with crstDue := true }
    if s.crstFatal node then s else s.updHall fun h => { h with fatalDue := h.fatalDue + 1 }
  else s

/-- The levels of a part as the spine now knows them, and the reactions to those that rose. -/
def actLevels (node : Nat) (s : State) : State :=
  let old := mget 0 s.spine.levels node
  let new := s.levels node
  let s := s.updSpine fun sp => { sp with levels := mput 0 sp.levels node new }
  react node (new &&& ~~~ old) s

/-- The part exists: a slice, a shim or the spine. -/
def State.hasPart (s : State) (part : Nat) : Bool :=
  match nodeSlice (BitVec.ofNat 9 part) with
  | some n => part < 512 && n < s.par.nSlice
  | none => if isAgent part then s.hasShim part else part = 0x1F0

/-! ### Chip reset request (R390) -/

/-- A flush runs, or a fatal trigger that starts one has not been taken yet. -/
def State.flushing (s : State) : Bool :=
  s.hall.flush.isSome || (s.hall.lgEn && (s.fn s.hall.lgFunc).up && s.hall.fatalDue != 0)

/-- CHIP_RESET_REQUEST: assay_chip_rst_req is driven once Hallmark has flushed; `late`: 16 us after the summary change, whatever
the flush has come to. -/
def chipResetRequest (late : Bool) (s : State) : State :=
  if s.spine.crstDue && (late || !s.flushing) then s.updSpine fun sp => { sp with crstDue := false, chipRstReq := true } else s

/-- ERR_OUT_PULSE_END (R391). -/
def errOutPulseEnd (s : State) : State := s.updSpine fun sp => { sp with errOut := { sp.errOut with active := false } }

/-- The level of hk_err_out (R391). -/
def ErrOut.out (x : ErrOut) : Bool := x.active || x.hold

/-- NMI_ACK: the held trap and its information released (R388). -/
def nmiAck (s : State) : State := s.updSpine fun sp => { sp with nmi := none }

/-! ### Dual-rail summaries (R394) -/

/-- The injection register of a part with wires. -/
def State.injOf (s : State) (part : Nat) : Inj :=
  match nodeSlice (BitVec.ofNat 9 part) with
  | some n => (s.slice n).assay.inj
  | none => (s.shim part).assay.inj

def State.setInjOf (s : State) (part : Nat) (j : Inj) : State :=
  match nodeSlice (BitVec.ofNat 9 part) with
  | some n => s.updSlice n fun sl => { sl with assay := { sl.assay with inj := j } }
  | none => s.updShim part fun x => { x with assay := { x.assay with inj := j } }

/-- Samples taken of inverted wires (R399). -/
def spendSamples (part k : Nat) (s : State) : State :=
  let j := s.injOf part
  if j.source = 0x65 then s.setInjOf part { j with count := BitVec.ofNat 8 (j.count.toNat - k) } else s

/-- DUAL_RAIL_MISMATCH: the pairs whose bits are set in `pairs` were equal on two consecutive samples. -/
def dualRailMismatch (part pairs : Nat) (s : State) : State :=
  if pairs % 64 = 0 then s
  else
    let inj := (s.injOf part).source = 0x65 && 2 ≤ (s.injOf part).count.toNat
    let s := spendSamples part 2 s
    if s.spine.episodes.contains part then s
    else
      (raiseSpine spineNode 0x65 { syn := BitVec.ofNat 16 (pairs % 64), node := BitVec.ofNat 9 part, inj } s).updSpine fun sp =>
        { sp with episodes := sp.episodes ++ [part] }

/-- DUAL_RAIL_MAINT_READ: 100 ACLK samples later the spine acts on the levels it reads. -/
def dualRailMaintRead (part : Nat) (s : State) : State :=
  if s.spine.episodes.contains part then actLevels part (spendSamples part 100 s) else s

/-- DUAL_RAIL_EPISODE_END. -/
def dualRailEpisodeEnd (part : Nat) (s : State) : State :=
  if (s.injOf part).source = 0x65 && (s.injOf part).count ≠ 0 then s
  else s.updSpine fun sp => { sp with episodes := sp.episodes.filter (· != part) }

/-! ### Checks at a slice -/

/-- ENGINE_WATCHDOG (Table 15-1 0x1D): engine e had a ready tracker and started no lookup for 65,536 HCLK. -/
def engineWatchdog (n e : Nat) (s : State) : State :=
  if e < 4 && (s.slice n).serving && (s.readyOf n e) ≠ 0 then raiseSlice n 0x1D { syn := BitVec.ofNat 16 e } s else s

/-- MARGIN_CHECK (17 R444): the reading of a monitor against its offset. -/
def marginCheck (n m : Nat) (reading : BitVec 12) (s : State) : State :=
  let off : BitVec 12 := bits (s.calSet n).mofs (16 * m) 12
  if m < 8 && (s.slice n).conds.phase != .off && reading.toNat < off.toNat then
    raiseSlice n 0x19 { syn := BitVec.ofNat 16 m } s
  else s

/-- LEDGER_LEAK_TICK (17 R437): LEAK added while the slice is not OFF; the tick counts for way-error windows (15 R395). -/
def ledgerLeakTick (n : Nat) (s : State) : State :=
  let off := (s.slice n).conds.phase = .off
  let leak := (s.calSet n).leak
  s.updSlice n fun sl => { sl with
    us := sl.us + 1
    ledger := if off then sl.ledger else { sl.ledger with energy := sl.ledger.energy + leak.setWidth 64 } }

/-- The meaning of a step about a part: it acts if the part is built. -/
def atPart (part : Nat) (wired : Bool) (s : State) (f : State → State) : Res :=
  if s.hasPart part && !(wired && part = 0x1F0) then .next (f s) else .fault .notBuilt

def execChipResetRequest (s : State) (late : Bool := false) : Res := .next (chipResetRequest late s)
def execErrOutPulseEnd (s : State) : Res := .next (errOutPulseEnd s)
def execNmiAck (s : State) : Res := .next (nmiAck s)
def execDualRailMismatch (part pairs : Nat) (s : State) : Res := atPart part true s (dualRailMismatch part pairs)
def execDualRailMaintRead (part : Nat) (s : State) : Res := atPart part true s (dualRailMaintRead part)
def execDualRailEpisodeEnd (part : Nat) (s : State) : Res := atPart part true s (dualRailEpisodeEnd part)
def execEngineWatchdog (n e : Nat) (s : State) : Res := atSlice n s (engineWatchdog n e)
def execMarginCheck (n m : Nat) (reading : BitVec 12) (s : State) : Res := atSlice n s (marginCheck n m reading)
def execLedgerLeakTick (n : Nat) (s : State) : Res := atSlice n s (ledgerLeakTick n)

end Sys2Proof.Machine
end

