-- ==== Sys2Proof/Machine/Regs.lean ====
section
/-! DEFINITION. The register maps of BAR0 (18 Tables 18-2 to 18-11, 11 Table 11-4): which register lies at an offset, and
the value it reads. -/

namespace Sys2Proof.Machine

/-- A part that keeps Assay registers. -/
inductive PartId where
  | slice (n : Nat) | shim (sh : Nat) | spine
  deriving DecidableEq, Repr

/-- The registers. Those of 128 bits are two independent ones of 64 bits; `hi` names the upper one (18 R445). -/
inductive Reg where
  | fnId | fnView | fnRights | indSel | ringBase (i : RingId) | ringCfg (i : RingId) | ringIdx (i : RingId)
  | ringStatus | ringCtl | fnVec | assayCfg | hmCfg | wtt (k : Nat)
  | msixAddr (v : Nat) (hi : Bool) | msixData (v : Nat) | msixCtl (v : Nat) | pba
  | spnId | spnRev | lock | warden | tmSeq | tmCfg | tmStatus | blockMode | mbCfg | moveCfg | temperCfg | admitCfg
  | trayCfg | rgDefault | errOut | nmi | wayCfg | hmSec | secDest | sqCfg | sqData | sqStatus
  | mrt (i : Nat) | seg (k : Nat) | srcCfg (c : Nat) | colourMask (c : Nat) | tidColour (n : Nat) | rg (i : Nat) (hi : Bool)
  | status (p : PartId) | first (p : PartId) (hi : Bool) | inj (p : PartId)
  | slcMode (n : Nat) | stealCfg (n : Nat) | temper (n : Nat) | energy (n : Nat) | calStatus (n : Nat)
  | rcpAct (n e : Nat) | rcpShd (n e : Nat) | hlcFlags (n set : Nat) | bkt (n b : Nat)
  | rev (sh : Nat) | ctl (sh : Nat) | pfCtl (sh : Nat) | tidForce (sh : Nat) | drainLo (sh : Nat) | drainHi (sh : Nat)
  | bmap (sh b : Nat)
  deriving DecidableEq, Repr

/-- The register has 64 bits; the others have 32. -/
def Reg.wide : Reg → Bool
  | .ringBase _ | .wtt _ | .pba | .spnId | .blockMode | .temperCfg | .trayCfg | .hmSec | .sqData | .mrt _ | .seg _
  | .colourMask _ | .tidColour _ | .rg _ _ | .status _ | .first _ _ | .stealCfg _ | .temper _ | .energy _ | .rcpAct _ _
  | .rcpShd _ _ | .drainLo _ => true
  | _ => false

/-! ### Address maps -/

/-- The ring registers of Table 12-3, by offset. -/
def ringReg (off : Nat) : Option Reg :=
  match off with
  | 0x100 => some (.ringBase .cmd) | 0x108 => some (.ringCfg .cmd) | 0x110 => some (.ringIdx .cmd)
  | 0x118 => some (.ringBase .cpl) | 0x120 => some (.ringCfg .cpl) | 0x128 => some (.ringIdx .cpl)
  | 0x130 => some (.ringBase .evt) | 0x138 => some (.ringCfg .evt) | 0x140 => some (.ringIdx .evt)
  | 0x148 => some .ringStatus | 0x150 => some .ringCtl | 0x158 => some .fnVec | 0x160 => some .assayCfg
  | 0x168 => some .hmCfg
  | _ => none

/-- The FN_ block (Table 18-2). -/
def fnReg (off : Nat) : Option Reg :=
  match off with
  | 0x00 => some .fnId | 0x10 => some .fnView | 0x14 => some .fnRights | 0x18 => some .indSel
  | _ => if 0x800 ≤ off && off < 0x900 && off % 8 = 0 then some (.wtt ((off - 0x800) / 8)) else ringReg off

/-- The MSI-X table and PBA (11 Table 11-4): 16 bytes for each vector. -/
def msixReg (off : Nat) : Option Reg :=
  if 0xE000 ≤ off && off < 0xE400 then
    let v := (off - 0xE000) / 16
    match off % 16 with
    | 0 => some (.msixAddr v false)
    | 4 => some (.msixAddr v true)
    | 8 => some (.msixData v)
    | 12 => some (.msixCtl v)
    | _ => none
  else if off = 0xF000 then some .pba else none

/-- The registers of the SPN_ block that are no arrays (Table 18-4). -/
def spnSingle (off : Nat) : Option Reg :=
  match off with
  | 0x1000 => some .spnId | 0x1008 => some .spnRev | 0x1010 => some .lock | 0x1018 => some .warden
  | 0x1020 => some .tmSeq | 0x1028 => some .tmCfg | 0x1030 => some .tmStatus | 0x1040 => some .blockMode
  | 0x1048 => some .mbCfg | 0x1050 => some .moveCfg | 0x1058 => some .temperCfg | 0x1060 => some .admitCfg
  | 0x1068 => some .trayCfg | 0x1070 => some .rgDefault | 0x1078 => some .errOut | 0x1080 => some (.status .spine)
  | 0x1090 => some (.first .spine false) | 0x1098 => some (.first .spine true) | 0x10A0 => some (.inj .spine)
  | 0x10A8 => some .nmi | 0x10B0 => some .wayCfg | 0x10C0 => some .hmSec | 0x10C8 => some .secDest
  | 0x10D0 => some .sqCfg | 0x10D8 => some .sqData | 0x10E0 => some .sqStatus
  | _ => none

/-- The SPN_ block (Table 18-4). SPN_ASSAY_CFG of a reserved source code is reserved. -/
def spnReg (off : Nat) : Option Reg :=
  if off < 0x1100 then spnSingle off
  else if off < 0x1200 then (if off % 8 = 0 then some (.mrt ((off - 0x1100) / 8)) else none)
  else if off < 0x1400 then (if off % 8 = 0 then some (.seg ((off - 0x1200) / 8)) else none)
  else if off < 0x1610 then (if (srcSev ((off - 0x1400) / 4)).isSome then some (.srcCfg ((off - 0x1400) / 4)) else none)
  else if off < 0x1700 then none
  else if off < 0x1780 then (if off % 8 = 0 then some (.colourMask ((off - 0x1700) / 8)) else none)
  else if off < 0x1800 then none
  else if off < 0x2000 then (if off % 8 = 0 then some (.tidColour ((off - 0x1800) / 8)) else none)
  else if off < 0x3000 then (if off % 8 = 0 then some (.rg ((off - 0x2000) / 16) (off % 16 = 8)) else none)
  else none

/-- The SLC_ block of slice n, by aperture offset (Table 18-8). -/
def slcReg (n off : Nat) : Option Reg :=
  match off with
  | 0x00 => some (.slcMode n) | 0x08 => some (.stealCfg n) | 0x10 => some (.temper n) | 0x18 => some (.energy n)
  | 0x20 => some (.calStatus n) | 0x28 => some (.status (.slice n)) | 0x30 => some (.first (.slice n) false)
  | 0x38 => some (.first (.slice n) true) | 0x40 => some (.inj (.slice n))
  | 0x80 => some (.rcpAct n 0) | 0x88 => some (.rcpAct n 1) | 0x90 => some (.rcpAct n 2) | 0x98 => some (.rcpAct n 3)
  | 0xA0 => some (.rcpShd n 0) | 0xA8 => some (.rcpShd n 1) | 0xB0 => some (.rcpShd n 2) | 0xB8 => some (.rcpShd n 3)
  | _ =>
    if 0x400 ≤ off && off < 0x800 then some (.hlcFlags n ((off - 0x400) / 4))
    else if 0x4000 ≤ off && off < 0x8000 then some (.bkt n ((off - 0x4000) / 4))
    else none

/-- The SHM_ block of a shim, by aperture offset (Table 18-10). -/
def shmReg (sh off : Nat) : Option Reg :=
  match off with
  | 0x00 => some (.rev sh) | 0x08 => some (.ctl sh) | 0x10 => some (.pfCtl sh) | 0x18 => some (.tidForce sh)
  | 0x20 => some (.drainLo sh) | 0x28 => some (.drainHi sh) | 0x30 => some (.status (.shim sh))
  | 0x40 => some (.first (.shim sh) false) | 0x48 => some (.first (.shim sh) true) | 0x50 => some (.inj (.shim sh))
  | _ => if 0x4000 ≤ off && off < 0x8000 then some (.bmap sh ((off - 0x4000) / 4)) else none

/-- Which rights an offset of BAR0 needs (11 Table 11-4). -/
inductive Space where
  | own | spine | aperture
  deriving DecidableEq, Repr

def spaceOf (off : Nat) : Space := if 0x1000 ≤ off && off < 0x4000 then .spine else if 0x4000 ≤ off && off < 0xC000 then .aperture else .own

/-- The register that starts at an offset of function f's BAR0. -/
def State.regStart (s : State) (f off : Nat) : Option Reg :=
  match spaceOf off with
  | .spine => spnReg off
  | .aperture =>
    let x := s.fn f
    if x.indKind then shmReg x.indIndex (off - 0x4000) else slcReg x.indIndex (off - 0x4000)
  | .own => if off < 0x1000 then fnReg off else msixReg off

/-- The register at a 4-byte aligned offset, and whether the offset is that of its upper half. -/
def State.regAt (s : State) (f off : Nat) : Option (Reg × Bool) :=
  match s.regStart f off with
  | some r => some (r, false)
  | none =>
    if off % 8 = 4 then
      match s.regStart f (off - 4) with
      | some r => if r.wide then some (r, true) else none
      | none => none
    else none

/-- The instance that an aperture register names is built and not powered off (11 R282, 18 R446). -/
def State.instanceOk (s : State) (f : Nat) : Bool :=
  let x := s.fn f
  if x.indKind then x.indIndex < 288 && s.hasShim x.indIndex
  else x.indIndex < s.par.nSlice && (s.slice x.indIndex).conds.phase != .off

/-! ### Values -/

/-- KIND of Table 08-2. -/
def BKind.code : BKind → Nat
  | .none => 0 | .owned => 1 | .frozen => 2 | .stub => 3

/-- STATE of Table 09-2. -/
def ShimSt.code : ShimSt → Nat
  | .idle => 0 | .admitting => 1 | .admitted => 2 | .fenced => 3

def State.assayOf (s : State) : PartId → Assay
  | .slice n => (s.slice n).assay
  | .shim sh => (s.shim sh).assay
  | .spine => s.spine.assay

/-- The first-error record (15 Table 15-4): lower and upper 64 bits. -/
def FirstRec.word (r : FirstRec) (hi : Bool) : W64 :=
  if hi then r.addr.setWidth 64
  else packWord [(0, nb r.valid), (1, nb r.ovf), (2, r.sev.toNat), (8, r.source.toNat), (16, r.syndrome.toNat),
    (32, r.node.toNat)]

def Inj.word (j : Inj) : W64 := packWord [(0, j.source.toNat), (8, j.count.toNat), (16, nb j.mode)]

/-- A Range Guard entry (14 Table 14-4): lower and upper 64 bits. -/
def RgEntry.word (e : RgEntry) (hi : Bool) : W64 :=
  if hi then packWord [(0, e.base.toNat / 2 ^ 32), (8, e.limit.toNat)]
  else packWord [(0, nb e.valid), (1, nb e.tray), (2, nb e.nostash), (3, nb e.noanvil), (4, nb e.nosoft),
    (8, e.owner), (16, e.colours.toNat), (32, e.base.toNat % 2 ^ 32)]

def Bank.word (b : Bank) : W64 := packWord [(0, b.id.toNat), (32, b.lcp), (36, b.feat.toNat), (40, nb b.valid)]

/-- FN_RING_STATUS (12 Table 12-3). -/
def Fn.ringStatus (x : Fn) : W64 :=
  packWord [(0, nb x.cmd.stop), (1, x.cmd.cause.toNat), (4, nb x.cpl.stop), (5, x.cpl.cause.toNat), (8, nb x.evt.stop),
    (9, x.evt.cause.toNat), (12, nb x.dberr), (16, (x.taken.filter fun k => !k.orphan).length)]

/-- SPN_SQ_DATA (16 R419): the head word, unless the queue is empty. -/
def Hallmark.sqWord (h : Hallmark) : W64 :=
  match h.sq with
  | w :: _ => packWord [(0, w.toNat), (32, 1)]
  | [] => 0

/-- SPN_ASSAY_CFG[c] (15 Table 15-2). -/
def State.srcWord (s : State) (c : Nat) : W64 :=
  let x := s.src c
  packWord [(0, (s.sevOf c).toNat), (2, nb x.intr), (3, nb x.nmi), (4, nb x.srst), (5, nb x.crst), (6, nb x.exterr),
    (7, nb (srcSec c)), (8, nb (srcFixed c))]

/-- Registers of the function block and the MSI-X structures. -/
def State.fnWord (s : State) (f : Nat) (r : Reg) : W64 :=
  let x := s.fn f
  match r with
  | .fnId => BitVec.ofNat 64 f
  | .fnView => packWord [(0, x.regview.toNat), (16, x.wtid.toNat)]
  | .fnRights => x.rights.setWidth 64
  | .indSel => packWord [(0, nb x.indKind), (16, x.indIndex)]
  | .ringBase i => packWord [(12, (x.ring i).base.toNat)]
  | .ringCfg i => packWord [(0, (x.ring i).log2), (8, nb (x.ring i).en)]
  | .ringIdx i => BitVec.ofNat 64 (if i = .cmd then x.cmd.cidx else (x.ring i).pidx)
  | .ringStatus => x.ringStatus
  | .fnVec => packWord [(0, x.cplVec), (8, x.evtVec), (16, x.errVec)]
  | .assayCfg => packWord [(0, nb x.asSlice), (1, nb x.asShimOwn), (2, nb x.asShimAll), (3, nb x.asSpine), (8, x.asVec)]
  | .hmCfg => BitVec.ofNat 64 (nb x.hmBlock)
  | .wtt k =>
    let e := mget {} x.wtt k
    packWord [(0, nb e.valid), (1, nb e.rd), (2, nb e.wr), (3, e.len.toNat), (12, e.tbase.toNat)]
  | .msixAddr v hi => if hi then (x.vec v).addr >>> 32 else bits (x.vec v).addr 0 32 |>.setWidth 64
  | .msixData v => (x.vec v).data.setWidth 64
  | .msixCtl v => BitVec.ofNat 64 (nb (x.vec v).mask)
  | .pba => (List.range 64).foldl (fun w v => setBit w v (x.vec v).pending) 0
  | _ => 0

/-- Registers of the SPN_ block. -/
def State.spnWord (s : State) (r : Reg) : W64 :=
  let sp := s.spine
  let p := s.par
  match r with
  | .spnId =>
    let n (lo hi : Nat) := ((List.range hi).filter fun i => lo ≤ i && s.hasShim i).length
    packWord [(0, p.nSlice), (8, p.nActive), (16, n 0 256), (25, n 256 288), (32, p.nMport), (40, p.nFunc), (48, p.nDvfs)]
  | .spnRev => p.blockRev.setWidth 64
  | .lock => BitVec.ofNat 64 (nb sp.setup)
  | .warden => packWord [(0, p.wardenA), (8, p.wardenB)]
  | .tmSeq => sp.prot.tmSeq.setWidth 64
  | .tmCfg => BitVec.ofNat 64 sp.prot.tmWindow
  | .tmStatus => BitVec.ofNat 64 sp.prot.proposals.length
  | .blockMode => s.blockMode
  | .mbCfg => BitVec.ofNat 64 sp.mbWindow
  | .moveCfg => sp.scanCode.setWidth 64
  | .temperCfg =>
    let t := sp.temper
    packWord [(0, t.window), (8, t.ratio), (16, t.occmin), (24, t.consec), (32, t.floor), (40, t.recheck), (48, nb t.shedEn)]
  | .admitCfg => BitVec.ofNat 64 sp.admitWait
  | .trayCfg => packWord [(0, nb sp.trayEn), (8, sp.trayFt), (12, sp.trayHt), (26, sp.trayBase.toNat)]
  | .rgDefault => packWord [(0, nb sp.prot.rgAllow), (16, sp.prot.rgColours.toNat)]
  | .errOut => packWord [(0, nb sp.errOut.hold), (1, nb sp.errOut.autohold), (2, nb sp.errOut.active), (3, nb sp.errOut.out),
      (16, sp.errOut.pulse)]
  | .nmi => BitVec.ofNat 64 sp.nmiLost
  | .wayCfg => packWord [(0, sp.wayLimit), (8, sp.wayWindow)]
  | .hmSec => packWord [(0, s.hall.lgFunc), (4, nb s.hall.lgEn), (12, s.hall.lgBase.toNat)]
  | .secDest => s.hall.secDest.setWidth 64
  | .sqCfg => s.hall.sqCfg.setWidth 64
  | .sqData => s.hall.sqWord
  | .sqStatus => packWord [(0, s.hall.sq.length), (16, s.hall.sqDropped), (24, min 255 s.hall.sqPackets)]
  | .mrt i =>
    let e := s.mrtE i
    packWord [(0, nb e.valid), (1, e.cntlog), (4, e.first), (8, e.base.toNat), (30, e.limit.toNat)]
  | .seg k => packWord [(0, nb (s.seg k).valid), (8, (s.seg k).slice)]
  | .srcCfg c => s.srcWord c
  | .colourMask c =>
    let m := s.mask (BitVec.ofNat 4 c)
    packWord [(0, m.fine.toNat), (16, m.loaf.toNat), (24, m.hlc.toNat)]
  | .tidColour n => packWord ((List.range 16).map fun j => (4 * j, (s.tidColour (BitVec.ofNat 12 (16 * n + j))).toNat))
  | .rg i hi => (s.rg i).word hi
  | _ => 0

/-- Registers of a slice. -/
def State.slcWord (s : State) (r : Reg) : W64 :=
  match r with
  | .slcMode n => (s.slice n).conds.word.setWidth 64
  | .stealCfg n =>
    let c := (s.slice n).stealCfg
    packWord [(0, c.idle), (16, c.minq), (32, c.drain), (48, c.holdoff)]
  | .temper n =>
    let t := (s.slice n).temper
    packWord [(0, t.occ), (16, min 65535 t.lat), (32, nb t.slow), (33, min 63 t.run)]
  | .energy n => (s.slice n).ledger.energy
  | .calStatus n => packWord [(0, nb (s.calSet n).written), (1, nb (s.slice n).conds.pCal)]
  | .rcpAct n e => (s.actBank n e).word
  | .rcpShd n e => (s.shdBank n e).word
  | .hlcFlags n set => (mget 0 (s.slice n).arr.hlcFlags set).setWidth 64
  | .bkt n b =>
    let e := s.bkt n b
    packWord [(0, e.kind.code), (2, e.engine), (4, e.gen.toNat), (10, e.peer), (17, nb e.incoming), (18, nb e.purge)]
  | _ => 0

/-- Registers of a shim. -/
def State.shmWord (s : State) (r : Reg) : W64 :=
  match r with
  | .rev sh => packWord [(0, (s.shim sh).cap.toNat), (3, (s.shim sh).neg), (5, (s.shim sh).st.code)]
  | .ctl sh => BitVec.ofNat 64 (nb (s.shim sh).autoRetire)
  | .pfCtl sh => packWord [(0, nb (s.shim sh).pfEn), (4, (s.shim sh).pfMinConf), (8, (s.shim sh).pfDepth)]
  | .tidForce sh => packWord [(0, nb (s.shim sh).tidForce), (16, (s.shim sh).tidValue.toNat)]
  | .drainLo sh => bits (s.shim sh).drainVec 0 64
  | .drainHi sh => (bits (s.shim sh).drainVec 64 4).setWidth 64
  | .bmap sh b => packWord [(0, (s.bmap sh b).slice), (7, (s.bmap sh b).engine), (9, (s.bmap sh b).gen.toNat)]
  | _ => 0

/-- The value a register reads. WO fields read 0 (00 R4). -/
def State.regWord (s : State) (f : Nat) (r : Reg) : W64 :=
  match r with
  | .fnId | .fnView | .fnRights | .indSel | .ringBase _ | .ringCfg _ | .ringIdx _ | .ringStatus | .ringCtl | .fnVec
  | .assayCfg | .hmCfg | .wtt _ | .msixAddr _ _ | .msixData _ | .msixCtl _ | .pba => s.fnWord f r
  | .status p => (s.assayOf p).status
  | .first p hi => (s.assayOf p).first.word hi
  | .inj p => (s.assayOf p).inj.word
  | .slcMode _ | .stealCfg _ | .temper _ | .energy _ | .calStatus _ | .rcpAct _ _ | .rcpShd _ _ | .hlcFlags _ _
  | .bkt _ _ => s.slcWord r
  | .rev _ | .ctl _ | .pfCtl _ | .tidForce _ | .drainLo _ | .drainHi _ | .bmap _ _ => s.shmWord r
  | _ => s.spnWord r

/-- The spine table word that a register shows, if any (15 R378). -/
def Reg.table : Reg → Option (Nat × Nat)
  | .wtt k => some (tblWtt, k)
  | .mrt i => some (tblMrt, i)
  | .colourMask c => some (tblMask, c)
  | .tidColour n => some (tblTid, n)
  | .rg i hi => some (tblRg, 2 * i + nb hi)
  | _ => none

/-- A register read, with the check of the spine table that holds it. -/
def readReg (f : Nat) (r : Reg) (s : State) : W64 × State :=
  (s.regWord f r, match r.table with | some t => tableCheck t.1 t.2 s | none => s)

end Sys2Proof.Machine
end

