-- ==== Sys2Proof/Machine/Record.lean ====
section
/-! DEFINITION. Hallmark's buffer (16): records and their losses (R402, R404 to R407), rate limiting (R409, R410) and the Snapshot
Queue (R417, R418). -/

namespace Sys2Proof.Machine

/-! ### The record (Table 16-1) -/

/-- A record's 32 bytes, byte 0 lowest, with the PHASE of the place it is written to. -/
def HRec.word (r : HRec) (phase : Bool) : BitVec 256 :=
  r.p2 ++ r.p1 ++ r.p0 ++ r.seq ++ (0#3 ++ b1 r.summ ++ b1 r.inj ++ b1 r.sec ++ b1 phase ++ r.source) ++
    (r.sev ++ r.code) ++ r.ts

/-! ### The buffer (R406) -/

def hmSlots : Nat := 4096

/-- Every pending destination of a record has its event ring disabled. -/
def State.allDisabled (s : State) (r : HRec) : Bool := (fnsOf r.pend).all fun f => !(s.fn f).evt.en

/-- A loss counted for the functions of a set. -/
def countLost (d : BitVec 16) (s : State) : State :=
  eachOf (fnsOf d) (fun f s => s.updFn f fun x => { x with lostRecs := x.lostRecs + 1 }) s

/-- A slot can be had without losing a record for an enabled ring: rules 1 and 2 of R406. -/
def State.recFree (s : State) : Bool :=
  match s.hall.buf with
  | o :: _ => s.hall.buf.length < hmSlots || o.pend = 0 || s.allDisabled o
  | [] => true

/-- The oldest record of a list that satisfies p removed. -/
def dropFirst (p : HRec → Bool) : List HRec → List HRec
  | [] => []
  | r :: l => if p r then l else r :: dropFirst p l

/-- The time base at a command (R402, R403): the one that it gives, but it never goes back. A command that gives 0 gives none, and
the latest time known stands (DESIGN CHOICE, log 102). -/
def Hallmark.at (h : Hallmark) (ts : W64) : W64 := if h.lastTs.toNat ≤ ts.toNat then ts else h.lastTs

/-- The time base as a command gives it. -/
def tellTime (ts : W64) (s : State) : State := if s.hall.lastTs.toNat < ts.toNat then s.updHall fun h => { h with lastTs := ts } else s

/-- A record at the end of the buffer, its SEQ assigned; TS does not decrease in SEQ order. -/
def pushRec (r : HRec) (ts : W64) (s : State) : State :=
  s.updHall fun h => { h with
    buf := h.buf ++ [{ r with ts := h.at ts, seq := h.seq, pend := r.dest }], seq := h.seq + 1, lastTs := h.at ts }

/-- A slot made by rule 1 or 2 of R406. -/
def makeRoom (s : State) : State :=
  match s.hall.buf with
  | o :: l => if s.hall.buf.length < hmSlots then s else countLost o.pend (s.updHall fun h => { h with buf := l })
  | [] => s

/-- The functions of a record's destinations that its event ring does not reach now (R417). -/
def State.unreached (s : State) (d : BitVec 16) : List Nat :=
  (fnsOf d).filter fun f => let x := s.fn f; x.evt.stop || !x.evt.en || !x.up

/-! ### The Snapshot Queue (R417, R418) -/

/-- The 32-bit words of a value, lowest first. -/
def words32 {n : Nat} (x : BitVec n) (k : Nat) : List (BitVec 32) := (List.range k).map fun i => bits x (32 * i) 32

/-- The part whose Assay registers a record's SOURCE names: memory ports and functions have the spine's (15 R377). -/
def partOf (source : BitVec 9) : PartId :=
  match nodeSlice source with
  | some n => .slice n
  | none => if isAgent source.toNat then .shim source.toNat else .spine

/-- The words of a packet, in the order of its groups. -/
def State.sqPacket (s : State) (r : HRec) (fns : List Nat) : List (BitVec 32) :=
  let g := s.hall.sqCfg
  let a := s.assayOf (partOf r.source)
  let only (i : Nat) (l : List (BitVec 32)) : List (BitVec 32) := if bit g i then l else []
  only 0 (words32 (r.word false) 8) ++ only 1 (words32 (a.first.word true ++ a.first.word false) 4) ++
  only 2 (words32 a.status 2) ++
  only 3 (match partOf r.source with | .slice n => [(s.slice n).conds.word] | _ => []) ++
  only 4 (words32 s.blockMode 2) ++ only 5 (fns.map fun f => bits (s.fn f).ringStatus 0 32)

/-- A packet captured for a record of severity 2 or 3 that some destination's ring does not reach. -/
def capture (r : HRec) (s : State) : State :=
  let fns := s.unreached r.dest
  let p := s.sqPacket r fns
  if r.sev.toNat < 2 || 3 < r.sev.toNat || fns.isEmpty || p.isEmpty then s
  else if 2048 < s.hall.sq.length + 1 + p.length then s.updHall fun h => { h with sqDropped := satInc 255 h.sqDropped }
  else
    let pos := s.hall.sq.length
    let len : BitVec 32 := BitVec.ofNat 32 (p.length + 65536 * s.hall.sqCfg.toNat)
    let s := s.updHall fun h => { h with sq := h.sq ++ len :: p, sqPackets := h.sqPackets + 1 }
    let s := s.feed spineFeed (hrec 0x006 1 spineNode (p48 pos) (p48 s.hall.sqCfg.toNat) 0)
    eachOf ((fnsOf r.dest).filter fun f => (s.fn f).up) (fun f s => sendMsix f (s.fn f).errVec s) s

/-- A record as it stands in the buffer when it has just entered. -/
def enterNow (r : HRec) (ts : W64) (s : State) : State :=
  let q := s.hall.seq
  capture { r with ts := s.hall.at ts, seq := q } (pushRec r ts s)

/-- A record with its destinations fixed enters the buffer (R406); whether it did not because every record there is a
pending security record. A lost one is counted for its destinations. -/
def enterBuf (r : HRec) (ts : W64) (s : State) : Bool × State :=
  if s.recFree then (false, enterNow r ts (makeRoom s))
  else if !r.sec then (false, countLost r.dest s)
  else match s.hall.buf.find? fun o => !o.sec with
    | some o => (false, enterNow r ts (countLost o.pend (s.updHall fun h => { h with buf := dropFirst (fun o => !o.sec) h.buf })))
    | none => (true, s)

/-! ### Rate limiting (R409) -/

/-- A record suppressed: counted, with what its summary will say. -/
def suppress (r : HRec) (ts : W64) (s : State) : State :=
  let b := s.hall.bucket r.code.toNat
  let v : BitVec 48 := if r.sec then r.p1 else bits (s.hall.at ts) 0 48
  s.updHall fun h => h.setBucket r.code.toNat { b with
    count := b.count + 1, first := if b.count = 0 then v else b.first, last := v, dest := b.dest ||| r.dest
    source := if b.count = 0 then r.source else b.source }

/-- The summary record of a bucket's suppressed records. -/
def summary (code : Nat) (b : Bucket) (secDest : BitVec 16) : HRec :=
  let sec := hmSec code
  { hrec (if sec then 0x003 else 0x001) (if sec then 2 else 0) b.source (p48 (code + 65536 * b.count)) b.first b.last with
    summ := true, dest := if sec then b.dest ||| secDest else b.dest }

/-- A code of BURST 0 is turned off: it makes no record and no count (R411). -/
def State.codeOff (s : State) (code : Nat) : Bool := (s.hall.bucket code).burst = 0

/-- A record from a feed: its destinations fixed, a token taken, then the buffer. One whose code has been turned off since is
dropped (R411). -/
def admitRec (r : HRec) (ts : W64) (s : State) : State :=
  let r := { r with dest := s.destsOf r }
  let b := s.hall.bucket r.code.toNat
  if s.codeOff r.code.toNat then s
  else if hmExempt r.code then (enterBuf r ts s).2
  else if b.tokens = 0 then suppress r ts s
  else
    let s := s.updHall fun h => h.setBucket r.code.toNat { b with tokens := b.tokens - 1 }
    let x := enterBuf r ts s
    if x.1 then suppress r ts x.2 else x.2

/-- TOKEN_REFILL: a code's bucket gains a token (R409). With SUPPRESSED turned off its count clears without a record (R411). -/
def tokenRefill (code : Nat) (ts : W64) (s : State) : State :=
  let b := s.hall.bucket code
  if !hmListed code || hmExempt (BitVec.ofNat 12 code) || b.burst ≤ b.tokens then s
  else
    let s := s.updHall fun h => h.setBucket code { b with tokens := b.tokens + 1 }
    if b.count = 0 || s.hall.pwrFail then s
    else
      let x := if !hmSec code && s.codeOff 0x001 then (false, s) else enterBuf (summary code b s.hall.secDest) ts s
      if x.1 then x.2
      else x.2.updHall fun h => h.setBucket code { h.bucket code with count := 0, first := 0, last := 0, dest := 0, source := 0 }

/-! ### Reports of losses (R405, R406) -/

/-- A LOST record for a function, made once its ring is enabled and a slot can be had. -/
def lostRec (f count node : Nat) (ts : W64) (s : State) : State :=
  let src := if node = 0x1FF then fnNode f else BitVec.ofNat 9 node
  let r : HRec := { hrec 0x002 1 src (p48 (f + 65536 * count)) (p48 node) 0 with dest := setBit 0 f true }
  enterNow r ts (makeRoom s)

/-- A LOST record can be made for a function: its ring is enabled, a slot can be had, the code is not turned off (R411), and
hk_pwr_fail has not been asserted (R415). -/
def State.mayReport (s : State) (f : Nat) : Bool :=
  (s.fn f).evt.en && s.recFree && !s.codeOff 0x002 && !s.hall.pwrFail

/-- Losses of the buffer reported (R406): as soon as a slot can be had while the function's ring is enabled. -/
def reportBuf (ts : W64) (s : State) : State :=
  eachOf s.fnNums (fun f s =>
    if (s.fn f).lostRecs ≠ 0 && s.mayReport f then
      lostRec f (s.fn f).lostRecs 0x1FF ts (s.updFn f fun x => { x with lostRecs := 0 })
    else s) s

/-- Losses at the feed of a part reported. -/
def reportFeed (node : Nat) (ts : W64) (s : State) : State :=
  let upd (f : FeedLoss → FeedLoss) (s : State) : State :=
    s.updHall fun h => { h with feedLoss := mput {} h.feedLoss node (f (mget {} h.feedLoss node)) }
  let x := mget {} s.hall.feedLoss node
  let s := eachOf x.fns (fun kv s =>
    if s.mayReport kv.1 then
      lostRec kv.1 kv.2 node ts (upd (fun y => { y with fns := mput 0 y.fns kv.1 0 }) s)
    else s) s
  eachOf x.sec (fun kv s =>
    let r : HRec := { hrec 0x003 2 (BitVec.ofNat 9 node) (p48 (kv.1 + 65536 * kv.2.count)) kv.2.first kv.2.last with
      summ := true, dest := s.hall.secDest }
    let e := enterBuf r ts s
    if e.1 then e.2 else upd (fun y => { y with sec := mput {} y.sec kv.1 {} }) e.2) s

end Sys2Proof.Machine
end

