-- ==== Sys2Proof/Machine/Access.lean ====
section
/-! DEFINITION. Accesses to BAR0 and BAR2 (11 R279 to R282, R288, 18 R445 to R453): rights, halves of 64-bit registers, what a
write does to each register, the Snapshot Queue's data register (16 R419). -/

namespace Sys2Proof.Machine

/-! ### Writing registers -/

/-- The nearest value within limits (18 R447). -/
def clampTo (lo hi v : Nat) : Nat := max lo (min hi v)

/-- Bits lo to lo + len - 1 of a word as a number. -/
def wordAt (v : W64) (lo len : Nat) : Nat := v.toNat / 2 ^ lo % 2 ^ len

/-- The sources that a part's injection register may name (15 R399). -/
def injectable (p : PartId) (src : Nat) : Bool :=
  match p with
  | .slice _ => src ≤ 0x03 || (0x05 ≤ src && src ≤ 0x0A) || src = 0x0C || src = 0x0D || (0x1A ≤ src && src ≤ 0x1C) ||
      src = 0x1E || src = 0x65
  | .shim _ => src = 0x40 || src = 0x41 || src = 0x46 || src = 0x47 || src = 0x65
  | .spine => src = 0x67 || src = 0x68 || src = 0x80 || src = 0x81

def State.updAssay (s : State) (p : PartId) (f : Assay → Assay) : State :=
  match p with
  | .slice n => s.updSlice n fun sl => { sl with assay := f sl.assay }
  | .shim sh => s.updShim sh fun x => { x with assay := f x.assay }
  | .spine => s.updSpine fun sp => { sp with assay := f sp.assay }

/-- Node ID of a part. -/
def PartId.node : PartId → Nat
  | .slice n => (sliceNode n).toNat
  | .shim sh => sh
  | .spine => 0x1F0

/-- A status register written (15 R387): bits cleared; the interrupt again if IRQ stays set. -/
def writeStatus (p : PartId) (ones : W64) (s : State) : State :=
  let s := fallLevels (s.updAssay p fun a => { a with status := a.status &&& ~~~ ones })
  if bit (s.levels p.node) 0 then sendIrq p.node s else s

/-- A write to a ring's registers (12 R303). Losses held while the event ring was disabled are reported once EN is 1 (16 R406). -/
def writeRing (f : Nat) (i : RingId) (v : W64) (s : State) : State :=
  let low := match i with | .cmd => 6 | .cpl => 8 | .evt => 7
  let s := if ((s.fn f).ring i).en then s
    else updRing f i (fun r => { r with log2 := clampTo low 16 (wordAt v 0 5) }) s
  let s := setEn f i (bit v 8) s
  if i = .evt && bit v 8 then reportBuf s.hall.lastTs s else s

/-- Writes to the function block and the MSI-X table. `v` is the register's new word; `ones` the bits written as 1. -/
def writeFn (f : Nat) (r : Reg) (v ones : W64) (s : State) : State :=
  let n := wordAt v
  match r with
  | .indSel => s.updFn f fun x => { x with indKind := bit v 0, indIndex := n 16 9 }
  | .ringBase i => if ((s.fn f).ring i).en then s else updRing f i (fun r => { r with base := bits v 12 40 }) s
  | .ringCfg i => writeRing f i v s
  | .ringStatus => if bit ones 12 then s.updFn f fun x => { x with dberr := false } else s
  | .ringCtl =>
    let s := if bit ones 0 then resumeRing f .cmd s else s
    let s := if bit ones 1 then resumeRing f .cpl s else s
    if bit ones 2 then resumeRing f .evt s else s
  | .fnVec => s.updFn f fun x => { x with cplVec := n 0 6, evtVec := n 8 6, errVec := n 16 6 }
  | .assayCfg => s.updFn f fun x => { x with
      asSlice := bit v 0, asShimOwn := bit v 1, asShimAll := bit v 2, asSpine := bit v 3, asVec := n 8 6 }
  | .hmCfg => s.updFn f fun x => { x with hmBlock := bit v 0 }
  | .wtt k =>
    let e : Wtt := { valid := bit v 0, rd := bit v 1, wr := bit v 2, len := bits v 3 9, tbase := bits v 12 40 }
    s.updFn f fun x => { x with wtt := mput {} x.wtt k e }
  | .msixAddr k hi => s.updFn f fun x =>
      let a := (x.vec k).addr
      x.setVec k { x.vec k with addr := if hi then bits v 0 32 ++ bits a 0 32 else bits a 32 32 ++ bits v 0 32 }
  | .msixData k => s.updFn f fun x => x.setVec k { x.vec k with data := bits v 0 32 }
  | .msixCtl k => sendPending f k (s.updFn f fun x => x.setVec k { x.vec k with mask := bit v 0 })
  | _ => s

/-- The new configuration of a source (15 R379, R380). -/
def writeSrc (c : Nat) (v : W64) (s : State) : State :=
  let x : SrcCfg := { sev := if srcFixed c then 3 else bits v 0 2, intr := bit v 2, nmi := bit v 3, srst := bit v 4,
                      crst := bit v 5, exterr := bit v 6 }
  fallLevels (s.updSpine fun sp => { sp with srcCfg := mput (srcDefault c) sp.srcCfg c x })

/-- A write to SPN_TRAY_SEG[k] (18 R452). -/
def writeSeg (k : Nat) (v : W64) (s : State) : State :=
  let e : TraySeg := { valid := bit v 0, slice := wordAt v 8 7 }
  let used := s.spine.traySeg.any fun kv => kv.1 != k && kv.2.valid && kv.2.slice = e.slice
  if s.spine.trayEn || (e.valid && (!(s.slice e.slice).serving || s.par.nSlice ≤ e.slice || used)) then s
  else s.updSpine fun sp => { sp with traySeg := mput {} sp.traySeg k e }

/-- Writes to the SPN_ block; fields with access RWL only before the set-up lock. -/
def writeSpn (r : Reg) (v ones : W64) (s : State) : State :=
  let n := wordAt v
  match r with
  | .lock => if bit v 0 then s.updSpine fun sp => { sp with setup := true } else s
  | .mbCfg => s.updSpine fun sp => { sp with mbWindow := n 0 8 }
  | .moveCfg => if n 0 2 = 3 then s else s.updSpine fun sp => { sp with scanCode := bits v 0 2 }
  | .temperCfg => s.updSpine fun sp => { sp with temper := {
      window := clampTo 1 100 (n 0 7), ratio := clampTo 9 32 (n 8 6), occmin := n 16 8, consec := clampTo 2 64 (n 24 7)
      floor := clampTo 0 64 (n 32 7), recheck := clampTo 1 64 (n 40 7), shedEn := bit v 48 } }
  | .admitCfg => s.updSpine fun sp => { sp with admitWait := clampTo 1 1000 (n 0 10) }
  | .trayCfg => s.updSpine fun sp => { sp with
      trayEn := bit v 0, trayBase := if sp.setup then sp.trayBase else bits v 26 26 }
  | .errOut => s.updSpine fun sp => { sp with errOut := { sp.errOut with
      hold := bit v 0, autohold := bit v 1, pulse := max 100 (n 16 16) } }
  | .nmi => s.updSpine fun sp => { sp with nmiLost := (bits (BitVec.ofNat 8 sp.nmiLost &&& ~~~ bits ones 0 8) 0 8).toNat }
  | .wayCfg => s.updSpine fun sp => { sp with wayLimit := n 0 8, wayWindow := clampTo 1 65535 (n 8 16) }
  | .sqCfg => s.updHall fun h => { h with sqCfg := bits v 0 6 }
  | .sqStatus => s.updHall fun h => { h with sqDropped := (BitVec.ofNat 8 h.sqDropped &&& ~~~ bits ones 16 8).toNat }
  | .mrt i =>
    let e : MrtEntry := { valid := bit v 0, cntlog := n 1 3, first := n 4 4, base := bits v 8 22, limit := bits v 30 22 }
    if s.spine.setup then s else s.updSpine fun sp => { sp with mrt := mput {} sp.mrt i e }
  | .seg k => writeSeg k v s
  | .srcCfg c => writeSrc c v s
  | _ => s

/-- Writes to the Assay registers of a part. -/
def writeAssay (r : Reg) (v ones : W64) (s : State) : State :=
  match r with
  | .status p => writeStatus p ones s
  | .first p false =>
    if bit ones 0 then s.updAssay p fun a => { a with first := { a.first with valid := false, ovf := false } } else s
  | .inj p =>
    if injectable p (wordAt v 0 8) then s.updAssay p fun a => { a with
      inj := { source := bits v 0 8, count := bits v 8 8, mode := bit v 16 } }
    else s
  | _ => s

/-- Writes to the other registers of the aperture. -/
def writeInst (r : Reg) (v : W64) (s : State) : State :=
  let n := wordAt v
  match r with
  | .stealCfg k => s.updSlice k fun sl => { sl with stealCfg := {
      idle := clampTo 64 4096 (n 0 13), minq := clampTo 2 64 (n 16 7), drain := clampTo 1 100 (n 32 7)
      holdoff := clampTo 0 1000 (n 48 10) } }
  | .ctl sh => s.updShim sh fun x => { x with autoRetire := bit v 0 }
  | .pfCtl sh => s.updShim sh fun x => { x with
      pfEn := bit v 0, pfMinConf := clampTo 1 3 (n 4 2), pfDepth := clampTo 0 8 (n 8 4)
      streams := if bit v 0 then x.streams else [] }
  | _ => s

/-- The bits of a register that are RWT fields (00 R4; 14 R370). -/
def Reg.rwt : Reg → W64
  | .fnView => packWord [(0, 3), (16, 0xFFF)]
  | .fnRights => 0x1FF
  | .tmCfg => 0xFFFF
  | .rgDefault => packWord [(0, 1), (16, 0xFFFF)]
  | .hmSec => packWord [(0, 0x1F), (12, 2 ^ 40 - 1)]
  | .secDest => 0xFFFF
  | .colourMask _ => 0xFFFFFFFF
  | .tidColour _ => BitVec.allOnes 64
  | .rg _ hi => if hi then packWord [(0, 2 ^ 48 - 1)] else packWord [(0, 0x1F), (8, 0xF), (16, 2 ^ 48 - 1)]
  | .tidForce _ => packWord [(0, 1), (16, 0xFFF)]
  | .srcCfg c => if srcSec c then 0x7F else 0
  | _ => 0

/-- The register takes a write of `v` to the bits of `mask`, at a BAR0 offset of function f. A write to an RWT field is
ignored and raises rwt-write (15 source 0x66). -/
def writeReg (f off : Nat) (r : Reg) (v mask : W64) (s : State) : State :=
  if r.rwt &&& mask ≠ 0 then
    raiseSpine spineNode 0x66 { syn := BitVec.ofNat 16 f, node := fnNode f, addr := BitVec.ofNat 52 off } s
  else
    let nv := (s.regWord f r &&& ~~~ mask) ||| (v &&& mask)
    let ones := v &&& mask
    match r with
    | .fnId | .fnView | .fnRights | .indSel | .ringBase _ | .ringCfg _ | .ringIdx _ | .ringStatus | .ringCtl | .fnVec
    | .assayCfg | .hmCfg | .wtt _ | .msixAddr _ _ | .msixData _ | .msixCtl _ | .pba => writeFn f r nv ones s
    | .status _ | .first _ _ | .inj _ => writeAssay r nv ones s
    | .slcMode _ | .stealCfg _ | .temper _ | .energy _ | .calStatus _ | .rcpAct _ _ | .rcpShd _ _ | .hlcFlags _ _
    | .bkt _ _ | .rev _ | .ctl _ | .pfCtl _ | .tidForce _ | .drainLo _ | .drainHi _ | .bmap _ _ => writeInst r nv s
    | _ => writeSpn r nv ones s

/-! ### Rights (11 R280, R281) -/

/-- The function's rights allow the access. SPN_SQ_DATA is read only where REGVIEW is 0b10 (16 R419). -/
def State.mayAccess (s : State) (f off : Nat) (write : Bool) : Bool :=
  let sq := (s.regAt f off).any fun x => x.1 = .sqData
  spaceOf off = .own || (if write || sq then (s.fn f).writes else (s.fn f).sees)

/-- The record of a refused access. -/
def regDenied (f off : Nat) (write : Bool) (s : State) : State :=
  s.feed spineFeed { hrec 0x201 2 (fnNode f) (p48 (f + 65536 * nb write)) (p48 off) 0 with fDest := some f }

/-- The one record of an access of `size` bytes that the function's rights refuse; reserved offsets are not recorded. -/
def noteDenied (f off size : Nat) (write : Bool) (s : State) : State :=
  if !s.mayAccess f off write && ((s.regAt f off).isSome || (size = 8 && (s.regAt f (off + 4)).isSome)) then
    regDenied f off write s
  else s

/-- The register that an access reaches: none when it is reserved, refused or of an instance that is not there. Any access
to a register discards the halves kept for another (18 R445). -/
def reach (f off : Nat) (write : Bool) (s : State) : Option (Reg × Bool) × State :=
  match s.regAt f off with
  | none => (none, s)
  | some (r, hi) =>
    let base := if hi then off - 4 else off
    let s := keepHalf f (some base) s
    if !s.mayAccess f off write || (spaceOf off = .aperture && !s.instanceOk f) then (none, s)
    else (some (r, hi), s)

/-! ### Reading -/

/-- The head word of the Snapshot Queue removed (16 R418, R419). -/
def sqPop (h : Hallmark) : Hallmark :=
  match h.sq with
  | [] => h
  | w :: l =>
    if h.sqLeft = 0 then { h with sq := l, sqLeft := (bits w 0 16).toNat }
    else { h with sq := l, sqLeft := h.sqLeft - 1, sqPackets := if h.sqLeft = 1 then h.sqPackets - 1 else h.sqPackets }

/-- What a whole read of a register also does. -/
def readWhole (r : Reg) (s : State) : State := if r = .sqData then s.updHall sqPop else s

/-- What the read of the upper half that completes a latched read does: VALID 0 of SPN_SQ_DATA removes nothing (16 R419). -/
def readLatched (r : Reg) (hi : BitVec 32) (s : State) : State := if bit hi 0 then readWhole r s else s

/-- A 4-byte read. -/
def read4 (f off : Nat) (s : State) : W64 × State :=
  match reach f off false s with
  | (none, s) => (0, s)
  | (some (r, hi), s) =>
    let x := readReg f r s
    let lo := (bits x.1 0 32).setWidth 64
    let up := (bits x.1 32 32).setWidth 64
    let h := (s.fn f).half
    if !r.wide then (lo, x.2)
    else if !hi then (lo, setHalf f { h with off, latch := some (bits x.1 32 32) } x.2)
    else match h.latch with
      | some v => (v.setWidth 64, readLatched r v (setHalf f { h with latch := none } x.2))
      | none => (up, x.2)

/-- A read of 4 or 8 bytes; 8 bytes of a 64-bit register are read at once. -/
def readBar0 (f off size : Nat) (s : State) : W64 × State :=
  let s := noteDenied f off size false s
  if size = 4 then read4 f off s
  else match s.regAt f off with
    | some (r, false) =>
      if r.wide then
        match reach f off false s with
        | (none, s) => (0, s)
        | (some _, s) =>
          let x := readReg f r s
          (x.1, readWhole r x.2)
      else
        let a := read4 f off s
        let b := read4 f (off + 4) a.2
        (a.1 ||| (b.1 <<< 32), b.2)
    | _ =>
      let a := read4 f off s
      let b := read4 f (off + 4) a.2
      (a.1 ||| (b.1 <<< 32), b.2)

/-- The completion of a register read, behind the window operations before it (11 R288). -/
def replyRead (f : Nat) (ca : Bool) (v : W64) (s : State) : State :=
  winGo f (s.updFn f fun x => { x with win := x.win ++ ([{ num := x.winCount, write := false, ops := [], reg := some (ca, v) }] : List WinReq) })

/-- A legal size and alignment (11 R279). -/
def aligned (off size : Nat) : Bool := (size = 4 || size = 8) && off % size = 0

/-- Bytes of BAR0 and BAR2 (11 Table 11-3); registers have no other BAR. -/
def barBytes (bar : Nat) : Nat := if bar = 0 then 0x10000 else if bar = 2 then 0x1000 else 0

/-- A Completer Abort reported under Advanced Error Reporting (11 R279). -/
def completerAbort (f : Nat) (s : State) : State := (setAer f aerAbort s).emit (.aerCompleterAbort f)

/-- The ring of the doorbell at an offset of BAR2 (12 Table 12-2). -/
def bellAt (off : Nat) : Option RingId :=
  match off with
  | 0x000 => some .cmd
  | 0x008 => some .cpl
  | 0x010 => some .evt
  | _ => none

/-- REGISTER_READ: a read of BAR0, or of BAR2, whose doorbells are write-only and whose other offsets are reserved (12 R300). -/
def registerRead (f bar off size : Nat) (s : State) : State :=
  if !(s.fn f).bars then unsupported f s
  else if barBytes bar ≤ off || !(s.fn f).room false 0 then s
  else if !aligned off size then replyRead f true 0 (completerAbort f s)
  else if bar = 2 then replyRead f false 0 (if (bellAt off).isSome then keepHalf f none s else s)
  else
    let x := readBar0 f off size s
    replyRead f false x.1 x.2

/-! ### Writing -/

/-- A 4-byte write: the lower half of a 64-bit register waits for its upper half. -/
def write4 (f off : Nat) (v : BitVec 32) (s : State) : State :=
  match reach f off true s with
  | (none, s) => s
  | (some (r, hi), s) =>
    let h := (s.fn f).half
    if !r.wide then writeReg f off r (v.setWidth 64) 0xFFFFFFFF s
    else if !hi then setHalf f { h with off, stage := some v } s
    else match h.stage with
      | some lo => writeReg f (off - 4) r (v ++ lo) (BitVec.allOnes 64) (setHalf f { h with stage := none } s)
      | none => writeReg f (off - 4) r (v ++ (0 : BitVec 32)) (0xFFFFFFFF00000000#64) s

/-- A write of 4 or 8 bytes. -/
def writeBar0 (f off size : Nat) (v : W64) (s : State) : State :=
  let s := noteDenied f off size true s
  let two (s : State) : State := write4 f (off + 4) (bits v 32 32) (write4 f off (bits v 0 32) s)
  if size = 4 then write4 f off (bits v 0 32) s
  else match s.regAt f off with
    | some (r, false) =>
      if r.wide then
        match reach f off true s with
        | (none, s) => s
        | (some _, s) => writeReg f off r v (BitVec.allOnes 64) s
      else two s
    | _ => two s

/-- REGISTER_WRITE: a write of BAR0 or BAR2. A doorbell takes the 4 bytes at its offset. -/
def registerWrite (f bar off size : Nat) (v : W64) (s : State) : State :=
  if !(s.fn f).bars then unsupported f s
  else if barBytes bar ≤ off || !(s.fn f).room true size then s
  else if !aligned off size then completerAbort f s
  else if bar = 2 then
    match bellAt off with
    | some i => doorbell f i (bits v 0 32) s
    | none => s
  else writeBar0 f off size v s

/-- A write that is a row of its own when the offset is that of its register. -/
def writeRow (f off size : Nat) (v : W64) (p : Reg → Bool) (s : State) : State :=
  match s.regAt f off with
  | some (r, _) => if p r then registerWrite f 0 off size v s else s
  | none => s

/-- SQ_DATA_READ. -/
def sqDataRead (f off size : Nat) (s : State) : State :=
  match s.regAt f off with
  | some (.sqData, _) => registerRead f 0 off size s
  | _ => s

def setupLockSet (f off size : Nat) (v : W64) (s : State) : State :=
  if bit v 0 then writeRow f off size v (fun r => r = .lock) s else s

def traySegWrite (f off size : Nat) (v : W64) (s : State) : State :=
  writeRow f off size v (fun r => match r with | .seg _ => true | _ => false) s

def firstErrorClear (f off size : Nat) (v : W64) (s : State) : State :=
  writeRow f off size v (fun r => match r with | .first _ _ => true | _ => false) s

def assayStatusClear (f off size : Nat) (v : W64) (s : State) : State :=
  writeRow f off size v (fun r => match r with | .status _ => true | _ => false) s

def faultInjectArm (f off size : Nat) (v : W64) (s : State) : State :=
  writeRow f off size v (fun r => match r with | .inj _ => true | _ => false) s

def errOutWrite (f off size : Nat) (v : W64) (s : State) : State := writeRow f off size v (fun r => r = .errOut) s

/-- CMD_RESUME, CPL_RESUME, EVT_RESUME: FN_RING_CTL written with the ring's bit at 1. -/
def ringResume (f off size : Nat) (v : W64) (i : RingId) (s : State) : State :=
  if bit v i.num then writeRow f off size v (fun r => r = .ringCtl) s else s

/-- RING_ENABLE and RING_DISABLE: a ring's CFG register written with EN at 1, or at 0. -/
def ringEn (f off size : Nat) (v : W64) (on : Bool) (s : State) : State :=
  if bit v 8 == on then writeRow f off size v (fun r => match r with | .ringCfg _ => true | _ => false) s else s

def execRegisterWrite (fn off size : Nat) (v : W64) (s : State) (bar : Nat := 0) (ts : W64 := 0) : Res :=
  atFn fn s (fun s => registerWrite fn bar off size v (tellTime ts s))
def execRegisterRead (fn off size : Nat) (s : State) (bar : Nat := 0) : Res := atFn fn s (registerRead fn bar off size)
def execSqDataRead (fn off size : Nat) (s : State) : Res := atFn fn s (sqDataRead fn off size)
def execSetupLockSet (fn off size : Nat) (v : W64) (s : State) : Res := atFn fn s (setupLockSet fn off size v)
def execTraySegWrite (fn off size : Nat) (v : W64) (s : State) : Res := atFn fn s (traySegWrite fn off size v)
def execFirstErrorClear (fn off size : Nat) (v : W64) (s : State) : Res := atFn fn s (firstErrorClear fn off size v)
def execAssayStatusClear (fn off size : Nat) (v : W64) (s : State) : Res := atFn fn s (assayStatusClear fn off size v)
def execFaultInjectArm (fn off size : Nat) (v : W64) (s : State) : Res := atFn fn s (faultInjectArm fn off size v)
def execErrOutWrite (fn off size : Nat) (v : W64) (s : State) : Res := atFn fn s (errOutWrite fn off size v)
def execCmdResume (fn off size : Nat) (v : W64) (s : State) : Res := atFn fn s (ringResume fn off size v .cmd)
def execCplResume (fn off size : Nat) (v : W64) (s : State) : Res := atFn fn s (ringResume fn off size v .cpl)
def execEvtResume (fn off size : Nat) (v : W64) (s : State) : Res := atFn fn s (ringResume fn off size v .evt)
def execRingEnable (fn off size : Nat) (v : W64) (s : State) (ts : W64 := 0) : Res :=
  atFn fn s (fun s => ringEn fn off size v true (tellTime ts s))
def execRingDisable (fn off size : Nat) (v : W64) (s : State) : Res := atFn fn s (ringEn fn off size v false)

end Sys2Proof.Machine
end

