-- ==== Sys2Proof/Machine/Window.lean ====
section
/-! DEFINITION. BAR4: decoding requests through the Window Translation Table (11 R283, R284, R286), and the answers to
window line operations (R285). -/

namespace Sys2Proof.Machine

/-- Bytes of BAR4 (11 Table 11-1). -/
def Params.bar4Bytes (p : Params) : Nat := if p.bar4Size = 0 then 0 else 2 ^ (20 + p.bar4Size)

/-- FN_WTT[k]. -/
def Fn.slot (x : Fn) (k : Nat) : Wtt := mget {} x.wtt k

/-- The pieces of a request, one for each line: first BAR4 offset and bytes. -/
def pieces (x len : Nat) : Nat → List (Nat × Nat)
  | 0 => []
  | fuel + 1 =>
    if len = 0 then []
    else
      let l := min len (64 - x % 64)
      (x, l) :: pieces (x + l) (len - l) fuel

/-- Offset x is translated (R284): no piece straddles the end of a slot's length, which is a multiple of 4 KiB. -/
def Fn.hits (x : Fn) (write : Bool) (off : Nat) : Bool :=
  let e := x.slot (off / 2 ^ 21)
  e.valid && (if write then e.wr else e.rd) && off % 2 ^ 21 < (e.len.toNat + 1) * 4096

/-- PA of a translated offset. -/
def Fn.winAddr (x : Fn) (off : Nat) : PA :=
  BitVec.ofNat 52 ((x.slot (off / 2 ^ 21)).tbase.toNat * 4096 + off % 2 ^ 21)

/-- The operation of a piece that hits: a read of its bytes, or a write of those enabled. -/
def Fn.winOp (x : Fn) (write : Bool) (first : Nat) (data : List Byte) (enables : List Bool) (ep : Bool) (p : Nat × Nat) :
    WinOp :=
  let a := x.winAddr p.1
  let o := p.1 % 64
  let i := p.1 - first
  if write then
    let on := (List.range p.2).filter fun k => (enables[i + k]?).getD true
    { line := lineOf a, write := true, poison := ep, bar := p.1
      mask := on.foldl (fun m k => setBit m (o + k) true) 0
      data := BitVec.ofNat 512 (on.foldl (fun v k => v + ((data[i + k]?).getD 0).toNat * 2 ^ (8 * (o + k))) 0) }
  else { line := lineOf a, write := false, off := o, len := p.2, bar := p.1 }

/-- BAR4_REQUEST. A request inside one slot hits as a whole; one that crosses slots is decoded piece by piece. A read of more
than 4 KiB, or a write of more than Max_Payload_Size, is a malformed TLP and dropped (PRESUMED, log 81). A miss is recorded once for
each slot that misses, with the offset of the request's first byte there. DESIGN CHOICE (log 111). -/
def bar4Request (fn : Nat) (write : Bool) (off len : Nat) (data : List Byte) (enables : List Bool) (ep : Bool) (s : State) :
    State :=
  let x := s.fn fn
  if !x.bars then unsupported fn s
  else if Params.bar4Bytes s.par < off + len then s
  else if (if write then 512 else 4096) < len then setAer fn aerMalformed s
  else if !x.room write len then s
  else
    let l := pieces off len (len + 1)
    let slots := (l.map fun p => p.1 / 2 ^ 21).foldl addNew []
    let whole := slots.length ≤ 1
    let all := l.all fun p => x.hits write p.1
    let hit (p : Nat × Nat) : Bool := if whole then all else x.hits write p.1
    let s := if write && ep then setAer fn aerPoisoned s else s
    let s := eachOf slots (tableCheck tblWtt) s
    let s := eachOf slots (fun k s =>
      match l.find? fun p => p.1 / 2 ^ 21 = k && !hit p with
      | some p => windowMiss fn p.1 s
      | none => s) s
    let ops := l.filterMap fun p =>
      if hit p then
        let o := x.winOp write off data enables ep p
        if write && o.mask = 0 then none else some o
      else if write then none
      else some { line := 0, write := false, len := p.2, miss := true }
    winGo fn (s.updFn fn fun x => { x with
      win := x.win ++ ([{ num := x.winCount, write, ops, units := if write then (len + 15) / 16 else 0 }] : List WinReq), winCount := x.winCount + 1 })

/-- SPINE_REQUESTER_ANSWER. The spine has no source for a faulty header, which it discards. -/
def spineRequesterAnswer (fn : Nat) (f : Flits) (s : State) : State :=
  if flitDst f != fnNode fn then s
  else match decode f false false with
    | .ok rx => requesterAnswer fn rx.m (s.takeMesh rx.m)
    | .error _ => s

def execBar4Request (fn : Nat) (write : Bool) (offset len : Nat) (data : List Byte) (enables : List Bool) (ep : Bool)
    (s : State) : Res := atFn fn s (bar4Request fn write offset len data enables ep)
def execSpineRequesterAnswer (fn : Nat) (f : Flits) (s : State) : Res := atFn fn s (spineRequesterAnswer fn f)

end Sys2Proof.Machine
end

