-- ==== Sys2Proof/Machine/Hall.lean ====
section
/-! DEFINITION. The Hallmark recorder (16): the last-gasp flush (R413 to R415), what starts it, collecting (R405) and the event
rings (R408). -/

namespace Sys2Proof.Machine

/-! ### Flush (R413 to R415) -/

/-- A last-gasp write: untranslated, and dropped when the Range Guard denies it. -/
def gaspWrite (off : Nat) (b : List Byte) (s : State) : State :=
  let f := s.hall.lgFunc
  let a := s.hall.lgBase.toNat * 4096 + off
  if s.ringOk (BitVec.ofNat 52 a) f then s.emit (.hostWrite f (BitVec.ofNat 64 a) b)
  else hostDenied f (BitVec.ofNat 52 a) true s

/-- A flush begins, if the settings and the function allow one: byte 0 of the header, VALID, written as 0. -/
def startFlush (reason : Nat) (ts : W64) (s : State) : State :=
  if !s.hall.lgEn || !(s.fn s.hall.lgFunc).up then s
  else
    let s := s.updHall fun h => { h with
      flushNo := h.flushNo + 1, pwrFlush := false, flush := some { reason, recs := h.buf, start := h.at ts } }
    gaspWrite 0 [0] s

/-- A fatal trigger (R414); during a flush it is only counted (R415). -/
def fatalTrigger (ts : W64) (s : State) : State :=
  if s.hall.flush.isSome then s.updHall fun h => { h with flushNo := h.flushNo + 1 } else startFlush 1 ts s

/-- Hallmark takes the fatal triggers since it last looked: the detections of severity 3 and the chip reset requests of other
sources (R414). -/
def takeFatal (ts : W64) (s : State) : State :=
  if s.hall.fatalDue = 0 then s
  else eachOf (List.range s.hall.fatalDue) (fun _ => fatalTrigger ts) (s.updHall fun h => { h with fatalDue := 0 })

/-- SUMMARY_EDGE. During a dual-rail episode the spine acts on its reads in place of the wires (15 R394). A fatal detection starts
a flush here (R414). -/
def summaryEdge (part : Nat) (ts : W64) (s : State) : State :=
  if s.spine.episodes.contains part then s
  else
    let s := actLevels part s
    takeFatal ts s

/-- Bytes 1 to 31 of the header (Table 16-6). -/
def Flush.header (x : Flush) (no : BitVec 32) (tsEnd : W64) : BitVec 256 :=
  let firstSeq : BitVec 16 := match x.recs with | r :: _ => r.seq | [] => 0
  tsEnd ++ x.start ++ 0#48 ++ firstSeq ++ no ++ BitVec.ofNat 16 x.recs.length ++ BitVec.ofNat 8 x.reason ++ 0#8

/-- The rest of the header page as zeros (R413), the header after the last records, VALID last, and FLUSH_DONE. The steps of R414 do
not place the zeros (DEDUCED, log 102). -/
def endFlush (x : Flush) (ts : W64) (s : State) : State :=
  let h := x.header s.hall.flushNo (s.hall.at ts)
  let s := gaspWrite 0 [1] (gaspWrite 1 ((bytesOf h 32).drop 1) (gaspWrite 32 (List.replicate 4064 0) s))
  let s := s.updHall fun h => { h with flush := none }
  s.feed spineFeed (hrec 0x004 0 spineNode (p48 (x.reason + 65536 * s.hall.flushNo.toNat)) (p48 x.recs.length) 0)

/-- LAST_GASP_WRITE: the next 512 bytes; a power-fail trigger abandons a fatal flush here. -/
def lastGaspWrite (ts : W64) (s : State) : State :=
  match s.hall.flush with
  | none => s
  | some x =>
    if s.hall.pwrFlush then startFlush 2 ts (s.updHall fun h => { h with flush := none, pwrFlush := false })
    else if !(s.fn s.hall.lgFunc).up then s
    else
      let l := (x.recs.drop x.written).take 16
      let s := if l.isEmpty then s
        else gaspWrite (4096 + 32 * x.written) (l.flatMap fun r => bytesOf (r.word false) 32) s
      let x := { x with written := x.written + l.length }
      if x.recs.length ≤ x.written then endFlush x ts s else s.updHall fun h => { h with flush := some x }

/-- POWER_FAIL_WARNING: the one POWER_FAIL record enters, unless its code is turned off (R411), then the flush starts (R415). -/
def powerFailWarning (ts : W64) (s : State) : State :=
  if s.hall.pwrFail then s
  else
    let r := hrec 0x005 2 spineNode 0 0 0
    let s := if s.codeOff 0x005 then s else
      let s := makeRoom s
      enterNow { r with dest := s.destsOf r } ts s
    let s := s.updHall fun h => { h with pwrFail := true }
    if s.hall.flush.isSome then s.updHall fun h => { h with pwrFlush := true } else startFlush 2 ts s

/-! ### Collecting (R405) and event rings (R408, R320) -/

/-- The feed that the collector takes from next: of those that hold a record the first after the one it took from last, in the
order of the node IDs, round and round (R405; the order of the parts: DESIGN CHOICE, log 102). -/
def Hallmark.nextFeed (h : Hallmark) : Option Nat :=
  let l := (h.feeds.filter fun kv => !kv.2.isEmpty).map (·.1)
  (l.find? (h.feedTurn < ·)).orElse fun _ => l.head?

/-- HALLMARK_COLLECT: one record from a part's feed, when it is that feed's turn; then losses that can be reported are. After
hk_pwr_fail nothing more enters. -/
def hallmarkCollect (node : Nat) (ts : W64) (s : State) : State :=
  let s := takeFatal ts s
  if s.hall.pwrFail then s
  else
    let s := match mget [] s.hall.feeds node with
      | [] => s
      | r :: l =>
        if s.hall.nextFeed != some node then s
        else admitRec r ts (s.updHall fun h => { h with feeds := mput [] h.feeds node l, feedTurn := node })
    reportBuf ts (reportFeed node ts s)

/-- EVENT_RING_WRITE: the function's oldest pending record. A write that the Range Guard denies is dropped. Losses that the slot
lets it report are reported (R406). -/
def eventRingWrite (fn : Nat) (w : HostWrite) (ts : W64) (s : State) : State :=
  let x := s.fn fn
  let r := x.evt
  match s.hall.buf.find? fun o => bit o.pend fn with
  | none => s
  | some o =>
    if !r.en || r.stop || r.full || !x.up then s
    else
      let a := r.entryAddr r.pidx 32
      let h := hostFail fn a true (writeFailure w) s
      match h.1, h.2.hostAddr fn a true with
      | some e, _ => stopRing fn .evt (failCause e) a e.2 h.2
      | none, none => needPage fn a true h.2
      | none, some at' =>
        if w != .done then h.2 else
        let c := hostCheck fn at' true h.2
        let s := ringUse fn .evt a c.2
        let s := s.updHall fun h => { h with
          buf := h.buf.map fun q => if q.seq = o.seq && q.ts = o.ts then { q with pend := setBit q.pend fn false } else q }
        let s := updRing fn .evt (fun r => { r with pidx := r.next r.pidx }) s
        let s := if c.1 then s.emit (.hostWrite fn at' (bytesOf (o.word (r.phase r.pidx)) 32)) else s
        reportBuf ts (if r.count = 0 then sendMsix fn x.evtVec s else s)

def execSummaryEdge (part : Nat) (s : State) (ts : W64 := 0) : Res := atPart part false s (summaryEdge part ts)
def execHallmarkCollect (node : Nat) (ts : W64) (s : State) : Res := atPart node false s (hallmarkCollect node ts)
def execTokenRefill (code : Nat) (ts : W64) (s : State) : Res := .next (tokenRefill code ts s)
def execEventRingWrite (fn : Nat) (w : HostWrite) (s : State) (ts : W64 := 0) : Res := atFn fn s (eventRingWrite fn w ts)
def execPowerFailWarning (ts : W64) (s : State) : Res := .next (powerFailWarning ts s)
def execLastGaspWrite (ts : W64) (s : State) : Res := .next (lastGaspWrite ts s)

end Sys2Proof.Machine
end

