-- ==== Sys2Proof/Machine/Operands.lean ====
section
/-! DEFINITION. The operand forms of the ring commands (12 R304, R305, R309, Tables 12-5, 12-6, 12-8), their order (R314 to
R316) and their buffers. A reserved OPC is ended by the row NOP (log 38). -/

namespace Sys2Proof.Machine

/-! ### Form (R304, R309) -/

/-- First and last bytes of the operands of each command: none for a reserved OPC (Table 12-8). -/
def opBytes (opc : Nat) : Option (List (Nat × Nat)) :=
  match opc with
  | 0x00 => some []
  | 0x01 | 0x02 | 0x03 => some [(8, 23)]
  | 0x04 => some [(8, 24)]
  | 0x05 => some [(8, 16), (24, 31)]
  | 0x10 => some [(8, 11)]
  | 0x11 | 0x13 | 0x14 | 0x23 => some [(8, 8)]
  | 0x12 | 0x20 | 0x29 => some [(8, 9)]
  | 0x18 => some [(8, 9), (16, 25)]
  | 0x21 => some [(8, 15)]
  | 0x22 | 0x24 => some [(8, 13)]
  | 0x25 => some []
  | 0x28 => some [(8, 11)]
  | 0x30 | 0x31 => some [(8, 8), (16, 23)]
  | 0x38 => some [(8, 19), (24, 55)]
  | 0x39 => some [(8, 9), (24, 55)]
  | 0x3A => some [(8, 16)]
  | 0x3B => some [(8, 15)]
  | 0x3F => some [(8, 24)]
  | _ => none

/-- The OPC is listed, and every reserved or unused byte is 0; the buffer of LINE_RESTORE is unused in MODE 1. -/
def Taken.formOk (k : Taken) : Bool :=
  match opBytes k.opc.toNat with
  | none => false
  | some l =>
    bits k.desc 11 5 = 0 &&
    ((List.range 64).all fun i => i < 4 || (l.any fun r => r.1 ≤ i && i ≤ r.2) || k.byte i = 0) &&
    !(k.opc = 0x05 && k.byte 16 = 1 && k.num 24 8 != 0)

/-! ### Rights (R305, 14 R371) -/

/-- The bit of FN_RIGHTS that a command needs (Table 12-6). -/
def cmdRight (opc : Nat) : Option Nat :=
  match opc with
  | 0x01 | 0x02 | 0x03 | 0x04 => some 0
  | 0x05 => some 1
  | 0x28 | 0x29 => some 2
  | 0x23 => some 3
  | 0x10 | 0x11 | 0x12 | 0x13 | 0x14 => some 4
  | 0x18 => some 5
  | 0x20 | 0x21 | 0x22 | 0x24 => some 6
  | 0x30 | 0x31 => some 7
  | 0x3F => some 8
  | _ => none

def State.mayRun (s : State) (fn opc : Nat) : Bool :=
  if opc = 0x38 then fn = s.par.wardenA
  else if opc = 0x39 then fn = s.par.wardenB
  else match cmdRight opc with
    | some b => bit (s.fn fn).rights b
    | none => true

/-- The record of a command denied (16 Table 16-2 0x202). -/
def cmdDenied (fn : Nat) (k : Taken) (s : State) : State :=
  s.feed spineFeed { hrec 0x202 2 (fnNode fn) (p48 (fn + 256 * k.opc.toNat)) (p48 k.tag.toNat) 0 with fDest := some fn }

/-! ### Order (R314 to R316) -/

/-- The commands that run one at a time in the block (R315). -/
def isBlockCmd (opc : BitVec 8) : Bool :=
  opc = 0x18 || opc = 0x20 || opc = 0x21 || opc = 0x22 || opc = 0x24 || opc = 0x31

/-- A block command that the spine took before one has not completed (R315). -/
def State.blockBusy (s : State) (k : Taken) : Bool :=
  s.fnNums.any fun f => (s.fn f).taken.any fun y => isBlockCmd y.opc && y.seq < k.seq

/-- The commands of the ring taken before one. -/
def Fn.before (x : Fn) (k : Taken) : List Taken := x.taken.filter fun y => y.orphan == k.orphan && y.idx < k.idx

/-- A command may start: its FENCE and those before it, the block's one-at-a-time commands, and for range commands and
LINE_RESTORE the window operations decoded before its doorbell. -/
def State.canStart (s : State) (fn : Nat) (k : Taken) : Bool :=
  let l := (s.fn fn).before k
  !k.started && (!k.fence || l.isEmpty) && !(l.any (·.fence)) && !(isBlockCmd k.opc && s.blockBusy k) &&
  !(1 ≤ k.opc.toNat && k.opc.toNat ≤ 5 && !(s.fn fn).winPast k.winMark)

/-- A taken command of an OPC started: its form, its right, then its work. `go` answers none while it must wait (the order
of the checks: DEDUCED, log 38). -/
def startCmd (fn idx : Nat) (opc : Nat) (go : Taken → State → Option State) (s : State) : State :=
  match s.taken fn idx with
  | none => s
  | some k =>
    if k.opc.toNat != opc || !s.canStart fn k then s
    else if !k.formOk then completeCmd fn idx ccBADOP 0 s
    else if !s.mayRun fn opc then completeCmd fn idx ccDENIED 0 (cmdDenied fn k s)
    else
      let s' := s.updFn fn fun f => { f with
        taken := f.taken.map fun y => if y.idx = idx then { y with started := true } else y }
      (go k s').getD s

/-- A command refused. -/
def refuse (fn idx : Nat) (code : BitVec 8) (s : State) : Option State := some (completeCmd fn idx code 0 s)

/-- A command done at once. -/
def doneCmd (fn idx : Nat) (result : Nat) (s : State) : Option State := some (completeCmd fn idx ccOK result s)

/-! ### Buffers -/

/-- Exactly n bytes; bytes that the host did not return read as 0. -/
def takeBytes (l : List Byte) (n : Nat) : List Byte := (List.range n).map fun i => (l[i]?).getD 0

/-- The parts of a buffer of n bytes in the pages of 4 KiB that it touches: first byte and bytes of each. -/
def bufParts (addr : W64) (n : Nat) : List (Nat × Nat) :=
  let o := addr.toNat % 4096
  (List.range ((o + n + 4095) / 4096)).map fun i =>
    let lo := 4096 * i - o
    (lo, min n (4096 * (i + 1) - o) - lo)

/-- A command that waits for a translation, or for the upstream port, has not started yet. -/
def notStarted (fn idx : Nat) (s : State) : State :=
  s.updFn fn fun f => { f with taken := f.taken.map fun y => if y.idx = idx then { y with started := false } else y }

/-- The pages of a buffer that the ATC cannot translate are requested (10 R268): none is missing; or the command waits; or, where a
translation has failed, which `given` says of the first page that is missing, the command ends with its code (R271). -/
def bufReady (fn idx : Nat) (addr : W64) (n : Nat) (write : Bool) (given : Option (Bool × BitVec 4)) (s : State) :
    Option (Option State) :=
  let l := ((bufParts addr n).map fun p => BitVec.ofNat 64 (addr.toNat + p.1)).filter fun a => (s.hostAddr fn a write).isNone
  match (l.find? fun a => (hostFail fn a write none s).1.isSome).orElse (fun _ => l.head?) with
  | none => none
  | some a =>
    let h := hostFail fn a write given s
    match h.1 with
    | some e => some (refuse fn idx (failCode e) h.2)
    | none => some (some (notStarted fn idx (eachOf l (fun a => needPage fn a write) h.2)))

/-- One part of a buffer read: its bytes, zeros where the Range Guard denies it (14 R362; log 40). -/
def readPart (fn : Nat) (addr : W64) (b : List Byte) (r : List Byte × State) (p : Nat × Nat) : List Byte × State :=
  let a := BitVec.ofNat 64 (addr.toNat + p.1)
  match r.2.hostAddr fn a false with
  | none => r
  | some at' =>
    let c := hostCheck fn at' false r.2
    (r.1 ++ (if c.1 then takeBytes (b.drop p.1) p.2 else List.replicate p.2 0),
     (atcUse fn a c.2).emit (.hostRead fn at' p.2))

/-- What a buffer read of n bytes leads to (Table 12-9): the work on its bytes, the command's code, or a wait for a translation.
A function that may not use host memory waits (11 R293). -/
def readBuffer (fn idx : Nat) (addr : W64) (n : Nat) (r : HostRead) (go : List Byte → State → Option State) (s : State) :
    Option State :=
  if !(s.fn fn).up then none
  else match bufReady fn idx addr n false (readFailure r) s with
    | some x => x
    | none => match r with
      | .bytes l =>
        let x := (bufParts addr n).foldl (readPart fn addr l) ([], s)
        go x.1 x.2
      | .completionError _ => refuse fn idx ccREADFAIL s
      | .poisoned => refuse fn idx ccREADFAIL (setAer fn aerPoisoned s)
      | .timeout => refuse fn idx ccREADFAIL (setAer fn aerTimeout s)
      | .translationFault _ _ | .walkBusError _ _ => none

/-- One part of a buffer written, unless the Range Guard denies it. -/
def writePart (fn : Nat) (addr : W64) (b : List Byte) (p : Nat × Nat) (s : State) : State :=
  let a := BitVec.ofNat 64 (addr.toNat + p.1)
  match s.hostAddr fn a true with
  | none => s
  | some at' =>
    let c := hostCheck fn at' true s
    let s := atcUse fn a c.2
    if c.1 then s.emit (.hostWrite fn at' ((b.drop p.1).take p.2)) else s

/-- What a buffer write leads to: the bytes written and the work after it, the code of a failed translation, or a wait. -/
def writeBuffer (fn idx : Nat) (addr : W64) (b : List Byte) (w : HostWrite) (go : State → Option State) (s : State) :
    Option State :=
  if !(s.fn fn).up then none
  else match bufReady fn idx addr b.length true (writeFailure w) s with
    | some x => x
    | none => if w != .done then none else go (eachOf (bufParts addr b.length) (writePart fn addr b) s)

/-- Bytes lo to lo + len - 1 of a record as a number. -/
def numAt (l : List Byte) (lo len : Nat) : Nat := ofBytes ((l.drop lo).take len)

/-- Every byte of a record outside some ranges is 0. -/
def zeroElse (l : List Byte) (used : List (Nat × Nat)) : Bool :=
  (List.range l.length).all fun i => (used.any fun r => r.1 ≤ i && i ≤ r.2) || l.getD i 0 = 0

/-! ### Operands -/

/-- A slice that is built. -/
def State.built (s : State) (n : Nat) : Bool := n < s.par.nSlice

/-- An agent ID of 01 R13, whose shim is built. -/
def State.agentBuilt (s : State) (a : Nat) : Bool := isAgent a && s.hasShim a

/-- START and LENGTH of a range command (12 R309). -/
def Taken.rangeOk (k : Taken) : Bool :=
  let start := k.num 8 8
  let len := k.num 16 8
  start % 64 = 0 && start < 2 ^ 52 && len % 64 = 0 && 64 ≤ len && len ≤ 2 ^ 40 && start + len ≤ 2 ^ 52

/-- A page of a function's order that it does not own (12 R306, 16 Table 16-2 0x203: PA[47:12]). -/
def pageSkipped (fn : Nat) (opc : BitVec 8) (a : PA) (s : State) : State :=
  let owner := match s.rgFor a with | some kv => kv.2.owner | none => 0
  s.feed spineFeed (hrec 0x203 2 (fnNode fn) (p48 (fn + 256 * opc.toNat)) (p48 ((pageOf a).toNat % 2 ^ 36)) (p48 owner))

/-- NOP. A reserved OPC ends here, with BADOP. -/
def runNop (fn idx : Nat) (s : State) : State :=
  match s.taken fn idx with
  | none => s
  | some k =>
    if (opBytes k.opc.toNat).isNone then (if s.canStart fn k then completeCmd fn idx ccBADOP 0 s else s)
    else startCmd fn idx 0x00 (fun _ s => doneCmd fn idx 0 s) s

def execNop (fn idx : Nat) (s : State) : Res := atFn fn s (runNop fn idx)

end Sys2Proof.Machine
end

