-- ==== Sys2Proof/Machine/Admit.lean ====
section
/-! DEFINITION. Agents join and leave (09 R241, R243 to R252; 17 R430). -/

namespace Sys2Proof.Machine

/-! ### Joining -/

/-- The job of an admission, or of a retire, of an agent. -/
def State.admitJob (s : State) (sh : Nat) : Option Job := s.spine.jobs.find? fun j => decide (j.kind = .agentAdmit sh)

def State.retireJob (s : State) (sh : Nat) : Option Job :=
  s.spine.jobs.find? fun j => match j.kind with | .agentRetire a _ _ => a = sh | _ => false

/-- The master map as a shim holds it. -/
def State.mapCopy (s : State) : Map BMapEntry :=
  s.spine.master.foldl (fun m kv =>
    mput (bmapInit s.par kv.1) m kv.1 { slice := kv.2.slice, engine := kv.2.engine, gen := kv.2.gen }) []

/-- Step 2 of R243: map updates sent before the load are in what is loaded. -/
def loadMap (sh : Nat) (s : State) : State :=
  let s := tableChecks tblMaster 4096 { s with wires := s.wires.filter fun w => match w with | .mapUpdate k .. => k != sh | _ => true }
  s.updShim sh fun x => { x with bmap := s.mapCopy, mapLoaded := true, upds := [] }

/-- AGENT_ADMIT, steps 1 and 2: STATE unless the agent is out of reset (`agentRstN`) and so is its shim
(`shimRstN`, 17 R432). -/
def agentAdmit (agentRstN shimRstN : Bool) (fn idx : Nat) (k : Taken) (s : State) : Option State :=
  let sh := k.num 8 2
  let func := k.num 10 1
  let allow := k.num 11 1
  if !s.agentBuilt sh || s.par.nFunc ≤ func || 8 ≤ allow then refuse fn idx ccBADARG s
  else
    let x := s.shim sh
    if !s.spine.setup || x.st != .idle || (s.retireJob sh).isSome || !agentRstN || !shimRstN || x.resetPending then
      refuse fn idx ccSTATE s
    else
      let s := s.updShim sh fun x => { x with st := .admitting, neg := 0, func, allow := BitVec.ofNat 3 allow }
      some ((loadMap sh s).addJob (some (fn, idx)) (.agentAdmit sh)).1

/-- An admission failed (R244): the shim is idle, and no slice has changed. -/
def admitFails (sh : Nat) (code : BitVec 8) (s : State) : State :=
  let s := s.updShim sh fun x => { x with st := .idle, neg := 0, mapLoaded := false, upds := [] }
  let s := shimAcksAll sh s
  match s.admitJob sh with
  | some j => finishJob j.id code 0 s
  | none => s

/-- The lowest LCPMAX of the active banks of every slice that is not OFF or HOLD (13 R350). -/
def State.lcpLimit (s : State) : Nat :=
  (s.sliceNums.filter fun n => (s.slice n).conds.phase != .off && (s.slice n).conds.phase != .hold).foldl
    (fun r n => (List.range 4).foldl (fun r e => min r (s.actBank n e).lcp) r) 3

/-- The highest revision in both sets and within the limit; 0 when there is none. -/
def commonRev (cap allow : BitVec 3) (limit : Nat) : Nat :=
  let ok (r : Nat) : Bool := bit (cap &&& allow) (r - 1) && r ≤ limit
  if ok 3 then 3 else if ok 2 then 2 else if ok 1 then 1 else 0

/-- ADMIT_HANDSHAKE: steps 3 and 4, with agent_ready 1 and agent_lcp_cap as given. -/
def admitHandshake (sh : Nat) (cap : BitVec 3) (s : State) : State :=
  let x := s.shim sh
  if x.st != .admitting || !x.mapLoaded || x.neg != 0 then s
  else
    let s := s.updShim sh fun x => { x with cap }
    let r := commonRev cap x.allow s.lcpLimit
    if r = 0 then admitFails sh ccNOREV s
    else
      let s := s.updShim sh fun x => { x with neg := r }
      if isCaching sh then s.updSlices fun _ sl => { sl with adm := mins sl.adm sh r } else s

/-- ADMIT_OPEN: step 5. Map updates that went out since step 2 asked for no acknowledgment of this shim, so its map is brought
up to date once more before its agent is admitted (08 R229). -/
def admitOpen (sh : Nat) (s : State) : State :=
  let x := s.shim sh
  if x.st != .admitting || x.neg = 0 then s
  else
    let s := (loadMap sh s).updShim sh fun x => { x with st := .admitted, admittedPin := true }
    let s := s.emit (.admitted sh true x.neg)
    match s.admitJob sh with
    | some j => finishJob j.id ccOK (x.cap.toNat + 256 * x.neg) s
    | none => s

/-- ADMIT_WAIT_TIMEOUT (R244): agent_ready is still 0. -/
def admitWaitTimeout (sh : Nat) (s : State) : State :=
  let x := s.shim sh
  if x.st = .admitting && x.mapLoaded && x.neg = 0 then admitFails sh ccTIMEOUT s else s

/-! ### Leaving -/

/-- The record of a retire without a command (R252, 16 Table 16-2 0x305). -/
def retireRec (sh flags placed : Nat) (s : State) : State :=
  s.feed spineFeed { hrec 0x305 1 spineNode (p48 (sh + flags)) (p48 placed) 0 with pAgent := some sh }

/-- Step 1 of R246. An admission that the retire cancels ends (R250). -/
def startRetire (sh : Nat) (cmd : Option (Nat × Nat)) (s : State) : State :=
  let s := match s.admitJob sh with
    | some j => finishJob j.id ccSTATE 0 s
    | none => s
  let s := ackUpds sh (s.updShim sh fun x => { x.fence with retireDue := false })
  let s := if isCaching sh then s.updSlices fun _ sl => { sl with adm := mdel sl.adm sh } else s
  let s := (s.addJob cmd (.agentRetire sh 0 cmd.isNone)).1
  if cmd.isNone then retireRec sh 0 0 s else s

/-- AGENT_RETIRE. -/
def agentRetire (fn idx : Nat) (k : Taken) (s : State) : Option State :=
  let sh := k.num 8 2
  if !s.agentBuilt sh then refuse fn idx ccBADARG s
  else if (s.shim sh).st = .idle || (s.retireJob sh).isSome then refuse fn idx ccSTATE s
  else some (startRetire sh (some (fn, idx)) s)

/-- AUTO_RETIRE_START (R252). -/
def autoRetireStart (sh : Nat) (s : State) : State :=
  let x := s.shim sh
  if x.retireDue && x.st = .fenced && (s.retireJob sh).isNone then startRetire sh none s else s

/-- RETIRE_SILENCE: steps 2 and 3, and the start of step 4; no slice pauses its array access (17 R423). -/
def retireSilence (sh : Nat) (s : State) : State :=
  if (s.retireJob sh).isNone || (s.shim sh).silenced || s.sliceNums.any s.paused then s
  else
    let s := s.updShim sh fun x => { x with silenced := true, rspQ := [], datQ := [], snpIn := [], rspIn := [], datIn := [] }
    let s := eachOf s.sliceNums (goneSlice sh) (relayGone sh s)
    if isCaching sh then
      eachOf (s.sliceNums.filter fun n => (s.slice n).serving && !(s.heldBuckets n).isEmpty) (fun n => startScrub n sh) s
    else s

/-- Slice n has nothing left of a retired agent's scrub (R248). -/
def State.scrubbed (s : State) (sh n : Nat) : Bool :=
  let sl := s.slice n
  !sl.serving || sl.mode = .broadcast ||
  ((s.heldBuckets n).isEmpty || !sl.scans.any fun sc => sc.kind = .scrub && sc.agent = sh && sc.pos < sc.stop) &&
  !(sl.trk.any fun kv => kv.2.kind = .scrubLine sh && kv.2.stage != .ended) &&
  !(sl.arr.fine.any fun kv => s.fineLive n (kv.1 % 16) && (scrubEntry sh (decFine kv.2)).1 != decFine kv.2)

/-- Step 5 of R246 at the shim: every item of Table 09-1 but the strapped identity and the settings firmware wrote (R237). For a
retire that a shim reset waits for, fault status and first-error record stay (15 R383, 17 R432; DEDUCED, log 78). -/
def Shim.close (x : Shim) : Shim :=
  { x with
    assay := if x.resetPending then x.assay else { inj := x.assay.inj }
    st := .idle, neg := 0, mapLoaded := false, admittedPin := false, silenced := false, cut := false, retireDue := false
    reqQ := [], wbkQ := [], rspQ := [], datQ := [], snpIn := [], rspIn := [], datIn := [], outst := [], drainVec := 0, drains := []
    bmap := [], upds := [], stashes := [], lostAns := [], streams := [], streamLru := List.range 16 }

/-- RETIRE_SCRUB_END: step 5. -/
def retireScrubEnd (sh : Nat) (s : State) : State :=
  match s.retireJob sh with
  | some ({ id := id, kind := .agentRetire _ placed auto, .. } : Job) =>
    if !(s.shim sh).silenced || (isCaching sh && !s.sliceNums.all (s.scrubbed sh)) then s
    else
      let s := if isCaching sh then s.updSlices fun _ sl => { sl with
          scans := sl.scans.filter fun sc => !(sc.kind = .scrub && sc.agent = sh) } else s
      let s := if (s.shim sh).admittedPin then s.emit (.admitted sh false 0) else s
      let s := shimAcksAll sh (fallLevels (s.updShim sh Shim.close))
      let s := if auto then retireRec sh 4096 placed s else s
      finishJob id ccOK placed s
  | _ => s

def execAgentAdmit (fn idx : Nat) (agentRstN : Bool) (s : State) (shimRstN : Bool := true) : Res :=
  atFn fn s (startCmd fn idx 0x28 (agentAdmit agentRstN shimRstN fn idx))
def execAdmitHandshake (sh : Nat) (cap : BitVec 3) (s : State) : Res := atShim sh s (admitHandshake sh cap)
def execAdmitOpen (sh : Nat) (s : State) : Res := atShim sh s (admitOpen sh)
def execAdmitWaitTimeout (sh : Nat) (s : State) : Res := atShim sh s (admitWaitTimeout sh)
def execAgentRetire (fn idx : Nat) (s : State) : Res := atFn fn s (startCmd fn idx 0x29 (agentRetire fn idx))
def execAutoRetireStart (sh : Nat) (s : State) : Res := atShim sh s (autoRetireStart sh)
def execRetireSilence (sh : Nat) (s : State) : Res := atShim sh s (retireSilence sh)
def execRetireScrubEnd (sh : Nat) (s : State) : Res := atShim sh s (retireScrubEnd sh)

end Sys2Proof.Machine
end

