-- ==== Sys2Proof/Machine/Range.lean ====
section
/-! DEFINITION. Range commands, CENSUS_RANGE and LINE_RESTORE (12 R306, R311 to R313, Table 12-10), and the orders that the
slices take from the spine. -/

namespace Sys2Proof.Machine

/-! ### Range commands -/

/-- FLUSH_RANGE, CLEAN_RANGE, INVAL_RANGE: the range is split into line orders. -/
def rangeCmd (r : RangeKind) (fn idx : Nat) (k : Taken) (s : State) : Option State :=
  if !k.rangeOk then refuse fn idx ccBADARG s
  else some (s.addJob (some (fn, idx)) (.range r (k.num 8 8) (k.num 8 8 + k.num 16 8) 0 0 false [])).1

/-- Slice n serves bucket b. -/
def State.serves (s : State) (n b : Nat) : Bool := (s.slice n).serving && (s.bkt n b).kind = .owned

/-- Where a new own tracker of a line stands (12 R311: by age, like any request). -/
def State.ownStage (s : State) (n : Nat) (a : PA) : Stage :=
  if (s.slice n).lineFree a (sliceNode n).toNat (s.slice n).allocSeq then .ready else .chain

/-- The colour of a function's own line work: that of its window TID. DESIGN CHOICE (log 41). -/
def State.cmdColour (s : State) (cmd : Option (Nat × Nat)) : BitVec 4 :=
  match cmd with
  | some c => s.tidColour (s.fn c.1).wtid
  | none => 0

/-- Own tracker t allocated at slice n for a line of a job. -/
def orderLine (n t : Nat) (kind : TKind) (a : PA) (cmd : Option (Nat × Nat)) (s : State) : Option State :=
  if !s.serves n (bucketOf a) then none
  else (allocOwn n t kind a (s.ownStage n a) s).map fun s => s.updTrk n t fun k => { k with colour := s.cmdColour cmd }

/-- The lines of an order's page that its function does not own (12 R306). -/
def State.notOwned (s : State) (cmd : Option (Nat × Nat)) (a : PA) : Bool :=
  match cmd with
  | some c => !s.ownerOk a c.1
  | none => false

/-- The OPC of a started command. -/
def State.opcOf (s : State) (cmd : Option (Nat × Nat)) : BitVec 8 :=
  match cmd with
  | some c => match s.taken c.1 c.2 with | some k => k.opc | none => 0
  | none => 0

/-- SPINE_CONTROL_ORDER: slice n takes the next line order of a range job on its own tracker t. Orders sent again come first;
a page that the function does not own is skipped with a record. -/
def spineControlOrder (n t job : Nat) (s : State) : State :=
  match s.job job with
  | some ({ cmd := cmd, kind := .range r next stop out count part redo, .. } : Job) =>
    let skip (a : PA) (s : State) : State := match cmd with
      | some c => pageSkipped c.1 (s.opcOf cmd) a s
      | none => s
    match redo with
    | a :: l =>
      if s.notOwned cmd a then rangeLine job (fun _ => .range r next stop out count part l) (skip a s)
      else match orderLine n t (.range r job) a cmd s with
      | some s => s.updJob job fun _ => .range r next stop (out + 1) count part l
      | none => s
    | [] =>
      let a : PA := BitVec.ofNat 52 next
      if stop ≤ next then s
      else if s.notOwned cmd a then
        rangeLine job (fun _ => .range r (min stop ((next / 4096 + 1) * 4096)) stop out count part []) (skip a s)
      else match orderLine n t (.range r job) a cmd s with
        | some s => s.updJob job fun _ => .range r (next + 64) stop (out + 1) count part []
        | none => s
  | _ => s

/-! ### CENSUS_RANGE (R312) -/

/-- The first bytes of the aligned pieces of a range, of 2^k bytes each. -/
def piecesOf (k lo hi : Nat) : List PA :=
  (List.range ((hi + 2 ^ k - 1) / 2 ^ k - lo / 2 ^ k)).map fun i => BitVec.ofNat 52 ((lo / 2 ^ k + i) * 2 ^ k)

/-- The census records of a command at the slices that hold its buckets. -/
def placeCensus (c : Census) (b : Nat) (s : State) : State :=
  let n := (s.master b).slice
  let s := s.updSlice n fun sl => { sl with census := sl.census ++ ([{ c with bucket := b }] : List Census) }
  if (s.slice n).serving then s.setConds n fun c => { c with lCensus := true } else s

/-- CENSUS_RANGE: each bucket that an owned page of the range touches. -/
def censusRange (fn idx : Nat) (k : Taken) (s : State) : Option State :=
  let lo := k.num 8 8
  let hi := lo + k.num 16 8
  let colour := k.num 24 1
  if !k.rangeOk || 16 ≤ colour then refuse fn idx ccBADARG s
  else if s.spine.jobs.any fun j => match j.kind with | .censusRange _ _ _ => true | _ => false then
    refuse fn idx ccBUSY s
  else
    let s := eachOf ((piecesOf 12 lo hi).filter fun a => !s.ownerOk a fn) (pageSkipped fn k.opc) s
    let bs := (((piecesOf 9 lo hi).filter fun a => s.ownerOk a fn).map bucketOf).foldl addNew []
    if bs.isEmpty then doneCmd fn idx 0 s
    else
      let r := s.addJob (some (fn, idx)) (.censusRange bs 0 false)
      let c : Census := { bucket := 0, colour := BitVec.ofNat 4 colour, job := some r.2, lo, hi, owner := fn, own := false }
      some (eachOf bs (placeCensus c) r.1)

/-! ### LINE_RESTORE (R313) -/

/-- The line order of a LINE_RESTORE, with its 64 bytes. -/
def restoreOrder (t fn idx : Nat) (a : PA) (l : List Byte) (s : State) : Option State :=
  let j := s.addJob (some (fn, idx)) .restore
  let n := (s.master (bucketOf a)).slice
  (orderLine n t (.restore j.2) a (some (fn, idx)) j.1).map fun s =>
    s.updTrk n t fun k => { k with buf := some (BitVec.ofNat 512 (ofBytes l), false) }

/-- LINE_RESTORE: its line order, once the buffer is read, on own tracker t of the line's slice. A page that the function does
not own is skipped (R306). -/
def lineRestore (t : Nat) (r : HostRead) (fn idx : Nat) (k : Taken) (s : State) : Option State :=
  let line := k.num 8 8
  let mode := k.num 16 1
  let buf := k.num 24 8
  if line % 64 != 0 || 2 ^ 52 ≤ line || 2 ≤ mode || buf % 64 != 0 then refuse fn idx ccBADARG s
  else
    let a : PA := BitVec.ofNat 52 line
    if !s.ownerOk a fn then doneCmd fn idx 0 (pageSkipped fn k.opc a s)
    else
      if mode = 1 then restoreOrder t fn idx a (List.replicate 64 0) s
      else readBuffer fn idx (BitVec.ofNat 64 buf) 64 r (restoreOrder t fn idx a) s

def execFlushRange (fn idx : Nat) (s : State) : Res := atFn fn s (startCmd fn idx 0x01 (rangeCmd .flush fn idx))
def execCleanRange (fn idx : Nat) (s : State) : Res := atFn fn s (startCmd fn idx 0x02 (rangeCmd .clean fn idx))
def execInvalRange (fn idx : Nat) (s : State) : Res := atFn fn s (startCmd fn idx 0x03 (rangeCmd .inval fn idx))
def execCensusRange (fn idx : Nat) (s : State) : Res := atFn fn s (startCmd fn idx 0x04 (censusRange fn idx))
def execLineRestore (fn idx t : Nat) (r : HostRead) (s : State) : Res :=
  atFn fn s (startCmd fn idx 0x05 (lineRestore t r fn idx))
def execSpineControlOrder (n t job : Nat) (s : State) : Res := atSlice n s (spineControlOrder n t job)

end Sys2Proof.Machine
end

