-- ==== Sys2Proof/Machine/Service.lean ====
section
/-! DEFINITION. The slice commands (08 R218, R221; 13 R329 to R333, Table 13-3), RECIPE_LOAD (13 R348) and TRAY_CONFIGURE (07
R207, R208; 14 R358). -/

namespace Sys2Proof.Machine

/-! ### BUCKET_MOVE -/

/-- A local steal by command (08 R218). -/
def moveLocal (n b engine fn idx : Nat) (s : State) : Option State :=
  let sl := s.slice n
  if !sl.serving then refuse fn idx ccSTATE s
  else if sl.steal.isSome || sl.holdoffs.contains b || (s.bkt n b).kind = .frozen then refuse fn idx ccBUSY s
  else
    let j := s.addJob (some (fn, idx)) (.steal n b)
    some (startSteal n b engine (.command j.2) j.1)

/-- Slice n has a suspect-set record. -/
def Slice.suspects (sl : Slice) : Bool := !(sl.susFine.isEmpty && sl.susLoaf.isEmpty)

/-- The code of the first condition of 08 R221 that a move of bucket b from n to target fails. The source still owns a bucket that
another move or copy has frozen (Table 08-2): BUSY. -/
def State.moveRefused (s : State) (n b target : Nat) : Option (BitVec 8) :=
  let m := (s.slice target).mode
  let owns := (s.slice n).serving && ((s.bkt n b).kind = .owned || (s.bkt n b).kind = .frozen)
  if !(owns && target != n && (m = .track || m = .proof)) then some ccSTATE
  else if (s.slice n).suspects then some ccSTATE
  else if s.stubbed b || s.inMove n || s.inMove target || s.inCopy n || s.inCopy target || (s.bkt target b).purge ||
      s.censusOf b || 64 ≤ (s.stubs n).length + 1 then some ccBUSY
  else none

/-- BUCKET_MOVE. -/
def bucketMove (fn idx : Nat) (k : Taken) (s : State) : Option State :=
  let b := k.num 8 2
  let target := k.num 10 1
  let engine := k.num 11 1
  if 4096 ≤ b || !s.built target || 4 ≤ engine then refuse fn idx ccBADARG s
  else
    let n := (s.master b).slice
    if target = n then moveLocal n b engine fn idx s
    else match s.moveRefused n b target with
      | some c => refuse fn idx c s
      | none =>
        let j := s.addJob (some (fn, idx)) (.move n b target ((s.bkt n b).gen + 1) false)
        some (startMove n [{ b, target, engine }] false j.2 j.1)

/-! ### Whole slices -/

/-- An evacuation of slice n is in progress. -/
def State.evacuating (s : State) (n : Nat) : Bool :=
  s.spine.jobs.any fun j => match j.kind with | .evacuate m _ _ _ => m = n | _ => false

/-- SLICE_EVACUATE (13 R330, R331). -/
def sliceEvacuate (fn idx : Nat) (k : Taken) (s : State) : Option State :=
  let n := k.num 8 1
  if !s.built n then refuse fn idx ccBADARG s
  else match s.evacRefused n with
    | some c => refuse fn idx c s
    | none => some (startEvac n (some (fn, idx)) false s)

/-- SLICE_COPY (13 R333); step 1 of R334 begins. Nothing refuses it at 64 active slices (DEDUCED, log 74). -/
def sliceCopy (fn idx : Nat) (k : Taken) (s : State) : Option State :=
  let src := k.num 8 1
  let tgt := k.num 9 1
  if !s.built src || !s.built tgt then refuse fn idx ccBADARG s
  else
    let m := (s.slice src).mode
    if !(m = .track || m = .proof || m = .limp) || (s.slice tgt).conds.phase != .retain then refuse fn idx ccSTATE s
    else if s.inMove src || s.inCopy src || s.inMove tgt || s.inCopy tgt || s.evacuating src then refuse fn idx ccBUSY s
    else
      let j := s.addJob (some (fn, idx)) (.copy src tgt 0 0 false)
      some (enterSeed tgt (.copyTarget j.2) j.1)

/-- Slices in service, and those that SLICE_ADMIT or SLICE_COPY is seeding for it (01 R12). -/
def State.activeCount (s : State) : Nat :=
  (s.sliceNums.filter fun n =>
    (s.slice n).serving || ((s.slice n).conds.phase == .seed &&
      match (s.slice n).conds.seedNext with | .track | .copyTarget _ => true | _ => false)).length

/-- SLICE_ADMIT (13 R329). -/
def sliceAdmit (fn idx : Nat) (k : Taken) (s : State) : Option State :=
  let n := k.num 8 1
  if !s.built n then refuse fn idx ccBADARG s
  else if (s.slice n).conds.phase != .retain || 64 ≤ s.activeCount ||
      (List.range 4).any (fun e => (s.actBank n e).lcp < s.topRev) then refuse fn idx ccSTATE s
  else some (enterSeed n .track (s.addJob (some (fn, idx)) (.admitSlice n)).1)

/-- SLICE_RESET (Table 13-3): in RETAIN, or in HOLD once its salvage has ended. Stubs that shims have not acknowledged keep
it BUSY (DEDUCED, log 42). -/
def sliceReset (fn idx : Nat) (k : Taken) (s : State) : Option State :=
  let n := k.num 8 1
  let c := (s.slice n).conds
  if !s.built n then refuse fn idx ccBADARG s
  else if !(c.phase = .retain || (c.phase = .hold && !c.hSalv && (s.heldBuckets n).isEmpty)) || !bit s.spine.pwr n then
    refuse fn idx ccSTATE s
  else if !(s.stubs n).isEmpty then refuse fn idx ccBUSY s
  else
    let s := if c.phase = .hold then holdOver n s else s
    let s := s.updSpine fun sp => { sp with salvageQ := sp.salvageQ.filter (· != n) }
    some (resetSlice n .resetRetain (s.addJob (some (fn, idx)) (.resetSlice n)).1)

/-! ### RECIPE_LOAD -/

/-- The image passes the checks of R348; LCP_MAX outside 1 to 3 fails too (DEDUCED, log 38). -/
def imageOk (l : List Byte) : Bool :=
  16 ≤ l.length && numAt l 4 1 = 1 && numAt l 8 2 = l.length && numAt l 7 1 = 0 && numAt l 10 2 = 0 &&
  numAt l 6 1 < 8 && 1 ≤ numAt l 5 1 && numAt l 5 1 ≤ 3 &&
  (crc32 (l.take 12 ++ [0, 0, 0, 0] ++ l.drop 16)).toNat = numAt l 12 4

def bankOf (l : List Byte) : Bank :=
  if imageOk l then
    { id := BitVec.ofNat 32 (numAt l 0 4), lcp := numAt l 5 1, feat := BitVec.ofNat 4 (numAt l 6 1), valid := true, image := l }
  else {}

/-- RECIPE_LOAD. A slice that is OFF has no bank to write (DEDUCED, log 42). -/
def recipeLoad (r : HostRead) (fn idx : Nat) (k : Taken) (s : State) : Option State :=
  let n := k.num 8 1
  let e := k.num 9 1
  let len := k.num 24 2
  if !s.built n || !(e < 4 || e = 0xF) || len = 0 || 1536 < len then refuse fn idx ccBADARG s
  else
    let es := if e = 0xF then List.range 4 else [e]
    let active := match (s.slice n).recipe with
      | some { current := some x, .. } => es.contains x
      | _ => false
    if active || (s.slice n).conds.phase = .off then refuse fn idx ccSTATE s
    else readBuffer fn idx (bits k.desc 128 64) len r (fun l s =>
      let s := eachOf es (fun e s => s.setShdBank n e (bankOf l)) s
      if imageOk l then doneCmd fn idx 0 s else refuse fn idx ccBADARG s) s

/-! ### TRAY_CONFIGURE -/

/-- Every colour keeps a usable FINE and HLC way (14 R358). -/
def State.trayUsable (s : State) (ft ht : Nat) : Bool :=
  (List.range 16).all fun c =>
    let m := s.mask (BitVec.ofNat 4 c)
    ((List.range (16 - ft)).any fun w => bit m.fine w) && ((List.range (8 - ht)).any fun w => bit m.hlc w)

/-- The flushes of the valid segments before ways are returned (07 R208). -/
def flushSegments (s : State) : State × List Nat :=
  let size := s.spine.trayFt * 65536 + s.spine.trayHt * 16384
  let base := s.spine.trayBase.toNat * 2 ^ 26
  ((s.spine.traySeg.filter fun kv => kv.2.valid && size != 0).map (·.1)).foldl (fun r k =>
    let j := r.1.addJob none (.range .flush (base + k * 2 ^ 20) (base + k * 2 ^ 20 + size) 0 0 false [])
    (j.1, r.2 ++ [j.2])) (s, [])

/-- TRAY_CONFIGURE. -/
def trayConfigure (fn idx : Nat) (k : Taken) (s : State) : Option State :=
  let ft := k.num 8 1
  let ht := k.num 9 1
  if 8 < ft || 4 < ht then refuse fn idx ccBADARG s
  else if s.spine.trayEn || !s.trayUsable ft ht then refuse fn idx ccSTATE s
  else if ft = s.spine.trayFt && ht = s.spine.trayHt then doneCmd fn idx 0 s
  else
    let r := if ft < s.spine.trayFt || ht < s.spine.trayHt then flushSegments s else (s, [])
    let s := r.1
    let left := s.sliceNums.filter fun n => (s.slice n).conds.phase != .off
    let s := eachOf (s.sliceNums.filter fun n => (s.slice n).serving) (startTray ft ht) s
    let j := s.addJob (some (fn, idx)) (.tray ft ht left r.2)
    if left.isEmpty then
      some (finishJob j.2 ccOK 0 (j.1.updSpine fun sp => { sp with trayFt := ft, trayHt := ht }))
    else some j.1

def execBucketMove (fn idx : Nat) (s : State) : Res := atFn fn s (startCmd fn idx 0x10 (bucketMove fn idx))
def execSliceEvacuate (fn idx : Nat) (s : State) : Res := atFn fn s (startCmd fn idx 0x11 (sliceEvacuate fn idx))
def execSliceCopy (fn idx : Nat) (s : State) : Res := atFn fn s (startCmd fn idx 0x12 (sliceCopy fn idx))
def execSliceAdmit (fn idx : Nat) (s : State) : Res := atFn fn s (startCmd fn idx 0x13 (sliceAdmit fn idx))
def execSliceReset (fn idx : Nat) (s : State) : Res := atFn fn s (startCmd fn idx 0x14 (sliceReset fn idx))
def execRecipeLoad (fn idx : Nat) (r : HostRead) (s : State) : Res :=
  atFn fn s (startCmd fn idx 0x18 (recipeLoad r fn idx))
def execTrayConfigure (fn idx : Nat) (s : State) : Res := atFn fn s (startCmd fn idx 0x20 (trayConfigure fn idx))

end Sys2Proof.Machine
end

