-- ==== Sys2Proof/Machine/Settings.lean ====
section
/-! DEFINITION. Block settings by command (06 R184; 04 R129; 16 R411), MODE_SET (06 R166), WINDOW_SYNC (11 R287), ATC_LOCK and
ATC_UNLOCK (10 R269), STATS_SNAPSHOT (12 R322). -/

namespace Sys2Proof.Machine

/-- ANVIL_CONFIG: with ENABLE 0 every Anvil line exits (06 Tables 06-6, 06-7); that writes arrays, and waits for the end of a pause (17
R423). -/
def anvilConfig (fn idx : Nat) (k : Taken) (s : State) : Option State :=
  let en := k.num 8 1
  let threshold := k.num 9 1
  let window := k.num 10 2
  let idle := k.num 12 2
  let cooldown := k.num 14 2
  if 1 < en || threshold < 2 || window < 1 || 1000 < window || idle < 10 || 10000 < idle || 10000 < cooldown then
    refuse fn idx ccBADARG s
  else if en = 0 && s.sliceNums.any s.paused then none
  else
    let s := s.updSpine fun sp => { sp with anvil := { enable := en = 1, threshold, window, idle, cooldown } }
    let s := if en = 1 then s else eachOf s.sliceNums (fun n s => eachOf (s.anvilLines n) (anvilExit n) s) s
    doneCmd fn idx 0 s

/-- TIMEOUT_SET (04 Table 04-10): 0 leaves a timer unchanged. -/
def timeoutSet (fn idx : Nat) (k : Taken) (s : State) : Option State :=
  let a := k.num 8 2
  let b := k.num 10 2
  let c := k.num 12 2
  if 1000 < a || 1000 < b || 10000 < c || (c != 0 && c < 10) then refuse fn idx ccBADARG s
  else
    let set (old new : Nat) : Nat := if new = 0 then old else new
    doneCmd fn idx 0 (s.updSpine fun sp => { sp with
      toSnoop := set sp.toSnoop a, toSeal := set sp.toSeal b, toMem := set sp.toMem c })

/-- Trackers that granted early to an agent of a function's partition, or that were allocated in LOCAL mode and still may
(06 R163, R166). -/
def State.earlyOf (s : State) (fn : Nat) : List (Nat × Nat) :=
  s.sliceNums.flatMap fun n =>
    ((s.slice n).trk.filter fun kv =>
      let k := kv.2
      k.stage != .ended && (s.shim k.src.toNat).func = fn &&
      (k.early || (k.lcl && k.ans.isNone && k.stage != .denied && (k.kind = .msg .rdOwn || k.kind = .msg .upgrade)))).map
      fun kv => (n, kv.1)

/-- MODE_SET (06 R166). -/
def modeSet (fn idx : Nat) (k : Taken) (s : State) : Option State :=
  let m := k.num 8 1
  if 1 < m then refuse fn idx ccBADARG s
  else
    let s := s.updFn fn fun x => { x with local_ := m = 1 }
    let l := if m = 1 then [] else s.earlyOf fn
    if l.isEmpty then doneCmd fn idx 0 s else some (s.addJob (some (fn, idx)) (.modeSet l)).1

/-- The codes that HALLMARK_CONFIG changes. -/
def configCodes (code mode : Nat) : List Nat :=
  if mode = 0 then [code]
  else (List.range 4096).filter fun c => c / 256 = code / 256 && hmListed c && !hmSec c

/-- HALLMARK_CONFIG (16 R411). -/
def hallmarkConfig (fn idx : Nat) (k : Taken) (s : State) : Option State :=
  let code := k.num 8 2
  let burst := k.num 10 1
  let mode := k.num 11 1
  let period := k.num 12 2
  if !hmListed code || 1 < mode || (mode = 0 && hmSec code) || period = 0 then refuse fn idx ccBADARG s
  else
    let l := configCodes code mode
    let s := eachOf l (fun c s => s.updHall fun h =>
      let b := h.bucket c
      h.setBucket c { b with burst, period, tokens := min b.tokens burst }) s
    let r := hrec 0x007 0 spineNode (p48 (l.headD code + 65536 * mode)) (p48 (burst + 65536 * period)) 0
    doneCmd fn idx 0 (s.feed spineFeed r)

/-- WINDOW_SYNC (11 R287). -/
def windowSync (fn idx : Nat) (_ : Taken) (s : State) : Option State :=
  some (syncDone fn (s.addJob (some (fn, idx)) (.windowSync (s.fn fn).winCount)).1)

/-! ### ATC -/

/-- ATC_LOCK: a function without ATS has nothing to lock (log 33). -/
def atcLock (r : Translation) (fn idx : Nat) (k : Taken) (s : State) : Option State :=
  let addr := bits k.desc 64 64
  let need := k.num 16 1
  let others := s.spine.atc.filter fun e => e.lock && !e.covers fn addr
  if 4 ≤ need || !(s.fn fn).ats then refuse fn idx ccBADARG s
  else if 8 ≤ others.length then refuse fn idx ccLOCKFULL s
  else if !(s.fn fn).up then none
  else match translate fn addr (need % 2 = 1) (2 ≤ need) false true r s with
    | (some e, s) => refuse fn idx (failCode e) s
    | (none, s) => doneCmd fn idx (match s.atcFind fn addr with | some e => e.tpage.toNat | none => 0) s

/-- ATC_UNLOCK. -/
def atcUnlock (fn idx : Nat) (k : Taken) (s : State) : Option State :=
  let addr := bits k.desc 64 64
  if s.spine.atc.any fun e => e.lock && e.covers fn addr then
    doneCmd fn idx 0 (s.updSpine fun sp => { sp with
      atc := sp.atc.map fun e => if e.covers fn addr then { e with lock := false } else e })
  else refuse fn idx ccSTATE s

/-! ### STATS_SNAPSHOT -/

/-- One slice's record (Table 12-13). -/
def State.statsRec (s : State) (n : Nat) (ts : W64) : List Byte :=
  let sl := s.slice n
  let l := sl.ledger
  let q (i : Nat) : List Byte := bytesOf (BitVec.ofNat 16 (sl.temper.qDepth.getD i 0)) 2
  let num (v k : Nat) : List Byte := bytesOf (BitVec.ofNat 64 v) k
  let z (k : Nat) : List Byte := List.replicate k 0
  [1, BitVec.ofNat 8 n, sl.mode.code.setWidth 8] ++ z 5 ++ bytesOf ts 8 ++ bytesOf l.nAtom 8 ++ bytesOf l.nData 8 ++
  bytesOf l.nNodata 8 ++ bytesOf l.nLookup 8 ++ bytesOf l.nScan 8 ++ bytesOf l.pfFill 8 ++ bytesOf l.pfUsed 8 ++
  bytesOf l.pfEvict 8 ++ q 0 ++ q 1 ++ q 2 ++ q 3 ++ num sl.temper.occ 2 ++ z 2 ++ num sl.temper.lat 4 ++
  num (s.heldBuckets n).length 2 ++ num (s.stubs n).length 2 ++ z 4 ++ bytesOf l.energy 8 ++ z 16

/-- The instant at which the i-th slice of a snapshot captures its record: the slices do so one after another (DESIGN CHOICE, log
118). -/
def snapTime (ts : W64) : Nat → W64
  | 0 => ts
  | i + 1 => snapTime ts i + BitVec.ofNat 64 (1 + (Config.snapshotGap ts i).toNat)

/-- STATS_SNAPSHOT (R322): the records of the slices in the mask, in ascending order, each with an instant of its own. -/
def statsSnapshot (w : HostWrite) (ts : W64) (fn idx : Nat) (k : Taken) (s : State) : Option State :=
  let addr := k.num 8 8
  let mask : BitVec 72 := bits k.desc 128 72
  let l := (List.range 72).filter fun n => bit mask n
  if addr % 128 != 0 || l.isEmpty || l.any (fun n => !s.built n) then refuse fn idx ccBADARG s
  else
    writeBuffer fn idx (BitVec.ofNat 64 addr) ((List.range l.length).flatMap fun i => s.statsRec (l.getD i 0) (snapTime ts i)) w (doneCmd fn idx l.length) s

def execAnvilConfig (fn idx : Nat) (s : State) : Res := atFn fn s (startCmd fn idx 0x21 (anvilConfig fn idx))
def execTimeoutSet (fn idx : Nat) (s : State) : Res := atFn fn s (startCmd fn idx 0x22 (timeoutSet fn idx))
def execModeSet (fn idx : Nat) (s : State) : Res := atFn fn s (startCmd fn idx 0x23 (modeSet fn idx))
def execHallmarkConfig (fn idx : Nat) (s : State) : Res := atFn fn s (startCmd fn idx 0x24 (hallmarkConfig fn idx))
def execWindowSync (fn idx : Nat) (s : State) : Res := atFn fn s (startCmd fn idx 0x25 (windowSync fn idx))
def execAtcLock (fn idx : Nat) (r : Translation) (s : State) : Res := atFn fn s (startCmd fn idx 0x3A (atcLock r fn idx))
def execAtcUnlock (fn idx : Nat) (s : State) : Res := atFn fn s (startCmd fn idx 0x3B (atcUnlock fn idx))
def execStatsSnapshot (fn idx : Nat) (w : HostWrite) (ts : W64) (s : State) : Res :=
  atFn fn s (startCmd fn idx 0x3F (statsSnapshot w ts fn idx))

end Sys2Proof.Machine
end

