-- ==== Sys2Proof/Machine/Warden.lean ====
section
/-! DEFINITION. Two-party changes (14 R359, R370 to R375): the change record, TOUCHMARK, COUNTERMARK and its commit, the Warden
window. -/

namespace Sys2Proof.Machine

/-! ### The change record (Table 14-10) -/

/-- The items of a record's body; none when the lengths do not fit. -/
def splitItems (l : List Byte) : Nat → Option (List (List Byte))
  | 0 => if l.isEmpty then some [] else none
  | fuel + 1 =>
    if l.isEmpty then some []
    else
      let n := numAt l 2 2
      if n < 8 || n % 8 != 0 || l.length < n then none
      else (splitItems (l.drop n) fuel).map fun r => l.take n :: r

def tidColours (x : List Byte) : List (Nat × BitVec 4) :=
  (List.range (numAt x 6 2)).map fun i =>
    (numAt x 4 2 + i, bits (x.getD (8 + i / 2) 0) (4 * (i % 2)) 4)

/-- TID_COLOUR. -/
def tidItemOk (x : List Byte) : Bool :=
  let first := numAt x 4 2
  let count := numAt x 6 2
  1 ≤ count && first + count ≤ 4096 && x.length = (8 + (count + 1) / 2 + 7) / 8 * 8 &&
  zeroElse x [(0, 0), (2, 7), (8, 7 + (count + 1) / 2)] && (count % 2 = 0 || bits (x.getD (8 + count / 2) 0) 4 4 = 0)

/-- COLOUR_MASK. -/
def maskItemOk (x : List Byte) : Bool := x.length = 16 && numAt x 4 1 < 16 && zeroElse x [(0, 0), (2, 4), (8, 11)]

def maskOf (x : List Byte) : ColourMask :=
  { fine := BitVec.ofNat 16 (numAt x 8 2), loaf := BitVec.ofNat 8 (numAt x 10 1), hlc := BitVec.ofNat 8 (numAt x 11 1) }

/-- RANGE. -/
def rangeItemOk (x : List Byte) : Bool :=
  let base := numAt x 16 8
  let limit := numAt x 24 8
  x.length = 32 && numAt x 5 1 < 16 && numAt x 6 1 < 32 && base % 4096 = 0 && limit % 4096 = 4095 && limit < 2 ^ 52 &&
  base ≤ limit && zeroElse x [(0, 0), (2, 6), (8, 9), (16, 31)]

def rangeOf (x : List Byte) : RgEntry :=
  let f : BitVec 8 := x.getD 6 0
  { valid := bit f 0, tray := bit f 1, nostash := bit f 2, noanvil := bit f 3, nosoft := bit f 4, owner := numAt x 5 1
    colours := BitVec.ofNat 16 (numAt x 8 2), base := BitVec.ofNat 40 (numAt x 16 8 / 4096)
    limit := BitVec.ofNat 40 (numAt x 24 8 / 4096) }

/-- One item passes: its length, its fields, and the bytes that must be 0 (R373, R381, R412). -/
def State.itemOk (s : State) (x : List Byte) : Bool :=
  match numAt x 0 1 with
  | 0x01 => tidItemOk x
  | 0x02 => maskItemOk x
  | 0x03 => rangeItemOk x
  | 0x04 => x.length = 16 && numAt x 4 1 ≤ 1 && zeroElse x [(0, 0), (2, 4), (8, 9)]
  | 0x05 => x.length = 16 && numAt x 4 1 < s.par.nFunc && numAt x 5 1 < 4 && numAt x 6 2 < 4096 && numAt x 8 2 < 512 &&
      zeroElse x [(0, 0), (2, 9)]
  | 0x06 => x.length = 16 && numAt x 4 2 < 288 && numAt x 6 1 ≤ 1 && numAt x 8 2 < 4096 && zeroElse x [(0, 0), (2, 6), (8, 9)]
  | 0x07 =>
    let c := numAt x 4 1
    x.length = 8 && (srcSev c).isSome && numAt x 5 1 < 4 && (!srcFixed c || numAt x 5 1 = 3) && numAt x 6 1 < 32 &&
    zeroElse x [(0, 0), (2, 6)]
  | 0x08 => x.length = 24 && numAt x 4 1 < s.par.nFunc && numAt x 5 1 ≤ 1 && numAt x 6 2 < 2 ^ s.par.nFunc &&
      numAt x 16 8 % 4096 = 0 && numAt x 16 8 + 132 * 1024 ≤ 2 ^ 52 && zeroElse x [(0, 0), (2, 7), (16, 23)]
  | 0x09 => x.length = 136 && s.built (numAt x 4 1) && numAt x 5 1 < 16 &&
      zeroElse x ([(0, 0), (2, 5)] ++
        ((List.range 4).filter fun e => bit (x.getD 5 0) e).map fun e => (8 + 32 * e, 39 + 32 * e))
  | 0x0A => x.length = 8 && 10 ≤ numAt x 4 4 && numAt x 4 4 ≤ 60000 && zeroElse x [(0, 0), (2, 7)]
  | _ => false

/-- The masks that a record's items leave. -/
def masksAfter (items : List (List Byte)) (m : Map ColourMask) : Map ColourMask :=
  items.foldl (fun m x => if numAt x 0 1 = 2 then mput {} m (numAt x 4 1) (maskOf x) else m) m

/-- Every colour has a usable way in every mask (R358). -/
def State.masksUsable (s : State) (m : Map ColourMask) : Bool :=
  (List.range 16).all fun c =>
    let k := mget {} m c
    ((List.range (16 - s.spine.trayFt)).any fun w => bit k.fine w) && k.loaf != 0 &&
    ((List.range (8 - s.spine.trayHt)).any fun w => bit k.hlc w)

/-- The items of a record. -/
def recordItems (l : List Byte) : Option (List (List Byte)) := splitItems (l.drop 16) 2048

/-- A record passes the checks of R373, its digest aside. -/
def State.recordOk (s : State) (l : List Byte) : Bool :=
  match recordItems l with
  | none => false
  | some items =>
    numAt l 0 1 = 1 && zeroElse (l.take 16) [(0, 0), (2, 7)] && numAt l 2 2 = items.length && 1 ≤ items.length &&
    items.length ≤ 512 && numAt l 4 4 = (s.spine.prot.tmSeq + 1).toNat && items.all s.itemOk &&
    s.masksUsable (masksAfter items s.spine.prot.masks)

/-! ### TOUCHMARK (R373) -/

/-- The next proposal ID from `id` on that is not 0 and not pending. -/
def freePid (l : List Proposal) (id : Nat) : Nat → Nat
  | 0 => id
  | fuel + 1 =>
    let id := if id % 65536 = 0 then 1 else id % 65536
    if l.any fun p => p.pid = id then freePid l (id + 1) fuel else id

/-- TOUCHMARK with its record read. -/
def propose (fn idx : Nat) (digest : BitVec 256) (l : List Byte) (s : State) : Option State :=
  let p := s.spine.prot
  if 4 ≤ p.proposals.length then refuse fn idx ccBUSY s
  else if sha256 l != digest || !s.recordOk l then refuse fn idx ccBADARG s
  else
    let pid := freePid p.proposals p.nextPid 5
    let x : Proposal := { pid, fn, digest, seq := BitVec.ofNat 32 (numAt l 4 4), bytes := l }
    let s := s.updProt fun p => { p with proposals := p.proposals ++ [x], nextPid := pid + 1 }
    let s := s.feed spineFeed (hrec 0x204 0 spineNode (p48 (fn + 65536 * pid)) (bits digest 0 48)
      ((bits digest 48 16).setWidth 48))
    doneCmd fn idx pid s

/-- TOUCHMARK. -/
def touchmark (r : HostRead) (fn idx : Nat) (k : Taken) (s : State) : Option State :=
  let len := k.num 16 4
  let digest := bits k.desc 192 256
  if len < 16 || 16384 < len || len % 8 != 0 then refuse fn idx ccBADARG s
  else readBuffer fn idx (bits k.desc 64 64) len r (propose fn idx digest) s

/-- The window of a proposal has opened: its TOUCHMARK's entry is written (R374). -/
def State.windowOpen (s : State) (p : Proposal) : Bool :=
  !(s.fn p.fn).done.any fun d => d.opc = 0x38 && d.code = ccOK && d.result.toNat = p.pid

/-- WARDEN_WINDOW_LAPSE. -/
def wardenWindowLapse (pid : Nat) (s : State) : State :=
  match s.spine.prot.proposals.find? fun p => p.pid = pid with
  | some p => if s.windowOpen p then dropProposal pid 0 s else s
  | none => s

/-! ### Commit (R375) -/

/-- The engines and digests of a RECIPE_ACTIVATE item. -/
def recipeEngines (x : List Byte) : List (Nat × BitVec 256) :=
  ((List.range 4).filter fun e => bit (x.getD 5 0) e).map fun e => (e, BitVec.ofNat 256 (numAt x (8 + 32 * e) 32))

/-- The recipe activations that a record orders, which follow its COUNTERMARK (R375). -/
def recordActs (items : List (List Byte)) : List (Nat × List (Nat × BitVec 256)) :=
  (items.filter fun x => numAt x 0 1 = 9).map fun x => (numAt x 4 1, recipeEngines x)

/-- One item applied: RECIPE_ACTIVATE changes no table. -/
def applyItem (x : List Byte) (s : State) : State :=
  let num := numAt x
  match num 0 1 with
  | 0x01 => s.updProt fun p => { p with
      tidColour := (tidColours x).foldl (fun m e => mput 0 m e.1 e.2) p.tidColour }
  | 0x02 => s.updProt fun p => { p with masks := mput {} p.masks (num 4 1) (maskOf x) }
  | 0x03 => s.updProt fun p => { p with rg := mput {} p.rg (num 4 1) (rangeOf x) }
  | 0x04 => s.updProt fun p => { p with rgAllow := num 4 1 = 1, rgColours := BitVec.ofNat 16 (num 8 2) }
  | 0x05 => s.updFn (num 4 1) fun f => { f with
      regview := BitVec.ofNat 2 (num 5 1), wtid := BitVec.ofNat 12 (num 6 2), rights := BitVec.ofNat 9 (num 8 2) }
  | 0x06 =>
    if s.hasShim (num 4 2) then s.updShim (num 4 2) fun h => { h with
      tidForce := num 6 1 = 1, tidValue := BitVec.ofNat 12 (num 8 2) }
    else s
  | 0x07 =>
    let r : BitVec 8 := x.getD 6 0
    let c : SrcCfg := { sev := BitVec.ofNat 2 (num 5 1), intr := bit r 0, nmi := bit r 1, srst := bit r 2, crst := bit r 3,
                        exterr := bit r 4 }
    fallLevels (s.updSpine fun sp => { sp with srcCfg := mput (srcDefault (num 4 1)) sp.srcCfg (num 4 1) c })
  | 0x08 =>
    let s := s.updHall fun h => { h with
      lgFunc := num 4 1, lgEn := num 5 1 = 1, lgBase := BitVec.ofNat 40 (num 16 8 / 4096), secDest := BitVec.ofNat 16 (num 6 2) }
    s.feed spineFeed (hrec 0x208 0 spineNode (p48 (num 4 4)) 0 0)
  | 0x0A => s.updProt fun p => { p with tmWindow := num 4 4 }
  | _ => s

/-- HLC ways added to or removed from some colour's mask (R359). -/
def hlcChanged (old new : Map ColourMask) : BitVec 8 :=
  (List.range 16).foldl (fun v c => v ||| ((mget {} old c).hlc ^^^ (mget {} new c).hlc)) 0

/-- The recolour scan of slice n started, or begun again. -/
def startRecolour (hlcW : BitVec 8) (n : Nat) (s : State) : State :=
  let period := s.spine.scanCode
  s.updSlice n fun sl =>
    let old := match sl.scan .recolour with | some sc => sc.hlcW | none => 0
    { sl with scans := (sl.scans.filter fun sc => sc.kind != .recolour) ++
        ([{ kind := .recolour, stop := 12544, period, hlcW := hlcW ||| old }] : List Scan) }

/-- The commit of a proposal, its COUNTERMARK the command given. New masks may leave a colour only disabled ways (15 R397). -/
def commit (p : Proposal) (fn idx : Nat) (s : State) : State :=
  let old := s.spine.prot.masks
  let items := (recordItems p.bytes).getD []
  let s := eachOf items applyItem s
  let s := s.updProt fun q => { q with
    tmSeq := q.tmSeq + 1, proposals := q.proposals.filter fun x => x.pid != p.pid }
  let s := s.feed spineFeed (hrec 0x205 0 spineNode (p48 (65536 * p.pid)) (p48 s.spine.prot.tmSeq.toNat) 0)
  let new := s.spine.prot.masks
  let l := s.sliceNums.filter fun n => (s.slice n).serving
  let j := s.addJob (some (fn, idx)) (.countermark p.pid l (recordActs items))
  if old = new || l.isEmpty then countermarked j.2 p.pid (recordActs items) j.1
  else eachOf l (fun n s => startRecolour (hlcChanged old new) n (fallbacks n s)) j.1

/-- COUNTERMARK (R374). -/
def countermark (fn idx : Nat) (k : Taken) (s : State) : Option State :=
  let pid := k.num 8 2
  match s.spine.prot.proposals.find? fun p => p.pid = pid with
  | none => refuse fn idx ccEXPIRED s
  | some p =>
    if p.digest != bits k.desc 192 256 then refuse fn idx ccDIGEST (dropProposal pid 1 s)
    else if p.seq != s.spine.prot.tmSeq + 1 then refuse fn idx ccEXPIRED (dropProposal pid 2 s)
    else some (commit p fn idx s)

def execTouchmark (fn idx : Nat) (r : HostRead) (s : State) : Res := atFn fn s (startCmd fn idx 0x38 (touchmark r fn idx))
def execCountermark (fn idx : Nat) (s : State) : Res := atFn fn s (startCmd fn idx 0x39 (countermark fn idx))
def execWardenWindowLapse (pid : Nat) (s : State) : Res := .next (wardenWindowLapse pid s)

end Sys2Proof.Machine
end

