-- ==== Sys2Proof/Machine/Cal.lean ====
section
/-! DEFINITION. Calibration (13 R352, 17 R439 to R443) and changes of the HCLK point that meet it (R423 to R426); the timeout of
a function's non-posted requests (11 R276). -/

namespace Sys2Proof.Machine

/-! ### The calibration record (Table 17-9) -/

/-- A record without its CRC: bytes 0 to 3 and 8 to 127. -/
def calBody (c : CalSet) (n : Nat) : List Byte × List Byte :=
  let z (k : Nat) : List Byte := List.replicate k 0
  ([1, BitVec.ofNat 8 n, (b1 c.written).setWidth 8, 0],
   bytesOf c.trims 24 ++ bytesOf c.mofs 16 ++ bytesOf c.atom 2 ++ bytesOf c.data 2 ++ bytesOf c.nodata 2 ++
   bytesOf c.lookup 2 ++ bytesOf c.scan 2 ++ z 6 ++ bytesOf c.leak 4 ++ z 60)

def calRecord (c : CalSet) (n : Nat) : List Byte :=
  let b := calBody c n
  b.1 ++ bytesOf (crc32 (b.1 ++ [0, 0, 0, 0] ++ b.2)) 4 ++ b.2

/-- A record passes the checks of R442 for slice n. -/
def calOk (l : List Byte) (n : Nat) : Bool :=
  numAt l 0 1 = 1 && numAt l 1 1 = n && numAt l 2 1 < 2 &&
  (crc32 (l.take 4 ++ [0, 0, 0, 0] ++ l.drop 8)).toNat = numAt l 4 4 &&
  ((List.range 24).all fun i => numAt l (8 + i) 1 < 64) && ((List.range 8).all fun i => numAt l (32 + 2 * i) 2 < 4096) &&
  zeroElse l [(0, 2), (4, 57), (64, 67)]

def calOf (l : List Byte) : CalSet :=
  { trims := BitVec.ofNat 192 (numAt l 8 24), mofs := BitVec.ofNat 128 (numAt l 32 16), atom := BitVec.ofNat 16 (numAt l 48 2)
    data := BitVec.ofNat 16 (numAt l 50 2), nodata := BitVec.ofNat 16 (numAt l 52 2)
    lookup := BitVec.ofNat 16 (numAt l 54 2), scan := BitVec.ofNat 16 (numAt l 56 2), leak := BitVec.ofNat 32 (numAt l 64 4)
    written := true }

/-- CAL_READ (R441). -/
def calRead (w : HostWrite) (fn idx : Nat) (k : Taken) (s : State) : Option State :=
  let n := k.num 8 1
  let addr := bits k.desc 128 64
  if !s.built n || addr.toNat % 128 != 0 then refuse fn idx ccBADARG s
  else writeBuffer fn idx addr (calRecord (s.calSet n) n) w (doneCmd fn idx 0) s

/-- pm_dvfs_req is high. -/
def State.dvfsHigh (s : State) : Bool := s.spine.dvfsTaken || s.spine.dvfsIgnored || s.spine.dvfsHeld.isSome

/-- CAL_WRITE with its record read. -/
def calTake (fn idx n : Nat) (l : List Byte) (s : State) : Option State :=
  if !calOk l n then refuse fn idx ccBADARG s
  else if (s.slice n).conds.hSalv then refuse fn idx ccSTATE s
  else
    let s := s.updSpine fun sp => { sp with cal := mput (CalSet.fused n) sp.cal n (calOf l) }
    if (s.slice n).serving then
      some ((s.addJob (some (fn, idx)) (.calWrite n)).1.setConds n fun c => { c with pCal := true })
    else if (s.slice n).conds.phase = .off || !bit s.spine.pwr n then some (s.addJob (some (fn, idx)) (.calWrite n)).1
    else doneCmd fn idx 0 s

/-- CAL_WRITE (R442): it waits while a change of point is requested (R426). Values reach a powered slice that is not serving at
once, and one without power as it is powered, which completes the command. -/
def calWrite (r : HostRead) (fn idx : Nat) (k : Taken) (s : State) : Option State :=
  let n := k.num 8 1
  if !s.built n then refuse fn idx ccBADARG s
  else if s.dvfsHigh then none
  else readBuffer fn idx (bits k.desc 128 64) 128 r (calTake fn idx n) s

/-- A calibration apply is in progress. -/
def State.applying (s : State) : Bool := s.spine.jobs.any fun j => match j.kind with
  | .calWrite n => (s.slice n).conds.pCal
  | _ => false

/-- A change of point that waited for the apply is taken (R426). -/
def takeHeld (s : State) : State :=
  if s.spine.dvfsHeld.isSome && !s.applying then
    s.updSpine fun sp => { sp with dvfsHeld := none, dvfsTaken := true }
  else s

/-- CAL_APPLY_END: the pause of slice n ends (13 R352). -/
def calApplyEnd (n : Nat) (s : State) : State :=
  match s.spine.jobs.find? fun j => decide (j.kind = .calWrite n) with
  | none => s
  | some j =>
    if !(s.slice n).conds.pCal then s
    else
      let s := finishJob j.id ccOK 0 s
      let s := if s.spine.jobs.any fun j => decide (j.kind = .calWrite n) then s else s.setConds n fun c => { c with pCal := false }
      drainIn n (takeHeld s)

/-! ### Changes of the HCLK point -/

/-- DVFS_REQUEST: pm_dvfs_req rises with a point (R423, R425, R426). -/
def dvfsRequest (pt : Nat) (s : State) : State :=
  if s.dvfsHigh then s
  else if s.par.nDvfs ≤ pt then
    (raiseSpine spineNode 0x69 { syn := BitVec.ofNat 16 pt, node := spineNode } s).updSpine fun sp => { sp with dvfsIgnored := true }
  else if s.applying then s.updSpine fun sp => { sp with dvfsHeld := some pt }
  else s.updSpine fun sp => { sp with dvfsTaken := true }

/-- DVFS_READY: hk_dvfs_rdy rises. -/
def dvfsReady (s : State) : State :=
  if s.spine.dvfsTaken then s.updSpine fun sp => { sp with dvfsRdy := true } else s

/-- DVFS_RELEASE: pm_dvfs_req falls. The slices whose pause ends take what their input buffers hold (13 R352). -/
def dvfsRelease (s : State) : State :=
  eachOf s.sliceNums drainIn (s.updSpine fun sp => { sp with
    dvfsTaken := false, dvfsRdy := false, dvfsIgnored := false, dvfsHeld := none })

/-- hk_throttle_lvl shows the level once every slice applies it; a slice that is OFF starts no slot. -/
def throttleShown (s : State) : State :=
  if s.sliceNums.all fun n => (s.slice n).conds.phase = .off || (s.slice n).cap = (s.slice n).capNext then
    s.updSpine fun sp => { sp with throttleOut := sp.throttle }
  else s

/-- THROTTLE_CHANGE (R436): pm_throttle_lvl is three bits. A lower level raises the cap at once, a higher one lowers it from each
slice's next window. -/
def throttleChange (lvl : Nat) (s : State) : State :=
  let l := lvl % 8
  let t := (8 - l) * 8
  throttleShown ((s.updSlices fun _ sl => { sl with cap := max sl.cap t, capNext := t }).updSpine fun sp => { sp with throttle := l })

/-! ### NON_POSTED_TIMEOUT (11 R276) -/

/-- A command whose operand-buffer read, or whose Translation Request for an ATC_LOCK, timed out. -/
def bufferTimeout (fn idx : Nat) (s : State) : State :=
  let s := startCmd fn idx 0x05 (lineRestore 0 .timeout fn idx) s
  let s := startCmd fn idx 0x18 (recipeLoad .timeout fn idx) s
  let s := startCmd fn idx 0x31 (calWrite .timeout fn idx) s
  let s := startCmd fn idx 0x38 (touchmark .timeout fn idx) s
  startCmd fn idx 0x3A (atcLock .timeout fn idx) s

/-- NON_POSTED_TIMEOUT. A translation that times out is a walk bus error (10 R271). -/
def nonPostedTimeout (fn : Nat) (what : NonPosted) (s : State) : State :=
  let x := s.fn fn
  match what with
  | .descriptor => if x.canFetch then fetched fn .timeout s else s
  | .operandBuffer idx =>
    match s.taken fn idx with
    | some k => if k.opc = 0x05 && k.byte 16 = 1 then s else bufferTimeout fn idx s
    | none => s
  | .translation addr speculative =>
    let s := atsTranslationCompletion fn addr false speculative .timeout s
    atsTranslationCompletion fn addr true speculative .timeout s

def execCalRead (fn idx : Nat) (w : HostWrite) (s : State) : Res := atFn fn s (startCmd fn idx 0x30 (calRead w fn idx))
def execCalWrite (fn idx : Nat) (r : HostRead) (s : State) : Res := atFn fn s (startCmd fn idx 0x31 (calWrite r fn idx))
def execCalApplyEnd (n : Nat) (s : State) : Res := atSlice n s (calApplyEnd n)
def execDvfsRequest (pt : Nat) (s : State) : Res := .next (dvfsRequest pt s)
def execDvfsReady (s : State) : Res := .next (dvfsReady s)
def execDvfsRelease (s : State) : Res := .next (dvfsRelease s)
def execThrottleChange (lvl : Nat) (s : State) : Res := .next (throttleChange lvl s)
def execNonPostedTimeout (fn : Nat) (what : NonPosted) (s : State) : Res := atFn fn s (nonPostedTimeout fn what)

end Sys2Proof.Machine
end

