-- ==== Sys2Proof/Machine/Clocks.lean ====
section
/-! DEFINITION. Cold and chip reset (17 R427 to R430, Table 17-4; 13 Table 13-3; 16 R407), and what the block does at an HCLK
edge on which no command stands in its queue (log 5). -/

namespace Sys2Proof.Machine

/-! ### Resets -/

/-- A powered slice at the start of the reset sequence: in SEED, owning nothing until it enters TRACK (Table 13-3). -/
def seedSlice (n : Nat) (s : State) : State :=
  let x := s.slice n
  let conds : Conds := if bit s.spine.pwr n then { phase := .seed, seedNext := .coldReset } else { phase := .off }
  noBuckets n (s.setSlice n { (Slice.initial s.par n) with conds, cap := x.cap, capNext := x.capNext })

/-- What chip reset leaves of the spine: the calibration store, SPN_ERR_OUT, SPN_ASSAY_STATUS and SPN_ASSAY_FIRST (Table 17-3);
the levels that the spine acted on, the power and throttle pins. -/
def Spine.chipReset (sp : Spine) : Spine :=
  { cal := sp.cal, errOut := sp.errOut, assay := { sp.assay with inj := {} }, levels := sp.levels, pwr := sp.pwr,
    throttle := sp.throttle, throttleOut := sp.throttleOut, ready := false }

def Spine.coldReset (sp : Spine) : Spine :=
  { pwr := sp.pwr, throttle := sp.throttle, throttleOut := sp.throttleOut, ready := false }

/-- What chip reset leaves of Hallmark: the buffer, SEQ, the token buckets and the counts (16 R407). The Snapshot Queue is
lost (16, "The Snapshot Queue lies in the PCLK domain"). -/
def Hallmark.chipReset (h : Hallmark) : Hallmark :=
  { buf := h.buf, seq := h.seq, lastTs := h.lastTs, buckets := h.buckets, feedLoss := h.feedLoss, flushNo := h.flushNo, pwrFail := h.pwrFail,
    sqDropped := h.sqDropped }

/-- The functions after a chip reset: only their counts of lost records stay. -/
def fnsReset (s : State) : Map Fn :=
  s.fnNums.foldl (fun m f => mput (Fn.initial f) m f { (Fn.initial f) with lostRecs := (s.fn f).lostRecs }) []

/-- Every powered slice runs SEED; with none, the sequence ends at once. -/
def startSequence (s : State) : State :=
  endSequence (eachOf s.sliceNums seedSlice s)

/-- COLD_RESET. -/
def coldReset (s : State) : State :=
  startSequence { s with
    mesh := [], wires := [], shims := [], ports := [], fns := [], spine := s.spine.coldReset, hall := {} }

/-- CHIP_RESET. -/
def chipReset (s : State) : State :=
  fallLevels (startSequence { s with
    mesh := [], wires := [], shims := [], ports := [], fns := fnsReset s, spine := s.spine.chipReset
    hall := s.hall.chipReset })

/-! ### Time -/

/-- A merging-buffer entry grows older by one HCLK, if it is OPEN (07 Table 07-3). -/
def MbEntry.tick (x : MbEntry) : MbEntry := if x.st = .opened then { x with age := satInc 255 x.age } else x

/-- The windows of 64 HCLK of rise control (17 R435). Slots used beyond what the window may start are started in the next ones
(DEDUCED, log 101). -/
def Slice.riseTick (sl : Slice) : Slice :=
  if 63 ≤ sl.winClk then
    let started := min sl.slots sl.slotCap
    { sl with winClk := 0, prevSlots := started, slots := sl.slots - started, cap := sl.capNext, scans := sl.scans.map fun sc => { sc with used := 0 } }
  else { sl with winClk := sl.winClk + 1 }

/-- Engines whose ready queue is empty grow idle (08 R218). -/
def idleTick (s : State) (n : Nat) (sl : Slice) : Slice :=
  { sl with idleFor := (List.range 4).foldl (fun m e =>
      mput 0 m e (if s.readyOf n e = 0 then min 4096 (mget 0 m e + 1) else 0)) sl.idleFor }

/-- The Temper monitor samples OCC and the ready queues every 64 HCLK (08 R233). -/
def sampleTick (s : State) (n : Nat) (sl : Slice) : Slice :=
  if sl.winClk != 0 then sl
  else { sl with temper := { sl.temper with
      occSum := sl.temper.occSum + sl.trk.length, occN := sl.temper.occN + 1
      qSum := (List.range 4).map fun e => sl.temper.qSum.getD e 0 + s.readyOf n e } }

/-- One HCLK at slice n. -/
def sliceTick (n : Nat) (s : State) : State :=
  let sl := s.slice n
  if sl.conds.phase = .off then s
  else
    let sl := { sl with hclk := sl.hclk + 1, mb := mmap (fun _ x => x.tick) sl.mb }.riseTick
    s.setSlice n (if sl.serving then sampleTick s n (idleTick s n sl) else sl)

/-- REQ messages that wait behind higher classes (09 R238). -/
def Shim.tick (x : Shim) : Shim :=
  if x.rspQ.isEmpty && x.datQ.isEmpty && x.wbkQ.isEmpty then x
  else { x with reqQ := x.reqQ.map fun q => { q with wait := satInc 64 q.wait } }

/-- A new window of rise control lets slice n start what waited for it: its own tray reads and the tray messages in its input buffer
(17 R435). -/
def slotsFreed (n : Nat) (s : State) : State :=
  let sl := s.slice n
  if sl.winClk != 0 || sl.conds.phase = .off || s.paused n then s
  else
    let s := if sl.trk.any fun kv => kv.2.wantRead then sweep n s else s
    if sl.inBuf.isEmpty then s else drainIn n s

/-- What time alone does: one HCLK at every slice, one MCLK at every shim, and one cycle of the spine, which shows the throttle level
once every slice applies it. A slice in HOLD without buckets is done with. -/
def tick (s : State) : State :=
  let s := holdsOver (eachOf s.sliceNums slotsFreed s)
  let s := eachOf (mkeys s.shims) (fun sh s => shimPass sh (s.updShim sh Shim.tick)) (eachOf s.sliceNums sliceTick s)
  throttleShown (s.updSpine fun sp => { sp with clk := sp.clk + 1 })

def execColdReset (s : State) : Res := .next (coldReset s)
def execChipReset (s : State) : Res := .next (chipReset s)

end Sys2Proof.Machine
end

