-- ==== Sys2Proof/Machine/Dispatch.lean ====
section
/-! DEFINITION. One arm for each command: the meaning that its effect is. -/

namespace Sys2Proof.Machine

def exec (i : Instr) (s : State) : Host.Outcome State Fault Refusal :=
  match i with
  | .shimAgentMessage sh f => Sys2Proof.Machine.execShimAgentMessage sh f s
  | .drainCopiesSend sh => Sys2Proof.Machine.execDrainCopiesSend sh s
  | .shimInject sh => Sys2Proof.Machine.execShimInject sh s
  | .shimMeshMessage sh f => Sys2Proof.Machine.execShimMeshMessage sh f s
  | .bucketMapUpdate sh k => Sys2Proof.Machine.execBucketMapUpdate sh s k
  | .lostSliceNotice sh k => Sys2Proof.Machine.execLostSliceNotice sh s k
  | .agentReset sh => Sys2Proof.Machine.execAgentReset sh s
  | .autoRetireStart sh => Sys2Proof.Machine.execAutoRetireStart sh s
  | .shimReset sh => Sys2Proof.Machine.execShimReset sh s
  | .shimResetApply sh => Sys2Proof.Machine.execShimResetApply sh s
  | .headerTake n t f => Sys2Proof.Machine.execHeaderTake n t f s
  | .lineChainStart n t => Sys2Proof.Machine.execLineChainStart n t s
  | .transactionDecision n t => Sys2Proof.Machine.execTransactionDecision n t s
  | .censusWalkStart n t b => Sys2Proof.Machine.execCensusWalkStart n t b s
  | .spineControlOrder n t job => Sys2Proof.Machine.execSpineControlOrder n t job s
  | .snDone n f => Sys2Proof.Machine.execSnDone n f s
  | .cnsLine n t f => Sys2Proof.Machine.execCnsLine n t f s
  | .datWb n f => Sys2Proof.Machine.execDatWb n f s
  | .seal n f => Sys2Proof.Machine.execSeal n f s
  | .stashTake n f => Sys2Proof.Machine.execStashTake n f s
  | .stashRefuse n f => Sys2Proof.Machine.execStashRefuse n f s
  | .memDat n f => Sys2Proof.Machine.execMemDat n f s
  | .memAck n f => Sys2Proof.Machine.execMemAck n f s
  | .mbIssue n e => Sys2Proof.Machine.execMbIssue n e s
  | .trayAccess n f => Sys2Proof.Machine.execTrayAccess n f s
  | .trayScrub n => Sys2Proof.Machine.execTrayScrub n s
  | .snoopResponseTimeout n t => Sys2Proof.Machine.execSnoopResponseTimeout n t s
  | .evictionSnoopTimeout n t => Sys2Proof.Machine.execEvictionSnoopTimeout n t s
  | .censusWalkTimeout n t => Sys2Proof.Machine.execCensusWalkTimeout n t s
  | .sealTimeout n t => Sys2Proof.Machine.execSealTimeout n t s
  | .memoryReadTimeout n t => Sys2Proof.Machine.execMemoryReadTimeout n t s
  | .stashAnswerTimeout n t => Sys2Proof.Machine.execStashAnswerTimeout n t s
  | .holdExpiry n line => Sys2Proof.Machine.execHoldExpiry n line s
  | .anvilIdleExit n line => Sys2Proof.Machine.execAnvilIdleExit n line s
  | .anvilCooldownEnd n line => Sys2Proof.Machine.execAnvilCooldownEnd n line s
  | .stealIdleStart n e => Sys2Proof.Machine.execStealIdleStart n e s
  | .stealFlip n => Sys2Proof.Machine.execStealFlip n s
  | .stealAbandon n => Sys2Proof.Machine.execStealAbandon n s
  | .stealHoldoffEnd n b => Sys2Proof.Machine.execStealHoldoffEnd n b s
  | .recipeBankSwap n => Sys2Proof.Machine.execRecipeBankSwap n s
  | .moveScanSlot n t k => Sys2Proof.Machine.execMoveScanSlot n t k s
  | .copyEntryReceive n t k => Sys2Proof.Machine.execCopyEntryReceive n t s k
  | .copyRefusalReceive n t k => Sys2Proof.Machine.execCopyRefusalReceive n t s k
  | .copyAckReceive n k => Sys2Proof.Machine.execCopyAckReceive n s k
  | .bucketFlip b => Sys2Proof.Machine.execBucketFlip b s
  | .spineMapAck k => Sys2Proof.Machine.execSpineMapAck s k
  | .purgeScanEnd n => Sys2Proof.Machine.execPurgeScanEnd n s
  | .temperWindowEnd => Sys2Proof.Machine.execTemperWindowEnd s
  | .seedEnd n => Sys2Proof.Machine.execSeedEnd n s
  | .slicePowerRemoved n => Sys2Proof.Machine.execSlicePowerRemoved n s
  | .slicePowerRestored n => Sys2Proof.Machine.execSlicePowerRestored n s
  | .salvageStart n => Sys2Proof.Machine.execSalvageStart n s
  | .portNoticeAnswer p n => Sys2Proof.Machine.execPortNoticeAnswer p n s
  | .portQuiesceTimeout n => Sys2Proof.Machine.execPortQuiesceTimeout n s
  | .autoEvacuate n => Sys2Proof.Machine.execAutoEvacuate n s
  | .wayDisableWalkEnd n => Sys2Proof.Machine.execWayDisableWalkEnd n s
  | .memportMemRd p f => Sys2Proof.Machine.execMemportMemRd p f s
  | .memportWriteHalf p f => Sys2Proof.Machine.execMemportWriteHalf p f s
  | .memportReadReturn p n t data poison => Sys2Proof.Machine.execMemportReadReturn p n t data poison s
  | .memportWriteDone p n e => Sys2Proof.Machine.execMemportWriteDone p n e s
  | .tlbInv f => Sys2Proof.Machine.execTlbInv f s
  | .tlbAck f => Sys2Proof.Machine.execTlbAck f s
  | .tlbSync f => Sys2Proof.Machine.execTlbSync f s
  | .relayTimeout e => Sys2Proof.Machine.execRelayTimeout e s
  | .bar4Request fn write offset len data enables ep => Sys2Proof.Machine.execBar4Request fn write offset len data enables ep s
  | .spineRequesterAnswer fn f => Sys2Proof.Machine.execSpineRequesterAnswer fn f s
  | .registerWrite fn off size v bar ts => Sys2Proof.Machine.execRegisterWrite fn off size v s bar ts
  | .sqDataRead fn off size => Sys2Proof.Machine.execSqDataRead fn off size s
  | .setupLockSet fn off size v => Sys2Proof.Machine.execSetupLockSet fn off size v s
  | .traySegWrite fn off size v => Sys2Proof.Machine.execTraySegWrite fn off size v s
  | .firstErrorClear fn off size v => Sys2Proof.Machine.execFirstErrorClear fn off size v s
  | .assayStatusClear fn off size v => Sys2Proof.Machine.execAssayStatusClear fn off size v s
  | .faultInjectArm fn off size v => Sys2Proof.Machine.execFaultInjectArm fn off size v s
  | .errOutWrite fn off size v => Sys2Proof.Machine.execErrOutWrite fn off size v s
  | .nmiAck => Sys2Proof.Machine.execNmiAck s
  | .doorbellCmdPidx fn v => Sys2Proof.Machine.execDoorbellCmdPidx fn v s
  | .doorbellCplCidx fn v => Sys2Proof.Machine.execDoorbellCplCidx fn v s
  | .doorbellEvtCidx fn v => Sys2Proof.Machine.execDoorbellEvtCidx fn v s
  | .cmdResume fn off size v => Sys2Proof.Machine.execCmdResume fn off size v s
  | .cplResume fn off size v => Sys2Proof.Machine.execCplResume fn off size v s
  | .evtResume fn off size v => Sys2Proof.Machine.execEvtResume fn off size v s
  | .ringEnable fn off size v ts => Sys2Proof.Machine.execRingEnable fn off size v s ts
  | .ringDisable fn off size v => Sys2Proof.Machine.execRingDisable fn off size v s
  | .msixUnmask fn vec functionMask => Sys2Proof.Machine.execMsixUnmask fn vec functionMask s
  | .functionLevelReset fn => Sys2Proof.Machine.execFunctionLevelReset fn s
  | .powerStateChange fn d3hot => Sys2Proof.Machine.execPowerStateChange fn d3hot s
  | .busMasterEnableChange fn busMaster memorySpace ats functionMask => Sys2Proof.Machine.execBusMasterEnableChange fn busMaster memorySpace ats s functionMask
  | .atsInvalidationRequest fn addr len => Sys2Proof.Machine.execAtsInvalidationRequest fn addr len s
  | .atsTranslationCompletion fn addr needWrite speculative r => Sys2Proof.Machine.execAtsTranslationCompletion fn addr needWrite speculative r s
  | .nonPostedTimeout fn what => Sys2Proof.Machine.execNonPostedTimeout fn what s
  | .commandFetch fn r => Sys2Proof.Machine.execCommandFetch fn r s
  | .descriptorRefetch fn r => Sys2Proof.Machine.execDescriptorRefetch fn r s
  | .completionWrite fn w => Sys2Proof.Machine.execCompletionWrite fn w s
  | .nop fn idx => Sys2Proof.Machine.execNop fn idx s
  | .flushRange fn idx => Sys2Proof.Machine.execFlushRange fn idx s
  | .cleanRange fn idx => Sys2Proof.Machine.execCleanRange fn idx s
  | .invalRange fn idx => Sys2Proof.Machine.execInvalRange fn idx s
  | .censusRange fn idx => Sys2Proof.Machine.execCensusRange fn idx s
  | .lineRestore fn idx t r => Sys2Proof.Machine.execLineRestore fn idx t r s
  | .bucketMove fn idx => Sys2Proof.Machine.execBucketMove fn idx s
  | .sliceEvacuate fn idx => Sys2Proof.Machine.execSliceEvacuate fn idx s
  | .sliceCopy fn idx => Sys2Proof.Machine.execSliceCopy fn idx s
  | .sliceAdmit fn idx => Sys2Proof.Machine.execSliceAdmit fn idx s
  | .sliceReset fn idx => Sys2Proof.Machine.execSliceReset fn idx s
  | .recipeLoad fn idx r => Sys2Proof.Machine.execRecipeLoad fn idx r s
  | .trayConfigure fn idx => Sys2Proof.Machine.execTrayConfigure fn idx s
  | .trayConvertEnd n => Sys2Proof.Machine.execTrayConvertEnd n s
  | .anvilConfig fn idx => Sys2Proof.Machine.execAnvilConfig fn idx s
  | .timeoutSet fn idx => Sys2Proof.Machine.execTimeoutSet fn idx s
  | .modeSet fn idx => Sys2Proof.Machine.execModeSet fn idx s
  | .hallmarkConfig fn idx => Sys2Proof.Machine.execHallmarkConfig fn idx s
  | .windowSync fn idx => Sys2Proof.Machine.execWindowSync fn idx s
  | .agentAdmit fn idx agentRstN shimRstN => Sys2Proof.Machine.execAgentAdmit fn idx agentRstN s shimRstN
  | .admitHandshake sh cap => Sys2Proof.Machine.execAdmitHandshake sh cap s
  | .admitOpen sh => Sys2Proof.Machine.execAdmitOpen sh s
  | .admitWaitTimeout sh => Sys2Proof.Machine.execAdmitWaitTimeout sh s
  | .agentRetire fn idx => Sys2Proof.Machine.execAgentRetire fn idx s
  | .retireSilence sh => Sys2Proof.Machine.execRetireSilence sh s
  | .retireScrubEnd sh => Sys2Proof.Machine.execRetireScrubEnd sh s
  | .calRead fn idx w => Sys2Proof.Machine.execCalRead fn idx w s
  | .calWrite fn idx r => Sys2Proof.Machine.execCalWrite fn idx r s
  | .calApplyEnd n => Sys2Proof.Machine.execCalApplyEnd n s
  | .touchmark fn idx r => Sys2Proof.Machine.execTouchmark fn idx r s
  | .countermark fn idx => Sys2Proof.Machine.execCountermark fn idx s
  | .recolourScanEnd n => Sys2Proof.Machine.execRecolourScanEnd n s
  | .wardenWindowLapse pid => Sys2Proof.Machine.execWardenWindowLapse pid s
  | .atcLock fn idx r => Sys2Proof.Machine.execAtcLock fn idx r s
  | .atcUnlock fn idx => Sys2Proof.Machine.execAtcUnlock fn idx s
  | .statsSnapshot fn idx w ts => Sys2Proof.Machine.execStatsSnapshot fn idx w ts s
  | .summaryEdge part ts => Sys2Proof.Machine.execSummaryEdge part s ts
  | .chipResetRequest late => Sys2Proof.Machine.execChipResetRequest s late
  | .errOutPulseEnd => Sys2Proof.Machine.execErrOutPulseEnd s
  | .dualRailMismatch part pairs => Sys2Proof.Machine.execDualRailMismatch part pairs s
  | .dualRailMaintRead part => Sys2Proof.Machine.execDualRailMaintRead part s
  | .engineWatchdog n e => Sys2Proof.Machine.execEngineWatchdog n e s
  | .marginCheck n m reading => Sys2Proof.Machine.execMarginCheck n m reading s
  | .ledgerLeakTick n => Sys2Proof.Machine.execLedgerLeakTick n s
  | .hallmarkCollect node ts => Sys2Proof.Machine.execHallmarkCollect node ts s
  | .tokenRefill code ts => Sys2Proof.Machine.execTokenRefill code ts s
  | .eventRingWrite fn w ts => Sys2Proof.Machine.execEventRingWrite fn w s ts
  | .powerFailWarning ts => Sys2Proof.Machine.execPowerFailWarning ts s
  | .lastGaspWrite ts => Sys2Proof.Machine.execLastGaspWrite ts s
  | .coldReset => Sys2Proof.Machine.execColdReset s
  | .chipReset => Sys2Proof.Machine.execChipReset s
  | .dvfsRequest pt => Sys2Proof.Machine.execDvfsRequest pt s
  | .dvfsReady => Sys2Proof.Machine.execDvfsReady s
  | .dvfsRelease => Sys2Proof.Machine.execDvfsRelease s
  | .throttleChange lvl => Sys2Proof.Machine.execThrottleChange lvl s
  | .dualRailEpisodeEnd part => Sys2Proof.Machine.execDualRailEpisodeEnd part s
  | .registerRead fn off size bar => Sys2Proof.Machine.execRegisterRead fn off size s bar
  | .readyForConfigurationRequests fn => Sys2Proof.Machine.execReadyForConfigurationRequests fn s

end Sys2Proof.Machine
end

