-- ==== Sys2Proof/WellFormed.lean ====
section
/-! DEFINITION. Well-formed commands. `Instr.built` holds when every part that a command names is built by the
integration (01 R11, R13; 03 Table 03-5): a command that names another part faults in the machine. `Instr.inRange` holds when
its other numbers lie in the ranges of the tables they index; outside them no event of the block
bears such a number. -/

namespace Sys2Proof

/-- Shim sh has a strapped agent (01 R13). -/
def Params.hasShim (p : Params) (sh : Nat) : Bool := p.strapped.getLsbD sh

/-- A part with Assay registers: a slice by its node ID, a shim by its agent's number, or the spine (15 R376). -/
def Params.hasPart (p : Params) (part : Nat) : Bool :=
  if 0x140 ≤ part && part < 0x140 + 68 then part - 0x140 < p.nSlice
  else if part < 0x120 then p.hasShim part else part = 0x1F0

/-- A part whose summary level reaches the spine by wires (15 R393). -/
def Params.wiredPart (p : Params) (part : Nat) : Bool := p.hasPart part && part != 0x1F0

/-- Every part that the command names is built. -/
def Instr.built (q : Params) : Instr → Bool
  | .shimAgentMessage sh _ => q.hasShim sh
  | .drainCopiesSend sh => q.hasShim sh
  | .shimInject sh => q.hasShim sh
  | .shimMeshMessage sh _ => q.hasShim sh
  | .bucketMapUpdate sh _ => q.hasShim sh
  | .lostSliceNotice sh _ => q.hasShim sh
  | .agentReset sh => q.hasShim sh
  | .autoRetireStart sh => q.hasShim sh
  | .shimReset sh => q.hasShim sh
  | .shimResetApply sh => q.hasShim sh
  | .headerTake n _ _ => n < q.nSlice
  | .lineChainStart n _ => n < q.nSlice
  | .transactionDecision n _ => n < q.nSlice
  | .censusWalkStart n _ _ => n < q.nSlice
  | .spineControlOrder n _ _ => n < q.nSlice
  | .snDone n _ => n < q.nSlice
  | .cnsLine n _ _ => n < q.nSlice
  | .datWb n _ => n < q.nSlice
  | .seal n _ => n < q.nSlice
  | .stashTake n _ => n < q.nSlice
  | .stashRefuse n _ => n < q.nSlice
  | .memDat n _ => n < q.nSlice
  | .memAck n _ => n < q.nSlice
  | .mbIssue n _ => n < q.nSlice
  | .trayAccess n _ => n < q.nSlice
  | .trayScrub n => n < q.nSlice
  | .snoopResponseTimeout n _ => n < q.nSlice
  | .evictionSnoopTimeout n _ => n < q.nSlice
  | .censusWalkTimeout n _ => n < q.nSlice
  | .sealTimeout n _ => n < q.nSlice
  | .memoryReadTimeout n _ => n < q.nSlice
  | .stashAnswerTimeout n _ => n < q.nSlice
  | .holdExpiry n _ => n < q.nSlice
  | .anvilIdleExit n _ => n < q.nSlice
  | .anvilCooldownEnd n _ => n < q.nSlice
  | .stealIdleStart n _ => n < q.nSlice
  | .stealFlip n => n < q.nSlice
  | .stealAbandon n => n < q.nSlice
  | .stealHoldoffEnd n _ => n < q.nSlice
  | .recipeBankSwap n => n < q.nSlice
  | .moveScanSlot n _ _ => n < q.nSlice
  | .copyEntryReceive n _ _ => n < q.nSlice
  | .copyRefusalReceive n _ _ => n < q.nSlice
  | .copyAckReceive n _ => n < q.nSlice
  | .bucketFlip _ => true
  | .spineMapAck _ => true
  | .purgeScanEnd n => n < q.nSlice
  | .temperWindowEnd => true
  | .seedEnd n => n < q.nSlice
  | .slicePowerRemoved n => n < q.nSlice
  | .slicePowerRestored n => n < q.nSlice
  | .salvageStart n => n < q.nSlice
  | .portNoticeAnswer p n => p < q.nMport && n < q.nSlice
  | .portQuiesceTimeout n => n < q.nSlice
  | .autoEvacuate n => n < q.nSlice
  | .wayDisableWalkEnd n => n < q.nSlice
  | .memportMemRd p _ => p < q.nMport
  | .memportWriteHalf p _ => p < q.nMport
  | .memportReadReturn p _ _ _ _ => p < q.nMport
  | .memportWriteDone p _ _ => p < q.nMport
  | .tlbInv _ => true
  | .tlbAck _ => true
  | .tlbSync _ => true
  | .relayTimeout _ => true
  | .bar4Request fn _ _ _ _ _ _ => fn < q.nFunc
  | .spineRequesterAnswer fn _ => fn < q.nFunc
  | .registerWrite fn _ _ _ _ _ => fn < q.nFunc
  | .sqDataRead fn _ _ => fn < q.nFunc
  | .setupLockSet fn _ _ _ => fn < q.nFunc
  | .traySegWrite fn _ _ _ => fn < q.nFunc
  | .firstErrorClear fn _ _ _ => fn < q.nFunc
  | .assayStatusClear fn _ _ _ => fn < q.nFunc
  | .faultInjectArm fn _ _ _ => fn < q.nFunc
  | .errOutWrite fn _ _ _ => fn < q.nFunc
  | .nmiAck => true
  | .doorbellCmdPidx fn _ => fn < q.nFunc
  | .doorbellCplCidx fn _ => fn < q.nFunc
  | .doorbellEvtCidx fn _ => fn < q.nFunc
  | .cmdResume fn _ _ _ => fn < q.nFunc
  | .cplResume fn _ _ _ => fn < q.nFunc
  | .evtResume fn _ _ _ => fn < q.nFunc
  | .ringEnable fn _ _ _ _ => fn < q.nFunc
  | .ringDisable fn _ _ _ => fn < q.nFunc
  | .msixUnmask fn _ _ => fn < q.nFunc
  | .functionLevelReset fn => fn < q.nFunc
  | .powerStateChange fn _ => fn < q.nFunc
  | .busMasterEnableChange fn _ _ _ _ => fn < q.nFunc
  | .atsInvalidationRequest fn _ _ => fn < q.nFunc
  | .atsTranslationCompletion fn _ _ _ _ => fn < q.nFunc
  | .nonPostedTimeout fn _ => fn < q.nFunc
  | .commandFetch fn _ => fn < q.nFunc
  | .descriptorRefetch fn _ => fn < q.nFunc
  | .completionWrite fn _ => fn < q.nFunc
  | .nop fn _ => fn < q.nFunc
  | .flushRange fn _ => fn < q.nFunc
  | .cleanRange fn _ => fn < q.nFunc
  | .invalRange fn _ => fn < q.nFunc
  | .censusRange fn _ => fn < q.nFunc
  | .lineRestore fn _ _ _ => fn < q.nFunc
  | .bucketMove fn _ => fn < q.nFunc
  | .sliceEvacuate fn _ => fn < q.nFunc
  | .sliceCopy fn _ => fn < q.nFunc
  | .sliceAdmit fn _ => fn < q.nFunc
  | .sliceReset fn _ => fn < q.nFunc
  | .recipeLoad fn _ _ => fn < q.nFunc
  | .trayConfigure fn _ => fn < q.nFunc
  | .trayConvertEnd n => n < q.nSlice
  | .anvilConfig fn _ => fn < q.nFunc
  | .timeoutSet fn _ => fn < q.nFunc
  | .modeSet fn _ => fn < q.nFunc
  | .hallmarkConfig fn _ => fn < q.nFunc
  | .windowSync fn _ => fn < q.nFunc
  | .agentAdmit fn _ _ _ => fn < q.nFunc
  | .admitHandshake sh _ => q.hasShim sh
  | .admitOpen sh => q.hasShim sh
  | .admitWaitTimeout sh => q.hasShim sh
  | .agentRetire fn _ => fn < q.nFunc
  | .retireSilence sh => q.hasShim sh
  | .retireScrubEnd sh => q.hasShim sh
  | .calRead fn _ _ => fn < q.nFunc
  | .calWrite fn _ _ => fn < q.nFunc
  | .calApplyEnd n => n < q.nSlice
  | .touchmark fn _ _ => fn < q.nFunc
  | .countermark fn _ => fn < q.nFunc
  | .recolourScanEnd n => n < q.nSlice
  | .wardenWindowLapse _ => true
  | .atcLock fn _ _ => fn < q.nFunc
  | .atcUnlock fn _ => fn < q.nFunc
  | .statsSnapshot fn _ _ _ => fn < q.nFunc
  | .summaryEdge part _ => q.hasPart part
  | .chipResetRequest _ => true
  | .errOutPulseEnd => true
  | .dualRailMismatch part _ => q.wiredPart part
  | .dualRailMaintRead part => q.wiredPart part
  | .engineWatchdog n _ => n < q.nSlice
  | .marginCheck n _ _ => n < q.nSlice
  | .ledgerLeakTick n => n < q.nSlice
  | .hallmarkCollect node _ => q.hasPart node
  | .tokenRefill _ _ => true
  | .eventRingWrite fn _ _ => fn < q.nFunc
  | .powerFailWarning _ => true
  | .lastGaspWrite _ => true
  | .coldReset => true
  | .chipReset => true
  | .dvfsRequest _ => true
  | .dvfsReady => true
  | .dvfsRelease => true
  | .throttleChange _ => true
  | .dualRailEpisodeEnd part => q.wiredPart part
  | .registerRead fn _ _ _ => fn < q.nFunc
  | .readyForConfigurationRequests fn => fn < q.nFunc
/-- The command's tracker, engine, bucket, buffer entry and other numbers lie in their tables (02 R38, 08 R213, 07 Table 07-3,
10 R258, 11 R292, 16 Table 16-2, 17 R435, R440; registers stand in BAR0 and BAR2, 11 Table 11-3; a command that is an access of
one named register is of 4 or 8 bytes, 18 R445). -/
def Instr.inRange : Instr → Bool
  | .shimAgentMessage _ _ => true
  | .drainCopiesSend _ => true
  | .shimInject _ => true
  | .shimMeshMessage _ _ => true
  | .bucketMapUpdate _ _ => true
  | .lostSliceNotice _ _ => true
  | .agentReset _ => true
  | .autoRetireStart _ => true
  | .shimReset _ => true
  | .shimResetApply _ => true
  | .headerTake _ t _ => t < 256
  | .lineChainStart _ t => t < 256
  | .transactionDecision _ t => t < 256
  | .censusWalkStart _ t b => t < 256 && b < 4096
  | .spineControlOrder _ t _ => t < 256
  | .snDone _ _ => true
  | .cnsLine _ t _ => t < 256
  | .datWb _ _ => true
  | .seal _ _ => true
  | .stashTake _ _ => true
  | .stashRefuse _ _ => true
  | .memDat _ _ => true
  | .memAck _ _ => true
  | .mbIssue _ e => e < 32
  | .trayAccess _ _ => true
  | .trayScrub _ => true
  | .snoopResponseTimeout _ t => t < 256
  | .evictionSnoopTimeout _ t => t < 256
  | .censusWalkTimeout _ t => t < 256
  | .sealTimeout _ t => t < 256
  | .memoryReadTimeout _ t => t < 256
  | .stashAnswerTimeout _ t => t < 256
  | .holdExpiry _ _ => true
  | .anvilIdleExit _ _ => true
  | .anvilCooldownEnd _ _ => true
  | .stealIdleStart _ e => e < 4
  | .stealFlip _ => true
  | .stealAbandon _ => true
  | .stealHoldoffEnd _ b => b < 4096
  | .recipeBankSwap _ => true
  | .moveScanSlot _ t _ => t < 256
  | .copyEntryReceive _ t _ => t < 256
  | .copyRefusalReceive _ t _ => t < 256
  | .copyAckReceive _ _ => true
  | .bucketFlip b => b < 4096
  | .spineMapAck _ => true
  | .purgeScanEnd _ => true
  | .temperWindowEnd => true
  | .seedEnd _ => true
  | .slicePowerRemoved _ => true
  | .slicePowerRestored _ => true
  | .salvageStart _ => true
  | .portNoticeAnswer _ _ => true
  | .portQuiesceTimeout _ => true
  | .autoEvacuate _ => true
  | .wayDisableWalkEnd _ => true
  | .memportMemRd _ _ => true
  | .memportWriteHalf _ _ => true
  | .memportReadReturn _ _ t _ _ => t < 256
  | .memportWriteDone _ _ e => e < 32
  | .tlbInv _ => true
  | .tlbAck _ => true
  | .tlbSync _ => true
  | .relayTimeout e => e < 64
  | .bar4Request _ _ _ _ _ _ _ => true
  | .spineRequesterAnswer _ _ => true
  | .registerWrite _ _ _ _ bar _ => (bar = 0 || bar = 2)
  | .sqDataRead _ _ size => (size = 4 || size = 8)
  | .setupLockSet _ _ size _ => (size = 4 || size = 8)
  | .traySegWrite _ _ size _ => (size = 4 || size = 8)
  | .firstErrorClear _ _ size _ => (size = 4 || size = 8)
  | .assayStatusClear _ _ size _ => (size = 4 || size = 8)
  | .faultInjectArm _ _ size _ => (size = 4 || size = 8)
  | .errOutWrite _ _ size _ => (size = 4 || size = 8)
  | .nmiAck => true
  | .doorbellCmdPidx _ _ => true
  | .doorbellCplCidx _ _ => true
  | .doorbellEvtCidx _ _ => true
  | .cmdResume _ _ size _ => (size = 4 || size = 8)
  | .cplResume _ _ size _ => (size = 4 || size = 8)
  | .evtResume _ _ size _ => (size = 4 || size = 8)
  | .ringEnable _ _ size _ _ => (size = 4 || size = 8)
  | .ringDisable _ _ size _ => (size = 4 || size = 8)
  | .msixUnmask _ vec _ => vec < 64
  | .functionLevelReset _ => true
  | .powerStateChange _ _ => true
  | .busMasterEnableChange _ _ _ _ _ => true
  | .atsInvalidationRequest _ _ _ => true
  | .atsTranslationCompletion _ _ _ _ _ => true
  | .nonPostedTimeout _ _ => true
  | .commandFetch _ _ => true
  | .descriptorRefetch _ _ => true
  | .completionWrite _ _ => true
  | .nop _ _ => true
  | .flushRange _ _ => true
  | .cleanRange _ _ => true
  | .invalRange _ _ => true
  | .censusRange _ _ => true
  | .lineRestore _ _ t _ => t < 256
  | .bucketMove _ _ => true
  | .sliceEvacuate _ _ => true
  | .sliceCopy _ _ => true
  | .sliceAdmit _ _ => true
  | .sliceReset _ _ => true
  | .recipeLoad _ _ _ => true
  | .trayConfigure _ _ => true
  | .trayConvertEnd _ => true
  | .anvilConfig _ _ => true
  | .timeoutSet _ _ => true
  | .modeSet _ _ => true
  | .hallmarkConfig _ _ => true
  | .windowSync _ _ => true
  | .agentAdmit _ _ _ _ => true
  | .admitHandshake _ _ => true
  | .admitOpen _ => true
  | .admitWaitTimeout _ => true
  | .agentRetire _ _ => true
  | .retireSilence _ => true
  | .retireScrubEnd _ => true
  | .calRead _ _ _ => true
  | .calWrite _ _ _ => true
  | .calApplyEnd _ => true
  | .touchmark _ _ _ => true
  | .countermark _ _ => true
  | .recolourScanEnd _ => true
  | .wardenWindowLapse _ => true
  | .atcLock _ _ _ => true
  | .atcUnlock _ _ => true
  | .statsSnapshot _ _ _ _ => true
  | .summaryEdge _ _ => true
  | .chipResetRequest _ => true
  | .errOutPulseEnd => true
  | .dualRailMismatch _ _ => true
  | .dualRailMaintRead _ => true
  | .engineWatchdog _ e => e < 4
  | .marginCheck _ m _ => m < 8
  | .ledgerLeakTick _ => true
  | .hallmarkCollect _ _ => true
  | .tokenRefill code _ => code < 4096
  | .eventRingWrite _ _ _ => true
  | .powerFailWarning _ => true
  | .lastGaspWrite _ => true
  | .coldReset => true
  | .chipReset => true
  | .dvfsRequest _ => true
  | .dvfsReady => true
  | .dvfsRelease => true
  | .throttleChange lvl => lvl < 8
  | .dualRailEpisodeEnd _ => true
  | .registerRead _ _ _ bar => (bar = 0 || bar = 2)
  | .readyForConfigurationRequests _ => true
/-- The command is well formed for an integration. -/
def Instr.wf (q : Params) (i : Instr) : Bool := i.built q && i.inRange

end Sys2Proof
end

