-- ==== Sys2Proof/Safety.lean ====
section
/-! DEFINITION. Safe runs: a block whose integration is legal never stops on commands that name built parts, and what an
integration fixes never changes. -/

namespace Sys2Proof.Machine

/-- Every waiting command is well formed for the integration. -/
def State.queueWf (s : State) : Bool := s.pending.all (·.wf s.par)

/-- The tables of parts are in their canonical form: keys strictly rising, no entry equal to its part's reset value. -/
def State.canon (s : State) : Bool :=
  mwf (Slice.initial s.par) s.slices && mwf (fun _ => {}) s.shims && mwf (fun _ => {}) s.ports && mwf Fn.initial s.fns

/-- Keys strictly rising in every table inside a part. -/
def Slice.rising (x : Slice) : Bool :=
  mrising 0 x.arr.fine && mrising 0 x.arr.loaf && mrising 0 x.arr.fineTree && mrising 0 x.arr.loafTree &&
  mrising 0 x.arr.hlcTree && mrising 0 x.arr.hlc && mrising 0 x.arr.hlcFlags && mrising 0 x.arr.trayFine &&
  mrising 0 x.arr.trayHlc && mrising 0 x.mb && mrising 0 x.trk && mrising 0 x.fences && mrising 0 x.bkt &&
  mrising 0 x.adm && mrising 0 x.idleFor && mrising 0 x.temper.bktNow && mrising 0 x.temper.bktLast &&
  mrising 0 x.wayErr && mrising 0 x.engSlot && mrising 0 x.act && mrising 0 x.shd && mrising 0 x.rdCredits && mrising 0 x.wrCredits

def Spine.rising (x : Spine) : Bool :=
  mrising 0 x.master && mrising 0 x.relay && mrising 0 x.mrt && mrising 0 x.prot.tidColour && mrising 0 x.prot.masks &&
  mrising 0 x.prot.rg && mrising 0 x.traySeg && mrising 0 x.srcCfg && mrising 0 x.levels && mrising 0 x.cal

def Hallmark.rising (x : Hallmark) : Bool :=
  mrising 0 x.feeds && mrising 0 x.feedLoss && mrising 0 x.buckets &&
  x.feedLoss.all fun kv => mrising 0 kv.2.fns && mrising 0 kv.2.sec

/-- Every table inside a part has its keys strictly rising: no key stands twice, and what is written at a key is what is read
there. -/
def State.tablesRise (s : State) : Bool :=
  (s.slices.all fun kv => kv.2.rising) && (s.shims.all fun kv => mrising 0 kv.2.bmap && mrising 0 kv.2.streams) &&
  (s.fns.all fun kv => mrising 0 kv.2.wtt && mrising 0 kv.2.msix) && s.spine.rising && s.hall.rising

/-- The invariant that claims rest on: a legal integration (01 R11, Table 01-2), a well-formed queue and canonical tables. -/
def State.Inv (s : State) : Prop := s.par.legal = true ∧ s.queueWf = true ∧ s.canon = true

/-- The levels of a part that rose since the spine last acted on them (15 R392). -/
def State.rises (s : State) (part : Nat) : BitVec 6 := s.levels part &&& ~~~ mget 0 s.spine.levels part

/-- No WINDOW_SYNC runs. -/
def State.noSync (s : State) : Bool := s.spine.jobs.all fun j => match j.kind with | .windowSync _ => false | _ => true

/-- A register read of function f at an offset is answered at once with a value (11 R279 to R282, R288): its BARs answer, its
rights and the aperture's instance allow it, no window operation waits, and no check of a spine table is inverted. -/
def State.reads (s : State) (f off : Nat) : Bool :=
  (s.fn f).bars && s.mayAccess f off false && (spaceOf off != .aperture || s.instanceOk f) &&
  (s.fn f).win.isEmpty && (s.fn f).winSt = .idle && s.noSync && s.spine.assay.inj.count = 0

/-- A register write of function f at an offset reaches its register (11 R279 to R282). -/
def State.writes (s : State) (f off : Nat) : Bool :=
  (s.fn f).bars && (s.fn f).room true 8 && s.mayAccess f off true && (spaceOf off != .aperture || s.instanceOk f)

/-- Offset of a ring's CFG register and its least LOG2SIZE (12 Table 12-3). -/
def cfgOff : RingId → Nat
  | .cmd => 0x108 | .cpl => 0x120 | .evt => 0x138
def minLog2 : RingId → Nat
  | .cmd => 6 | .cpl => 8 | .evt => 7

/-- The doorbell of a ring. -/
def bellCmd (f : Nat) (i : RingId) (v : BitVec 32) : Instr :=
  match i with
  | .cmd => .doorbellCmdPidx f v
  | .cpl => .doorbellCplCidx f v
  | .evt => .doorbellEvtCidx f v

/-- The resume of a ring: FN_RING_CTL written. -/
def resumeCmd (f : Nat) (i : RingId) (v : W64) : Instr :=
  match i with
  | .cmd => .cmdResume f 0x150 4 v
  | .cpl => .cplResume f 0x150 4 v
  | .evt => .evtResume f 0x150 4 v

/-- Command idx of function fn is taken, has OPC `opc`, may start, has no reserved byte set and is allowed (12 R304, R305,
R314 to R316). -/
abbrev State.mayStart (s : State) (fn idx opc : Nat) (k : Taken) : Prop :=
  fn < s.par.nFunc ∧ s.taken fn idx = some k ∧ k.opc.toNat = opc ∧ s.canStart fn k = true ∧ k.formOk = true ∧
  s.mayRun fn opc = true

/-- The command marked as started. -/
def State.begin (s : State) (fn idx : Nat) : State :=
  s.updFn fn fun f => { f with taken := f.taken.map fun y => if y.idx = idx then { y with started := true } else y }

/-- A command may read, or write, a buffer of n bytes at once: its function may use host memory (11 R293), and no page of the
buffer waits for a translation (10 R268). -/
abbrev State.bufOpen (s : State) (fn idx : Nat) (addr : W64) (n : Nat) (write : Bool) : Prop :=
  (s.fn fn).up = true ∧ bufReady fn idx addr n write none s = none

/-- The bytes that a buffer read gives a command (14 R362). -/
def State.bufBytes (s : State) (fn : Nat) (addr : W64) (l : List Byte) (n : Nat) : List Byte :=
  ((bufParts addr n).foldl (readPart fn addr l) ([], s)).1

/-- The completion of a command with its code and result (12 Table 12-7). -/
def Taken.doneWith (k : Taken) (code : BitVec 8) (result : Nat) : Done :=
  { idx := k.idx, ring := k.ring, tag := k.tag, code, opc := k.opc, result := BitVec.ofNat 64 result, intr := k.intr }

/-- The jobs have names of their own, below the next one. -/
def State.jobsNamed (s : State) : Bool :=
  decide (s.spine.jobs.map (·.id)).Nodup && s.spine.jobs.all fun j => j.id < s.spine.nextJob

/-- OPC and row of a range command (12 Table 12-8). -/
def rangeOpc : RangeKind → Nat
  | .flush => 0x01 | .clean => 0x02 | .inval => 0x03
def rangeInstr (r : RangeKind) (f idx : Nat) : Instr :=
  match r with
  | .flush => .flushRange f idx
  | .clean => .cleanRange f idx
  | .inval => .invalRange f idx

/-- The messages between slices that COPY_ENTRY_RECEIVE, COPY_ACK_RECEIVE and COPY_REFUSAL_RECEIVE take at slice n. -/
def isCopyTo (n : Nat) (w : Wire) : Bool :=
  match w with
  | .copyFine _ dst .. | .copyLoaf _ dst .. => dst = n
  | _ => false
def isAckTo (n : Nat) (w : Wire) : Bool := match w with | .copyAck _ dst .. => dst = n | _ => false
def isRefusalTo (n : Nat) (w : Wire) : Bool := match w with | .copyRefuse _ dst .. => dst = n | _ => false

/-! ### Messages -/

/-- A message whose unused fields are 0 (03 R72, Tables 03-3, 03-4): form A has no byte mask; form C has no GEN, SOFT, HOLD,
TID, ORD, FWD and ADDR; a message has the data, BE and POISON of its data flits only. -/
def Msg.wf (m : Msg) : Bool :=
  (if m.op.formA then m.bmask = 0
   else m.gen = 0 && !m.soft && !m.hold && m.tid = 0 && m.ord = 0 && !m.fwd && m.addr = 0) &&
  (if m.op.dataFlits = 0 then m.data = 0 && m.be = 0 && !m.poison
   else m.op.dataFlits = 2 || (bits m.data 256 256 = 0 && bits m.be 16 16 = 0))

/-- The flits give a message that passes every check of 03 Table 03-16. -/
abbrev spells (f : Flits) (m : Msg) (det : Detail) : Prop := decode f false false = .ok { m, datBad := false, det }

/-- The flits give a good message for a node. -/
abbrev arrives (f : Flits) (node : BitVec 9) (m : Msg) : Prop := flitDst f = node ∧ spells f m (rxDetail f false)

/-- Slice n takes messages: built, powered, not in HOLD, in no pause, with no injection armed (03 R100, 13 R337, R352, 15 R399). -/
abbrev State.takes (s : State) (n : Nat) : Prop :=
  n < s.par.nSlice ∧ (s.slice n).conds.phase ≠ .off ∧ (s.slice n).conds.phase ≠ .hold ∧ s.paused n = false ∧
  (s.slice n).assay.inj.count = 0

/-- A message of a built node arrives at slice n, which has nothing else to handle first: no message waits in its input buffer
and no mirrored write for its acknowledgment (01 R6, 13 R336, R352). -/
abbrev State.receives (s : State) (n : Nat) (f : Flits) (m : Msg) : Prop :=
  s.takes n ∧ arrives f (sliceNode n) m ∧ s.nodeBuilt m.src = true ∧ (s.slice n).inBuf = [] ∧ (s.slice n).mirrored = []

/-- A header of a built node arrives at slice n, and it is the turn of its class (05 R138). -/
abbrev State.mayHead (s : State) (n : Nat) (f : Flits) (m : Msg) : Prop :=
  s.takes n ∧ arrives f (sliceNode n) m ∧ s.nodeBuilt m.src = true ∧ (s.slice n).otherTurn m = false

/-- A tracker as its allocation leaves it: nothing looked up, snooped, fetched, answered or awaited yet. -/
abbrev Tracker.fresh (k : Tracker) : Prop :=
  k = { kind := k.kind, pool := k.pool, age := k.age, src := k.src, rqtx := k.rqtx, tid := k.tid, colour := k.colour,
        addr := k.addr, soft := k.soft, hold := k.hold, sub := k.sub, aux := k.aux, peer := k.peer, operand := k.operand,
        opPoison := k.opPoison, stage := k.stage, lcl := k.lcl, start := k.start, parked := k.parked, masks := k.masks,
        noSoft := k.noSoft, noStash := k.noStash, noAnvil := k.noAnvil }

/-- Slice n may decide its ready tracker t now: its turn has come (01 R21, 08 R219, 13 R352), no mirrored write waits for an
acknowledgment (13 R336), what it reads has no error and no injection is armed (15 R399), and the line's entry names no retiring
agent that Table 09-4 puts in P (09 R248). -/
abbrev State.decides (s : State) (n t : Nat) (k : Tracker) : Prop :=
  s.canon = true ∧ s.tablesRise = true ∧ n < s.par.nSlice ∧ s.trk n t = some k ∧ k.fresh ∧ k.bad = false ∧
  s.lookupTurn n k = true ∧ (s.slice n).mirrored = [] ∧ (s.slice n).assay.inj.count = 0 ∧
  (s.actBank n (s.engineOf n k)).bad = false ∧ lookupChecks n (lineOf k.addr) s = s ∧
  ∀ w, s.fineFind n (lineOf k.addr) = some w →
    (scrubAll s.scrubbing (s.fineAt n (fineSet (lineOf k.addr)) w)).2 = false

/-- A snoop of line a, for tracker t of slice n, to an agent (03 R81); one that asks for a report has LINE set. -/
def snoopOf (n t : Nat) (a : PA) (p : Nat × Op) : Msg :=
  { op := p.2, src := sliceNode n, dst := BitVec.ofNat 9 p.1, htrk := BitVec.ofNat 8 t, addr := a
    aux := if p.2 = .snCensus then 2 else 0 }

/-- Way w is free in the fine set of a tracker's line, its colour may take it, and no decision has reserved it (02 R43, R44). -/
abbrev State.freeWay (s : State) (n t : Nat) (k : Tracker) (w : Nat) : Prop :=
  w < 16 ∧ s.fineMask n t k.colour w = true ∧ (s.fineAt n (fineSet (lineOf k.addr)) w).free = true ∧
  (s.slice n).reservedFine (fineSet (lineOf k.addr)) w = false

/-- No merging-buffer entry names the line of a tracker. -/
abbrev State.unbuffered (s : State) (n : Nat) (k : Tracker) : Prop := ∀ kv ∈ (s.slice n).mb, kv.2.line ≠ lineOf k.addr

/-- The HLC of slice n holds the line of a tracker with good data (07 R190). -/
abbrev State.cached (s : State) (n : Nat) (k : Tracker) (d : Line) : Prop :=
  ∃ v, s.hlcFind n (lineOf k.addr) = some v ∧ ((s.slice n).hlcW (hlcSet (lineOf k.addr)) v).data = d ∧
    hlcDpBad ((s.slice n).hlcW (hlcSet (lineOf k.addr)) v).tagw d = false

/-- Tracker t of slice n decides and goes on: its round has the snoops `l`, every one is sent, and P holds. -/
abbrev State.decidesTo (s : State) (n t : Nat) (k : Tracker) (l : List (Nat × Op)) (P : State → Tracker → Prop) : Prop :=
  ∃ (u : State) (x : Tracker), exec (.transactionDecision n t) s = .next u ∧ u.trk n t = some x ∧ x.stage = .live ∧
    x.round.all = l ∧ (∀ p ∈ l, snoopOf n t (lineOf k.addr) p ∈ u.mesh) ∧ P u x

/-- The decision has begun to read the line: MemRd is on its way when neither the merging buffer nor the HLC holds it and its
memory port has a credit (03 R98, 04 R109). -/
abbrev State.readsLine (s : State) (n t : Nat) (k : Tracker) (u : State) (x : Tracker) : Prop :=
  ∀ p, s.unbuffered n k → s.hlcFind n (lineOf k.addr) = none → s.memDest (lineOf k.addr) = .port p →
    s.rdFree n (portNode p) = true →
    { op := .memRd, src := sliceNode n, dst := portNode p, htrk := BitVec.ofNat 8 t, addr := lineOf k.addr } ∈ u.mesh ∧
    x.memNode = some (portNode p) ∧ x.memTimer = true

/-- Tracker t of slice n answers its request Rest with a reason and ends: no filter entry changes (04 R128). -/
abbrev State.rests (s : State) (n t : Nat) (k : Tracker) (reason : BitVec 4) : Prop :=
  ∃ u, exec (.transactionDecision n t) s = .next u ∧ u.trk n t = none ∧
    { op := .rest, src := sliceNode n, dst := k.src, rqtx := k.rqtx, aux := reason } ∈ u.mesh ∧
    ((s.slice n).census = [] → (u.slice n).arr.fine = (s.slice n).arr.fine ∧ (u.slice n).arr.loaf = (s.slice n).arr.loaf)

/-- No work of the slice writes entries elsewhere: no scan copies them and no retire scrubs them. -/
abbrev State.calm (s : State) (n : Nat) : Prop := (s.slice n).scans = [] ∧ s.spine.jobs = [] ∧ (s.slice n).census = []

end Sys2Proof.Machine
end

