-- ==== Sys2Proof/Certificates/Slice0/Obligations.lean ====
section
/-! DEFINITION. The statements for the provers: what each command of the block does, and what holds of every step. -/

open Sys2Proof Sys2Proof.Machine

/-- Log 1: a step takes the command in front of the queue and does what exec does on the state with the queue's rest.

(Not the spec's: the queue is the model's own (log 1).) -/
def Obligations.StepRunsFront : Prop :=
  ∀ (c : Instr) (rest : List Instr) (s : State),
    step { s with pending := c :: rest } = exec c { s with pending := rest }

/-- Log 5, the model's choice: with no command waiting a step is one HCLK of time alone. First what waited only for it happens: at a
slice that begins a window of 64 HCLK and is in no pause, its own tray reads and the messages in its input buffer start as far as
the window's slots go (17 R435, log 101), and a slice in HOLD that owns no bucket leaves the salvage queue (15 Table 15-11, log 29);
where nothing waited so, nothing happens. Then every
slice that is not OFF counts one HCLK, the spine counts one cycle, each shim hands its agent the message at the front of each
of its mesh-to-agent queues (log 76; the snoops of a reset agent stay, 09 R251); otherwise no message, register, filter
entry or bucket changes hands, and no slice leaves its mode. What a clock advances: an OPEN merging-buffer entry's AGE, up to 255
(07 Table 07-3); the window of 64 HCLK, at whose end S(n - 1) is what the window started (within C(n), log 101), the cap of 17 R436 is
applied and every scan may use slots again (17 R435), and Temper takes its sample (08 R233); an engine without a ready tracker grows
idle, up to 4096 (08 R218); a REQ message that waits behind another class ages, up to 64 (09 R238); hk_throttle_lvl shows the
level once every slice applies it (17 R436). -/
def Obligations.IdleStepIsTimeAlone : Prop :=
  ∀ s : State, s.canon = true → s.pending = [] →
    let u := holdsOver (eachOf s.sliceNums slotsFreed s)
    ((∀ n, n < s.par.nSlice → (s.slice n).winClk = 0 → (s.slice n).conds.phase ≠ .off → s.paused n = false →
        (∀ kv ∈ (s.slice n).trk, kv.2.wantRead = false) ∧ (s.slice n).inBuf = []) →
      (∀ n ∈ s.spine.salvageQ, (s.slice n).conds.phase = .hold → s.heldBuckets n ≠ []) → u = s) ∧
    ∃ t, step s = .next t ∧ t.par = s.par ∧ t.pending = [] ∧ t.mesh = u.mesh ∧ t.wires = u.wires ∧
      t.ports = u.ports ∧ t.fns = u.fns ∧ t.hall = u.hall ∧
      t.spine = { u.spine with clk := u.spine.clk + 1, throttleOut := t.spine.throttleOut } ∧
      ((∀ n, n < s.par.nSlice → (t.slice n).conds.phase = .off ∨ (t.slice n).cap = (t.slice n).capNext) →
        t.spine.throttleOut = u.spine.throttle) ∧
      (∀ n, n < s.par.nSlice → (t.slice n).conds.phase ≠ .off → (t.slice n).cap ≠ (t.slice n).capNext →
        t.spine.throttleOut = u.spine.throttleOut) ∧
      (∀ sh, (t.shim sh).snpIn = (u.shim sh).snpIn.drop (if (u.shim sh).cut then 0 else 1) ∧
        (t.shim sh).rspIn = (u.shim sh).rspIn.drop 1 ∧ (t.shim sh).datIn = (u.shim sh).datIn.drop 1 ∧
        (t.shim sh).wbkQ = (u.shim sh).wbkQ ∧ (t.shim sh).rspQ = (u.shim sh).rspQ ∧ (t.shim sh).datQ = (u.shim sh).datQ ∧
        (t.shim sh).reqQ =
          (if (u.shim sh).rspQ = [] ∧ (u.shim sh).datQ = [] ∧ (u.shim sh).wbkQ = [] then (u.shim sh).reqQ
           else (u.shim sh).reqQ.map fun q => { q with wait := min 64 (q.wait + 1) }) ∧
        (t.shim sh).outst = (u.shim sh).outst ∧
        ∀ m, (m ∈ (u.shim sh).rspIn.take 1 ∨ m ∈ (u.shim sh).datIn.take 1 ∨
          ((u.shim sh).cut = false ∧ m ∈ (u.shim sh).snpIn.take 1)) → Out.toAgent sh m ∈ t.out) ∧
      (∀ o ∈ t.out, o ∈ u.out ∨ ∃ sh m, o = .toAgent sh m ∧ (m ∈ (u.shim sh).snpIn ∨ m ∈ (u.shim sh).rspIn ∨
        m ∈ (u.shim sh).datIn)) ∧
      ∀ n, n < s.par.nSlice →
        (t.slice n).conds = (u.slice n).conds ∧ (t.slice n).arr = (u.slice n).arr ∧ (t.slice n).bkt = (u.slice n).bkt ∧
        (t.slice n).trk = (u.slice n).trk ∧ (t.slice n).assay = (u.slice n).assay ∧
        (t.slice n).hclk = (u.slice n).hclk + (if (u.slice n).conds.phase = .off then 0 else 1) ∧
        ((u.slice n).conds.phase = .off → t.slice n = u.slice n) ∧
        ((u.slice n).conds.phase ≠ .off →
          (∀ k, mget {} (t.slice n).mb k = { mget {} (u.slice n).mb k with
            age := if (mget {} (u.slice n).mb k).st = .opened then min 255 ((mget {} (u.slice n).mb k).age + 1)
              else (mget {} (u.slice n).mb k).age }) ∧
          ((u.slice n).winClk < 63 →
            (t.slice n).winClk = (u.slice n).winClk + 1 ∧ (t.slice n).prevSlots = (u.slice n).prevSlots ∧
            (t.slice n).slots = (u.slice n).slots ∧ (t.slice n).cap = (u.slice n).cap ∧ (t.slice n).scans = (u.slice n).scans ∧
            (t.slice n).temper = (u.slice n).temper) ∧
          (63 ≤ (u.slice n).winClk →
            (t.slice n).winClk = 0 ∧ (t.slice n).cap = (u.slice n).capNext ∧ (∀ sc ∈ (t.slice n).scans, sc.used = 0) ∧
            (t.slice n).prevSlots = min (u.slice n).slots (min (u.slice n).cap (max 8 ((u.slice n).prevSlots + 8))) ∧
            (t.slice n).slots = (u.slice n).slots - (t.slice n).prevSlots)) ∧
        ((u.slice n).conds.phase = .service → 63 ≤ (u.slice n).winClk →
          (t.slice n).temper.occN = (u.slice n).temper.occN + 1 ∧
          (t.slice n).temper.occSum = (u.slice n).temper.occSum + (u.slice n).trk.length ∧
          ∀ e, e < 4 → (t.slice n).temper.qSum.getD e 0 = (u.slice n).temper.qSum.getD e 0 + u.readyOf n e) ∧
        ((u.slice n).conds.phase = .service → mrising 0 (u.slice n).idleFor = true → ∀ e, e < 4 →
          mget 0 (t.slice n).idleFor e = if u.readyOf n e = 0 then min 4096 (mget 0 (u.slice n).idleFor e + 1) else 0)

/-- 01 R11, R13: a command runs exactly when every slice, shim, memory port, function and part that it names is built; otherwise
it stops with the one fault of the model, and no command is ever refused.

(Not the spec's: the fault notBuilt is the model's choice (log 55).) -/
def Obligations.RunsExactlyWhenBuilt : Prop :=
  ∀ (c : Instr) (s : State),
    (c.built s.par = true → ∃ t, exec c s = .next t) ∧ (c.built s.par = false → exec c s = .fault .notBuilt)

/-- Every step keeps the invariant: the integration stays legal (it never changes), every waiting command stays well formed,
and the tables of slices, shims, memory ports and functions stay in their canonical form.

(Not the spec's: the queue and the tables' form are the model's own (log 1).) -/
def Obligations.StepKeepsInvariant : Prop :=
  ∀ s t : State, s.Inv → step s = .next t → t.Inv ∧ t.par = s.par ∧ t.pending = s.pending.drop 1

/-- Whatever stands in a well-formed queue, a block that meets the invariant goes on.

(Not the spec's: the queue is the model's own (log 1).) -/
def Obligations.WellFormedQueueNeverStops : Prop :=
  ∀ s : State, s.Inv → ∃ t, step s = .next t

/-- 15 R388, R390, R391: NMI_ACK releases the trap and its information and changes nothing else, so that the next NMI reaction
is not counted as lost; ERR_OUT_PULSE_END ends the pulse, so that hk_err_out stays at 1 only while HOLD is set;
CHIP_RESET_REQUEST drives the request, which is held, once it is due and no flush runs or is triggered (what is awaited is log 49,
DEDUCED) or the time for one (16 us) is over.

17 R423, R425, R426: a rise of pm_dvfs_req with a point below N_DVFS is taken, or waits for a calibration apply; a point
outside raises source 0x69 of the spine and is ignored; hk_dvfs_rdy rises only for a request that was taken; the fall of the
request ends all of it (with nothing else where no slice holds a message in its input buffer, 13 R352).

17 R436: THROTTLE_CHANGE to level L caps every slice at T = (8 - L) * 8 slots of a 64-HCLK window from its next window on, and at
once where T is the higher, and changes nothing else of any slice; hk_throttle_lvl shows L as soon as every slice (that is not OFF)
applies T.

(Not the spec's: which source assay_nmi_info names is log 37; what the reset request waits for is log 49.) -/
def Obligations.SpinePinRows : Prop :=
  ((∀ s : State, ∃ t, exec .nmiAck s = .next t ∧ t = s.updSpine (fun sp => { sp with nmi := none }) ∧
       ∀ node, (raiseNmi node t).spine.nmi = some (BitVec.ofNat 9 node, t.nmiSource node) ∧
         (raiseNmi node t).spine.nmiLost = s.spine.nmiLost) ∧
   (∀ s : State, ∃ t, exec .errOutPulseEnd s = .next t ∧
       t = s.updSpine (fun sp => { sp with errOut := { sp.errOut with active := false } }) ∧
       t.spine.errOut.out = s.spine.errOut.hold) ∧
   (∀ (s : State) (late : Bool), s.spine.crstDue = true → late = true ∨ s.flushing = false →
       exec (.chipResetRequest late) s = .next (s.updSpine fun sp => { sp with crstDue := false, chipRstReq := true })) ∧
   (∀ (s : State) (late : Bool), s.spine.crstDue = false ∨ (late = false ∧ s.flushing = true) →
       exec (.chipResetRequest late) s = .next s)) ∧
  ((∀ (s : State) (pt : Nat), s.dvfsHigh = false → pt < s.par.nDvfs → s.applying = false →
       exec (.dvfsRequest pt) s = .next (s.updSpine fun sp => { sp with dvfsTaken := true })) ∧
   (∀ (s : State) (pt : Nat), s.dvfsHigh = false → pt < s.par.nDvfs → s.applying = true →
       exec (.dvfsRequest pt) s = .next (s.updSpine fun sp => { sp with dvfsHeld := some pt })) ∧
   (∀ (s : State) (pt : Nat), s.dvfsHigh = false → s.par.nDvfs ≤ pt →
       ∃ t, exec (.dvfsRequest pt) s = .next t ∧ t.spine.dvfsTaken = false ∧ t.spine.dvfsIgnored = true ∧
         bit t.spine.assay.status 9 = true ∧ t.slices = s.slices ∧ t.shims = s.shims ∧ t.ports = s.ports ∧ t.fns = s.fns) ∧
   (∀ s : State, s.spine.dvfsTaken = true →
       exec .dvfsReady s = .next (s.updSpine fun sp => { sp with dvfsRdy := true })) ∧
   (∀ s : State, s.spine.dvfsTaken = false → exec .dvfsReady s = .next s) ∧
   (∀ s : State, ∃ t u, exec .dvfsRelease s = .next t ∧ t = eachOf s.sliceNums drainIn u ∧
       u = s.updSpine (fun sp =>
         { sp with dvfsTaken := false, dvfsRdy := false, dvfsIgnored := false, dvfsHeld := none }) ∧
       u.dvfsHigh = false ∧ u.spine.dvfsRdy = false ∧ ((∀ n, n < s.par.nSlice → (s.slice n).inBuf = []) → t = u))) ∧
  (∀ (s : State) (lvl : Nat), s.canon = true → lvl < 8 →
     ∃ t, exec (.throttleChange lvl) s = .next t ∧ t.spine = { s.spine with throttle := lvl, throttleOut := t.spine.throttleOut } ∧
       (∀ n, n < s.par.nSlice → t.slice n = { s.slice n with cap := max (s.slice n).cap ((8 - lvl) * 8), capNext := (8 - lvl) * 8 }) ∧
       ((∀ n, n < s.par.nSlice → (s.slice n).conds.phase = .off ∨ (s.slice n).cap ≤ (8 - lvl) * 8) → t.spine.throttleOut = lvl) ∧
       (∀ n, n < s.par.nSlice → (s.slice n).conds.phase ≠ .off → (8 - lvl) * 8 < (s.slice n).cap →
         t.spine.throttleOut = s.spine.throttleOut) ∧
       (∀ n, s.par.nSlice ≤ n → t.slice n = s.slice n) ∧
       t.shims = s.shims ∧ t.ports = s.ports ∧ t.fns = s.fns ∧ t.hall = s.hall ∧ t.mesh = s.mesh ∧ t.wires = s.wires ∧
       t.out = s.out)

/-- 17 R427 to R430, Table 17-4: both resets empty the mesh and every shim, memory port and slice; every powered slice runs
SEED with its filters and home cache empty and no bucket, every function is in its initial state, and the block is not ready
while a slice seeds; a slice without power is OFF (R429). A cold reset clears Hallmark and the calibration store; a chip reset keeps
Hallmark's buffer, SEQ and token buckets (16 R407), a function's count of lost records and nothing else of it (log 50), the
calibration store, SPN_ERR_OUT and the spine's error records (Table 17-3).

(Not the spec's: that a slice in SEED has no bucket is log 22; that CHIP_RESET clears the feeds is log 50.) -/
def Obligations.ResetsSeedEverySlice : Prop :=
  (∀ s : State, ∃ t, exec .coldReset s = .next t ∧ t.mesh = [] ∧ t.wires = [] ∧ t.shims = [] ∧ t.ports = [] ∧ t.fns = [] ∧
      t.hall = {} ∧ t.spine.cal = [] ∧ t.spine.master = [] ∧ t.spine.jobs = [] ∧ t.par = s.par ∧ t.pending = s.pending ∧
      (∀ f, t.fn f = Fn.initial f) ∧
      (s.canon = true → ∀ n, n < s.par.nSlice →
        (t.slice n).conds.phase = (if bit s.spine.pwr n then .seed else .off) ∧
        (t.slice n).arr = {} ∧ (t.slice n).trk = [] ∧ (t.slice n).mb = [] ∧ (t.slice n).adm = [] ∧
        (bit s.spine.pwr n = true → t.spine.ready = false ∧ ∀ b, b < 4096 → (t.bkt n b).kind = .none))) ∧
  (∀ s : State, ∃ t, exec .chipReset s = .next t ∧ t.mesh = [] ∧ t.wires = [] ∧ t.shims = [] ∧ t.ports = [] ∧
      t.hall.buf = s.hall.buf ∧ t.hall.seq = s.hall.seq ∧ t.hall.buckets = s.hall.buckets ∧ t.hall.feeds = [] ∧
      t.hall.sq = [] ∧ t.spine.cal = s.spine.cal ∧ t.spine.errOut = s.spine.errOut ∧
      t.spine.assay.status = s.spine.assay.status ∧ t.spine.assay.first = s.spine.assay.first ∧
      t.spine.prot = {} ∧ t.spine.setup = false ∧ t.par = s.par ∧ t.pending = s.pending ∧
      (∀ f, f < s.par.nFunc → t.fn f = { Fn.initial f with lostRecs := (s.fn f).lostRecs }) ∧
      (∀ f, s.par.nFunc ≤ f → t.fn f = Fn.initial f) ∧
      (s.canon = true → ∀ n, n < s.par.nSlice →
        (t.slice n).conds.phase = (if bit s.spine.pwr n then .seed else .off) ∧
        (t.slice n).arr = {} ∧ (t.slice n).trk = [] ∧ (t.slice n).mb = [] ∧
        (bit s.spine.pwr n = true → t.spine.ready = false ∧ ∀ b, b < 4096 → (t.bkt n b).kind = .none)))

/-- 15 R382, R385: a detection at slice n sets the source's status bit, fills the first-error record if it is not valid and
otherwise sets OVF; the record then stays as it was, unless it was captured in this very cycle (the detections between two ticks are
one cycle, log 83, the model's choice) and the new source comes before it (higher severity, then lower number). A source of severity 3 puts the slice in HOLD unless it is OFF. Every other slice,
every shim, memory port and function stays as it is.

15 Table 15-1, 17 R437, R444: the checks that a slice makes with no message. An engine with a ready tracker that started no
lookup raises 0x1D; a monitor that reads below its offset raises 0x19 with its number, and one that does not raises nothing; a
1 us tick adds LEAK of the slice's calibration set to its ledger unless the slice is OFF. -/
def Obligations.SliceFaults : Prop :=
  (∀ (s : State) (n src : Nat) (d : Detail), s.canon = true → src < 64 →
     let t := raiseSlice n src d s
     (∀ i, bit (t.slice n).assay.status i = (decide (i = src) || bit (s.slice n).assay.status i)) ∧
     ((s.slice n).assay.first.valid = false →
       (t.slice n).assay.first = { valid := true, sev := s.sevOf src, source := BitVec.ofNat 8 src, syndrome := d.syn
                                   node := d.node, addr := d.addr }) ∧
     (let f := (s.slice n).assay.first
      f.valid = true →
       (t.slice n).assay.first =
         if (s.slice n).assay.since = (s.slice n).hclk + 1 ∧
             (f.sev.toNat < (s.sevOf src).toNat ∨ (f.sev = s.sevOf src ∧ src < f.source.toNat)) then
           { valid := true, sev := s.sevOf src, source := BitVec.ofNat 8 src, syndrome := d.syn, node := d.node, addr := d.addr
             ovf := true }
         else { f with ovf := true }) ∧
     ((t.slice n).conds.phase =
       if s.sevOf src = 3 ∧ (s.slice n).conds.phase ≠ .off then .hold else (s.slice n).conds.phase) ∧
     (t.slice n).arr = (s.slice n).arr ∧ (t.slice n).trk = (s.slice n).trk ∧ (t.slice n).bkt = (s.slice n).bkt ∧
     (∀ m, m ≠ n → t.slice m = s.slice m) ∧ t.shims = s.shims ∧ t.ports = s.ports ∧ t.fns = s.fns ∧ t.mesh = s.mesh) ∧
  ((∀ (s : State) (n e : Nat), n < s.par.nSlice → e < 4 → (s.slice n).serving = true → s.readyOf n e ≠ 0 →
       exec (.engineWatchdog n e) s = .next (raiseSlice n 0x1D { syn := BitVec.ofNat 16 e } s)) ∧
   (∀ (s : State) (n m : Nat) (reading : BitVec 12), n < s.par.nSlice → m < 8 → (s.slice n).conds.phase ≠ .off →
       exec (.marginCheck n m reading) s = .next
         (if reading.toNat < (bits (s.calSet n).mofs (16 * m) 12).toNat then raiseSlice n 0x19 { syn := BitVec.ofNat 16 m } s
          else s)) ∧
   (∀ (s : State) (n : Nat), s.canon = true → n < s.par.nSlice →
       ∃ t, exec (.ledgerLeakTick n) s = .next t ∧
         (t.slice n).ledger.energy = (s.slice n).ledger.energy +
           (if (s.slice n).conds.phase = .off then 0 else (s.calSet n).leak.setWidth 64) ∧
         t.slice n = { s.slice n with us := (s.slice n).us + 1, ledger := { (s.slice n).ledger with
           energy := (t.slice n).ledger.energy } } ∧
         (∀ m, m ≠ n → t.slice m = s.slice m) ∧ t = { s with slices := t.slices }))

/-- 15 R386, R388, R391, R392: on an edge of a part's summary outside a dual-rail episode the spine acts on the levels that rose
since it last acted: EXTERR starts the pulse of hk_err_out, NMI holds the trap with the part's node if no trap is held and
counts a lost one otherwise, CRST makes a chip reset request due; the levels it acted on are remembered. Hallmark then takes the
triggers of 16 R414: with the last-gasp settings allowing it and no flush running, one starts with reason 1 and the buffer's
records, TSSTART the time that the command gives, and FLUSHNO counts every trigger (R415). A pulse that starts sets HOLD where AUTOHOLD is 1 (R391). (For a part whose slice-reset
level did not rise; the last clause has the other.)

15 R394: equal pairs on the wires of a part start an episode and raise source 0x65 of the spine once; during the episode the
spine acts on the levels that it reads, not on the wires, and a further mismatch raises nothing; the episode ends once no
injected inversion is left. (For a part with no injection of 0x65 armed.)

15 R386, R389: what the spine does when the slice-reset level of slice n rises. In RETAIN, and in HOLD with no bucket owned and no
salvage to await, the slice reset is made at once; in HOLD otherwise, and in SEED, it waits; in OFF nothing happens. In service an
evacuation starts without a command, in takeover form in LIMP and BROADCAST, the reset to follow it; where 13 R330 refuses it,
Hallmark is handed the record of the refusal and nothing else happens. (For a part whose chip-reset level did not rise and no fatal
trigger waiting.)

(Not the spec's: the edge's time is log 102; which source assay_nmi_info names is log 37; that the detections between two
ticks are one cycle is log 83; what a fatal trigger waits for is log 49.) -/
def Obligations.SummaryLevels : Prop :=
  (∀ (s : State) (part : Nat) (ts : W64), s.par.hasPart part = true → ¬ part ∈ s.spine.episodes →
     bit (s.rises part) 5 = false →
     ∃ t, exec (.summaryEdge part ts) s = .next t ∧
       t.spine.levels = mput 0 s.spine.levels part (s.levels part) ∧
       t.spine.errOut = { s.spine.errOut with
         active := s.spine.errOut.active || bit (s.rises part) 2
         hold := s.spine.errOut.hold || (bit (s.rises part) 2 && s.spine.errOut.autohold) } ∧
       t.spine.crstDue = (s.spine.crstDue || bit (s.rises part) 4) ∧
       t.spine.nmi = (if bit (s.rises part) 3 = true ∧ s.spine.nmi = none
         then some (BitVec.ofNat 9 part, s.nmiSource part) else s.spine.nmi) ∧
       t.spine.nmiLost = (if bit (s.rises part) 3 = true ∧ s.spine.nmi ≠ none
         then satInc 255 s.spine.nmiLost else s.spine.nmiLost) ∧
       t.slices = s.slices ∧ t.shims = s.shims ∧ t.mesh = s.mesh ∧
       (s.hall.fatalDue = 0 → bit (s.rises part) 4 = false ∨ s.crstFatal part = true → t.hall = s.hall) ∧
       (s.hall.flush = none → s.hall.lgEn = false → t.hall = { s.hall with fatalDue := 0 }) ∧
       (s.hall.flush = none → s.hall.lgEn = true → (s.fn s.hall.lgFunc).up = true →
         s.hall.fatalDue ≠ 0 ∨ (bit (s.rises part) 4 = true ∧ s.crstFatal part = false) →
         t.hall.flush = some { reason := 1, recs := s.hall.buf
                               start := if s.hall.lastTs.toNat ≤ ts.toNat then ts else s.hall.lastTs } ∧ t.hall.fatalDue = 0 ∧
         t.hall.flushNo = s.hall.flushNo + BitVec.ofNat 32 (s.hall.fatalDue +
           if bit (s.rises part) 4 = true ∧ s.crstFatal part = false then 1 else 0))) ∧
  (∀ (s : State) (part : Nat), s.par.wiredPart part = true → (s.injOf part).source ≠ 0x65#8 →
     (∀ pairs, pairs % 64 ≠ 0 → ¬ part ∈ s.spine.episodes →
       ∃ t, exec (.dualRailMismatch part pairs) s = .next t ∧ t.spine.episodes = s.spine.episodes ++ [part] ∧
         bit t.spine.assay.status 5 = true ∧
         (s.spine.assay.first.valid = false → t.spine.assay.first.syndrome = BitVec.ofNat 16 (pairs % 64)) ∧
         t.slices = s.slices ∧ t.shims = s.shims ∧ t.ports = s.ports ∧ t.fns = s.fns) ∧
     (∀ pairs, part ∈ s.spine.episodes → exec (.dualRailMismatch part pairs) s = .next s) ∧
     (part ∈ s.spine.episodes →
       exec (.dualRailMaintRead part) s = .next (actLevels part s) ∧ exec (.summaryEdge part) s = .next s) ∧
     (∃ t, exec (.dualRailEpisodeEnd part) s = .next t ∧ ¬ part ∈ t.spine.episodes ∧
       (∀ p, p ≠ part → (p ∈ t.spine.episodes ↔ p ∈ s.spine.episodes)) ∧
       t = s.updSpine fun sp => { sp with episodes := t.spine.episodes })) ∧
  (∀ (s : State) (n : Nat) (ts : W64), s.canon = true → n < s.par.nSlice → n < 68 →
     let part := (sliceNode n).toNat
     ¬ part ∈ s.spine.episodes → bit (s.rises part) 5 = true → bit (s.rises part) 4 = false → s.hall.fatalDue = 0 →
     (∀ j ∈ s.spine.jobs, j.id < s.spine.nextJob) →
     let c := (s.slice n).conds
     let same (t : State) : Prop := t.slices = s.slices ∧ t.shims = s.shims ∧ t.mesh = s.mesh ∧ t.wires = s.wires ∧ t.spine.jobs = s.spine.jobs
     let reset (t : State) : Prop :=
       (t.slice n).conds.phase = .seed ∧ (t.slice n).conds.seedNext = .resetRetain ∧ (t.slice n).arr = {} ∧ (t.slice n).trk = [] ∧
       (t.slice n).mb = [] ∧ (t.slice n).scans = [] ∧ (t.slice n).fineDis = 0 ∧ (∀ b, b < 4096 → (t.bkt n b).kind = .none)
     ∃ t, exec (.summaryEdge part ts) s = .next t ∧
       (c.phase = .retain → reset t ∧ t.spine.srst = s.spine.srst ∧ ∀ m, m ≠ n → t.slice m = s.slice m) ∧
       (c.phase = .hold → c.hSalv = false → s.heldBuckets n = [] → ¬ n ∈ s.spine.offDue → reset t ∧ ¬ n ∈ t.spine.salvageQ) ∧
       ((c.phase = .hold ∧ (c.hSalv = true ∨ s.heldBuckets n ≠ [] ∨ n ∈ s.spine.offDue)) ∨ c.phase = .seed →
         same t ∧ t.hall = s.hall ∧ n ∈ t.spine.srst ∧ ∀ m, m ≠ n → (m ∈ t.spine.srst ↔ m ∈ s.spine.srst)) ∧
       (c.phase = .off → same t ∧ t.hall = s.hall ∧ t.spine.srst = s.spine.srst) ∧
       (c.phase = .service → s.evacRefused n = none → s.heldBuckets n ≠ [] →
         ((t.slice n).conds.phase = .service ∧ ∃ j ∈ t.spine.jobs, j.cmd = none ∧
           j.kind = .evacuate n (decide ((s.slice n).mode = .limp ∨ (s.slice n).mode = .broadcast)) 0 true)) ∧
       (c.phase = .service → s.evacRefused n ≠ none →
         same t ∧ t.spine.srst = s.spine.srst ∧
         t.hall = (s.feed spineFeed (hrec 0x301 1 spineNode (p48 (n + 512)) (p48 0) 0)).hall))

/-- 16 R402, R404, R405, R406, R409: a record collected from a part's feed, in the feed's turn, gets its time, which is never before
that of the record before it, its SEQ and its destinations, takes a token of its code's bucket, and enters at the end of the buffer,
pending at every destination; nothing is collected from a feed out of its turn. (With room in the buffer, no fatal trigger waiting, no
losses to report, a token left and a severity below 2. The order of the feeds is log 102.) A record whose code has been turned off
since it came to the feed leaves the feed and is neither entered nor counted (R411).

16 R409: a refill gives a code's bucket one token, never more than its BURST; when the bucket has suppressed records, a
summary record (SUMMARY for a code that is no security code) with the count and the times of the first and the last enters the
buffer and the count starts again.

(Not the spec's: the TS of a LOST record, the order of the feeds and their turn are log 102; the other readings of these
rules are log 49.) -/
def Obligations.HallmarkBuffer : Prop :=
  ((∀ (s : State) (node : Nat) (ts : W64) (r : HRec) (l : List HRec), s.par.hasPart node = true → s.hall.pwrFail = false →
     s.hall.fatalDue = 0 → mget [] s.hall.feeds node = r :: l → s.hall.nextFeed = some node → s.codeOff r.code.toNat = false → hmExempt r.code = false → r.sev.toNat < 2 → 0 < (s.hall.bucket r.code.toNat).tokens →
     s.hall.buf.length < 4096 → mget {} s.hall.feedLoss node = {} → (∀ f, (s.fn f).lostRecs = 0) →
     let b := s.hall.bucket r.code.toNat
     exec (.hallmarkCollect node ts) s = .next (s.updHall fun h =>
       { ({ h with feeds := mput [] h.feeds node l, feedTurn := node }.setBucket r.code.toNat { b with tokens := b.tokens - 1 }) with
         buf := h.buf ++ [{ r with
           dest := s.destsOf r, ts := if h.lastTs.toNat ≤ ts.toNat then ts else h.lastTs, seq := h.seq, pend := s.destsOf r }]
         seq := h.seq + 1, lastTs := if h.lastTs.toNat ≤ ts.toNat then ts else h.lastTs })) ∧
   (∀ (s : State) (node : Nat) (ts : W64) (r : HRec) (l : List HRec), s.par.hasPart node = true → s.hall.pwrFail = false →
     s.hall.fatalDue = 0 → mget [] s.hall.feeds node = r :: l → s.hall.nextFeed = some node → s.codeOff r.code.toNat = true →
     mget {} s.hall.feedLoss node = {} → (∀ f, (s.fn f).lostRecs = 0) →
     exec (.hallmarkCollect node ts) s = .next (s.updHall fun h => { h with feeds := mput [] h.feeds node l, feedTurn := node })) ∧
   (∀ (s : State) (node : Nat) (ts : W64), s.par.hasPart node = true → s.hall.fatalDue = 0 → s.hall.nextFeed ≠ some node →
     mget {} s.hall.feedLoss node = {} → (∀ f, (s.fn f).lostRecs = 0) → exec (.hallmarkCollect node ts) s = .next s)) ∧
  ((∀ (s : State) (code : Nat) (ts : W64), hmListed code = true → 3 < code → code < 4096 →
       (s.hall.bucket code).tokens < (s.hall.bucket code).burst → (s.hall.bucket code).count = 0 →
       exec (.tokenRefill code ts) s = .next
         (s.updHall fun h => h.setBucket code { h.bucket code with tokens := (h.bucket code).tokens + 1 })) ∧
   (∀ (s : State) (code : Nat) (ts : W64), (s.hall.bucket code).burst ≤ (s.hall.bucket code).tokens →
       exec (.tokenRefill code ts) s = .next s) ∧
   (∀ (s : State) (code : Nat) (ts : W64), hmListed code = true → 3 < code → code < 4096 → hmSec code = false →
       s.tablesRise = true → s.hall.pwrFail = false → s.hall.buf.length < 4096 → s.codeOff 0x001 = false →
       (s.hall.bucket code).tokens < (s.hall.bucket code).burst → (s.hall.bucket code).count ≠ 0 →
       ∃ t, exec (.tokenRefill code ts) s = .next t ∧
         (t.hall.bucket code).tokens = (s.hall.bucket code).tokens + 1 ∧ (t.hall.bucket code).count = 0 ∧
         t.hall.seq = s.hall.seq + 1 ∧ t.slices = s.slices ∧ t.fns = s.fns ∧ t.spine = s.spine ∧
         ∃ r : HRec, t.hall.buf = s.hall.buf ++ [r] ∧ r.code = 0x001#12 ∧ r.summ = true ∧ r.seq = s.hall.seq ∧
           r.ts = (if s.hall.lastTs.toNat ≤ ts.toNat then ts else s.hall.lastTs) ∧
           r.p0 = p48 (code + 65536 * (s.hall.bucket code).count) ∧ r.p1 = (s.hall.bucket code).first ∧
           r.p2 = (s.hall.bucket code).last ∧ r.dest = (s.hall.bucket code).dest ∧ r.pend = r.dest))

/-- 16 R408, 12 R320: the oldest record pending at a function whose event ring runs is written to the ring's next entry with
the PHASE of that place; the record stops being pending there, EVT_PIDX moves on, and a record written to an empty ring raises
the ring's vector. (With no losses to report.)

16 R411, R413 to R415: hk_pwr_fail puts the one POWER_FAIL record into the buffer, unless its code is turned off, and, when the
last-gasp settings allow one, starts a flush of the buffer with reason 2, writing byte 0 of the header, VALID, as 0; each write
carries the next 16 records, in order; the last is followed by the zeros of the header page (when they are written is log 102), the
header's bytes 1 to 31 of Table 16-6 and then VALID as 1, and a FLUSH_DONE record goes to the spine's feed. Nothing is collected after
hk_pwr_fail. (The writes are those that the Range Guard lets pass.)

(Not the spec's: what the header page holds besides its fields is log 102; which records a flush takes is log 49.) -/
def Obligations.HallmarkOutputs : Prop :=
  (∀ (s : State) (fn : Nat) (o : HRec) (ts : W64), s.canon = true → fn < s.par.nFunc → fn < 16 →
     s.hall.buf.find? (fun o => bit o.pend fn) = some o →
     (s.fn fn).evt.en = true → (s.fn fn).evt.stop = false → (s.fn fn).evt.full = false → (s.fn fn).up = true →
     (∀ f, (s.fn f).lostRecs = 0) →
     ∀ hostAt, s.hostAddr fn ((s.fn fn).evt.entryAddr (s.fn fn).evt.pidx 32) true = some hostAt → (hostCheck fn hostAt true s).2 = s →
       (hostCheck fn hostAt true s).1 = true →
     ∃ t, exec (.eventRingWrite fn .done ts) s = .next t ∧
       (t.fn fn).evt = { (s.fn fn).evt with pidx := (s.fn fn).evt.next (s.fn fn).evt.pidx } ∧
       (∀ f, f ≠ fn → t.fn f = s.fn f) ∧ t.slices = s.slices ∧ t.shims = s.shims ∧ t.mesh = s.mesh ∧
       t.hall = { s.hall with buf := s.hall.buf.map fun q =>
         if q.seq = o.seq ∧ q.ts = o.ts then { q with pend := setBit q.pend fn false } else q } ∧
       Out.hostWrite fn hostAt (bytesOf (o.word ((s.fn fn).evt.phase (s.fn fn).evt.pidx)) 32) ∈ t.out ∧
       ((s.fn fn).evt.count = 0 → (s.fn fn).functionMask = false → ((s.fn fn).vec (s.fn fn).evtVec).mask = false →
         Out.msix fn (s.fn fn).evtVec ((s.fn fn).vec (s.fn fn).evtVec).addr ((s.fn fn).vec (s.fn fn).evtVec).data ∈ t.out)) ∧
  ((∀ (s : State) (ts : W64), s.canon = true → s.hall.pwrFail = false → s.hall.flush = none → s.hall.buf.length < 4096 →
       let now := if s.hall.lastTs.toNat ≤ ts.toNat then ts else s.hall.lastTs
       ∃ t, exec (.powerFailWarning ts) s = .next t ∧ t.hall.pwrFail = true ∧
         (s.codeOff 0x005 = false →
           ∃ r : HRec, t.hall.buf = s.hall.buf ++ [r] ∧ r.code = 0x005#12 ∧ r.ts = now ∧ r.seq = s.hall.seq) ∧
         (s.codeOff 0x005 = true → t.hall.buf = s.hall.buf) ∧
         ((s.hall.lgEn && (s.fn s.hall.lgFunc).up) = true →
           t.hall.flush = some { reason := 2, recs := t.hall.buf, start := now } ∧ t.hall.flushNo = s.hall.flushNo + 1 ∧
           (s.ringOk (BitVec.ofNat 52 (s.hall.lgBase.toNat * 4096)) s.hall.lgFunc = true →
             Out.hostWrite s.hall.lgFunc (BitVec.ofNat 64 (s.hall.lgBase.toNat * 4096)) [0] ∈ t.out)) ∧
         ((s.hall.lgEn && (s.fn s.hall.lgFunc).up) = false → t.hall.flush = none) ∧
         t.slices = s.slices ∧ t.shims = s.shims ∧ t.mesh = s.mesh) ∧
   (∀ (s : State) (ts : W64) (x : Flush), s.hall.flush = some x → s.hall.pwrFlush = false →
       (s.fn s.hall.lgFunc).up = true → x.written + 16 < x.recs.length →
       ∃ t, exec (.lastGaspWrite ts) s = .next t ∧ t.hall.flush = some { x with written := x.written + 16 } ∧
         t.hall.buf = s.hall.buf ∧
         t = (gaspWrite (4096 + 32 * x.written)
           (((x.recs.drop x.written).take 16).flatMap fun r => bytesOf (r.word false) 32) s).updHall
             fun h => { h with flush := some { x with written := x.written + 16 } }) ∧
   (∀ (s : State) (ts : W64) (x : Flush), s.hall.flush = some x → s.hall.pwrFlush = false →
       (s.fn s.hall.lgFunc).up = true → x.recs.length ≤ x.written + 16 →
       let a (off : Nat) : W64 := BitVec.ofNat 64 (s.hall.lgBase.toNat * 4096 + off)
       let l := x.recs.drop x.written
       ∃ t, exec (.lastGaspWrite ts) s = .next t ∧ t.hall.flush = none ∧ t.hall.buf = s.hall.buf ∧ t.fns = s.fns ∧
         t.spine = s.spine ∧ t.slices = s.slices ∧ t.shims = s.shims ∧
         ∃ h : BitVec 256, bits h 0 8 = 0#8 ∧ bits h 8 8 = BitVec.ofNat 8 x.reason ∧ bits h 16 16 = BitVec.ofNat 16 x.recs.length ∧
           bits h 32 32 = s.hall.flushNo ∧ bits h 64 16 = (match x.recs with | r :: _ => r.seq | [] => 0) ∧ bits h 80 48 = 0#48 ∧
           bits h 128 64 = x.start ∧ bits h 192 64 = (if s.hall.lastTs.toNat ≤ ts.toNat then ts else s.hall.lastTs) ∧
           ((∀ off, off ≤ 4096 + 32 * x.written → s.ringOk (BitVec.ofNat 52 (s.hall.lgBase.toNat * 4096 + off)) s.hall.lgFunc = true) →
             t.out = s.out ++
               (if l = [] then [] else
                 [Out.hostWrite s.hall.lgFunc (a (4096 + 32 * x.written)) (l.flatMap fun r => bytesOf (r.word false) 32)]) ++
               [Out.hostWrite s.hall.lgFunc (a 32) (List.replicate 4064 0), Out.hostWrite s.hall.lgFunc (a 1) ((bytesOf h 32).drop 1),
                Out.hostWrite s.hall.lgFunc (a 0) [1]] ∧
             t.hall = (({ s with hall := { s.hall with flush := none } } : State).feed spineFeed
               (hrec 0x004 0 spineNode (p48 (x.reason + 65536 * s.hall.flushNo.toNat)) (p48 x.recs.length) 0)).hall)) ∧
   (∀ (s : State) (node : Nat) (ts : W64), s.par.hasPart node = true → s.hall.pwrFail = true → s.hall.fatalDue = 0 →
       exec (.hallmarkCollect node ts) s = .next s))

/-- 18 R445, 11 R288: a whole register read answers with the register's value, behind nothing when no window operation
waits, and changes nothing else, but for SPN_SQ_DATA, whose read removes the head word (16 R419). A read of the lower half
of a 64-bit register keeps the upper half, and the read of the upper half that follows returns what was kept; of SPN_SQ_DATA it
removes the word if it was VALID. A read of BAR2 answers 0 (12 R300); one of a doorbell discards the halves kept. A request outside 4 or 8 aligned bytes is a Completer Abort and changes no register (11 R279).

18 R445, 11 R279: a 64-bit register takes a write of 8 bytes whole. Written in two halves, the lower one only waits, and
the upper one writes both: the two commands together do what the one does. A write that a function's rights refuse changes no
register and makes one record (11 R281). The time that a write may give is the latest known from then on (log 102).

18 R446, R447, Tables 18-2 to 18-7 and the tables that they name: what a register reads after a write of v to the bits of mask.
A RW field holds what was written, the nearest legal value where its range is less (and a reserved MOVE_CFG code leaves the register),
a reserved or RO field reads as before, a bit of a W1C field that was written as 1 reads 0; a RWL field takes nothing once the set-up
lock is set; a register with no writable field, and the reserved bits of one with RWT fields, change nothing. No other register
changes: of the function's block only its function does, of the SPN_ block the spine (or Hallmark's queue), of an instance only that
slice or shim. A write that the rights refuse changes no register at all: the spine's feed takes its one record, if it has room and the
code is on.

(Not the spec's: a read behind window operations is log 47 (here none waits); the time of an access is log 102.) -/
def Obligations.RegisterAccesses : Prop :=
  ((∀ (s : State) (f off size : Nat), s.canon = true → f < s.par.nFunc → (s.fn f).bars = true → (s.fn f).win = [] →
     (s.fn f).winSt = .idle → s.noSync = true →
     (aligned off size = true → off < 0x1000 → bellAt off = none ∨ (s.fn f).half = .none →
       exec (.registerRead f off size 2) s = .next (s.emit (.readDone f false 0))) ∧
     (∀ a v, aligned off size = true → (bellAt off).isSome = true → (s.fn f).half = .latched a v ∨ (s.fn f).half = .staged a v →
       exec (.registerRead f off size 2) s = .next ((setHalf f .none s).emit (.readDone f false 0))) ∧
     (aligned off size = false → off < 0x10000 →
       exec (.registerRead f off size 0) s = .next ((completerAbort f s).emit (.readDone f true 0)) ∧
       ∀ v, exec (.registerWrite f off size v 0) s =
         .next (if (s.fn f).room true size = true then completerAbort f s else s))) ∧
   ∀ (s : State) (f off : Nat) (r : Reg) (hi : Bool), s.canon = true → f < s.par.nFunc → s.reads f off = true →
     s.regAt f off = some (r, hi) → off % 4 = 0 → off < 0x10000 →
     (hi = false → r.wide = true → off % 8 = 0 → (s.fn f).half = .none →
       exec (.registerRead f off 8 0) s = .next ((readWhole r s).emit (.readDone f false (s.regWord f r)))) ∧
     (r.wide = false → (s.fn f).half = .none →
       exec (.registerRead f off 4 0) s =
         .next (s.emit (.readDone f false ((bits (s.regWord f r) 0 32).setWidth 64)))) ∧
     (hi = false → r.wide = true → (s.fn f).half = .none →
       exec (.registerRead f off 4 0) s =
         .next ((setHalf f (.latched off (bits (s.regWord f r) 32 32)) s).emit
           (.readDone f false ((bits (s.regWord f r) 0 32).setWidth 64)))) ∧
     (∀ v : BitVec 32, hi = true → (s.fn f).half = .latched (off - 4) v →
       exec (.registerRead f off 4 0) s =
         .next ((if r = .sqData ∧ bit v 0 = true then (setHalf f .none s).updHall sqPop else setHalf f .none s).emit
           (.readDone f false (v.setWidth 64)))) ∧
     (hi = false → r = .sqData → off % 8 = 0 → (s.fn f).half = .none →
       exec (.sqDataRead f off 8) s = .next ((s.updHall sqPop).emit (.readDone f false s.hall.sqWord)))) ∧
  (∀ (s : State) (f off : Nat) (r : Reg) (v : W64), s.canon = true → f < s.par.nFunc →
     s.regAt f off = some (r, false) → off % 8 = 0 → off < 0x10000 → (s.fn f).half = .none →
     (s.writes f off = true → r.wide = true → exec (.registerWrite f off 8 v 0) s = .next (writeReg f off r v (BitVec.allOnes 64) s)) ∧
     (s.writes f off = true → r.wide = true → s.regAt f (off + 4) = some (r, true) →
       ∃ t u, exec (.registerWrite f off 4 v 0) s = .next t ∧ t = setHalf f (.staged off (bits v 0 32)) s ∧
         exec (.registerWrite f (off + 4) 4 (v >>> 32) 0) t = .next u ∧ exec (.registerWrite f off 8 v 0) s = .next u) ∧
     (s.writes f off = true → r.wide = false → exec (.registerWrite f off 4 v 0) s =
       .next (writeReg f off r ((bits v 0 32).setWidth 64) 0xFFFFFFFF#64 s)) ∧
     (∀ size bar ts, exec (.registerWrite f off size v bar ts) s = exec (.registerWrite f off size v bar)
       { s with hall := { s.hall with lastTs := if s.hall.lastTs.toNat ≤ ts.toNat then ts else s.hall.lastTs } }) ∧
     (∀ size, size = 4 ∨ size = 8 → (s.fn f).bars = true → (s.fn f).room true size = true → s.mayAccess f off true = false →
       s.mayAccess f (off + 4) true = false → exec (.registerWrite f off size v 0) s = .next (regDenied f off true s))) ∧
  (∀ (s : State) (f off : Nat) (v mask : W64), s.canon = true → s.tablesRise = true → f < s.par.nFunc →
     let w (r : Reg) : State := writeReg f off r v mask s
     let nv (r : Reg) : W64 := (s.regWord f r &&& ~~~ mask) ||| (v &&& mask)
     let fld (r : Reg) (lo len : Nat) : Nat := (nv r).toNat / 2 ^ lo % 2 ^ len
     let only (r : Reg) : Prop := ∀ g q, (g ≠ f ∨ q ≠ r) → (w r).regWord g q = s.regWord g q
     let ofFn (r : Reg) (m : W64) : Prop :=
       (w r).regWord f r = nv r &&& m ∧ only r ∧ w r = s.updFn f fun _ => (w r).fn f
     let ofSpine (r : Reg) (x : W64) : Prop :=
       (∀ g, (w r).regWord g r = x) ∧ (∀ g q, q ≠ r → (w r).regWord g q = s.regWord g q) ∧
       w r = { s with spine := (w r).spine, hall := { s.hall with sqCfg := (w r).hall.sqCfg, sqDropped := (w r).hall.sqDropped } }
     let ofInst (r : Reg) (x : W64) : Prop :=
       (∀ g, (w r).regWord g r = x) ∧ (∀ g q, q ≠ r → (w r).regWord g q = s.regWord g q) ∧ (w r).spine = s.spine ∧ (w r).fns = s.fns
     (ofFn .indSel 0x01FF0001 ∧ ofFn .fnVec 0x3F3F3F ∧ ofFn .assayCfg 0x3F0F ∧ ofFn .hmCfg 1 ∧
       (∀ k, ofFn (.wtt k) 0xFFFFFFFFFFFFF) ∧ (∀ k hi, ofFn (.msixAddr k hi) 0xFFFFFFFF ∧ ofFn (.msixData k) 0xFFFFFFFF) ∧
       w .ringStatus = (if bit (v &&& mask) 12 then s.updFn f fun x => { x with dberr := false } else s) ∧
       (∀ i, ((s.fn f).ring i).en = false → ofFn (.ringBase i) 0xFFFFFFFFFF000) ∧
       (∀ i, ((s.fn f).ring i).en = true → w (.ringBase i) = s)) ∧
     (ofSpine .mbCfg (nv .mbCfg &&& 0xFF) ∧
       ofSpine .moveCfg (if fld .moveCfg 0 2 = 3 then s.regWord f .moveCfg else nv .moveCfg &&& 3) ∧
       ofSpine .temperCfg (packWord [(0, max 1 (min 100 (fld .temperCfg 0 7))), (8, max 9 (min 32 (fld .temperCfg 8 6))),
         (16, fld .temperCfg 16 8), (24, max 2 (min 64 (fld .temperCfg 24 7))), (32, min 64 (fld .temperCfg 32 7)),
         (40, max 1 (min 64 (fld .temperCfg 40 7))), (48, fld .temperCfg 48 1)]) ∧
       ofSpine .admitCfg (packWord [(0, max 1 (min 1000 (fld .admitCfg 0 10)))]) ∧
       ofSpine .trayCfg (packWord [(0, fld .trayCfg 0 1), (8, s.spine.trayFt), (12, s.spine.trayHt),
         (26, if s.spine.setup then s.spine.trayBase.toNat else fld .trayCfg 26 26)]) ∧
       ofSpine .wayCfg (packWord [(0, fld .wayCfg 0 8), (8, max 1 (fld .wayCfg 8 16))]) ∧
       ofSpine .sqCfg (nv .sqCfg &&& 0x3F) ∧
       (s.spine.nmiLost < 256 → ofSpine .nmi (s.regWord f .nmi &&& ~~~ (v &&& mask))) ∧
       (s.hall.sqDropped < 256 → s.hall.sq.length < 65536 →
         ofSpine .sqStatus (s.regWord f .sqStatus &&& ~~~ (v &&& mask &&& 0xFF0000))) ∧
       (∀ i, if s.spine.setup then w (.mrt i) = s else ofSpine (.mrt i) (nv (.mrt i) &&& 0xFFFFFFFFFFFFF)) ∧
       (∀ c, srcSec c = false →
         (∀ g, (w (.srcCfg c)).regWord g (.srcCfg c) = packWord [(0, if srcFixed c then 3 else fld (.srcCfg c) 0 2),
           (2, fld (.srcCfg c) 2 5), (8, if srcFixed c then 1 else 0)]) ∧
         (∀ g q, q ≠ .srcCfg c → (w (.srcCfg c)).regWord g q = s.regWord g q) ∧ w (.srcCfg c) = { s with spine := (w (.srcCfg c)).spine })) ∧
     ((∀ n, n < s.par.nSlice →
         ofInst (.stealCfg n) (packWord [(0, max 64 (min 4096 (fld (.stealCfg n) 0 13))), (16, max 2 (min 64 (fld (.stealCfg n) 16 7))),
           (32, max 1 (min 100 (fld (.stealCfg n) 32 7))), (48, min 1000 (fld (.stealCfg n) 48 10))]) ∧
         w (.stealCfg n) = s.updSlice n fun sl => { sl with stealCfg := ((w (.stealCfg n)).slice n).stealCfg }) ∧
       (∀ sh, ofInst (.ctl sh) (nv (.ctl sh) &&& 1) ∧
         w (.ctl sh) = s.updShim sh fun x => { x with autoRetire := ((w (.ctl sh)).shim sh).autoRetire }) ∧
       (∀ sh, ofInst (.pfCtl sh) (packWord [(0, fld (.pfCtl sh) 0 1), (4, max 1 (fld (.pfCtl sh) 4 2)), (8, min 8 (fld (.pfCtl sh) 8 4))]) ∧
         ((w (.pfCtl sh)).shim sh).streams = if fld (.pfCtl sh) 0 1 = 1 then (s.shim sh).streams else [])) ∧
     ((∀ r ∈ [.fnId, .spnId, .spnRev, .warden, .tmSeq, .tmStatus, .blockMode, .sqData, .pba], w r = s) ∧
       (∀ i p n e, w (.ringIdx i) = s ∧ w (.first p true) = s ∧ w (.slcMode n) = s ∧ w (.temper n) = s ∧ w (.energy n) = s ∧
         w (.calStatus n) = s ∧ w (.rcpAct n e) = s ∧ w (.rcpShd n e) = s ∧ w (.hlcFlags n e) = s ∧ w (.bkt n e) = s ∧
         w (.rev n) = s ∧ w (.drainLo n) = s ∧ w (.drainHi n) = s ∧ w (.bmap n e) = s) ∧
       (∀ r : Reg, r.rwt ≠ 0 → (∀ c, r ≠ .srcCfg c) → r.rwt &&& mask = 0 → w r = s)) ∧
     ∀ wr, let t := regDenied f off wr s
       (∀ g q, t.regWord g q = s.regWord g q) ∧ t = { s with hall := t.hall } ∧ t.hall.buf = s.hall.buf ∧ t.hall.sq = s.hall.sq ∧
       (s.codeOff 0x201 = false → (mget [] s.hall.feeds spineFeed).length < 8 →
         ∃ r : HRec, mget [] t.hall.feeds spineFeed = mget [] s.hall.feeds spineFeed ++ [r] ∧ r.code = 0x201#12 ∧
           r.source = fnNode f ∧ r.p0 = p48 (f + if wr then 65536 else 0) ∧ r.p1 = p48 off ∧ r.fDest = some f))

/-- 14 R370, 15 Table 15-1 0x66: a write that touches an RWT field of a register changes no register: it raises source 0x66 of
the spine, and the protection set, the settings of Hallmark, the functions' rights and the shims stay as they are. -/
def Obligations.ProtectedFieldsHold : Prop :=
  ∀ (s : State) (f off : Nat) (r : Reg) (v mask : W64), r.rwt &&& mask ≠ 0 →
    let t := writeReg f off r v mask s
    bit t.spine.assay.status 6 = true ∧ t.spine.prot = s.spine.prot ∧ t.spine.srcCfg = s.spine.srcCfg ∧ t.fns = s.fns ∧
    t.shims = s.shims ∧ t.slices = s.slices ∧ t.hall.secDest = s.hall.secDest ∧ t.hall.lgEn = s.hall.lgEn ∧
    t.hall.lgBase = s.hall.lgBase ∧ t.hall.lgFunc = s.hall.lgFunc

/-- 01 R14, 15 R383, R387, R391, R399, 18 R449, R452: the rows that write one register of the SPN_ block or of a part. The set-up
lock stays set; a tray segment is taken only while the tray is off and its slice serves and is named by no other segment;
VALID and OVF of the first-error record clear together; a status register loses exactly the bits written as 1; an injection
is armed only for a source that the part can invert; SPN_ERR_OUT keeps a pulse of at least 100 ACLK, 1 us (Table 15-8). -/
def Obligations.SpineRegisterRows : Prop :=
  ∀ (s : State) (f off : Nat) (v : W64), s.canon = true → f < s.par.nFunc → s.writes f off = true → off % 8 = 0 →
    off < 0x10000 → (s.fn f).half = .none →
    (off = 0x1010 → bit v 0 = true →
      exec (.setupLockSet f off 4 v) s = .next (s.updSpine fun sp => { sp with setup := true })) ∧
    (∀ k, off = 0x1200 + 8 * k → k < 64 →
      exec (.traySegWrite f off 8 v) s = .next
        (if s.spine.trayEn = true ∨ (bit v 0 = true ∧ ((s.slice (wordAt v 8 7)).serving = false ∨ s.par.nSlice ≤ wordAt v 8 7 ∨
              ∃ kv ∈ s.spine.traySeg, kv.1 ≠ k ∧ kv.2.valid = true ∧ kv.2.slice = wordAt v 8 7)) then s
         else s.updSpine fun sp => { sp with traySeg := mput {} sp.traySeg k { valid := bit v 0, slice := wordAt v 8 7 } })) ∧
    (∀ p, s.regAt f off = some (.first p false, false) → bit v 0 = true →
      exec (.firstErrorClear f off 8 v) s =
        .next (s.updAssay p fun a => { a with first := { a.first with valid := false, ovf := false } })) ∧
    (∀ p, s.regAt f off = some (.status p, false) →
      ∃ t, exec (.assayStatusClear f off 8 v) s = .next t ∧
        (t.assayOf p).status = (s.assayOf p).status &&& ~~~ v ∧ (t.assayOf p).first = (s.assayOf p).first ∧
        t.hall = s.hall ∧ t.mesh = s.mesh ∧ ∀ n, (t.slice n).conds = (s.slice n).conds ∧ (t.slice n).arr = (s.slice n).arr) ∧
    (∀ p, s.regAt f off = some (.inj p, false) →
      exec (.faultInjectArm f off 4 v) s = .next
        (if injectable p (wordAt v 0 8) = true then s.updAssay p fun a =>
          { a with inj := { source := bits v 0 8, count := bits v 8 8, mode := bit v 16 } } else s)) ∧
    (off = 0x1078 →
      exec (.errOutWrite f off 4 v) s = .next (s.updSpine fun sp => { sp with errOut :=
        { sp.errOut with hold := bit v 0, autohold := bit v 1, pulse := max 100 (wordAt v 16 16) } }))

/-- 12 R299, R303, R318 to R321: a ring is enabled with both its indices 0 and LOG2SIZE within its limits, and disabled with
all else kept (the completion ring only while no command is in flight); each bit written to FN_RING_CTL restarts its ring and
clears its cause, the other rings staying as they are. The event ring enabled, the losses held for it are reported at once (16 R406;
their time is the one that the write gives, or the latest known, log 102).

(Not the spec's: that a stop stays until RESUME is log 48; the time of the losses reported is log 102.) -/
def Obligations.RingControl : Prop :=
  ∀ (s : State) (f : Nat) (v ts : W64), s.canon = true → f < s.par.nFunc → (s.fn f).bars = true → (s.fn f).half = .none →
    (s.fn f).room true 4 = true →
    (∀ i, bit v 8 = true → ((s.fn f).ring i).en = false →
      ∃ t u, exec (.ringEnable f (cfgOff i) 4 v ts) s = .next u ∧
        u = (if i = .evt then reportBuf t.hall.lastTs t else t) ∧ ((∀ g, (s.fn g).lostRecs = 0) → u = t) ∧
        (t.fn f).ring i = { (s.fn f).ring i with
          log2 := clampTo (minLog2 i) 16 (wordAt v 0 5), en := true, pidx := 0, cidx := 0 } ∧
        (∀ j, j ≠ i → (t.fn f).ring j = (s.fn f).ring j) ∧
        t = { s with fns := t.fns, hall := { s.hall with
          lastTs := if s.hall.lastTs.toNat ≤ ts.toNat then ts else s.hall.lastTs } } ∧ ∀ g, g ≠ f → t.fn g = s.fn g) ∧
    (∀ i, bit v 8 = false → ((s.fn f).ring i).en = true → (i = .cpl → ∀ k ∈ (s.fn f).taken, k.orphan = true) →
      exec (.ringDisable f (cfgOff i) 4 v) s = .next (updRing f i (fun r => { r with en := false }) s)) ∧
    (bit v 8 = false → (s.fn f).cpl.en = true → (∃ k ∈ (s.fn f).taken, k.orphan = false) →
      exec (.ringDisable f (cfgOff .cpl) 4 v) s = .next s) ∧
    (∀ i : RingId, bit v i.num = true →
      ∃ t, exec (resumeCmd f i v) s = .next t ∧ (∀ j : RingId, (t.fn f).ring j =
          if bit v j.num = true then { (s.fn f).ring j with stop := false, cause := 0 } else (s.fn f).ring j) ∧
        t = { s with fns := t.fns } ∧ ∀ g, g ≠ f → t.fn g = s.fn g)

/-- 12 R300, R301: a doorbell with a value its ring can have moves the index (CMD_PIDX, CPL_CIDX, EVT_CIDX); the other rings
stay as they are, and the halves kept for other registers are discarded (18 R445). A 4-byte write of BAR2 at offset 0x000, 0x008 or 0x010 is that doorbell (Table 12-2).

12 R301, R302: a doorbell value that the ring cannot have moves no index of any ring: it sets DBERR. On a disabled ring a
doorbell does nothing but discard the halves kept (18 R445), and while BAR requests are not answered it is an unsupported request (11 R293), which the function
reports under Advanced Error Reporting. -/
def Obligations.Doorbells : Prop :=
  ((∀ (s : State) (f : Nat) (v : BitVec 32) (i : RingId),
     exec (.registerWrite f (8 * i.num) 4 (v.setWidth 64) 2) s = exec (bellCmd f i v) s) ∧
   ∀ (s : State) (f : Nat) (v : BitVec 32), s.canon = true → f < s.par.nFunc → (s.fn f).bars = true →
     (s.fn f).room true 4 = true →
     ((s.fn f).cmd.en = true → v.toNat < (s.fn f).cmd.span → (s.fn f).cmd.ahead (s.fn f).cmd.cidx v.toNat ≤ (s.fn f).cmd.size →
       ∃ t, exec (.doorbellCmdPidx f v) s = .next t ∧ (t.fn f).cmd = { (s.fn f).cmd with pidx := v.toNat } ∧
         (t.fn f).half.latch = none ∧ (t.fn f).half.stage = none ∧
         (t.fn f).cpl = (s.fn f).cpl ∧ (t.fn f).evt = (s.fn f).evt ∧ (t.fn f).taken = (s.fn f).taken ∧
         t = { s with fns := t.fns }) ∧
     ((s.fn f).cpl.en = true → v.toNat < (s.fn f).cpl.span → (s.fn f).cpl.ahead (s.fn f).cpl.cidx v.toNat ≤ (s.fn f).cpl.count →
       ∃ t, exec (.doorbellCplCidx f v) s = .next t ∧ (t.fn f).half.latch = none ∧ (t.fn f).half.stage = none ∧
         t = s.updFn f fun x => { x with cpl := { x.cpl with cidx := v.toNat }, half := (t.fn f).half }) ∧
     ((s.fn f).evt.en = true → v.toNat < (s.fn f).evt.span → (s.fn f).evt.ahead (s.fn f).evt.cidx v.toNat ≤ (s.fn f).evt.count →
       ∃ t, exec (.doorbellEvtCidx f v) s = .next t ∧ (t.fn f).evt = { (s.fn f).evt with cidx := v.toNat } ∧
         (t.fn f).half.latch = none ∧ (t.fn f).half.stage = none ∧
         (t.fn f).cmd = (s.fn f).cmd ∧ (t.fn f).cpl = (s.fn f).cpl ∧ t.slices = s.slices ∧ t.hall = s.hall)) ∧
  (∀ (s : State) (f : Nat) (i : RingId) (v : BitVec 32), s.canon = true → f < s.par.nFunc →
     ((s.fn f).bars = true → ((s.fn f).ring i).en = true → (s.fn f).room true 4 = true → badBell ((s.fn f).ring i) i v.toNat = true →
       ∃ t, exec (bellCmd f i v) s = .next t ∧ (t.fn f).dberr = true ∧ (∀ j, (t.fn f).ring j = (s.fn f).ring j) ∧
         (t.fn f).taken = (s.fn f).taken ∧ t.slices = s.slices ∧ t.spine = s.spine) ∧
     ((s.fn f).bars = true → ((s.fn f).ring i).en = false → (s.fn f).half = .none → exec (bellCmd f i v) s = .next s) ∧
     (∀ a h, (s.fn f).bars = true → ((s.fn f).ring i).en = false → (s.fn f).room true 4 = true →
       (s.fn f).half = .latched a h ∨ (s.fn f).half = .staged a h → exec (bellCmd f i v) s = .next (setHalf f .none s)) ∧
     ((s.fn f).bars = false → exec (bellCmd f i v) s = .next (unsupported f s)))

/-- 12 R302, R318: a fetched descriptor with the expected PHASE is taken: CMD_CIDX moves on and the command stands last among
those taken, behind every command taken before. One with the other PHASE is read again, and after four retries the ring stops with cause 6, taking nothing.

12 R307, R308, Table 12-7: the oldest held entry is written to the completion ring's next place with the PHASE of that
place, CPL_PIDX moves on, and the vector is raised when the command asked for it or did not end OK.

(Not the spec's: that a denied fetch never has the PHASE awaited is log 48.) -/
def Obligations.RingTraffic : Prop :=
  (∀ (s : State) (f : Nat) (l : List Byte), s.canon = true → f < s.par.nFunc → (s.fn f).canFetch = true →
     ∀ hostAt, s.hostAddr f ((s.fn f).cmd.entryAddr (s.fn f).cmd.cidx 64) false = some hostAt → (hostCheck f hostAt false s).1 = true →
     (hostCheck f hostAt false s).2 = s →
     (bit (BitVec.ofNat 512 (ofBytes (l.take 64))) 8 = (s.fn f).cmd.phase (s.fn f).cmd.cidx →
       ∃ t, exec (if (s.fn f).retries = 0 then .commandFetch f (.bytes l) else .descriptorRefetch f (.bytes l)) s = .next t ∧
         (t.fn f).cmd = { (s.fn f).cmd with cidx := (s.fn f).cmd.next (s.fn f).cmd.cidx } ∧ (t.fn f).retries = 0 ∧
         ∃ k : Taken, (t.fn f).taken = (s.fn f).taken ++ [k] ∧ k.desc = BitVec.ofNat 512 (ofBytes (l.take 64)) ∧
           k.ring = (s.fn f).cmd.cidx ∧ k.seq = s.spine.nextTake ∧ t.spine.nextTake = s.spine.nextTake + 1 ∧
           Out.hostRead f hostAt 64 ∈ t.out ∧ k.idx = (s.fn f).nextCmd ∧ k.started = false ∧ k.orphan = false ∧
           (t.fn f).nextCmd = (s.fn f).nextCmd + 1) ∧
     (bit (BitVec.ofNat 512 (ofBytes (l.take 64))) 8 ≠ (s.fn f).cmd.phase (s.fn f).cmd.cidx →
       ∃ t, exec (if (s.fn f).retries = 0 then .commandFetch f (.bytes l) else .descriptorRefetch f (.bytes l)) s = .next t ∧
         (t.fn f).taken = (s.fn f).taken ∧ (t.fn f).cmd.cidx = (s.fn f).cmd.cidx ∧
         ((s.fn f).retries < 4 → (t.fn f).retries = (s.fn f).retries + 1 ∧ (t.fn f).cmd = (s.fn f).cmd) ∧
         (4 ≤ (s.fn f).retries → (t.fn f).cmd.stop = true ∧ (t.fn f).cmd.cause = 6#3))) ∧
  (∀ (s : State) (f : Nat) (d : Done) (l : List Done), s.canon = true → f < s.par.nFunc → (s.fn f).done = d :: l →
     (s.fn f).cpl.en = true → (s.fn f).cpl.stop = false → (s.fn f).cpl.full = false → (s.fn f).up = true →
     ∀ hostAt, s.hostAddr f ((s.fn f).cpl.entryAddr (s.fn f).cpl.pidx 16) true = some hostAt → (hostCheck f hostAt true s).1 = true →
     (hostCheck f hostAt true s).2 = s →
     ∃ t, exec (.completionWrite f .done) s = .next t ∧ (t.fn f).done = l ∧
       (t.fn f).cpl = { (s.fn f).cpl with pidx := (s.fn f).cpl.next (s.fn f).cpl.pidx } ∧
       (t.fn f).cmd = (s.fn f).cmd ∧ (t.fn f).evt = (s.fn f).evt ∧
       Out.hostWrite f hostAt
         (bytesOf (d.entry ((s.fn f).cpl.phase (s.fn f).cpl.pidx)) 16) ∈ t.out ∧
       ((d.intr = true ∨ d.code ≠ ccOK) → (s.fn f).functionMask = false → ((s.fn f).vec (s.fn f).cplVec).mask = false →
         Out.msix f (s.fn f).cplVec ((s.fn f).vec (s.fn f).cplVec).addr ((s.fn f).vec (s.fn f).cplVec).data ∈ t.out) ∧
       t.slices = s.slices ∧ t.shims = s.shims ∧ t.hall = s.hall ∧ t.mesh = s.mesh)

/-- 11 R292, R293: an interrupt that is pending on a vector is sent when the vector's mask, or the Function Mask, clears; the
vector stops being pending. While the other mask is set it stays pending. A vector's mask is a register of BAR0: its write discards
the halves kept for another (18 R445). The Function Mask lies in configuration space, whose
requests are answered with Retry before hk_ready and after a function-level reset (17 R428).

11 R293, R294, 17 R428: configuration software sets the enables and the power state of a function; no ring, no command, no
register (REGVIEW, WTID, RIGHTS, the vectors' numbers, the settings), no vector's address, data or mask and no window-table entry of the
function changes with them, and no other function; interrupts held back are issued as soon as the function may write again, pending
ones as soon as nothing masks them; without ATS Enable no Translation Request stays outstanding. Before hk_ready, and after a
function-level reset, the requests are answered with Retry and change nothing.

(Not the spec's: their reset values are log 7; how configuration space lays them out is log 81.) -/
def Obligations.FunctionConfiguration : Prop :=
  (∀ (s : State) (f v : Nat), s.canon = true → f < s.par.nFunc → v < 64 → (s.fn f).up = true →
     ((s.fn f).vec v).pending = true →
     ((s.fn f).functionMask = false →
       ∃ t, exec (.msixUnmask f v false) s = .next t ∧ Out.msix f v ((s.fn f).vec v).addr ((s.fn f).vec v).data ∈ t.out ∧
         (t.fn f).vec v = { (s.fn f).vec v with mask := false, pending := false } ∧
         (∀ w, w ≠ v → (t.fn f).vec w = (s.fn f).vec w) ∧ t = { s with fns := t.fns, out := t.out }) ∧
     (((s.fn f).vec v).mask = false → (s.fn f).notReady = false → s.spine.ready = true →
       ∃ t, exec (.msixUnmask f v true) s = .next t ∧ Out.msix f v ((s.fn f).vec v).addr ((s.fn f).vec v).data ∈ t.out ∧ (t.fn f).functionMask = false ∧
         ((t.fn f).vec v).pending = false ∧
         (∀ w, ((s.fn f).vec w).mask = true → (t.fn f).vec w = (s.fn f).vec w) ∧ t = { s with fns := t.fns, out := t.out }) ∧
     ((s.fn f).functionMask = true → exec (.msixUnmask f v false) s =
       .next ((keepHalf f none s).updFn f fun x => x.setVec v { x.vec v with mask := false })) ∧
     (((s.fn f).vec v).mask = true → (s.fn f).notReady = false → s.spine.ready = true →
       ∃ t, exec (.msixUnmask f v true) s = .next t ∧ (t.fn f).functionMask = false ∧ (t.fn f).vec v = (s.fn f).vec v) ∧
     ((s.fn f).notReady = true ∨ s.spine.ready = false → exec (.msixUnmask f v true) s = .next s)) ∧
  (∀ (s : State) (f : Nat), s.canon = true → f < s.par.nFunc →
     ((s.fn f).notReady = false → s.spine.ready = true →
       (∀ bm ms ats fm : Bool, ∃ t, exec (.busMasterEnableChange f bm ms ats fm) s = .next t ∧
         (t.fn f).functionMask = fm ∧ (ats = false → (t.fn f).transReqs = []) ∧ (t.fn f).busMaster = bm ∧ (t.fn f).memSpace = ms ∧ (t.fn f).ats = ats ∧ (t.fn f).d3hot = (s.fn f).d3hot ∧
         (∀ i, (t.fn f).ring i = (s.fn f).ring i) ∧ (t.fn f).taken = (s.fn f).taken ∧ (t.fn f).wtt = (s.fn f).wtt ∧
         ((t.fn f).up = true → (t.fn f).heldMsix = [] ∧ ∀ v, v < 64 → v ∈ (s.fn f).heldMsix ∨ ((s.fn f).vec v).pending = true →
           fm = false → ((s.fn f).vec v).mask = false → Out.msix f v ((s.fn f).vec v).addr ((s.fn f).vec v).data ∈ t.out) ∧
         t.fn f = { s.fn f with
           busMaster := bm, memSpace := ms, ats, functionMask := fm, transReqs := if ats then (s.fn f).transReqs else []
           specReqs := if ats then (s.fn f).specReqs else [], transFails := if ats then (s.fn f).transFails else []
           heldMsix := (t.fn f).heldMsix, msix := (t.fn f).msix } ∧
         (∀ v, ((t.fn f).vec v).addr = ((s.fn f).vec v).addr ∧ ((t.fn f).vec v).data = ((s.fn f).vec v).data ∧
           ((t.fn f).vec v).mask = ((s.fn f).vec v).mask) ∧ (∀ g, g ≠ f → t.fn g = s.fn g) ∧
         ((t.fn f).up = false → fm = true → (t.fn f).heldMsix = (s.fn f).heldMsix) ∧ t.spine = s.spine ∧ t.slices = s.slices) ∧
       (∀ d3 : Bool, ∃ t, exec (.powerStateChange f d3) s = .next t ∧ (t.fn f).d3hot = d3 ∧
         (t.fn f).busMaster = (s.fn f).busMaster ∧ (t.fn f).memSpace = (s.fn f).memSpace ∧
         (∀ i, (t.fn f).ring i = (s.fn f).ring i) ∧ (t.fn f).taken = (s.fn f).taken ∧ (t.fn f).wtt = (s.fn f).wtt ∧
         ((t.fn f).up = true → (t.fn f).heldMsix = []) ∧ t.spine = s.spine ∧ t.slices = s.slices ∧
         t.fn f = { s.fn f with d3hot := d3, heldMsix := (t.fn f).heldMsix, msix := (t.fn f).msix } ∧
         (∀ v, ((t.fn f).vec v).addr = ((s.fn f).vec v).addr ∧ ((t.fn f).vec v).data = ((s.fn f).vec v).data ∧
           ((t.fn f).vec v).mask = ((s.fn f).vec v).mask) ∧ ∀ g, g ≠ f → t.fn g = s.fn g)) ∧
     ((s.fn f).notReady = true ∨ s.spine.ready = false → ∀ bm ms ats fm d3 : Bool,
       exec (.busMasterEnableChange f bm ms ats fm) s = .next s ∧ exec (.powerStateChange f d3) s = .next s) ∧
     exec (.readyForConfigurationRequests f) s = .next (s.updFn f fun x => { x with notReady := false }))

/-- 11 R295, Table 11-8: a function-level reset puts the function's rings, vectors and settings at their reset values, drops
its held entries, its ATC entries and its proposals, and keeps what only the wardens write; commands already taken go on, but
end without an entry: each stays taken, marked so, unless it is a WINDOW_SYNC whose operations are discarded with the reset (R287),
which ends. The ATC entries and the proposals of other functions stay. No other function, no slice and no shim changes. A request
answered with Retry (17 R428) resets nothing. -/
def Obligations.FunctionLevelReset : Prop :=
  ∀ (s : State) (f : Nat), s.canon = true → f < s.par.nFunc → (s.spine.jobs.map (·.id)).Nodup →
    ((s.fn f).notReady = true ∨ s.spine.ready = false → exec (.functionLevelReset f) s = .next s) ∧
    ((s.fn f).notReady = false → s.spine.ready = true → ∃ t, exec (.functionLevelReset f) s = .next t ∧
      (∀ i, (t.fn f).ring i = (Fn.initial f).ring i) ∧ (t.fn f).msix = [] ∧ (t.fn f).wtt = [] ∧ (t.fn f).done = [] ∧
      (t.fn f).notReady = true ∧ (t.fn f).regview = (s.fn f).regview ∧ (t.fn f).wtid = (s.fn f).wtid ∧
      (t.fn f).rights = (s.fn f).rights ∧ (∀ k ∈ (t.fn f).taken, k.orphan = true) ∧
      ((∀ j ∈ s.spine.jobs, ∀ i m, j.cmd = some (f, i) → j.kind ≠ .windowSync m) →
        (t.fn f).taken = (s.fn f).taken.map fun k => { k with orphan := true }) ∧
      (∀ k ∈ (s.fn f).taken, { k with orphan := true } ∈ (t.fn f).taken ∨
        ∃ j ∈ s.spine.jobs, j.cmd = some (f, k.idx) ∧ ∃ m, j.kind = .windowSync m) ∧
      (∀ e, e ∈ t.spine.atc ↔ e.fn ≠ f ∧ e ∈ s.spine.atc) ∧ (∀ p ∈ t.spine.prot.proposals, p.fn ≠ f) ∧
      (∀ p ∈ s.spine.prot.proposals, (∀ q ∈ s.spine.prot.proposals, q.fn = f → q.pid ≠ p.pid) → p ∈ t.spine.prot.proposals) ∧
      (∀ g, g ≠ f → t.fn g = s.fn g) ∧ t.slices = s.slices ∧ t.shims = s.shims ∧ t.ports = s.ports ∧ t.mesh = s.mesh)

/-- 10 R269, R271: a translation that gives the rights asked for enters the ATC and from then on covers the address; no locked
entry loses its lock, and the request for it is no longer outstanding (R268). One that does not give them raises 0x62, a failed or
timed-out one 0x63 with its status in the syndrome, the ATC staying as it is; a speculative translation raises nothing. A completion
that no request awaits is an Unexpected Completion (11 R276). A descriptor fetch whose page the ATC does not translate waits for its
request; the request having failed, the fetch stops the command ring with cause 1 or 2 (12 Table 12-4), and only so: where a
translation stands, an access meets none of these failures.

10 R272: an invalidation request drops every unlocked entry of the function that meets the range and no other, and is
answered.

11 R276: a non-posted request that times out stops the command ring with cause 5, fails the command whose buffer it read with
READFAIL, or, for a translation that an access awaits, raises 0x63 of the spine, an ATC_LOCK ending with WALKERR; the function
reports a Completion Timeout under Advanced Error Reporting. A speculative translation that times out reports and raises nothing, and
a timeout of what was never requested changes nothing.

(Not the spec's: when an entry's faults are raised is log 51; the status of a timeout or a poisoned completion is log 110;
which failures a host access meets is log 120.) -/
def Obligations.Translations : Prop :=
  (∀ (s : State) (f : Nat) (addr : W64) (needWrite : Bool), f < s.par.nFunc → (s.fn f).ats = true →
     (∀ (spec rd wr : Bool) (page : W64) (size : Nat), (s.fn f).requested addr needWrite spec = true →
         (if needWrite then wr else rd) = true →
       ∃ t, exec (.atsTranslationCompletion f addr needWrite spec (.success page size rd wr)) s = .next t ∧
         (∃ e ∈ t.spine.atc, e.covers f addr = true ∧ e.read = rd ∧ e.write = wr) ∧
         (∀ x ∈ s.spine.atc, x.lock = true →
           ∃ y ∈ t.spine.atc, y.fn = x.fn ∧ y.page = x.page ∧ y.sizeLog2 = x.sizeLog2 ∧ y.lock = true) ∧
         t = (if spec then endSpec f addr needWrite s else noteFail f addr needWrite none (endRequest f addr needWrite s)).updSpine
           fun sp => { sp with atc := t.spine.atc }) ∧
     ((s.fn f).requested addr needWrite false = true →
      ∀ (rd wr : Bool) (page : W64) (size : Nat), (if needWrite then wr else rd) = false →
       ∃ t, exec (.atsTranslationCompletion f addr needWrite false (.success page size rd wr)) s = .next t ∧
         bit t.spine.assay.status 2 = true ∧ t.spine.atc = s.spine.atc ∧
         t.fns = (noteFail f addr needWrite (some (false, 0)) (endRequest f addr needWrite s)).fns ∧ t.slices = s.slices) ∧
     (∀ r : Translation, (r = .unsupportedRequest ∨ r = .completerAbort ∨ r = .poisoned ∨ r = .timeout) →
       let st : BitVec 4 := if r = .unsupportedRequest then stUR else if r = .completerAbort then stCA else 0
       let u := endRequest f addr needWrite s
       ((s.fn f).requested addr needWrite false = true →
         ∃ t, exec (.atsTranslationCompletion f addr needWrite false r) s = .next t ∧
         bit t.spine.assay.status 3 = true ∧ t.spine.atc = s.spine.atc ∧
         (s.spine.assay.first.valid = false → t.spine.assay.first.syndrome = BitVec.ofNat 16 (f + 16 * st.toNat)) ∧
         t.fns = (noteFail f addr needWrite (some (true, st)) (if r = .poisoned then setAer f aerPoisoned u
           else if r = .timeout then setAer f aerTimeout u else u)).fns ∧ t.slices = s.slices) ∧
       ((s.fn f).requested addr needWrite true = true →
         exec (.atsTranslationCompletion f addr needWrite true r) s = .next (endSpec f addr needWrite s))) ∧
     (∀ (spec : Bool) (r : Translation), (s.fn f).requested addr needWrite spec = false →
       exec (.atsTranslationCompletion f addr needWrite spec r) s = .next (if r = .timeout then s else setAer f aerUnexpected s)) ∧
     ((s.fn f).canFetch = true → (s.fn f).retries = 0 → ∀ hr : HostRead,
       let a := (s.fn f).cmd.entryAddr (s.fn f).cmd.cidx 64
       let failed := (s.fn f).transFails.find? fun kv => kv.1 == transKey a false
       (s.hostAddr f a false = none →
         (∀ kv, failed = some kv → exec (.commandFetch f hr) s =
           .next (stopRing f .cmd (if kv.2.1 then 2 else 1) a kv.2.2 (noteFail f a false none s))) ∧
         (failed = none → readFailure hr = none → exec (.commandFetch f hr) s = .next (needPage f a false s)) ∧
         (∀ e, failed = none → readFailure hr = some e → ∃ t,
           exec (.commandFetch f hr) s = .next (stopRing f .cmd (if e.1 then 2 else 1) a e.2 t) ∧
           t.fns = (endRequest f a false (needPage f a false s)).fns ∧ bit t.spine.assay.status (if e.1 then 3 else 2) = true ∧
           t.slices = s.slices)) ∧
       (s.hostAddr f a false ≠ none → readFailure hr ≠ none → exec (.commandFetch f hr) s = .next s))) ∧
  (∀ (s : State) (f : Nat) (addr : W64) (len : Nat), f < s.par.nFunc →
     ∃ t, exec (.atsInvalidationRequest f addr len) s = .next t ∧ Out.invalidationDone f ∈ t.out ∧
       (∀ e, e ∈ t.spine.atc ↔ e ∈ s.spine.atc ∧ (e.lock = true ∨ e.fn ≠ f ∨ addr.toNat + len ≤ e.page.toNat ∨
         e.page.toNat + 2 ^ e.sizeLog2 ≤ addr.toNat)) ∧
       t.fns = s.fns ∧ t.slices = s.slices ∧ t.shims = s.shims ∧ t.mesh = s.mesh) ∧
  (∀ (s : State) (f : Nat), f < s.par.nFunc →
     (s.canon = true → (s.fn f).canFetch = true →
         s.hostAddr f ((s.fn f).cmd.entryAddr (s.fn f).cmd.cidx 64) false ≠ none →
       ∃ t, exec (.nonPostedTimeout f .descriptor) s = .next t ∧
         (t.fn f).cmd = { (s.fn f).cmd with stop := true, cause := 5 } ∧ (t.fn f).cpl = (s.fn f).cpl ∧
         (t.fn f).taken = (s.fn f).taken ∧ (t.fn f).aer = setBit (s.fn f).aer aerTimeout true ∧ t.slices = s.slices) ∧
     (∀ (idx : Nat) (k : Taken), s.mayStart f idx 0x38 k → 16 ≤ k.num 16 4 → k.num 16 4 ≤ 16384 → k.num 16 4 % 8 = 0 →
         (s.fn f).up = true → (s.fn f).ats = false →
       exec (.nonPostedTimeout f (.operandBuffer idx)) s =
         .next (completeCmd f idx ccREADFAIL 0 (setAer f aerTimeout (s.begin f idx)))) ∧
     (∀ (idx : Nat) (k : Taken), s.mayStart f idx 0x3A k → k.num 16 1 < 4 → (s.fn f).ats = true → (s.fn f).up = true →
         (s.spine.atc.filter fun e => e.lock && !e.covers f (bits k.desc 64 64)).length < 8 →
       ∃ t, exec (.nonPostedTimeout f (.operandBuffer idx)) s = .next (completeCmd f idx ccWALKERR 0 t) ∧
         bit t.spine.assay.status 3 = true ∧ t.fns = (setAer f aerTimeout (s.begin f idx)).fns ∧ t.spine.atc = s.spine.atc ∧
         t.slices = s.slices) ∧
     (∀ (addr : W64) (spec : Bool), (s.fn f).requested addr false spec = false → (s.fn f).requested addr true spec = false →
       exec (.nonPostedTimeout f (.translation addr spec)) s = .next s) ∧
     (∀ addr : W64, ∃ t, exec (.nonPostedTimeout f (.translation addr true)) s = .next t ∧ t.spine = s.spine ∧ t.slices = s.slices ∧
       (s.canon = true → (t.fn f).aer = (s.fn f).aer ∧ (t.fn f).requested addr false true = false ∧
         (t.fn f).requested addr true true = false)) ∧
     (∀ addr : W64, s.canon = true → (s.fn f).requested addr false false = true ∨ (s.fn f).requested addr true false = true →
       ∃ t, exec (.nonPostedTimeout f (.translation addr false)) s = .next t ∧ bit t.spine.assay.status 3 = true ∧
         t.spine.atc = s.spine.atc ∧ (t.fn f).aer = setBit (s.fn f).aer aerTimeout true ∧
         (∀ i, (t.fn f).ring i = (s.fn f).ring i) ∧ (∀ g, g ≠ f → t.fn g = s.fn g) ∧ t.slices = s.slices))

/-- 12 R307, 11 Table 11-8: a command that ends leaves those taken and its entry waits, with its code and result, behind the
entries before it; a command taken before a function-level reset leaves no entry.

12 R304, R305, R314 to R316: whatever its row does, a command waits until it may start; then it ends with BADOP if a reserved
byte of its descriptor is not 0, and otherwise with DENIED if its function lacks the right. (The order of these checks is log 38.)

12 Table 12-8: NOP ends OK with no effect, and a reserved OPC ends with BADOP. -/
def Obligations.CommandLife : Prop :=
  (∀ (s : State) (f idx result : Nat) (code : BitVec 8) (k : Taken), s.canon = true → s.taken f idx = some k →
     let t := completeCmd f idx code result s
     t.taken f idx = none ∧ (t.fn f).done = (s.fn f).done ++ (if k.orphan then [] else [k.doneWith code result]) ∧
     (∀ j, j ≠ idx → t.taken f j = s.taken f j) ∧ (∀ i, (t.fn f).ring i = (s.fn f).ring i) ∧
     (∀ g, g ≠ f → t.fn g = s.fn g) ∧ t.slices = s.slices ∧ t.shims = s.shims ∧ t.ports = s.ports ∧ t.spine = s.spine ∧
     t.mesh = s.mesh) ∧
  (∀ (s : State) (f idx opc : Nat) (go : Taken → State → Option State) (k : Taken), s.taken f idx = some k →
     (k.opc.toNat ≠ opc ∨ s.canStart f k = false → startCmd f idx opc go s = s) ∧
     (k.opc.toNat = opc → s.canStart f k = true → k.formOk = false → startCmd f idx opc go s = completeCmd f idx ccBADOP 0 s) ∧
     (k.opc.toNat = opc → s.canStart f k = true → k.formOk = true → s.mayRun f opc = false →
       ∃ t, startCmd f idx opc go s = completeCmd f idx ccDENIED 0 t ∧ t.fns = s.fns ∧ t.slices = s.slices ∧ t.spine = s.spine)) ∧
  ((∀ (s : State) (f idx : Nat) (k : Taken), s.mayStart f idx 0x00 k →
     exec (.nop f idx) s = .next (completeCmd f idx ccOK 0 (s.begin f idx))) ∧
   (∀ (s : State) (f idx : Nat) (k : Taken), f < s.par.nFunc → s.taken f idx = some k → opBytes k.opc.toNat = none →
     s.canStart f k = true → exec (.nop f idx) s = .next (completeCmd f idx ccBADOP 0 s)))

/-- 04 Table 04-10, 06 R184, R166, 16 R411: the block's settings by command. Legal operands are taken and the command ends OK;
TIMEOUT_SET with 0 leaves a timer as it was; MODE_SET to LOCAL changes the mode of the function's partition, and MODE_SET to MCA
ends once no transaction is left that was, or may yet be, granted early to the partition; HALLMARK_CONFIG of
one code, or of its class, sets the buckets and never leaves more tokens than BURST; ANVIL_CONFIG with ENABLE 0 takes every line
out of Anvil mode, once no slice pauses its array access (17 R423).

11 R287: WINDOW_SYNC ends at once when no window line operation of the function is waiting, and otherwise stays taken. -/
def Obligations.SettingsCommands : Prop :=
  (∀ (s : State) (f idx : Nat) (k : Taken),
     (s.mayStart f idx 0x22 k → k.num 8 2 ≤ 1000 → k.num 10 2 ≤ 1000 → k.num 12 2 ≤ 10000 →
         (k.num 12 2 = 0 ∨ 10 ≤ k.num 12 2) →
       exec (.timeoutSet f idx) s = .next (completeCmd f idx ccOK 0 ((s.begin f idx).updSpine fun sp => { sp with
         toSnoop := if k.num 8 2 = 0 then sp.toSnoop else k.num 8 2
         toSeal := if k.num 10 2 = 0 then sp.toSeal else k.num 10 2
         toMem := if k.num 12 2 = 0 then sp.toMem else k.num 12 2 }))) ∧
     (s.mayStart f idx 0x21 k → k.num 8 1 ≤ 1 → 2 ≤ k.num 9 1 → 1 ≤ k.num 10 2 → k.num 10 2 ≤ 1000 → 10 ≤ k.num 12 2 →
         k.num 12 2 ≤ 10000 → k.num 14 2 ≤ 10000 →
         (k.num 8 1 = 1 ∨ ∀ n, n < s.par.nSlice → s.paused n = false) →
       let u := (s.begin f idx).updSpine fun sp => { sp with
         anvil := { enable := decide (k.num 8 1 = 1), threshold := k.num 9 1, window := k.num 10 2, idle := k.num 12 2
                    cooldown := k.num 14 2 } }
       exec (.anvilConfig f idx) s = .next (completeCmd f idx ccOK 0 (if k.num 8 1 = 1 then u
         else eachOf u.sliceNums (fun n s => eachOf (s.anvilLines n) (anvilExit n) s) u))) ∧
     (s.mayStart f idx 0x23 k → k.num 8 1 = 1 →
       exec (.modeSet f idx) s = .next (completeCmd f idx ccOK 0 ((s.begin f idx).updFn f fun x => { x with local_ := true }))) ∧
     (s.mayStart f idx 0x23 k → k.num 8 1 = 0 →
       let u := (s.begin f idx).updFn f fun x => { x with local_ := false }
       exec (.modeSet f idx) s = .next
         (if u.earlyOf f = [] then completeCmd f idx ccOK 0 u else (u.addJob (some (f, idx)) (.modeSet (u.earlyOf f))).1)) ∧
     (s.mayStart f idx 0x24 k → hmListed (k.num 8 2) = true → hmSec (k.num 8 2) = false → k.num 11 1 = 0 → k.num 12 2 ≠ 0 →
       ∃ t, exec (.hallmarkConfig f idx) s = .next (completeCmd f idx ccOK 0 t) ∧
         t.hall.buckets = mput (bucketDefault (k.num 8 2)) s.hall.buckets (k.num 8 2) { s.hall.bucket (k.num 8 2) with
           burst := k.num 10 1, period := k.num 12 2, tokens := min (s.hall.bucket (k.num 8 2)).tokens (k.num 10 1) } ∧
         t.hall.buf = s.hall.buf ∧ t.fns = (s.begin f idx).fns ∧ t.slices = s.slices ∧ t.spine = s.spine) ∧
     (s.mayStart f idx 0x24 k → s.tablesRise = true → hmListed (k.num 8 2) = true → k.num 11 1 = 1 → k.num 12 2 ≠ 0 →
       ∃ t, exec (.hallmarkConfig f idx) s = .next (completeCmd f idx ccOK 0 t) ∧
         (∀ c, t.hall.bucket c =
           if c < 4096 ∧ c / 256 = k.num 8 2 / 256 ∧ hmListed c = true ∧ hmSec c = false then
             { s.hall.bucket c with
               burst := k.num 10 1, period := k.num 12 2, tokens := min (s.hall.bucket c).tokens (k.num 10 1) }
           else s.hall.bucket c) ∧
         t.hall.buf = s.hall.buf ∧ t.fns = (s.begin f idx).fns ∧ t.slices = s.slices ∧ t.spine = s.spine)) ∧
  (∀ (s : State) (f idx : Nat) (k : Taken), s.canon = true → s.mayStart f idx 0x25 k → k.orphan = false → s.noSync = true →
     (∀ j ∈ s.spine.jobs, j.id < s.spine.nextJob) →
     ∃ t, exec (.windowSync f idx) s = .next t ∧ t.slices = s.slices ∧ t.mesh = s.mesh ∧ (t.fn f).win = (s.fn f).win ∧
       (((s.fn f).win = []) → t.taken f idx = none ∧ (t.fn f).done = (s.fn f).done ++ [k.doneWith ccOK 0] ∧
         t.spine.jobs = s.spine.jobs) ∧
       ((∃ r ∈ (s.fn f).win, r.reg = none ∧ r.num < (s.fn f).winCount) →
         (t.taken f idx).isSome = true ∧ (t.fn f).done = (s.fn f).done ∧
         t.spine.jobs = s.spine.jobs ++ [{ id := s.spine.nextJob, cmd := some (f, idx), kind := .windowSync (s.fn f).winCount }]))

/-- 10 R269, R270, 12 Table 12-8: ATC_LOCK leaves a locked entry that covers its address and ends OK with the translated page of the
entry that covers it (log 33), which is the page of the translation, where no other entry's page is misaligned; with eight others locked it ends LOCKFULL; ATC_UNLOCK of a locked page ends OK with no locked entry covering it.

12 R322, 17 R441: STATS_SNAPSHOT of one slice writes that slice's record at the buffer and ends OK with 1; the records of several
have instants of their own, each later than the one before unless the time wraps (by how much is log 118's free value); CAL_READ writes
the 128-byte calibration record of its slice and ends OK.

10 R268, 14 R362 (for buffers log 40): what a command reads from a buffer inside one page that its function may read is what
the host's memory holds there; where the Range Guard denies the page it is zeros.

(Not the spec's: the RESULT of ATC_LOCK (the translated page of the entry that covers the address) and its answer without ATS
are log 33; that these commands end within their step is log 30; when the records of a STATS_SNAPSHOT are captured is log
118.) -/
def Obligations.AtcAndRecordCommands : Prop :=
  (∀ (s : State) (f idx : Nat) (k : Taken),
     (∀ (page : W64) (size : Nat) (rd wr : Bool), s.mayStart f idx 0x3A k → k.num 16 1 < 4 → (s.fn f).ats = true → (s.fn f).up = true →
         (s.spine.atc.filter fun e => e.lock && !e.covers f (bits k.desc 64 64)).length < 8 →
         (k.num 16 1 % 2 = 1 → rd = true) → (2 ≤ k.num 16 1 → wr = true) →
       ∃ t, exec (.atcLock f idx (.success page size rd wr)) s = .next t ∧ t.slices = s.slices ∧
         (∃ e ∈ t.spine.atc, e.covers f (bits k.desc 64 64) = true ∧ e.lock = true ∧ e.read = rd ∧ e.write = wr) ∧
         ∃ u e, t.atcFind f (bits k.desc 64 64) = some e ∧ t = completeCmd f idx ccOK e.tpage.toNat u ∧
           u.fns = (s.begin f idx).fns ∧
           (12 ≤ size → size ≤ 30 → (∀ x ∈ s.spine.atc, x.page.toNat % 2 ^ x.sizeLog2 = 0) → e.tpage = page)) ∧
     (∀ r : Translation, s.mayStart f idx 0x3A k → k.num 16 1 < 4 → (s.fn f).ats = true →
         8 ≤ (s.spine.atc.filter fun e => e.lock && !e.covers f (bits k.desc 64 64)).length →
       exec (.atcLock f idx r) s = .next (completeCmd f idx ccLOCKFULL 0 (s.begin f idx))) ∧
     (s.mayStart f idx 0x3B k → (∃ e ∈ s.spine.atc, e.lock = true ∧ e.covers f (bits k.desc 64 64) = true) →
       ∃ t, exec (.atcUnlock f idx) s = .next (completeCmd f idx ccOK 0 t) ∧ t.fns = (s.begin f idx).fns ∧
         t.slices = s.slices ∧ (∀ e ∈ t.spine.atc, e.covers f (bits k.desc 64 64) = true → e.lock = false) ∧
         t.spine.atc.length = s.spine.atc.length ∧
         ∀ e, e.covers f (bits k.desc 64 64) = false → (e ∈ t.spine.atc ↔ e ∈ s.spine.atc)) ∧
     (s.mayStart f idx 0x3B k → (∀ e ∈ s.spine.atc, e.covers f (bits k.desc 64 64) = true → e.lock = false) →
       exec (.atcUnlock f idx) s = .next (completeCmd f idx ccSTATE 0 (s.begin f idx)))) ∧
  ((∀ (ts : W64) (i : Nat), snapTime ts 0 = ts ∧ snapTime ts (i + 1) ≠ snapTime ts i ∧
     ∃ d : Nat, 0 < d ∧ d ≤ 2 ^ 32 ∧ snapTime ts (i + 1) = snapTime ts i + BitVec.ofNat 64 d) ∧
   ∀ (s : State) (f idx n : Nat) (ts : W64) (k : Taken), n < s.par.nSlice → n < 72 →
     let a := BitVec.ofNat 64 (k.num 8 8)
     ∀ hostAt : W64, (hostCheck f hostAt true (s.begin f idx)).1 = true → (hostCheck f hostAt true (s.begin f idx)).2 = s.begin f idx →
       (s.fn f).up = true →
     (s.mayStart f idx 0x3F k → k.num 8 8 % 128 = 0 → (bits k.desc 128 72 : BitVec 72) = BitVec.ofNat 72 (2 ^ n) →
         s.hostAddr f a true = some hostAt →
       exec (.statsSnapshot f idx .done ts) s = .next (completeCmd f idx ccOK 1
         ((atcUse f a (s.begin f idx)).emit (.hostWrite f hostAt ((s.begin f idx).statsRec n ts))))) ∧
     (let b : W64 := bits k.desc 128 64
      s.mayStart f idx 0x30 k → k.num 8 1 = n → b.toNat % 128 = 0 → s.hostAddr f b true = some hostAt →
       exec (.calRead f idx .done) s = .next (completeCmd f idx ccOK 0
         ((atcUse f b (s.begin f idx)).emit (.hostWrite f hostAt (calRecord (s.calSet n) n)))))) ∧
  (∀ (s : State) (f n : Nat) (addr hostAt : W64) (l : List Byte), 0 < n → addr.toNat % 4096 + n ≤ 4096 →
     s.hostAddr f addr false = some hostAt →
     s.bufBytes f addr l n = if (hostCheck f hostAt false s).1 = true then takeBytes l n else List.replicate n 0)

/-- 12 R306, R311: FLUSH_RANGE, CLEAN_RANGE and INVAL_RANGE of an aligned range become a job that starts at the range's first
line; a range that is not aligned ends with BADARG. A slice then takes the job's next line as an order, on an own tracker: the
line is its own, the job moves on by 64 bytes and counts one line outstanding.

12 R312: CENSUS_RANGE puts a census record of the command at the slice of every bucket that an owned page of its range
touches, and those slices have L_CENSUS set while they serve; while one such command runs, another ends BUSY.

12 R313: LINE_RESTORE of an owned line gives its home slice an own tracker that holds the 64 bytes of the buffer (zeros in
MODE 1) for the line; a page that the function does not own is skipped, the command ending OK.

(Not the spec's: colours are log 41, pages not owned log 44.) -/
def Obligations.LineCommands : Prop :=
  ((∀ (s : State) (f idx : Nat) (k : Taken) (r : RangeKind), s.mayStart f idx (rangeOpc r) k →
     (k.rangeOk = true →
       exec (rangeInstr r f idx) s = .next ((s.begin f idx).addJob (some (f, idx))
         (.range r (k.num 8 8) (k.num 8 8 + k.num 16 8) 0 0 false [])).1) ∧
     (k.rangeOk = false → exec (rangeInstr r f idx) s = .next (completeCmd f idx ccBADARG 0 (s.begin f idx)))) ∧
   (∀ (s : State) (n t id f idx next stop out count : Nat) (r : RangeKind) (part : Bool), s.canon = true → n < s.par.nSlice →
     s.job id = some { id, cmd := some (f, idx), kind := .range r next stop out count part [] } → next < stop → next % 64 = 0 →
     next < 2 ^ 52 → s.ownerOk (BitVec.ofNat 52 next) f = true → s.serves n (bucketOf (BitVec.ofNat 52 next)) = true →
     t < 256 → s.trk n t = none → (s.slice n).poolFree .own = true →
     ∃ u, exec (.spineControlOrder n t id) s = .next u ∧
       (∃ k, u.trk n t = some k ∧ k.kind = .range r id ∧ k.addr = BitVec.ofNat 52 next ∧ k.src = sliceNode n) ∧
       u.job id = some { id, cmd := some (f, idx), kind := .range r (next + 64) stop (out + 1) count part [] } ∧
       (∀ m, m ≠ n → u.slice m = s.slice m) ∧ u.fns = s.fns ∧ u.shims = s.shims ∧ u.mesh = s.mesh)) ∧
  (∀ (s : State) (f idx : Nat) (k : Taken), s.canon = true → s.mayStart f idx 0x04 k → k.rangeOk = true → k.num 24 1 < 16 →
     ((∀ j ∈ s.spine.jobs, ∀ l w p, j.kind ≠ .censusRange l w p) →
       ∃ t, exec (.censusRange f idx) s = .next t ∧
         ∀ a : PA, k.num 8 8 ≤ a.toNat → a.toNat < k.num 8 8 + k.num 16 8 → s.ownerOk (regionOf a) f = true →
           (∃ c ∈ (t.slice (s.master (bucketOf a)).slice).census, c.bucket = bucketOf a ∧ c.job = some s.spine.nextJob ∧
             c.lo = k.num 8 8 ∧ c.hi = k.num 8 8 + k.num 16 8) ∧
           ((s.slice (s.master (bucketOf a)).slice).serving = true →
             (t.slice (s.master (bucketOf a)).slice).conds.lCensus = true)) ∧
     ((∃ j ∈ s.spine.jobs, ∃ l w p, j.kind = .censusRange l w p) →
       exec (.censusRange f idx) s = .next (completeCmd f idx ccBUSY 0 (s.begin f idx)))) ∧
  (∀ (s : State) (f idx t : Nat) (k : Taken) (l : List Byte), s.canon = true → s.mayStart f idx 0x05 k → k.num 8 8 % 64 = 0 →
     k.num 8 8 < 2 ^ 52 → k.num 16 1 < 2 → k.num 24 8 % 64 = 0 →
     let a : PA := BitVec.ofNat 52 (k.num 8 8)
     let n := (s.master (bucketOf a)).slice
     (s.ownerOk a f = true → s.serves n (bucketOf a) = true → t < 256 → s.trk n t = none → (s.slice n).poolFree .own = true →
       (k.num 16 1 = 0 → (s.begin f idx).bufOpen f idx (BitVec.ofNat 64 (k.num 24 8)) 64 false) →
       ∃ u, exec (.lineRestore f idx t (.bytes l)) s = .next u ∧
         (∃ x, u.trk n t = some x ∧ x.kind = .restore s.spine.nextJob ∧ x.addr = a ∧
           x.buf = some (if k.num 16 1 = 1 then 0 else BitVec.ofNat 512 (ofBytes
             ((s.begin f idx).bufBytes f (BitVec.ofNat 64 (k.num 24 8)) l 64)), false)) ∧
         (∃ j ∈ u.spine.jobs, j.id = s.spine.nextJob ∧ j.cmd = some (f, idx) ∧ j.kind = .restore) ∧
         (∀ m, m ≠ n → u.slice m = s.slice m) ∧ u.shims = s.shims ∧ u.mesh = s.mesh) ∧
     (s.ownerOk a f = false →
       ∃ u, exec (.lineRestore f idx t (.bytes l)) s = .next (completeCmd f idx ccOK 0 u) ∧ u.slices = s.slices ∧
         u.spine = s.spine ∧ u.fns = (s.begin f idx).fns))

/-- 08 R218, R221 to R223: BUCKET_MOVE to another slice that nothing refuses starts a move scan of the bucket at its slice: the
bucket stays owned there, the target marks it incoming, the master map marks it moving. To the bucket's own slice it starts a
steal by the named engine. -/
def Obligations.BucketMoveStarts : Prop :=
  ∀ (s : State) (f idx : Nat) (k : Taken), s.canon = true → s.mayStart f idx 0x10 k → k.num 8 2 < 4096 →
    k.num 10 1 < s.par.nSlice → k.num 11 1 < 4 → (s.master (k.num 8 2)).slice < s.par.nSlice →
    let b := k.num 8 2
    let n := (s.master b).slice
    (k.num 10 1 ≠ n → s.moveRefused n b (k.num 10 1) = none →
      ∃ t, exec (.bucketMove f idx) s = .next t ∧ (t.bkt n b).kind = .owned ∧ (t.bkt (k.num 10 1) b).incoming = true ∧
        (t.master b).moving = true ∧ (t.master b).slice = n ∧
        (∃ sc ∈ (t.slice n).scans, sc.kind = .move ∧ sc.pos = 0 ∧ sc.takeover = false ∧
          sc.moves = [{ b, target := k.num 10 1, engine := k.num 11 1 }]) ∧
        (t.slice n).arr = (s.slice n).arr ∧ (t.slice n).trk = (s.slice n).trk ∧ t.shims = s.shims ∧ t.mesh = s.mesh) ∧
    (k.num 10 1 = n → (s.slice n).serving = true → (s.slice n).steal = none → ¬ b ∈ (s.slice n).holdoffs →
      (s.bkt n b).kind = .owned →
      ∃ t, exec (.bucketMove f idx) s = .next t ∧
        (t.slice n).steal = some { bucket := b, victim := (s.bkt n b).engine, thief := k.num 11 1
                                   why := .command s.spine.nextJob } ∧
        (∀ m, m ≠ n → t.slice m = s.slice m) ∧ t.spine.master = s.spine.master)

/-- 13 R329, R331, R333, Table 13-3: SLICE_ADMIT and SLICE_COPY put a slice in RETAIN into SEED, with its filters empty and
TRACK or the copy to follow; SLICE_EVACUATE of a slice that owns no bucket ends at once with it in RETAIN, and of one that owns
some starts an evacuation.

13 Table 13-3, 17 R431: SLICE_RESET of a powered slice in RETAIN, or in HOLD with its salvage ended, clears it and puts it
in SEED, owning nothing, with RETAIN to follow.

(Not the spec's: that the reset slice owns nothing is log 22.) -/
def Obligations.SliceLifeCommands : Prop :=
  (∀ (s : State) (f idx n : Nat) (k : Taken), s.canon = true → s.jobsNamed = true → n < s.par.nSlice → k.num 8 1 = n →
     (s.mayStart f idx 0x13 k → (s.slice n).conds.phase = .retain → s.activeCount < 64 →
         (∀ e, e < 4 → s.topRev ≤ (s.actBank n e).lcp) →
       ∃ t, exec (.sliceAdmit f idx) s = .next t ∧ (t.slice n).conds.phase = .seed ∧ (t.slice n).conds.seedNext = .track ∧
         (t.slice n).arr = {} ∧ (t.slice n).bkt = (s.slice n).bkt ∧ (∀ m, m ≠ n → t.slice m = s.slice m) ∧
         ∃ j ∈ t.spine.jobs, j.cmd = some (f, idx) ∧ j.kind = .admitSlice n) ∧
     (∀ tgt, s.mayStart f idx 0x12 k → k.num 9 1 = tgt → tgt < s.par.nSlice →
         ((s.slice n).mode = .track ∨ (s.slice n).mode = .proof ∨ (s.slice n).mode = .limp) →
         (s.slice tgt).conds.phase = .retain → s.inMove n = false → s.inCopy n = false → s.inMove tgt = false →
         s.inCopy tgt = false → s.evacuating n = false →
       ∃ t, exec (.sliceCopy f idx) s = .next t ∧ (t.slice tgt).conds.phase = .seed ∧
         (t.slice tgt).conds.seedNext = .copyTarget s.spine.nextJob ∧ (t.slice tgt).arr = {} ∧
         (∀ m, m ≠ tgt → t.slice m = s.slice m) ∧
         ∃ j ∈ t.spine.jobs, j.id = s.spine.nextJob ∧ j.cmd = some (f, idx) ∧ j.kind = .copy n tgt 0 0 false) ∧
     (s.mayStart f idx 0x11 k → s.evacRefused n = none →
       ∃ t, exec (.sliceEvacuate f idx) s = .next t ∧
         (s.heldBuckets n = [] → k.orphan = false → ¬ n ∈ s.spine.srst → (t.slice n).conds.phase = .retain ∧
           k.doneWith ccOK 0 ∈ (t.fn f).done) ∧
         (s.heldBuckets n ≠ [] → (t.slice n).conds.phase = .service ∧
           ∃ j ∈ t.spine.jobs, j.id = s.spine.nextJob ∧ j.cmd = some (f, idx) ∧
             ∃ takeover, j.kind = .evacuate n takeover 0 false))) ∧
  (∀ (s : State) (f idx n : Nat) (k : Taken), s.canon = true → n < s.par.nSlice → s.mayStart f idx 0x14 k → k.num 8 1 = n →
     bit s.spine.pwr n = true → s.stubs n = [] →
     ((s.slice n).conds.phase = .retain ∨
       ((s.slice n).conds.phase = .hold ∧ (s.slice n).conds.hSalv = false ∧ s.heldBuckets n = [])) →
     ∃ t, exec (.sliceReset f idx) s = .next t ∧ (t.slice n).conds.phase = .seed ∧ (t.slice n).conds.seedNext = .resetRetain ∧
       (t.slice n).arr = {} ∧ (t.slice n).trk = [] ∧ (t.slice n).mb = [] ∧ (t.slice n).scans = [] ∧
       (∀ b, b < 4096 → (t.bkt n b).kind = .none) ∧ ∃ j ∈ t.spine.jobs, j.cmd = some (f, idx) ∧ j.kind = .resetSlice n)

/-- 13 R348: RECIPE_LOAD of an image that passes the checks writes it to the named engine's shadow bank and ends OK; the active
banks keep what they run.

13 R349 step 3: once the engine that takes a recipe owns no bucket, its active and shadow banks change places, in service or in
RETAIN (log 43, DEDUCED). (With no bank that fails its parity, 15 source 0x1E; only the target of a copy of the slice may change with
it.)

(Not the spec's: what an image means beyond its header is log 10; that a slice in RETAIN may swap is log 43; that a load's
read ends within its step is log 30.) -/
def Obligations.RecipeSteps : Prop :=
  (∀ (s : State) (f idx n e : Nat) (k : Taken) (l : List Byte), s.canon = true → n < s.par.nSlice → e < 4 →
     s.mayStart f idx 0x18 k → k.num 8 1 = n → k.num 9 1 = e → 1 ≤ k.num 24 2 → k.num 24 2 ≤ 1536 → (s.slice n).recipe = none →
     (s.slice n).conds.phase ≠ .off → (s.begin f idx).bufOpen f idx (bits k.desc 128 64) (k.num 24 2) false →
     let image := (s.begin f idx).bufBytes f (bits k.desc 128 64) l (k.num 24 2)
     imageOk image = true →
     ∃ t, exec (.recipeLoad f idx (.bytes l)) s = .next (completeCmd f idx ccOK 0 t) ∧
       t.shdBank n e = bankOf image ∧ (t.shdBank n e).valid = true ∧
       (t.slice n).act = (s.slice n).act ∧ (∀ m, m ≠ n → t.slice m = s.slice m) ∧ t.shims = s.shims ∧ t.fns = (s.begin f idx).fns) ∧
  (∀ (s : State) (n e : Nat) (r : RecipeAct), s.canon = true → n < s.par.nSlice → (s.slice n).recipe = some r →
     r.current = some e → r.returning = false → (s.slice n).steal = none → s.engineBuckets n e = [] →
     ((s.slice n).serving = true ∨ (s.slice n).conds.phase = .retain) →
     s.tablesRise = true → (∀ x, (s.shdBank n x).bad = false) → (s.actBank n e).bad = false →
     (s.slice n).assay.inj.count = 0 →
     ∃ t, exec (.recipeBankSwap n) s = .next t ∧ t.actBank n e = s.shdBank n e ∧ t.shdBank n e = s.actBank n e ∧
       (∀ x, x ≠ e → t.actBank n x = s.actBank n x ∧ t.shdBank n x = s.shdBank n x) ∧ (∀ m, m ≠ n → s.copyPeer n ≠ some m → t.slice m = s.slice m))

/-- 07 R207, R208: TRAY_CONFIGURE that raises the tray's ways starts the conversion at every serving slice, which enters PROOF's
condition P_TRAY; with the sizes the block has it ends OK at once; while the tray is enabled it ends STATE.

13 R352, 17 R426, R442: CAL_WRITE of a good record stores the set; a serving slice then pauses in P_CAL until its apply
ends, when P_CAL clears and the command ends OK (stated for an empty input buffer: what the slice accepted in its pause is then
handled); a change of HCLK point that waited is taken once none applies. A slice without power takes its set when it is powered again,
and the command waits for that; a powered one that does not serve takes it at once.

(Not the spec's: equal sizes ending at once is log 43; the CRC is log 20.) -/
def Obligations.TrayAndCalibration : Prop :=
  (∀ (s : State) (f idx ft ht : Nat) (k : Taken), s.canon = true → s.mayStart f idx 0x20 k → k.num 8 1 = ft → k.num 9 1 = ht →
     ft ≤ 8 → ht ≤ 4 →
     (s.spine.trayEn = false → s.trayUsable ft ht = true → s.spine.trayFt ≤ ft → s.spine.trayHt ≤ ht →
       (ft = s.spine.trayFt → ht = s.spine.trayHt →
         exec (.trayConfigure f idx) s = .next (completeCmd f idx ccOK 0 (s.begin f idx))) ∧
       ((ft ≠ s.spine.trayFt ∨ ht ≠ s.spine.trayHt) → (∃ n, n < s.par.nSlice ∧ (s.slice n).serving = true) →
         ∃ t, exec (.trayConfigure f idx) s = .next t ∧ t.spine.trayFt = s.spine.trayFt ∧ t.spine.trayHt = s.spine.trayHt ∧
           (∀ n, n < s.par.nSlice → (s.slice n).serving = true → (t.slice n).conds.pTray = true ∧
             ∃ sc ∈ (t.slice n).scans, sc.kind = .tray ∧ sc.pos = 0) ∧
           ∃ j ∈ t.spine.jobs, j.cmd = some (f, idx) ∧ ∃ left, j.kind = .tray ft ht left [])) ∧
     (s.spine.trayEn = true → exec (.trayConfigure f idx) s = .next (completeCmd f idx ccSTATE 0 (s.begin f idx)))) ∧
  ((∀ (s : State) (f idx n : Nat) (k : Taken) (l : List Byte), s.canon = true → n < s.par.nSlice → s.mayStart f idx 0x31 k →
     k.num 8 1 = n → s.dvfsHigh = false → (s.begin f idx).bufOpen f idx (bits k.desc 128 64) 128 false →
     let record := (s.begin f idx).bufBytes f (bits k.desc 128 64) l 128
     calOk record n = true → (s.slice n).conds.hSalv = false →
     ((s.slice n).serving = true →
       ∃ t, exec (.calWrite f idx (.bytes l)) s = .next t ∧ t.calSet n = calOf record ∧
       (t.slice n).conds.pCal = true ∧ (t.slice n).arr = (s.slice n).arr ∧ (∀ m, m ≠ n → t.calSet m = s.calSet m) ∧
       ∃ j ∈ t.spine.jobs, j.cmd = some (f, idx) ∧ j.kind = .calWrite n) ∧
     ((s.slice n).serving = false → (s.slice n).conds.phase = .off ∨ bit s.spine.pwr n = false →
       ∃ t, exec (.calWrite f idx (.bytes l)) s = .next t ∧ t.calSet n = calOf record ∧ t.slices = s.slices ∧
       (∀ m, m ≠ n → t.calSet m = s.calSet m) ∧ (t.taken f idx).isSome = true ∧
       ∃ j ∈ t.spine.jobs, j.cmd = some (f, idx) ∧ j.kind = .calWrite n) ∧
     ((s.slice n).serving = false → (s.slice n).conds.phase ≠ .off → bit s.spine.pwr n = true →
       ∃ t, exec (.calWrite f idx (.bytes l)) s = .next (completeCmd f idx ccOK 0 t) ∧ t.calSet n = calOf record ∧
       t.slices = s.slices ∧ t.spine.jobs = s.spine.jobs)) ∧
   (∀ (s : State) (f idx id n : Nat) (k : Taken), s.canon = true → s.jobsNamed = true → n < s.par.nSlice →
     { id, cmd := some (f, idx), kind := .calWrite n } ∈ s.spine.jobs → (∀ j ∈ s.spine.jobs, j.kind = .calWrite n → j.id = id) →
     s.taken f idx = some k → k.orphan = false → (s.slice n).inBuf = [] → (s.slice n).conds.pCal = true →
     ∃ t, exec (.calApplyEnd n) s = .next t ∧ (t.slice n).conds.pCal = false ∧ (∀ j ∈ t.spine.jobs, j.id ≠ id) ∧
       (t.fn f).done = (s.fn f).done ++ [k.doneWith ccOK 0] ∧ t.taken f idx = none ∧
       (s.spine.dvfsHeld ≠ none → t.applying = false → t.spine.dvfsTaken = true ∧ t.spine.dvfsHeld = none)) ∧
   (∀ (s : State) (n : Nat), n < s.par.nSlice → (s.slice n).conds.pCal = false → exec (.calApplyEnd n) s = .next s))

/-- 14 R373: a TOUCHMARK whose record passes every check and has the digest given becomes a proposal with a number of its own,
and ends OK with that number; nothing of the protection set changes yet.

14 R374, R375: COUNTERMARK with the digest of a pending proposal of the next sequence number commits it: TM_SEQ goes up by
one, the proposal is gone, and an item that writes a Range Guard entry has written it. With another digest the proposal is
discarded with nothing committed and the command ends DIGEST; with no such proposal it ends EXPIRED.

14 R374: once its window has opened, a proposal whose window lapses is discarded, and nothing else of the protection set
changes.

(Not the spec's: the digest function is log 20.) -/
def Obligations.WardenCommands : Prop :=
  (∀ (s : State) (f idx : Nat) (k : Taken) (l : List Byte), s.mayStart f idx 0x38 k → 16 ≤ k.num 16 4 → k.num 16 4 ≤ 16384 →
     k.num 16 4 % 8 = 0 → (s.begin f idx).bufOpen f idx (bits k.desc 64 64) (k.num 16 4) false →
     s.spine.prot.proposals.length < 4 →
     let record := (s.begin f idx).bufBytes f (bits k.desc 64 64) l (k.num 16 4)
     sha256 record = bits k.desc 192 256 → s.recordOk record = true →
     ∃ (t : State) (p : Proposal), exec (.touchmark f idx (.bytes l)) s = .next (completeCmd f idx ccOK p.pid t) ∧
       t.spine.prot.proposals = s.spine.prot.proposals ++ [p] ∧ p.fn = f ∧ p.digest = bits k.desc 192 256 ∧
       p.bytes = record ∧ p.seq = s.spine.prot.tmSeq + 1 ∧ p.pid ≠ 0 ∧
       (∀ q ∈ s.spine.prot.proposals, q.pid ≠ p.pid) ∧ t.spine.prot.rg = s.spine.prot.rg ∧
       t.spine.prot.masks = s.spine.prot.masks ∧ t.spine.prot.tmSeq = s.spine.prot.tmSeq ∧ t.fns = (s.begin f idx).fns ∧
       t.shims = s.shims ∧ t.slices = s.slices) ∧
  (∀ (s : State) (f idx : Nat) (k : Taken), s.mayStart f idx 0x39 k →
     (∀ (p : Proposal) (x : List Byte), s.spine.prot.proposals.find? (fun p => p.pid = k.num 8 2) = some p →
         p.digest = bits k.desc 192 256 → p.seq = s.spine.prot.tmSeq + 1 →
       ∃ t, exec (.countermark f idx) s = .next t ∧ t.spine.prot.tmSeq = s.spine.prot.tmSeq + 1 ∧
         (∀ q ∈ t.spine.prot.proposals, q.pid ≠ k.num 8 2) ∧
         (s.jobsNamed = true → recordItems p.bytes = some [x] → numAt x 0 1 = 3 →
           t.spine.prot.rg = mput {} s.spine.prot.rg (numAt x 4 1) (rangeOf x) ∧ t.spine.prot.masks = s.spine.prot.masks ∧
           t.slices = s.slices ∧ t.shims = s.shims ∧ ∃ u, t = completeCmd f idx ccOK p.pid u)) ∧
     (∀ p : Proposal, s.spine.prot.proposals.find? (fun p => p.pid = k.num 8 2) = some p → p.digest ≠ bits k.desc 192 256 →
       ∃ t, exec (.countermark f idx) s = .next (completeCmd f idx ccDIGEST 0 t) ∧
         t.spine.prot = { s.spine.prot with proposals := s.spine.prot.proposals.filter fun q => q.pid != k.num 8 2 } ∧
         t.slices = s.slices ∧ t.shims = s.shims) ∧
     ((∀ q ∈ s.spine.prot.proposals, q.pid ≠ k.num 8 2) →
       exec (.countermark f idx) s = .next (completeCmd f idx ccEXPIRED 0 (s.begin f idx)))) ∧
  (∀ (s : State) (pid : Nat) (p : Proposal), s.spine.prot.proposals.find? (fun p => p.pid = pid) = some p →
     (s.windowOpen p = true →
       ∃ t, exec (.wardenWindowLapse pid) s = .next t ∧ t.spine =
           { s.spine with prot := { s.spine.prot with proposals := s.spine.prot.proposals.filter fun q => q.pid != pid } } ∧
         t.slices = s.slices ∧ t.shims = s.shims ∧ t.fns = s.fns ∧ t.mesh = s.mesh) ∧
     (s.windowOpen p = false → exec (.wardenWindowLapse pid) s = .next s))

/-- 09 R243, 17 R432: AGENT_ADMIT of an idle shim, after set-up, with its agent and its shim out of reset (with either in reset it
ends STATE), puts the shim in ADMITTING with the master
map loaded; the handshake chooses the highest revision common to agent and allowance within the banks' limit and gives it to
every slice for a caching agent; ADMIT_OPEN admits the agent with the map as it now stands (08 R229) and ends the command OK with its capabilities and revision.

09 R244: an agent that is not ready in time leaves its shim idle, and its AGENT_ADMIT ends TIMEOUT; one with no common
revision ends it NOREV. -/
def Obligations.Admission : Prop :=
  ((∀ (s : State) (f idx sh : Nat) (k : Taken), s.canon = true → s.mayStart f idx 0x28 k → k.num 8 2 = sh →
     s.agentBuilt sh = true → k.num 10 1 < s.par.nFunc → k.num 11 1 < 8 → s.spine.setup = true → (s.shim sh).st = .idle →
     s.retireJob sh = none → (s.shim sh).resetPending = false →
     (∀ a r : Bool, a = false ∨ r = false →
       exec (.agentAdmit f idx a r) s = .next (completeCmd f idx ccSTATE 0 (s.begin f idx))) ∧
     ∃ t, exec (.agentAdmit f idx true true) s = .next t ∧
       t.shim sh = { s.shim sh with st := .admitting, neg := 0, func := k.num 10 1, allow := BitVec.ofNat 3 (k.num 11 1)
                                    bmap := s.mapCopy, mapLoaded := true, upds := [] } ∧
       (∀ a, a ≠ sh → t.shim a = s.shim a) ∧ t.slices = s.slices ∧
       ∃ j ∈ t.spine.jobs, j.cmd = some (f, idx) ∧ j.kind = .agentAdmit sh) ∧
   (∀ (s : State) (sh : Nat) (cap : BitVec 3), s.canon = true → s.hasShim sh = true → (s.shim sh).st = .admitting →
     (s.shim sh).mapLoaded = true → (s.shim sh).neg = 0 → commonRev cap (s.shim sh).allow s.lcpLimit ≠ 0 →
     ∃ t, exec (.admitHandshake sh cap) s = .next t ∧
       t.shim sh = { s.shim sh with cap := cap, neg := commonRev cap (s.shim sh).allow s.lcpLimit } ∧
       (∀ n, n < s.par.nSlice → (t.slice n).rev sh =
         if isCaching sh then some (commonRev cap (s.shim sh).allow s.lcpLimit) else (s.slice n).rev sh) ∧
       (∀ a, a ≠ sh → t.shim a = s.shim a) ∧ t.spine = s.spine ∧ t.fns = s.fns) ∧
   (∀ (s : State) (f idx sh : Nat) (k : Taken) (j : Job), s.canon = true → s.jobsNamed = true → s.hasShim sh = true →
     (s.shim sh).st = .admitting → (s.shim sh).neg ≠ 0 → s.admitJob sh = some j → j.cmd = some (f, idx) →
     s.taken f idx = some k → k.orphan = false →
     ∃ t, exec (.admitOpen sh) s = .next t ∧
       t.shim sh =
         { s.shim sh with st := .admitted, admittedPin := true, bmap := s.mapCopy, mapLoaded := true, upds := [] } ∧
       Out.admitted sh true (s.shim sh).neg ∈ t.out ∧ t.taken f idx = none ∧
       (t.fn f).done = (s.fn f).done ++ [k.doneWith ccOK ((s.shim sh).cap.toNat + 256 * (s.shim sh).neg)] ∧
       t.slices = s.slices ∧ ∀ i ∈ t.spine.jobs, i.id ≠ j.id)) ∧
  (∀ (s : State) (f idx sh : Nat) (k : Taken) (j : Job), s.canon = true → s.jobsNamed = true → s.hasShim sh = true →
     (s.shim sh).st = .admitting → (s.shim sh).mapLoaded = true → (s.shim sh).neg = 0 → s.admitJob sh = some j →
     j.cmd = some (f, idx) → s.taken f idx = some k → k.orphan = false →
     (∀ kv ∈ s.spine.master, ¬ sh ∈ kv.2.unacked) →
     (∃ t, exec (.admitWaitTimeout sh) s = .next t ∧ (t.shim sh).st = .idle ∧ t.taken f idx = none ∧
       (t.fn f).done = (s.fn f).done ++ [k.doneWith ccTIMEOUT 0] ∧ t.slices = s.slices) ∧
     (∀ cap, commonRev cap (s.shim sh).allow s.lcpLimit = 0 →
       ∃ t, exec (.admitHandshake sh cap) s = .next t ∧ (t.shim sh).st = .idle ∧ t.taken f idx = none ∧
         (t.fn f).done = (s.fn f).done ++ [k.doneWith ccNOREV 0] ∧ t.slices = s.slices))

/-- 09 R246 step 1, R252: a retire, by AGENT_RETIRE or, after a fault that fenced the shim, by itself, fences the shim with
nothing left to inject and takes the agent from every slice's admitted map.

09 R246 steps 2 and 5: after step 2 the shim delivers nothing more to the agent; the retire ends with the shim idle and
empty as after reset, its fault status and first-error record too unless a shim reset waits for the retire (log 78, DEDUCED), its drains gone (log 46, DEDUCED), hk_admitted at 0, and the
command's RESULT counting the lines placed in P. (Step 2 is taken while no slice pauses, log 89, DEDUCED.)

(Not the spec's: that the fault status of the shim goes, unless a shim reset waits for the retire, is log 78; what becomes of
the agent's drains is log 46; that a retire's second step waits in a pause is log 89.) -/
def Obligations.Retirement : Prop :=
  (∀ (s : State) (sh : Nat), s.canon = true → s.hasShim sh = true → s.retireJob sh = none → s.admitJob sh = none →
     s.tablesRise = true →
     (∀ (f idx : Nat) (k : Taken), s.mayStart f idx 0x29 k → k.num 8 2 = sh → isAgent sh = true → (s.shim sh).st ≠ .idle →
       ∃ t, exec (.agentRetire f idx) s = .next t ∧ (t.shim sh).st = .fenced ∧ (t.shim sh).reqQ = [] ∧ (t.shim sh).wbkQ = [] ∧
         (∀ d ∈ (t.shim sh).drains, d.sent = true ∧ d.held = none ∧ d.todo = []) ∧ (∀ n, n < s.par.nSlice → isCaching sh = true → (t.slice n).rev sh = none) ∧
         (∀ n, (t.slice n).arr = (s.slice n).arr) ∧ (∀ a, a ≠ sh → t.shim a = s.shim a) ∧
         ∃ j ∈ t.spine.jobs, j.cmd = some (f, idx) ∧ j.kind = .agentRetire sh 0 false) ∧
     ((s.shim sh).retireDue = true → (s.shim sh).st = .fenced →
       ∃ t, exec (.autoRetireStart sh) s = .next t ∧ (t.shim sh).st = .fenced ∧ (t.shim sh).retireDue = false ∧
         (t.shim sh).reqQ = [] ∧ (t.shim sh).wbkQ = [] ∧
         (∀ n, n < s.par.nSlice → isCaching sh = true → (t.slice n).rev sh = none) ∧ (∀ a, a ≠ sh → t.shim a = s.shim a) ∧
         ∃ j ∈ t.spine.jobs, j.cmd = none ∧ j.kind = .agentRetire sh 0 true)) ∧
  (∀ (s : State) (sh : Nat) (j : Job), s.canon = true → s.jobsNamed = true → s.hasShim sh = true → s.retireJob sh = some j →
     ((s.shim sh).silenced = false → (∀ n, n < s.par.nSlice → s.paused n = false) →
       ∃ t, exec (.retireSilence sh) s = .next t ∧ (t.shim sh).silenced = true ∧ (t.shim sh).rspQ = [] ∧
         (t.shim sh).datQ = [] ∧ (t.shim sh).snpIn = [] ∧ (t.shim sh).rspIn = [] ∧ (t.shim sh).datIn = [] ∧ ∀ a, a ≠ sh → t.shim a = s.shim a) ∧
     (∀ (f idx placed : Nat) (k : Taken), j.cmd = some (f, idx) → j.kind = .agentRetire sh placed false →
         s.taken f idx = some k → k.orphan = false → (s.shim sh).silenced = true →
         (∀ n, n < s.par.nSlice → s.scrubbed sh n = true) → (∀ kv ∈ s.spine.master, ¬ sh ∈ kv.2.unacked) →
       ∃ t, exec (.retireScrubEnd sh) s = .next t ∧ t.shim sh = (s.shim sh).close ∧ (t.shim sh).st = .idle ∧
         ((s.shim sh).resetPending = false → (t.shim sh).assay.status = 0 ∧ (t.shim sh).assay.first.valid = false ∧
           (t.shim sh).assay.inj = (s.shim sh).assay.inj) ∧
         ((s.shim sh).resetPending = true → (t.shim sh).assay = (s.shim sh).assay) ∧
         (t.shim sh).reqQ = [] ∧ (t.shim sh).wbkQ = [] ∧ (t.shim sh).snpIn = [] ∧ (t.shim sh).bmap = [] ∧ (t.shim sh).outst = [] ∧
         t.taken f idx = none ∧ (t.fn f).done = (s.fn f).done ++ [k.doneWith ccOK placed] ∧
         ((s.shim sh).admittedPin = true → Out.admitted sh false 0 ∈ t.out) ∧ ∀ i ∈ t.spine.jobs, i.id ≠ j.id))

/-- 13 R328, R329, R331, Table 13-3, 17 Table 17-4: the end of SEED leaves a slice in RETAIN, in service with SLICE_ADMIT ended
OK, or, in the cold reset sequence, in service below N_ACTIVE and in RETAIN above, the block being ready when the last slice is.
(For a slice with no reset waiting, while no change of HCLK point is taken.)

13 R325, R326, 17 R422: power taken from a slice in RETAIN that no copy needs turns it OFF, empty; from any other slice it
puts that slice in HOLD, raising salvage-failure at once where no record is left to read (log 29, DEDUCED). Power given back to a slice
that is OFF, or to one in HOLD that its salvage is done with, starts its SEED, towards RETAIN, with its calibration set taken: a CAL_WRITE
that waited for the power ends OK (R442), and the shims take messages of the slice again (13 R340).

(Not the spec's: what a slice that lost its power in service does is log 29.) -/
def Obligations.SeedAndPower : Prop :=
  (∀ (s : State) (n : Nat), s.canon = true → s.jobsNamed = true → n < s.par.nSlice → (s.slice n).conds.phase = .seed →
     s.spine.dvfsTaken = false → ¬ n ∈ s.spine.srst →
     ((s.slice n).conds.seedNext = .retain ∨ (s.slice n).conds.seedNext = .resetRetain →
       ∃ t, exec (.seedEnd n) s = .next t ∧ (t.slice n).mode = .retain ∧ (t.slice n).arr = (s.slice n).arr ∧
         (∀ m, m ≠ n → t.slice m = s.slice m) ∧
         ∀ f idx k j, (s.slice n).conds.seedNext = .resetRetain → j ∈ s.spine.jobs → j.kind = .resetSlice n → j.cmd = some (f, idx) →
           s.taken f idx = some k → k.orphan = false → k.doneWith ccOK 0 ∈ (t.fn f).done) ∧
     ((s.slice n).conds.seedNext = .track →
       ∃ t, exec (.seedEnd n) s = .next t ∧ (t.slice n).conds.phase = .service ∧
         ∀ f idx k j, j ∈ s.spine.jobs → j.kind = .admitSlice n → j.cmd = some (f, idx) →
           s.taken f idx = some k → k.orphan = false → k.doneWith ccOK 0 ∈ (t.fn f).done) ∧
     ((s.slice n).conds = { phase := .seed, seedNext := .coldReset } →
       ∃ t, exec (.seedEnd n) s = .next t ∧ (t.slice n).mode = (if n < s.par.nActive then .track else .retain) ∧
         (n < s.par.nActive → ∀ b, b < 4096 → t.bkt n b = bktInit s.par n b) ∧
         (∀ m, m ≠ n → t.slice m = s.slice m) ∧
         ((∀ m, m < s.par.nSlice → m ≠ n → (s.slice m).conds.phase ≠ .seed) → t.spine.ready = true))) ∧
  (∀ (s : State) (n : Nat), s.canon = true → n < s.par.nSlice →
     (bit s.spine.pwr n = true → s.offOk n = true →
       ∃ t, exec (.slicePowerRemoved n) s = .next t ∧ (t.slice n).mode = .off ∧ (t.slice n).arr = {} ∧ (t.slice n).trk = [] ∧
         bit t.spine.pwr n = false ∧ (∀ b, b < 4096 → (t.bkt n b).kind = .none) ∧ (∀ m, m ≠ n → t.slice m = s.slice m) ∧
         t.shims = s.shims ∧ t.fns = s.fns) ∧
     (bit s.spine.pwr n = true → s.offOk n = false → (s.slice n).conds.phase ≠ .off →
       ∃ t, exec (.slicePowerRemoved n) s = .next t ∧ (t.slice n).mode = .hold ∧ bit t.spine.pwr n = false ∧
         ((s.slice n).conds.hSalv = true ∨ s.heldBuckets n = [] → bit t.spine.assay.status 4 = true) ∧
         (t.slice n).bkt = (s.slice n).bkt ∧ (∀ m, m ≠ n → t.slice m = s.slice m) ∧ t.shims = s.shims ∧ t.fns = s.fns) ∧
     (bit s.spine.pwr n = false → n < 68 → (s.slice n).conds.phase = .hold → (s.slice n).conds.hSalv = false → s.heldBuckets n = [] →
         s.stubs n = [] →
       ∃ t, exec (.slicePowerRestored n) s = .next t ∧ (t.slice n).mode = .seed ∧ (t.slice n).conds.seedNext = .retain ∧
         bit t.spine.pwr n = true ∧ (t.slice n).arr = {} ∧ (t.slice n).trk = [] ∧
         (¬ n ∈ s.spine.salvageQ → t.shims = (shimsForget n s).shims)) ∧
     (∀ f idx k j, s.jobsNamed = true → bit s.spine.pwr n = false → n < 68 → (s.slice n).conds.phase = .off → j ∈ s.spine.jobs →
         j.kind = .calWrite n → j.cmd = some (f, idx) → s.taken f idx = some k → k.orphan = false →
       ∃ t, exec (.slicePowerRestored n) s = .next t ∧ (t.slice n).mode = .seed ∧ k.doneWith ccOK 0 ∈ (t.fn f).done ∧
         ∀ i ∈ t.spine.jobs, i.kind ≠ .calWrite n) ∧
     (bit s.spine.pwr n = false → (s.slice n).conds.phase = .off → n < 68 → (∀ j ∈ s.spine.jobs, j.kind ≠ .calWrite n) →
       ∃ t, exec (.slicePowerRestored n) s = .next t ∧ (t.slice n).mode = .seed ∧ (t.slice n).conds.seedNext = .retain ∧
         bit t.spine.pwr n = true ∧ (t.slice n).arr = {} ∧ (∀ m, m ≠ n → t.slice m = s.slice m) ∧
         t.shims = (shimsForget n s).shims ∧ t.fns = s.fns))

/-- 13 R338: the salvage of the first slice in HOLD that holds buckets freezes them, sets H_SALV, asks every memory port whether
the slice's writes have ended and tells every shim.

13 R338 step 4, R340: a port with no write of the slice left answers its notice, one with a write left does not yet; ports that stay silent past the limit
count as silent, and their unmatched halves of the slice are discarded.

13 R338 steps 5 to 7, R339, Table 13-5: once every port has answered, the slices with room take the salvaged slice's buckets over
(here: one port, one bucket, one target): the target owns the bucket under the next generation, as the master map says and every shim
is told, with frontiers at 0 and a census of its own due; the salvage is over. A line that a record of the failed slice leaves in P is
in P at the target, with SFMT 1, group vector 0xFFFF and owner 0, one that it leaves in U in U in census form. The records: a tracker
whose write data has not come, an AtomOp not yet performed and an OPEN merging-buffer entry leave P; a request past its decision step
without dirty data leaves U; a request before it and a PfHint leave the line as it is. (That the first slice with room takes the lowest
bucket is log 116's order.)

(Not the spec's: which slice with room takes which bucket is log 116; what a slice that lost its power leaves is log 29.) -/
def Obligations.Salvages : Prop :=
  (∀ (s : State) (n : Nat) (rest : List Nat), s.canon = true → n < s.par.nSlice → s.spine.salvageQ = n :: rest →
     s.spine.salvage = none → (s.slice n).conds.phase = .hold → s.heldBuckets n ≠ [] →
     let u := holdCleanup n (s.updSpine fun sp => { sp with salvageQ := rest })
     u.heldBuckets n ≠ [] →
     ∃ t, exec (.salvageStart n) s = .next t ∧ (t.slice n).conds.hSalv = true ∧ (t.slice n).mode = .hold ∧
       (∀ b, b ∈ u.heldBuckets n → (t.bkt n b).kind = .frozen) ∧
       (∃ v, t.spine.salvage = some v ∧ v.slice = n ∧ v.ports = List.range s.par.nMport) ∧
       (∀ p, p < s.par.nMport → n ∈ (t.port p).notices) ∧
       (∀ sh, s.hasShim sh = true → sh < 288 → ∃ l, Wire.lostNotice sh n l ∈ t.wires) ∧ t.spine.salvageQ = rest) ∧
  (∀ (s : State) (p n : Nat) (v : Salvage), s.canon = true → n < s.par.nSlice → s.spine.salvage = some v → v.slice = n →
     (p < s.par.nMport → n ∈ (s.port p).notices →
         (∀ h ∈ (s.port p).halves, h.src ≠ sliceNode n) → (∀ w ∈ (s.port p).writes, w.src ≠ sliceNode n) →
       ∃ u, exec (.portNoticeAnswer p n) s = .next (salvageGo u) ∧ ((∃ q ∈ v.ports, q ≠ p) → salvageGo u = u) ∧
         ¬ n ∈ (u.port p).notices ∧
         u.spine.salvage = some { v with ports := v.ports.filter (· != p) } ∧ (∀ r, r ≠ p → u.port r = s.port r) ∧
         u.slices = s.slices ∧ u.shims = s.shims ∧ u.mesh = s.mesh) ∧
     (p < s.par.nMport → ((∃ h ∈ (s.port p).halves, h.src = sliceNode n) ∨ (∃ w ∈ (s.port p).writes, w.src = sliceNode n)) →
       exec (.portNoticeAnswer p n) s = .next s) ∧
     (v.ports ≠ [] →
       ∃ u, exec (.portQuiesceTimeout n) s = .next (salvageGo u) ∧
         u.spine.salvage = some { v with silent := v.ports, ports := [] } ∧ u.slices = s.slices ∧ u.shims = s.shims ∧
         u.mesh = s.mesh ∧ (∀ q, (u.port q).reads = (s.port q).reads ∧ (u.port q).writes = (s.port q).writes) ∧
         ∀ q ∈ v.ports, ¬ n ∈ (u.port q).notices ∧
           (u.port q).halves = (s.port q).halves.filter (fun h => h.src != sliceNode n)) ∧
     (v.ports ≠ [] → (∀ q ∈ v.ports, q < s.par.nMport) → s.heldBuckets n ≠ [] → s.roomy n = [] → v.copyJob = none →
       ∃ t, exec (.portQuiesceTimeout n) s = .next t ∧
         (∃ w, t.spine.salvage = some w ∧ w.slice = n ∧ w.ports = [] ∧ w.silent = v.ports) ∧
         ∀ q ∈ v.ports, ¬ n ∈ (t.port q).notices ∧ ∀ h ∈ (t.port q).halves, h.src ≠ sliceNode n)) ∧
  ((∀ (s : State) (p n b m : Nat) (v : Salvage) (l : List Nat), s.canon = true → s.tablesRise = true → n < s.par.nSlice →
     m < s.par.nSlice → b < 4096 → s.spine.salvage = some v → v.slice = n → v.ports = [p] → v.copyJob = none →
     p < s.par.nMport → n ∈ (s.port p).notices → (∀ h ∈ (s.port p).halves, h.src ≠ sliceNode n) →
     (∀ w ∈ (s.port p).writes, w.src ≠ sliceNode n) → s.heldBuckets n = [b] → s.roomy n = m :: l →
     (∀ k ∈ m :: l, s.paused k = false) → (s.slice m).recipe = none → s.scrubbing = [] →
     let g := (s.bkt n b).gen + 1
     let e := (Config.spineEngine b m).val
     ∃ t, exec (.portNoticeAnswer p n) s = .next t ∧ t.spine.salvage = none ∧
       (t.bkt m b).kind = .owned ∧ (t.bkt m b).gen = g ∧ (t.bkt m b).engine = e ∧
       (t.bkt n b).kind ≠ .owned ∧ (t.bkt n b).kind ≠ .frozen ∧
       (t.master b).slice = m ∧ (t.master b).engine = e ∧ (t.master b).gen = g ∧
       (b, 0, 0) ∈ (t.slice m).frontiers ∧ (t.slice m).conds.lFront = true ∧
       (∃ c ∈ (t.slice m).census, c.own = true ∧ c.bucket = b ∧ c.started = false) ∧
       (∀ sh, sh < 288 → s.hasShim sh = true → ∃ a, Wire.mapUpdate sh b m e g a ∈ t.wires) ∧
       (∀ a w, bucketOf a = b → s.fineFind m a = some w → (s.slice m).trk = [] → s.lostLines n v = ([a], []) →
         let x := t.fineAt m (fineSet a) w
         x.hstate = hsP ∧ x.sfmt = true ∧ x.shr = 0xFFFF ∧ x.isFor a = true) ∧
       (∀ a w, bucketOf a = b → s.fineFind m a = some w → (s.slice m).trk = [] → s.inPAt m a = false → s.lostLines n v = ([], [a]) →
         let x := t.fineAt m (fineSet a) w
         x.hstate = hsU ∧ x.sfmt = true ∧ x.shr = 0 ∧ x.isFor a = true)) ∧
   (∀ (s : State) (n t : Nat) (k : Tracker) (v : Salvage) (op : Op), v.unreadable = false → s.trk n t = some k → k.bad = false →
     k.kind = .msg op →
     let own := lineOf k.addr
     let quiet : Prop := k.waitDat = false ∧ k.waitStash = false ∧ k.stashed = false ∧ k.round.data = none ∧ k.pendWr = [] ∧
       k.evict = none
     (k.waitDat = true → own ∈ (s.lostLines n v).1) ∧
     (op = .atomOp → k.atomDone = false → k.stage = .chain ∨ k.stage = .ready ∨ k.stage = .live → own ∈ (s.lostLines n v).1) ∧
     (∀ i e, (i, e) ∈ (s.slice n).mb → e.st = .opened → e.line ∈ (s.lostLines n v).1) ∧
     (quiet → k.stage = .live → op ≠ .pfHint → op ≠ .drainW → op ≠ .atomOp → ¬ own ∈ (s.lostLines n v).1 →
       own ∈ (s.lostLines n v).2) ∧
     (quiet → (op = .pfHint ∨ (op ≠ .atomOp ∧ (k.stage = .chain ∨ k.stage = .ready))) → (s.slice n).trk = [(t, k)] →
       (s.slice n).mb = [] → s.lostLines n v = ([], []))) ∧
   (∀ (s : State) (n : Nat) (v : Salvage), v.unreadable = true → s.lostLines n v = ([], [])))

/-- 08 R218, R219, R220: an idle engine steals the bucket with most ready trackers from the busiest sibling; once the bucket is
quiet it passes to the thief in the slice's table and the master map, its generation unchanged, and every shim is told; a steal
whose drain does not end in time leaves it with its engine. Either way the bucket is under its hold-off until that ends, and a
commanded steal ends OK or ABORTED. A paused slice flips nothing (17 R423, log 89). (Only the target of a copy of the slice, which
mirrors it, may change with it, 13 R334.)

(Not the spec's: that a steal's flip waits in a pause is log 89; that a copy target follows its source's steals at once is
log 69.) -/
def Obligations.StealSteps : Prop :=
  ∀ (s : State) (n b : Nat), s.canon = true → n < s.par.nSlice → (s.slice n).serving = true → s.tablesRise = true →
    (∀ e v, e < 4 → (s.slice n).steal = none → s.readyOf n e = 0 → (s.slice n).stealCfg.idle ≤ mget 0 (s.slice n).idleFor e →
        argMax (s.readyOf n) ((List.range 4).filter (· != e)) = some v → (s.slice n).stealCfg.minq ≤ s.readyOf n v →
        s.stealBucket n v = some b →
      ∃ t, exec (.stealIdleStart n e) s = .next t ∧
        (t.slice n).steal = some { bucket := b, victim := (s.bkt n b).engine, thief := e, why := .idle } ∧
        (∀ m, m ≠ n → s.copyPeer n ≠ some m → t.slice m = s.slice m) ∧ (∀ c, t.bkt n c = s.bkt n c) ∧ t.spine.master = s.spine.master) ∧
    (∀ v e why, (s.slice n).steal = some { bucket := b, victim := v, thief := e, why } → (s.slice n).quiet b = true →
        s.paused n = false →
      ∃ t, exec (.stealFlip n) s = .next t ∧ t.bkt n b = { s.bkt n b with engine := e } ∧
        t.master b = { s.master b with engine := e } ∧ b ∈ (t.slice n).holdoffs ∧
        (∀ c, c ≠ b → t.bkt n c = s.bkt n c ∧ t.master c = s.master c) ∧ (∀ m, m ≠ n → s.copyPeer n ≠ some m → t.slice m = s.slice m) ∧
        (∀ sh, s.hasShim sh = true → sh < 288 →
          Wire.mapUpdate sh b (s.master b).slice e (s.master b).gen false ∈ t.wires) ∧
        ((s.slice n).recipe = none → (t.slice n).steal = none) ∧
        (∀ id f idx k, why = .command id → s.job id = some { id, cmd := some (f, idx), kind := .steal n b } →
          s.taken f idx = some k → k.orphan = false →
          (t.fn f).done = (s.fn f).done ++ [k.doneWith ccOK ((s.bkt n b).gen.toNat + 256 * n)])) ∧
    (∀ v e why, (s.slice n).steal = some { bucket := b, victim := v, thief := e, why } → (s.slice n).quiet b = false →
      ∃ t, exec (.stealAbandon n) s = .next t ∧ (∀ c, t.bkt n c = s.bkt n c) ∧ t.spine.master = s.spine.master ∧
        b ∈ (t.slice n).holdoffs ∧ (∀ m, m ≠ n → s.copyPeer n ≠ some m → t.slice m = s.slice m) ∧
        (why = .idle → (s.slice n).recipe = none → t = s.updSlice n fun sl =>
          { parkBucket b sl with steal := none, holdoffs := addNew sl.holdoffs b }) ∧
        (∀ id f idx k, why = .command id → s.job id = some { id, cmd := some (f, idx), kind := .steal n b } →
          s.taken f idx = some k → k.orphan = false → (t.fn f).done = (s.fn f).done ++ [k.doneWith ccABORTED 0])) ∧
    (s.paused n = true → exec (.stealFlip n) s = .next s) ∧
    (b ∈ (s.slice n).holdoffs →
      ∃ t, exec (.stealHoldoffEnd n b) s = .next t ∧ (t.slice n).holdoffs = (s.slice n).holdoffs.filter (· != b) ∧
        (∀ c, t.bkt n c = s.bkt n c) ∧ (∀ m, m ≠ n → s.copyPeer n ≠ some m → t.slice m = s.slice m) ∧
        ((s.slice n).recipe = none → t = s.updSlice n fun sl => { sl with holdoffs := sl.holdoffs.filter (· != b) }))

/-- 08 R227, R228: when the drain of a frozen bucket has ended it flips: the target owns it with the generation after, the
master map names the target, every shim is told, and the source keeps a stub that names the target until every shim whose agent
is admitted has acknowledged (with none, the stub is gone at once). (For a move; the flip of a slice copy is the same, and what
it releases is log 74's.)

08 R229, R230: an acknowledgment of a bucket's current generation takes its shim from those awaited, and the last one frees
the bucket's stubs; one of an older generation is dropped. What then need wait no longer goes on: the releases of slice copies
(13 R334) and the batches of evacuations (13 R331), and nothing where no command or move is in progress.

08 R231, 12 R317: the end of a purge scan takes it away with every PURGE mark of the slice, and the BUCKET_MOVE that it ends
completes OK with the bucket's generation and target, or ABORTED where the move was given up. What waited for the end of PROOF
goes on (evacuations, 13 R331). With no finished purge scan nothing happens.

(Not the spec's: that a flip waits in a pause is log 89.) -/
def Obligations.BucketMovesEnd : Prop :=
  (∀ (s : State) (n b : Nat) (sc : Scan) (m : Mv), s.canon = true → s.tablesRise = true → n < s.par.nSlice → b < 4096 →
     (s.bkt n b).kind = .frozen → (s.slice n).serving = true →
     (∀ k, k < s.par.nSlice → (s.bkt k b).kind = .frozen ∨ (s.bkt k b).kind = .stub → k = n) →
     (s.slice n).scans.find? (fun x => (x.kind = .move || x.kind = .copy) && x.stop ≤ x.pos && x.moves.any fun y => y.b = b) =
       some sc → sc.kind = .move → sc.moves.find? (fun y => y.b = b) = some m → m.target ≠ n → m.target < s.par.nSlice →
     (s.slice m.target).serving = true → s.paused n = false → s.paused m.target = false → quietBucket n b s = s →
     s.drainedOut n b = true →
     ∃ t, exec (.bucketFlip b) s = .next t ∧ (t.bkt m.target b).kind = .owned ∧ (t.bkt m.target b).engine = m.engine ∧
       (t.bkt m.target b).gen = (s.bkt n b).gen + 1 ∧ (t.bkt m.target b).incoming = false ∧
       (t.master b).slice = m.target ∧ (t.master b).engine = m.engine ∧ (t.master b).gen = (s.bkt n b).gen + 1 ∧
       t.shims = s.shims ∧
       (∀ sh, sh < 288 → s.hasShim sh = true →
         Wire.mapUpdate sh b m.target m.engine ((s.bkt n b).gen + 1) (s.shim sh).acks ∈ t.wires) ∧
       ((∃ sh, sh < 288 ∧ s.hasShim sh = true ∧ (s.shim sh).acks = true) →
         (t.bkt n b).kind = .stub ∧ (t.bkt n b).peer = m.target) ∧
       ((∀ sh, sh < 288 → s.hasShim sh = true → (s.shim sh).acks = false) → (t.bkt n b).kind = .none)) ∧
  (∀ (s : State) (k sh b : Nat) (gen : BitVec 6),
     s.findWire k (fun w => match w with | .mapAck _ _ _ => true | _ => false) = some (.mapAck sh b gen) →
     ∃ u, exec (.spineMapAck k) s = .next (evacSteps (copyReleases u)) ∧ (s.spine.jobs = [] → evacSteps (copyReleases u) = u) ∧
       ((s.master b).gen = gen → sh ∈ (s.master b).unacked → (∃ q ∈ (s.master b).unacked, q ≠ sh) →
         u = (s.takeWire (.mapAck sh b gen)).setMaster b
           { s.master b with unacked := (s.master b).unacked.filter (· != sh) }) ∧
       ((s.master b).gen = gen → sh ∈ (s.master b).unacked → (∀ q ∈ (s.master b).unacked, q = sh) → s.canon = true →
         s.tablesRise = true → b < 4096 → (u.master b).unacked = [] ∧ ∀ n, n < s.par.nSlice → (u.bkt n b).kind ≠ .stub) ∧
       ((s.master b).gen ≠ gen ∨ ¬ sh ∈ (s.master b).unacked → u = s.takeWire (.mapAck sh b gen))) ∧
  ((∀ (s : State) (n : Nat), n < s.par.nSlice →
     (s.slice n).scans.find? (fun sc => sc.kind = .purge && sc.stop ≤ sc.pos) = none →
     exec (.purgeScanEnd n) s = .next s) ∧
   (∀ (s : State) (n : Nat) (sc : Scan), s.canon = true → s.tablesRise = true → n < s.par.nSlice →
     (s.slice n).scans.find? (fun sc => sc.kind = .purge && sc.stop ≤ sc.pos) = some sc →
     ∃ u, exec (.purgeScanEnd n) s = .next (evacSteps (purgeJobs n u)) ∧
       (u.slice n).scans = (s.slice n).scans.filter (fun x => x.kind != .purge) ∧
       (∀ b, (u.bkt n b).purge = false ∧ (u.bkt n b).kind = (s.bkt n b).kind) ∧
       (u.slice n).conds.pMove = u.inMove n ∧ (u.slice n).arr = (s.slice n).arr ∧ (u.slice n).trk = (s.slice n).trk ∧
       u.spine = s.spine ∧ u.fns = s.fns ∧ u.shims = s.shims ∧ u.mesh = s.mesh) ∧
   (∀ (s : State) (n f idx id b tgt : Nat) (gen : BitVec 6) (aborted : Bool) (sc : Scan) (k : Taken), s.canon = true →
     n < s.par.nSlice → (s.slice n).scans.find? (fun sc => sc.kind = .purge && sc.stop ≤ sc.pos) = some sc →
     s.spine.jobs = [{ id, cmd := some (f, idx), kind := .move n b tgt gen aborted }] → s.taken f idx = some k →
     k.orphan = false →
     ∃ t, exec (.purgeScanEnd n) s = .next t ∧ (∀ x ∈ (t.slice n).scans, x.kind ≠ .purge) ∧ t.spine.jobs = [] ∧
       t.taken f idx = none ∧ (t.fn f).done = (s.fn f).done ++
         [if aborted then k.doneWith ccABORTED 0 else k.doneWith ccOK (gen.toNat + 256 * tgt)] ∧
       (t.slice n).arr = (s.slice n).arr ∧ (t.slice n).trk = (s.slice n).trk ∧ t.shims = s.shims ∧ t.mesh = s.mesh))

/-- 08 R224, R225: of the copied entries that have arrived for a set, a slice takes the first that its source sent (the mesh
gives no other order, 01 R10). A slice that is to receive the bucket records an entry of a slice copy in the same set and way;
one that is not takes the message and records nothing; a mirrored write is acknowledged either way, and the acknowledgment
releases the writer: one of at most 32 is no longer outstanding, and the oldest mirrored write that waited at the source, if any, is
sent in its place (13 R336; log 68). (The acknowledgment is stated for an empty input buffer.)

08 R225: the source of a refused entry takes the refusal: an entry that is gone needs nothing, and one that is there is
force-invalidated by an own tracker of the slice, or, in Anvil mode, leaves it (Table 06-7; its exit in place of the force-invalidation is log 71, DEDUCED). (With no mirrored write awaited,
13 R336.)

08 R223: a due slot of a move scan reads one set and goes on to the next; of the fine set read, every entry of a moving
bucket is sent to the bucket's target. A slot that is not due, or that the pipeline has no room for, is not taken. (For a set in
which no word fails its check, with no mirrored write awaited, 13 R336.)

(Not the spec's: what a copy target does with exact copies is log 44; where mirrored writes wait is log 68; the clause for a
refused Anvil entry is log 71.) -/
def Obligations.EntriesCopied : Prop :=
  ((∀ (s : State) (n t k src set way : Nat) (e : Entry) (mirror : Bool) (b : Nat), n < s.par.nSlice →
     (s.slice n).serving = true → s.paused n = false →
     (firstCopies n [] s.wires)[k]? = some (.copyFine src n set way 0 e true mirror) → fineBucket set e = some b →
     ((s.bkt n b).incoming = true → (decFine e).sent = true → s.fineFind n ((decFine e).line set) = none →
         s.fineLive n way = true → (s.fineAt n set way).free = true →
       exec (.copyEntryReceive n t k) s = .next
         (let u := (moveFine n ((decFine e).line set) way (decFine e) s).takeWire (.copyFine src n set way 0 e true mirror)
          if mirror then u.wire (.copyAck n src set false b) else u)) ∧
     ((s.bkt n b).incoming = false →
       exec (.copyEntryReceive n t k) s = .next
         (let u := s.takeWire (.copyFine src n set way 0 e true mirror)
          if mirror then u.wire (.copyAck n src set false b) else u))) ∧
   (∀ (s : State) (n k src set b : Nat) (isLoaf : Bool), n < s.par.nSlice → (s.slice n).inBuf = [] →
     s.findWire k (isAckTo n) = some (.copyAck src n set isLoaf b) →
     let u := (s.takeWire (.copyAck src n set isLoaf b)).updSlice n fun sl => { sl with mirrored := sl.mirrored.erase (isLoaf, set, b) }
     ((s.slice n).mirrorQ = [] ∨ 32 ≤ (u.slice n).mirrored.length → exec (.copyAckReceive n k) s = .next u) ∧
     (∀ key w r, s.canon = true → (s.slice n).mirrorQ = (key, w) :: r → (u.slice n).mirrored.length < 32 →
       exec (.copyAckReceive n k) s = .next ((u.updSlice n fun sl => { sl with
         mirrored := sl.mirrored ++ [key], mirrorQ := r }).wire w)))) ∧
  (∀ (s : State) (n t k src set : Nat) (e : Entry), n < s.par.nSlice → (s.slice n).serving = true → s.paused n = false →
     (s.slice n).mirrored = [] → s.findWire k (isRefusalTo n) = some (.copyRefuse src n set false e) →
     (s.fineFind n ((decFine e).line set) = none →
       exec (.copyRefusalReceive n t k) s = .next (s.takeWire (.copyRefuse src n set false e))) ∧
     (∀ v u, s.fineFind n ((decFine e).line set) = some v → (s.fineAt n set v).sent = true → (s.fineAt n set v).hstate ≠ hsP →
         (s.fineAt n set v).hstate ≠ hsU → (s.slice n).busyLine ((decFine e).line set) = false →
         (s.fineAt n set v).anvil = false → allocOwn n t .evictOnly ((decFine e).line set) .ended s = some u →
       exec (.copyRefusalReceive n t k) s =
         .next (advance n t (evictFine n t set v (u.takeWire (.copyRefuse src n set false e))))) ∧
     (∀ v, s.fineFind n ((decFine e).line set) = some v → (s.fineAt n set v).sent = true → (s.fineAt n set v).hstate ≠ hsP →
         (s.fineAt n set v).hstate ≠ hsU → (s.slice n).busyLine ((decFine e).line set) = false →
         (s.fineAt n set v).anvil = true →
       exec (.copyRefusalReceive n t k) s =
         .next (anvilExit n ((decFine e).line set) (s.takeWire (.copyRefuse src n set false e))))) ∧
  (∀ (s : State) (n t : Nat) (sc : Scan), s.canon = true → n < s.par.nSlice → (s.slice n).serving = true →
     (s.slice n).scan .move = some sc →
     (s.paused n = true ∨ (s.slice n).slotOpen = false ∨ s.slotDue n sc = false → exec (.moveScanSlot n t .move) s = .next s) ∧
     (s.paused n = false → (s.slice n).slotOpen = true → s.slotDue n sc = true → sc.pos < 8192 → sc.pos + 1 < sc.stop →
       (s.slice n).mirrored = [] →
       (let u := spendSlot n .move (ownSlot n s); readFineSet n sc.pos u = u) →
       ∃ u, exec (.moveScanSlot n t .move) s = .next u ∧ ((u.slice n).scan .move).map (·.pos) = some (sc.pos + 1) ∧
         (u.slice n).slots = (s.slice n).slots + 1 ∧ (u.slice n).arr = (s.slice n).arr ∧
         (u.slice n).bkt = (s.slice n).bkt ∧ u.shims = s.shims ∧ u.mesh = s.mesh ∧
         ∀ w b m, w < 16 → s.fineLive n w = true → (s.fineAt n sc.pos w).sent = true →
           fineBucket sc.pos ((s.slice n).fineE sc.pos w) = some b → sc.moves.find? (fun m => m.b = b) = some m →
           Wire.copyFine n m.target sc.pos w 0 ((s.slice n).fineE sc.pos w) false false ∈ u.wires))

/-- 14 R359, R375, 15 R396, 07 R208: what ends with a finished scan. A disable walk takes its ways out of lookup and sets
L_WAYS; the last conversion of a tray gives the block its new sizes, an earlier one leaves the command to the slices to come;
the last recolour scan of a commit ends its COUNTERMARK (an earlier one leaves it waiting for the others), after which the recipes
that its record names are activated (13 R349; that this is their moment is log 43, DEDUCED): a slice that runs no activation takes the
named engine, whose shadow bank is VALID, has the digest and serves every negotiated revision, and is in P_RECIPE. The end of a tray
conversion waits for the end of a pause (17 R423).

(Not the spec's: when the activations of a COUNTERMARK start is log 43.) -/
def Obligations.ScansEnd : Prop :=
  ∀ (s : State) (n : Nat), s.canon = true → n < s.par.nSlice →
    (∀ sc, (s.slice n).scan .disable = some sc → sc.stop ≤ sc.pos → (s.slice n).serving = true →
      ∃ t, exec (.wayDisableWalkEnd n) s = .next t ∧ (t.slice n).fineDis = (s.slice n).fineDis ||| sc.fineW ∧
        (t.slice n).loafDis = (s.slice n).loafDis ||| sc.loafW ∧ (t.slice n).hlcDis = (s.slice n).hlcDis ||| sc.hlcW ∧
        (t.slice n).fineDising = (s.slice n).fineDising &&& ~~~ sc.fineW ∧ (t.slice n).conds.lWays = true ∧
        (∀ x ∈ (t.slice n).scans, x.kind ≠ .disable) ∧ (∀ m, m ≠ n → t.slice m = s.slice m)) ∧
    (∀ id ft ht fl f idx k, s.jobsNamed = true →
        s.spine.jobs = [{ id, cmd := some (f, idx), kind := .tray ft ht [n] fl }] → s.trayFlushed = true → s.paused n = false →
        (∃ sc ∈ (s.slice n).scans, sc.kind = .tray ∧ sc.stop ≤ sc.pos) → s.taken f idx = some k → k.orphan = false →
      ∃ t, exec (.trayConvertEnd n) s = .next t ∧ t.spine.trayFt = ft ∧ t.spine.trayHt = ht ∧
        (t.slice n).conds.pTray = false ∧ (t.slice n).arr.trayFine = [] ∧ t.spine.jobs = [] ∧
        (t.fn f).done = (s.fn f).done ++ [k.doneWith ccOK 0] ∧
        (∀ m, (t.slice m).trk = (s.slice m).trk ∧ (t.slice m).bkt = (s.slice m).bkt ∧
          (t.slice m).arr.fine = (s.slice m).arr.fine ∧ (t.slice m).arr.loaf = (s.slice m).arr.loaf)) ∧
    (∀ id ft ht left fl cmd, s.spine.jobs = [{ id, cmd, kind := .tray ft ht left fl }] → n ∈ left → (∃ m ∈ left, m ≠ n) →
        s.trayFlushed = true → s.paused n = false → (∃ sc ∈ (s.slice n).scans, sc.kind = .tray ∧ sc.stop ≤ sc.pos) →
      ∃ t, exec (.trayConvertEnd n) s = .next t ∧ t.spine.trayFt = s.spine.trayFt ∧ t.spine.trayHt = s.spine.trayHt ∧
        (t.slice n).conds.pTray = false ∧ (t.slice n).arr.trayFine = [] ∧ (t.slice n).arr.trayHlc = [] ∧
        t.spine.jobs = [{ id, cmd, kind := .tray ft ht (left.filter (· != n)) fl }] ∧ t.fns = s.fns ∧
        ∀ m, m ≠ n → t.slice m = s.slice m) ∧
    (s.paused n = true → exec (.trayConvertEnd n) s = .next s) ∧
    (∀ sc id pid cmd left acts, (s.slice n).scan .recolour = some sc → sc.stop ≤ sc.pos →
        s.spine.jobs = [{ id, cmd, kind := .countermark pid left acts }] → (∃ m ∈ left, m ≠ n) →
      exec (.recolourScanEnd n) s = .next (dropScan n .recolour (s.updSpine fun sp => { sp with
        jobs := [{ id, cmd, kind := .countermark pid (left.filter (· != n)) acts }] }))) ∧
    (∀ sc, (s.slice n).scan .recolour = some sc → sc.stop ≤ sc.pos → s.spine.jobs = [] →
      exec (.recolourScanEnd n) s = .next (dropScan n .recolour s)) ∧
    (∀ sc id pid f idx k acts, (s.slice n).scan .recolour = some sc → sc.stop ≤ sc.pos →
        s.spine.jobs = [{ id, cmd := some (f, idx), kind := .countermark pid [n] acts }] → s.taken f idx = some k →
        k.orphan = false →
      ∃ t, exec (.recolourScanEnd n) s = .next t ∧ (∀ x ∈ (t.slice n).scans, x.kind ≠ .recolour) ∧ t.spine.jobs = [] ∧
        (t.fn f).done = (s.fn f).done ++ [k.doneWith ccOK pid] ∧
        (acts = [] → ∀ m, m ≠ n → t.slice m = s.slice m) ∧
        (∃ u, t = eachOf acts (fun x => recipeActivate x.1 x.2) u ∧ u.spine.jobs = [] ∧ (∀ m, m ≠ n → u.slice m = s.slice m) ∧
          u.slice n = { s.slice n with scans := (u.slice n).scans }) ∧
        ∀ m e, acts = [(m, [(e, sha256 (s.shdBank m e).image)])] → m < s.par.nSlice →
          ((s.slice m).conds.phase = .service ∨ (s.slice m).conds.phase = .retain ∨ (s.slice m).conds.phase = .seed) →
          (s.slice m).recipe = none → (s.slice m).steal = none → (s.shdBank m e).valid = true → (s.shdBank m e).bad = false →
          (s.slice m).assay.inj.count = 0 → s.topRev ≤ (s.shdBank m e).lcp →
          (t.slice m).conds.pRecipe = true ∧ (t.slice m).recipe =
            some { engines := [], digests := [(e, sha256 (s.shdBank m e).image)], current := some e })

/-- 08 R233, R234, R236, 13 R345: a Temper window ends with every slice's means of that window in its registers and the settings
written meanwhile in force. A window of a slice in TRACK is slow where LAT exceeds RATIO × MED / 8 and OCC is at least OCCMIN, and none
is with fewer than 4 slices in TRACK; the CONSEC-th slow window in a row makes the slice slow and raises 0x18, and the CONSEC-th that
is not slow ends that. A slow slice sheds in one scan all but K of its buckets, those with the highest tracker counts of the last
window, to the slices with room in their order, 4 to each; what 08 R221 forbids is deferred, and nothing is shed again before RECHECK
windows have passed. The evacuation of a slice in BROADCAST starts by itself as soon as nothing refuses it.

(Not the spec's: rounding is log 26; OCC and LAT of a window without a sample or an end are log 72; which of buckets with
equal counts are shed is log 106.) -/
def Obligations.TemperAndAutoEvacuation : Prop :=
  (∀ s : State, s.canon = true →
    let lat (n : Nat) : Nat := if (s.slice n).temper.latN = 0 then 0 else (s.slice n).temper.latSum / (s.slice n).temper.latN
    let occ (n : Nat) : Nat := if (s.slice n).temper.occN = 0 then 0 else (s.slice n).temper.occSum / (s.slice n).temper.occN
    let tr := s.sliceNums.filter fun n => (s.slice n).mode = .track
    let med2 := median2 (tr.map lat)
    let c := s.spine.temperNow
    let slow (n : Nat) : Bool := decide (4 ≤ tr.length ∧ c.ratio * med2 < 16 * lat n ∧ c.occmin ≤ occ n)
    ∃ w, exec .temperWindowEnd s = .next (evacSteps (copyReleases (salvageGo
        ((eachOf s.sliceNums (fun n => shed n med2) w).updSpine fun sp => { sp with temperNow := sp.temper })))) ∧
      w.spine.temperNow = c ∧ w.spine.temper = s.spine.temper ∧ w.fns = s.fns ∧ w.shims = s.shims ∧ w.mesh = s.mesh ∧
      (∀ n, n < s.par.nSlice → let x := (s.slice n).temper
        let y := (w.slice n).temper
        (n ∈ tr → slow n = x.slow → y.run = 0 ∧ y.slow = x.slow) ∧
        (n ∈ tr → slow n ≠ x.slow → x.run + 1 < c.consec → y.run = x.run + 1 ∧ y.slow = x.slow) ∧
        (n ∈ tr → slow n ≠ x.slow → c.consec ≤ x.run + 1 → y.run = 0 ∧ y.slow = slow n ∧
          (slow n = true → bit (w.slice n).assay.status 0x18 = true)) ∧
        (¬ n ∈ tr → y.run = x.run ∧ y.slow = x.slow) ∧ y.occ = occ n ∧ y.lat = lat n ∧ y.bktLast = x.bktNow ∧ y.bktNow = []) ∧
      (tr.length < 4 → ∀ n, slow n = false)) ∧
  (∀ l : List Nat, l.Pairwise (· ≤ ·) → l ≠ [] → median2 l = l.getD ((l.length - 1) / 2) 0 + l.getD (l.length / 2) 0) ∧
  (∀ l r : List Nat, l.Perm r → median2 l = median2 r) ∧
  (∀ (s : State) (n med2 : Nat), s.canon = true → n < s.par.nSlice →
    let x := (s.slice n).temper
    let c := s.spine.temperNow
    let on : Prop := x.slow = true ∧ (s.slice n).serving = true ∧ c.shedEn = true
    let own := s.ownedBuckets n
    let fresh : Prop := x.shed = false ∧ c.recheck ≤ x.sinceShed ∧ x.deferred = []
    let count := own.length - max c.floor (own.length * med2 / (2 * x.lat))
    let highest (l : List Nat) : Prop := l.length = count ∧ l.Nodup ∧ (∀ b ∈ l, b ∈ own) ∧
      ∀ b ∈ l, ∀ d ∈ own, ¬ d ∈ l → mget 0 x.bktLast d ≤ mget 0 x.bktLast b
    let put (l : List Nat) (sh : Bool) : State := s.updSlice n fun sl => { sl with temper := { sl.temper with deferred := l, shed := sh } }
    let free : Prop := (s.slice n).susFine.isEmpty = true ∧ (s.slice n).susLoaf.isEmpty = true ∧ s.inMove n = false ∧ s.inCopy n = false ∧
      ∀ j ∈ s.spine.jobs, ∀ tk mv rs, j.kind ≠ .evacuate n tk mv rs
    (¬ on → shed n med2 s = put [] x.shed) ∧
    (on → ¬ fresh → x.deferred = [] → shed n med2 s = s) ∧
    (on → fresh → 0 < x.lat → (∀ b, mget 0 x.bktLast b < 2 ^ 32) → 0 < count →
      (¬ free → ∃ l, highest l ∧ shed n med2 s = put l false) ∧
      (free → (∀ b ∈ own, s.stubbed b = false ∧ s.censusOf b = false) → count + (s.stubs n).length ≤ 63 →
        (s.roomy n = [] → shed n med2 s = s) ∧
        (count ≤ 4 * (s.roomy n).length →
        ∃ (l : List Mv), highest (l.map (·.b)) ∧ (∀ i, i < count → (l.map (·.target))[i]? = (s.roomy n)[i / 4]?) ∧
          (let r := (put [] true).addJob none (.shed n)
           shed n med2 s = startMove n l false r.2 r.1))))) ∧
  (∀ s : State, s.canon = true →
    ∃ u, exec .temperWindowEnd s = .next (evacSteps (copyReleases (salvageGo u))) ∧ u.spine.temperNow = s.spine.temper ∧
      u.shims = s.shims ∧ u.mesh = s.mesh ∧ ∀ n, n < s.par.nSlice →
        (u.slice n).temper.occ = (if (s.slice n).temper.occN = 0 then 0
          else (s.slice n).temper.occSum / (s.slice n).temper.occN) ∧
        (u.slice n).temper.lat = (if (s.slice n).temper.latN = 0 then 0
          else (s.slice n).temper.latSum / (s.slice n).temper.latN) ∧
        (u.slice n).temper.occN = 0 ∧ (u.slice n).temper.latN = 0) ∧
  (∀ s : State, s.canon = true → s.spine.jobs = [] → s.spine.salvage = none →
    ∃ t, exec .temperWindowEnd s = .next t ∧ t.spine.temperNow = s.spine.temper ∧ t.shims = s.shims ∧ t.fns = s.fns ∧
      t.mesh = s.mesh ∧ ∀ n, n < s.par.nSlice →
        (t.slice n).temper.occ = (if (s.slice n).temper.occN = 0 then 0
          else (s.slice n).temper.occSum / (s.slice n).temper.occN) ∧
        (t.slice n).temper.lat = (if (s.slice n).temper.latN = 0 then 0
          else (s.slice n).temper.latSum / (s.slice n).temper.latN) ∧
        (t.slice n).temper.occN = 0 ∧ (t.slice n).temper.latN = 0 ∧ (t.slice n).arr = (s.slice n).arr) ∧
  (∀ (s : State) (n : Nat), n < s.par.nSlice → n ∈ s.spine.autoEvac → (s.slice n).mode = .broadcast → s.evacRefused n = none →
    exec (.autoEvacuate n) s = .next (startEvac n none false (s.updSpine fun sp =>
      { sp with autoEvac := sp.autoEvac.filter (· != n) })))

/-- 03 R70, R71, R73, R79, R94, 05 R151, 09 R246: what a shim does with a whole message of its agent. A request or report that an
admitted agent may send goes to the queue of its class with SRCID, TID, DSTID and GEN written and is counted until its first
answer; a message of any other class goes to its queue; a header that the agent may not send, or sends before it is admitted,
is answered Rest with its fault raised; a message whose queue is full stays with the agent; one of a silenced or reset agent, and
a header of a fenced one, is discarded; a StashTake is noted, since the DatX to come answers no header (04 R120; log 87, DEDUCED). The
room that decides whether a queue is full is log 77 (DESIGN CHOICE). (For a shim whose tables pass their checks, with no injection armed;
a request with ORD other than 0, DrainW, TlbInv and illegal RSP and DAT messages are not stated.)

(Not the spec's: SRCID and DSTID of the shim's own answers are the model's choice (log 31), and so is the room that a full
queue leaves (log 77); that a StashTake is noted is log 87; that the shim's answers reach the agent at once is log 90.) -/
def Obligations.ShimTakesMessages : Prop :=
  ∀ (s : State) (sh : Nat) (f : Flits) (m : Msg) (det : Detail), s.canon = true → s.hasShim sh = true → sh < 288 →
    (s.shim sh).assay.inj.count = 0 → (∀ b, (s.bmap sh b).bad = false) → (∀ kv ∈ (s.shim sh).streams, kv.2.bad = false) →
    spells f m det →
    let x := s.shim sh
    let e := s.bmap sh (bucketOf m.addr)
    let sent : QMsg := { m := { m with
      src := agentNode sh, tid := if x.tidForce then x.tidValue else m.tid, dst := sliceNode e.slice, gen := e.gen } }
    (x.room m = false → exec (.shimAgentMessage sh f) s = .next s) ∧
    (x.room m = true → x.silenced = true ∨ x.cut = true → exec (.shimAgentMessage sh f) s = .next s) ∧
    (x.room m = true → x.silenced = false → x.cut = false →
      (x.st = .admitted → m.legal x.neg (isCaching sh) = true → (m.op.isLineReq || m.op.isWbk) = true → m.ord = 0 →
        ∃ (t : State) (hints : List QMsg), exec (.shimAgentMessage sh f) s = .next t ∧
          (t.shim sh).reqQ = x.reqQ ++ (if m.op.isWbk then [] else sent :: hints) ∧ (∀ q ∈ hints, q.m.op = .pfHint) ∧
          (t.shim sh).wbkQ = x.wbkQ ++ (if m.op.isWbk then [sent] else []) ∧
          (t.shim sh).outst = x.outst ++
            [{ rqtx := m.rqtx, op := m.op, bucket := bucketOf m.addr, seq := x.seq, built := some x.seq }] ∧
          (t.shim sh).st = .admitted ∧ (t.shim sh).drainVec = x.drainVec ∧ (∀ a, a ≠ sh → t.shim a = s.shim a) ∧
          t.slices = s.slices ∧ t.spine = s.spine ∧ t.mesh = s.mesh ∧ t.out = s.out) ∧
      (x.st = .fenced → (m.op.isReq || m.op.isWbk) = true → exec (.shimAgentMessage sh f) s = .next s) ∧
      (x.st = .admitted → m.legal x.neg (isCaching sh) = true → m.op.cls = 3 → m.op ≠ .stashTake →
        exec (.shimAgentMessage sh f) s = .next (s.updShim sh fun y =>
          { y with rspQ := y.rspQ ++ [{ m := { m with src := agentNode sh } }] })) ∧
      (∀ n, x.st = .admitted → m.legal x.neg (isCaching sh) = true → m.op = .stashTake → nodeSlice m.dst = some n →
        exec (.shimAgentMessage sh f) s = .next (s.updShim sh fun y => { y with
          stashes := addNew y.stashes (n, m.htrk), rspQ := y.rspQ ++ [{ m := { m with src := agentNode sh } }] })) ∧
      (x.st = .admitted → m.legal x.neg (isCaching sh) = true → m.op.cls = 4 →
        exec (.shimAgentMessage sh f) s = .next (s.updShim sh fun y =>
          { y with datQ := y.datQ ++ [{ m := { m with src := agentNode sh } }] })) ∧
      (∀ reason src, (m.op.isReq || m.op.isWbk) = true →
        ((x.st = .admitted ∧ m.legal x.neg (isCaching sh) = false ∧ reason = rsIllegal ∧ src = 3) ∨
          ((x.st = .idle ∨ x.st = .admitting) ∧ reason = rsNotAdm ∧ src = 4)) →
        ∃ t, exec (.shimAgentMessage sh f) s = .next t ∧ bit (t.shim sh).assay.status src = true ∧
          t.out = s.out ++ [.toAgent sh
            { op := .rest, src := agentNode sh, dst := agentNode sh, rqtx := m.rqtx, aux := reason }] ∧
          t.slices = s.slices ∧ t.mesh = s.mesh ∧ (∀ a, a ≠ sh → t.shim a = s.shim a)))

/-- 09 R238, 03 R87, R100, Table 03-16, 05 R151, 06 R167, 09 R246: what a shim injects and delivers. A REQ that waited 64 MCLK goes
first, then RSP, DAT, WBK and REQ, and of REQ messages hints last; a message for the agent enters its mesh-to-agent queue, or waits in the mesh while that is full (03 R94), a first
answer ending its header's count and, for an opcode of R167,
setting its slice's bit of the drain vector; an opcode that is never addressed to an agent raises 0x42; after retire step 2
nothing is delivered.

(Not the spec's: log 46 names the readings for fenced shims, and log 76 when the agent takes a message.) -/
def Obligations.ShimInjectsAndDelivers : Prop :=
  (∀ (s : State) (sh : Nat), s.canon = true → s.hasShim sh = true →
    let x := s.shim sh
    (∀ q, x.reqQ.find? (fun q => 64 ≤ q.wait) = some q →
      exec (.shimInject sh) s = .next ((s.setShim sh { x with reqQ := x.reqQ.erase q }).send q.m)) ∧
    (x.reqQ.find? (fun q => 64 ≤ q.wait) = none →
      (∀ q l, x.rspQ = q :: l → exec (.shimInject sh) s = .next ((s.setShim sh { x with rspQ := l }).send q.m)) ∧
      (∀ q l, x.rspQ = [] → x.datQ = q :: l → exec (.shimInject sh) s = .next ((s.setShim sh { x with datQ := l }).send q.m)) ∧
      (∀ q l, x.rspQ = [] → x.datQ = [] → x.wbkQ = q :: l →
        exec (.shimInject sh) s = .next ((s.setShim sh { x with wbkQ := l }).send q.m)) ∧
      (∀ q l, x.rspQ = [] → x.datQ = [] → x.wbkQ = [] → x.reqQ = q :: l → q.m.op ≠ .pfHint →
        exec (.shimInject sh) s = .next ((s.setShim sh { x with reqQ := l }).send q.m)) ∧
      (∀ q, x.rspQ = [] → x.datQ = [] → x.wbkQ = [] → x.reqQ.find? (fun q => q.m.op != .pfHint) = some q →
        exec (.shimInject sh) s = .next ((s.setShim sh { x with reqQ := x.reqQ.erase q }).send q.m)) ∧
      (∀ q l, x.rspQ = [] → x.datQ = [] → x.wbkQ = [] → x.reqQ = q :: l → (∀ p ∈ x.reqQ, p.m.op = .pfHint) →
        exec (.shimInject sh) s = .next ((s.setShim sh { x with reqQ := l }).send q.m)) ∧
      (x.rspQ = [] → x.datQ = [] → x.wbkQ = [] → x.reqQ = [] → exec (.shimInject sh) s = .next s))) ∧
  (∀ (s : State) (sh : Nat) (f : Flits) (m : Msg), s.canon = true → s.hasShim sh = true → sh < 288 →
    (s.shim sh).assay.inj.count = 0 → arrives f (agentNode sh) m →
    let x := s.shim sh
    (x.roomIn m = false → exec (.shimMeshMessage sh f) s = .next s) ∧
    (x.roomIn m = true →
    (notAtAgent (isCaching sh) m = true →
      ∃ t, exec (.shimMeshMessage sh f) s = .next t ∧ bit (t.shim sh).assay.status 2 = true ∧ t.out = s.out ∧
        t.mesh = s.mesh.erase m ∧ t.slices = s.slices) ∧
    (notAtAgent (isCaching sh) m = false → x.silenced = true → exec (.shimMeshMessage sh f) s = .next (s.takeMesh m)) ∧
    (notAtAgent (isCaching sh) m = false → x.silenced = false → x.st ≠ .idle → x.cut = false → x.lostMsg m = false →
        x.drainGrant m = none → x.stashData m = none → x.lateAns m = none →
      ∃ t, exec (.shimMeshMessage sh f) s = .next t ∧ t.out = s.out ∧ t.mesh = s.mesh.erase m ∧
        (t.shim sh).snpIn = x.snpIn ++ (if m.op.cls = 2 then [m] else []) ∧
        (t.shim sh).rspIn = x.rspIn ++ (if m.op.cls = 3 then [m] else []) ∧
        (t.shim sh).datIn = x.datIn ++ (if m.op.cls = 4 then [m] else []) ∧
        (m.op.isFirst = false → t = (s.takeMesh m).updShim sh (·.enqueue m)) ∧
        (∀ o, m.op.isFirst = true → x.outst.find? (fun o => o.rqtx = m.rqtx && o.built.isSome) = some o →
          (t.shim sh).outst = x.outst.erase o ∧
          (∀ n, m.home = some n → (t.shim sh).drainVec =
            if m.op ≠ .rest ∧ o.op.drains = true then setBit x.drainVec n true else x.drainVec)) ∧
        (∀ a, a ≠ sh → t.shim a = s.shim a) ∧ t.slices = s.slices ∧ t.spine = s.spine ∧ t.hall = s.hall)))

/-- 06 R168, R171, 08 R229, 05 R151, 13 R340: a drain that no older header holds back sends one DrainW to each slice of the drain
vector that is not lost, as far as the REQ queue has room (03 R94), and with none to send it is granted at once, the vector
empty; the Grant of the last slice grants it. A map update is installed unless the entry is newer, and acknowledged at once when no counted header of its bucket stands before it. A lost slice is
noted, and each header that it held is answered Rest FREEZE.

(Not the spec's: SRCID and DSTID of the shim's own answers are the model's choice (log 31), and so are the places that copies
take in the REQ queue (log 77); a stale map update is log 79.) -/
def Obligations.DrainAndMapSteps : Prop :=
  (∀ (s : State) (sh : Nat) (d : Drain), s.canon = true → s.hasShim sh = true → (s.shim sh).drains = [d] →
    (s.shim sh).drainReady d = true →
    let l := (List.range 68).filter fun n => bit (s.shim sh).drainVec n && !(s.shim sh).lost.contains n
    let room := max (32 - ((s.shim sh).reqQ.length + if d.held.isSome then 1 else 0))
      (if (s.shim sh).reqQ.isEmpty then 1 else 0)
    (l ≠ [] → exec (.drainCopiesSend sh) s = .next (s.updShim sh fun x => { x with
      drains := [{ d with sent := true, todo := l.drop room, waiting := l, bits := x.drainVec }]
      reqQ := x.reqQ ++ (l.take room).map fun n =>
        { m := { op := .drainW, src := agentNode sh, dst := sliceNode n, rqtx := d.rqtx } } })) ∧
    (l = [] → d.held = none → d.gone = false → exec (.drainCopiesSend sh) s =
      .next ((s.updShim sh fun x => { x with drains := [], drainVec := 0 }).emit
        (.toAgent sh { op := .grant, src := agentNode sh, dst := agentNode sh, rqtx := d.rqtx })))) ∧
  (∀ (s : State) (sh n : Nat) (d : Drain) (f : Flits) (m : Msg), s.canon = true → s.hasShim sh = true → sh < 288 →
    (s.shim sh).assay.inj.count = 0 → arrives f (agentNode sh) m → (s.shim sh).silenced = false → (s.shim sh).st ≠ .idle →
    (s.shim sh).roomIn m = true → (s.shim sh).lost = [] → (s.shim sh).drains = [d] → d.sent = true → d.held = none → d.gone = false → d.waiting = [n] → m.op = .grant →
    m.rqtx = d.rqtx → nodeSlice m.src = some n →
    exec (.shimMeshMessage sh f) s =
      .next (((s.takeMesh m).updShim sh fun x => { x with drains := [], drainVec := x.drainVec &&& ~~~ d.bits }).emit
        (.toAgent sh { op := .grant, src := agentNode sh, dst := agentNode sh, rqtx := d.rqtx }))) ∧
  (∀ (s : State) (sh k b slice engine : Nat) (gen : BitVec 6) (ack : Bool), s.canon = true → s.tablesRise = true →
    s.hasShim sh = true →
    s.findWire k (fun w => match w with | .mapUpdate k .. => k = sh | _ => false) = some (.mapUpdate sh b slice engine gen ack) →
    (newerGen gen (s.bmap sh b).gen = false → gen ≠ (s.bmap sh b).gen →
      exec (.bucketMapUpdate sh k) s = .next (s.takeWire (.mapUpdate sh b slice engine gen ack))) ∧
    (newerGen gen (s.bmap sh b).gen = true ∨ gen = (s.bmap sh b).gen →
    ∃ t, exec (.bucketMapUpdate sh k) s = .next t ∧ t.bmap sh b = { slice, engine, gen } ∧
      (∀ c, c ≠ b → t.bmap sh c = s.bmap sh c) ∧ (t.shim sh).reqQ = (s.shim sh).reqQ ∧
      (ack = true → (s.shim sh).acks = true → (∀ o ∈ (s.shim sh).outst, o.bucket ≠ b ∨ o.built = none) →
        Wire.mapAck sh b gen ∈ t.wires) ∧
      (∀ o k, ack = true → (s.shim sh).acks = true → o ∈ (s.shim sh).outst → o.bucket = b → o.built = some k → k < (s.shim sh).seq →
        ∃ u ∈ (t.shim sh).upds, u.bucket = b ∧ u.gen = gen) ∧
      (∀ a, a ≠ sh → t.shim a = s.shim a) ∧ t.slices = s.slices ∧ t.mesh = s.mesh)) ∧
  (∀ (s : State) (sh n k : Nat) (l : List (BitVec 10 × Nat)), s.canon = true → s.hasShim sh = true →
    s.findWire k (fun w => match w with | .lostNotice k .. => k = sh | _ => false) = some (.lostNotice sh n l) →
    (s.shim sh).silenced = false → (s.shim sh).st ≠ .idle → (s.shim sh).cut = false → (s.shim sh).drains = [] →
    ∃ t, exec (.lostSliceNotice sh k) s = .next t ∧ n ∈ (t.shim sh).lost ∧
      (t.shim sh).reqQ = (s.shim sh).reqQ.filter (fun q => !(q.m.op = .drainW && q.m.dst = sliceNode n)) ∧
      (∀ q ∈ l, (∃ o ∈ (s.shim sh).outst, o.rqtx = q.1 ∧ o.bucket = q.2 ∧ o.built.isSome = true) →
        Out.toAgent sh { op := .rest, src := agentNode sh, dst := agentNode sh, rqtx := q.1, aux := rsFreeze } ∈ t.out) ∧
      (∀ a, a ≠ sh → t.shim a = s.shim a) ∧ t.slices = s.slices ∧ t.mesh = s.mesh)

/-- 09 R251, 17 R432, Table 17-3: the reset of an admitting or admitted agent fences its shim with nothing left of the class queues
for headers, its RSP and DAT messages for the agent gone, its snoops held, its drains past granting anything (log 46, DEDUCED), and
raises 0x45; a shim reset fences in the same way
and waits for the retire, also of a shim that was fenced already; once the shim is idle the reset empties it, keeping its RW and
RWT settings, its Assay registers (18 R450) and the slices that are lost (13 R340).

(Not the spec's: that a shim reset retires whatever AUTORETIRE says is log 32; that drains go, and nothing is granted to a
reset agent, is log 46.) -/
def Obligations.AgentAndShimReset : Prop :=
  ∀ (s : State) (sh : Nat), s.canon = true → s.hasShim sh = true →
    let x := s.shim sh
    (x.st = .admitting ∨ x.st = .admitted →
      (∃ t, exec (.agentReset sh) s = .next t ∧ (t.shim sh).st = .fenced ∧ (t.shim sh).cut = true ∧ (t.shim sh).reqQ = [] ∧
        (t.shim sh).wbkQ = [] ∧ (∀ d ∈ (t.shim sh).drains, d.sent = true ∧ d.todo = [] ∧ d.gone = true) ∧ (t.shim sh).rspQ = x.rspQ ∧ (t.shim sh).datQ = x.datQ ∧
        (t.shim sh).rspIn = [] ∧ (t.shim sh).datIn = [] ∧ (t.shim sh).snpIn = x.snpIn ∧
        (t.shim sh).retireDue = (x.autoRetire || decide (s.sevOf 0x45 = 3)) ∧ bit (t.shim sh).assay.status 5 = true ∧
        (∀ a, a ≠ sh → t.shim a = s.shim a) ∧ t.slices = s.slices ∧ t.spine = s.spine ∧ t.mesh = s.mesh) ∧
      (∃ t, exec (.shimReset sh) s = .next t ∧ (t.shim sh).st = .fenced ∧ (t.shim sh).cut = true ∧ (t.shim sh).reqQ = [] ∧
        (t.shim sh).wbkQ = [] ∧ (t.shim sh).resetPending = true ∧ (t.shim sh).retireDue = true ∧
        bit (t.shim sh).assay.status 5 = true ∧ (∀ a, a ≠ sh → t.shim a = s.shim a) ∧ t.slices = s.slices ∧
        t.spine = s.spine ∧ t.mesh = s.mesh)) ∧
    (x.st = .idle ∨ x.st = .fenced → exec (.agentReset sh) s = .next s ∧
      ∃ t, exec (.shimReset sh) s = .next t ∧ t = { s with shims := t.shims } ∧ (∀ a, a ≠ sh → t.shim a = s.shim a) ∧
        t.shim sh = { x with resetPending := true, retireDue := x.retireDue || (decide (x.st = .fenced) && x.cut) }) ∧
    (x.st = .idle → x.resetPending = true →
      exec (.shimResetApply sh) s = .next (s.setShim sh {
        autoRetire := x.autoRetire, pfEn := x.pfEn, pfMinConf := x.pfMinConf, pfDepth := x.pfDepth, tidForce := x.tidForce
        tidValue := x.tidValue, lost := x.lost, assay := x.assay })) ∧
    (x.st ≠ .idle ∨ x.resetPending = false → exec (.shimResetApply sh) s = .next s)

/-- 05 R149, R150, Table 05-8, 03 R74, R96, R97, 06 R178, 14 R363, Table 14-7, 13 R337, 04 R103: a header at a slice. A frozen bucket
answers Rest FREEZE, one of a wrong generation raises 0x0E too, and either ends a hold of the sender's for the line; SOFT counts for the
three reads of a caching agent alone. A stub passes the header on to the new home, a bucket that the slice never had raises 0x16 and answers FREEZE. A header
of an owned bucket takes a free tracker, ready when its line is free and in the line's chain otherwise; a read that its Range
Guard entry refuses is answered with zeros, STATE I, and writes no entry. A DrainW with no older request of its sender is
granted at once. A slice in HOLD takes no DrainW. The oldest tracker of a chain starts when its line is free.

(Not the spec's: the choice of the tracker is an operand (log 12).) -/
def Obligations.HeaderChecks : Prop :=
  (∀ (s : State) (n t : Nat) (f : Flits) (m : Msg), s.canon = true → s.mayHead n f m →
    (m.op.isReq || m.op.isWbk) = true → m.op.notAtSlice = false → senderOk m = true → m.op ≠ .drainW → m.op ≠ .pfHint →
    let e := s.bkt n (bucketOf m.addr)
    e.bad = false →
    (e.kind = .frozen →
      exec (.headerTake n t f) s =
          .next (headerTaken n m (sendRest n m rsFreeze (bill n .lookup (endHold n m (s.takeMesh m))))) ∧
        ∀ h ∈ ((endHold n m (s.takeMesh m)).slice n).holds, ¬(h.line = lineOf m.addr ∧ h.agent = m.src.toNat)) ∧
    (e.kind = .owned → 32 ≤ (e.gen - m.gen).toNat →
      ∃ det, exec (.headerTake n t f) s =
        .next (headerTaken n m (sendRest n m rsFreeze (bill n .lookup (raiseSlice n 0x0E det (endHold n m (s.takeMesh m))))))) ∧
    (e.kind = .stub → 1 ≤ (e.gen - m.gen).toNat → (e.gen - m.gen).toNat < 32 →
      exec (.headerTake n t f) s =
        .next (headerTaken n m ((s.takeMesh m).send { m with fwd := true, dst := sliceNode e.peer }))) ∧
    (e.kind = .none →
      ∃ u, exec (.headerTake n t f) s = .next u ∧ bit (u.slice n).assay.status 0x16 = true ∧
        u.mesh = s.mesh.erase m ++ [{ op := .rest, src := sliceNode n, dst := m.src, rqtx := m.rqtx, aux := rsFreeze }] ∧
        (u.slice n).trk = (s.slice n).trk ∧ u.shims = s.shims) ∧
    (e.kind = .owned → (e.gen - m.gen).toNat < 32 → ((s.slice n).poolFor m).isSome = true →
        (s.slice n).mayTake t m = true →
      (s.rgPass m = true →
        ∃ (u : State) (k : Tracker), exec (.headerTake n t f) s = .next u ∧ u.trk n t = some k ∧ k.fresh ∧ k.kind = .msg m.op ∧
          k.src = m.src ∧ k.rqtx = m.rqtx ∧ k.addr = m.addr ∧ k.age = (s.slice n).allocSeq ∧
          (k.stage = .ready ∨ k.stage = .chain) ∧ u.mesh = s.mesh.erase m ∧
          k.soft = (m.soft && decide (m.op = .rdShare ∨ m.op = .rdOwn ∨ m.op = .rdOnce) && isCaching m.src.toNat) ∧
          (m.op.isWbk = !(u.slice n).wbkTurn) ∧
          ((∀ h ∈ (s.slice n).holds, ¬(h.line = lineOf m.addr ∧ h.agent = m.src.toNat)) →
            (u.slice n).arr = (s.slice n).arr) ∧
          (∀ i, i ≠ t → (s.slice n).trk = [] → u.trk n i = none) ∧
          ((s.slice n).trk = [] → (s.slice n).holds = [] → k.stage = .ready) ∧
          (∀ i x, s.trk n i = some x → x.blocks (lineOf m.addr) = true → i ≠ t → k.stage = .chain)) ∧
      (s.rgPass m = false → (m.op = .rdShare ∨ m.op = .rdOwn ∨ m.op = .rdOnce) →
        ∃ (u : State) (k : Tracker), exec (.headerTake n t f) s = .next u ∧ u.trk n t = some k ∧ k.stage = .denied ∧
          k.waitSeal = true ∧ u.mesh = s.mesh.erase m ++ [{ op := .datS, src := sliceNode n, dst := m.src
                                                            htrk := BitVec.ofNat 8 t, rqtx := m.rqtx, be := BitVec.allOnes 32 }] ∧
          ((∀ h ∈ (s.slice n).holds, ¬(h.line = lineOf m.addr ∧ h.agent = m.src.toNat)) →
            (u.slice n).arr = (s.slice n).arr)))) ∧
  (∀ (s : State) (n t : Nat) (f : Flits) (m : Msg), s.canon = true → s.tablesRise = true → s.mayHead n f m → m.op = .drainW →
    ((s.slice n).poolFor m).isSome = true → (s.slice n).mayTake t m = true →
    (∀ kv ∈ (s.slice n).trk, kv.2.src = m.src → kv.2.age < (s.slice n).allocSeq → kv.2.passed = true) →
    ∃ u, exec (.headerTake n t f) s = .next u ∧ u.trk n t = none ∧
      { op := .grant, src := sliceNode n, dst := m.src, htrk := BitVec.ofNat 8 t, rqtx := m.rqtx } ∈ u.mesh) ∧
  (∀ (s : State) (n t : Nat) (f : Flits) (m : Msg), n < s.par.nSlice → (s.slice n).conds.phase = .hold →
    (s.slice n).assay.inj.count = 0 → arrives f (sliceNode n) m → s.nodeBuilt m.src = true → m.op = .drainW →
    exec (.headerTake n t f) s = .next (bill n .lookup (s.takeMesh m))) ∧
  (∀ (s : State) (n t : Nat) (k : Tracker), n < s.par.nSlice → s.trk n t = some k →
    (k.stage = .chain → (s.slice n).lineFree (lineOf k.addr) k.src.toNat k.age = true →
      exec (.lineChainStart n t) s = .next (s.updTrk n t fun k => { k with stage := .ready })) ∧
    (k.stage ≠ .chain ∨ (s.slice n).lineFree (lineOf k.addr) k.src.toNat k.age = false →
      exec (.lineChainStart n t) s = .next s))

/-- 04 R105, R109, R128, Tables 04-2 to 04-7, 02 R41, R43, R44, R46, Table 02-6, 06 Table 06-7, 14 R366, R368, Table 14-8: the
decision of a tracker. A round snoops the admitted agents that the line's record names, its owner, its sharers, the agents of
its loaf's groups, or every one in U, and never the requester. A read of an untracked line reserves the lowest free way and
is given E; a line in X forwards; a line in P answers a read at once with STATE I and POISON; a write is granted when its
snoops have ended, at once with none; an Upgrade that no row of its own fits is served as RdOwn, and in P as any read; a PfHint of an
untracked line that the HLC may take reads it, snooping nobody, and any other hint is discarded (04 R123, 07 R195); a report is granted at once, and one of a line in a loaf asks the others what they
hold; an AtomOp takes the line from every holder. A soft request snoops nobody: it gets what it can have without, a copy, or
Rest SOFT, which leaves every entry. A request that can reserve nothing is answered Rest RETRY. A line in Anvil mode is served
from its pinned copy; a RdOwn makes it leave.

(Not the spec's: the bytes of a line in P are a free value (log 14).) -/
def Obligations.DecisionActs : Prop :=
  ∀ (s : State) (n t : Nat) (k : Tracker) (op : Op), s.decides n t k → k.kind = .msg op →
    let a := lineOf k.addr
    let l := s.lookup n a
    let may (h : Nat) : Bool := (s.slice n).admitted h && h != k.src.toNat
    let owner := l.fine.owner.toList.filter may
    let sharers := l.fine.sharers.filter may
    let groups := (s.slice n).admList.filter fun h => bit l.loaf.gvec (groupOf h) && may h
    let all := if l.res = .u then (s.slice n).admList.filter may else groups
    let by' (o : Op) (l : List Nat) : List (Nat × Op) := l.map fun h => (h, o)
    let home (o : Op) (st : BitVec 3) : Msg :=
      { op := o, src := sliceNode n, dst := k.src, htrk := BitVec.ofNat 8 t, rqtx := k.rqtx, sub := st }
    let gives (g : Give) (u : State) (x : Tracker) : Prop := x.give = g ∧ s.readsLine n t k u x
    let named := l.fine.sfmt = false ∧ l.fine.slots.contains k.src.toNat = true
    let owns := op = .rdOwn ∨ op = .upgrade
    let roomy := l.way.isSome = true ∨ (s.slice n).mode = .broadcast ∨ ∃ w, s.freeWay n t k w
    (k.soft = false → l.anvil = false →
      (∀ h, l.res = .x → l.fine.owner = some h → (s.slice n).admitted h = true → h ≠ k.src.toNat → op = .rdShare ∨ owns →
        ∃ (u : State) (x : Tracker), exec (.transactionDecision n t) s = .next u ∧
          { op := if op = .rdShare then .snFwdShare else .snFwdOwn, src := sliceNode n, dst := BitVec.ofNat 9 h
            htrk := BitVec.ofNat 8 t, addr := a, peer := k.src, rqtx := k.rqtx } ∈ u.mesh ∧
          u.trk n t = some x ∧ x.stage = .live ∧ x.round.sent = [h] ∧ x.snoopTimer = true ∧ x.waitSeal = true ∧
          (∀ w, u.fineAt n (fineSet a) w = s.fineAt n (fineSet a) w)) ∧
      (l.res = .x → owns → owner = [] → s.decidesTo n t k [] (fun _ x => x.give = .line .datX lsE)) ∧
      (l.res = .x ∨ l.res = .o → op = .rdShare → owner = [] → s.decidesTo n t k [] (fun _ x => x.give = .line .datS lsS)) ∧
      (∀ p w, op = .pfHint → l.res = .i → s.hlcFind n a = none → s.hlcOk a = true → s.memDest a = .port p →
          s.hlcVictim n t a k.colour = some w → s.unbuffered n k →
        s.decidesTo n t k [] (fun u x => x.pfWay = some w ∧ x.ans = none ∧ x.buf = none ∧ s.readsLine n t k u x ∧
          (u.slice n).arr = (s.slice n).arr)) ∧
      (l.res = .p → op = .rdShare ∨ owns ∨ op = .rdOnce →
        ∃ (u : State) (x : Tracker), exec (.transactionDecision n t) s = .next u ∧
          { op := .datS, src := sliceNode n, dst := k.src, htrk := BitVec.ofNat 8 t, rqtx := k.rqtx, poison := true
            data := Config.lostData a, be := BitVec.allOnes 32 } ∈ u.mesh ∧
          u.trk n t = some x ∧ x.stage = .live ∧ x.waitSeal = true ∧
          (∀ w, u.fineAt n (fineSet a) w = s.fineAt n (fineSet a) w)) ∧
      (l.res = .s → op = .upgrade → l.fine.sfmt = false → l.fine.slots = [k.src.toNat] →
        ∃ (u : State) (x : Tracker), exec (.transactionDecision n t) s = .next u ∧
          { op := .grant, src := sliceNode n, dst := k.src, htrk := BitVec.ofNat 8 t, rqtx := k.rqtx, sub := lsE } ∈ u.mesh ∧
          u.trk n t = some x ∧ x.stage = .live ∧ x.waitSeal = true) ∧
      (∀ p, l.res = .i → op = .rdOnce → s.unbuffered n k → s.hlcFind n a = none → s.memDest a = .port p →
          s.rdFree n (portNode p) = true →
        ∃ (u : State) (x : Tracker), exec (.transactionDecision n t) s = .next u ∧
          { op := .memRd, src := sliceNode n, dst := portNode p, htrk := BitVec.ofNat 8 t, addr := a } ∈ u.mesh ∧
          u.trk n t = some x ∧ x.stage = .live ∧ x.memNode = some (portNode p) ∧ x.memTimer = true ∧
          (∀ w, u.fineAt n (fineSet a) w = s.fineAt n (fineSet a) w)) ∧
      (∀ h, l.res = .o → op = .rdShare → l.fine.owner = some h → (s.slice n).admitted h = true → h ≠ k.src.toNat →
        ∃ (u : State) (x : Tracker), exec (.transactionDecision n t) s = .next u ∧
          { op := .snFwdShare, src := sliceNode n, dst := BitVec.ofNat 9 h, htrk := BitVec.ofNat 8 t, addr := a, peer := k.src
            rqtx := k.rqtx } ∈ u.mesh ∧
          u.trk n t = some x ∧ x.stage = .live ∧ x.round.sent = [h] ∧ x.waitSeal = true) ∧
      (∀ w, l.res = .i → op = .rdShare ∨ owns → s.freeWay n t k w → (∀ v, v < w → ¬ s.freeWay n t k v) →
        s.decidesTo n t k [] (fun u x => gives (.line .datX lsE) u x ∧ x.resv = .way w ∧
          (∀ v, u.fineAt n (fineSet a) v = s.fineAt n (fineSet a) v) ∧
          (∀ d, s.unbuffered n k → s.cached n k d → ({ home .datX lsE with data := d } : Msg).full ∈ u.mesh))) ∧
      (l.res = .s ∨ l.res = .coarseS → op = .rdShare → s.decidesTo n t k [] (gives (.line .datS lsS))) ∧
      (l.res = .s → owns → ¬ (op = .upgrade ∧ named) → s.decidesTo n t k (by' .snKill sharers) (gives (.line .datX lsE))) ∧
      (l.res = .coarseS → owns → roomy → s.decidesTo n t k (by' .snKill groups) (gives (.line .datX lsE))) ∧
      (l.res = .o → owns → ¬ (op = .upgrade ∧ (named ∨ l.fine.owner = some k.src.toNat)) →
        s.decidesTo n t k (by' .snOwn owner ++ by' .snKill sharers) (fun _ x => x.give = .lineEM)) ∧
      (l.res = .coarseO ∨ l.res = .u → roomy →
        (op = .rdShare → s.decidesTo n t k (by' .snShare all) (fun _ x => x.give = .line .datS lsS)) ∧
        (owns → s.decidesTo n t k (by' .snOwn all) (fun _ x => x.give = .lineEM)) ∧
        (op = .rdOnce → s.decidesTo n t k (by' .snShare all) (fun _ x => x.give = .line .datS lsI))) ∧
      (op = .upgrade →
        (l.res = .s → named → s.decidesTo n t k (by' .snKill sharers) (fun _ x => x.give = .grant lsE)) ∧
        (l.res = .o → l.fine.owner = some k.src.toNat →
          s.decidesTo n t k (by' .snKill sharers) (fun _ x => x.give = .grant lsM)) ∧
        (l.res = .o → l.fine.owner ≠ some k.src.toNat → named →
          s.decidesTo n t k (by' .snKill (owner ++ sharers)) (fun _ x => x.give = .grant lsM))) ∧
      (op = .rdOnce →
        (l.res = .i ∨ l.res = .s ∨ l.res = .coarseS → s.decidesTo n t k [] (gives (.line .datS lsI))) ∧
        (l.res = .x ∨ l.res = .o → s.decidesTo n t k (by' .snShare owner) (fun _ x => x.give = .line .datS lsI))) ∧
      (op = .wrFull ∨ op = .wrPart ∨ op = .wrStash ∨ op = .atomOp → (op = .wrStash → roomy ∨ l.res = .p) →
        let own : Op := if op = .wrPart ∨ op = .atomOp then .snOwn else .snKill
        let kills : List (Nat × Op) := match l.res with
          | .i | .p => []
          | .s => by' .snKill sharers
          | .x => by' own owner
          | .o => by' own owner ++ by' .snKill sharers
          | .coarseS => by' .snKill groups
          | .coarseO | .u => by' own all
        s.decidesTo n t k kills (fun u x =>
          (op = .atomOp → x.give = .atom ∧ (l.res = .i ∨ l.res = .s ∨ l.res = .coarseS → s.readsLine n t k u x)) ∧
          (op ≠ .atomOp → x.give = .grant lsI ∧ (kills = [] → home .grant lsI ∈ u.mesh ∧ x.waitDat = true)))) ∧
      ((op = .rdShare ∨ owns) → (l.res = .i ∨ (owns ∧ l.res = .coarseS)) → (∀ w, w < 16 →
          s.fineMask n t k.colour w = false) → s.loafFind n a = none → (∀ w, w < 8 → s.loafMask n t k.colour w = false) →
        s.rests n t k rsRetry)) ∧
    (op = .pfHint → k.soft = false → l.anvil = true ∨ l.res ≠ .i ∨ s.hlcFind n a ≠ none ∨ s.hlcOk a = false ∨
        (s.memDest a).node = none ∨ s.hlcVictim n t a k.colour = none → s.calm n → (s.slice n).trk = [(t, k)] →
      ∃ u, exec (.transactionDecision n t) s = .next u ∧ (u.slice n).trk = [] ∧ u.mesh = s.mesh ∧
        (u.slice n).arr.fine = (s.slice n).arr.fine ∧ (u.slice n).arr.loaf = (s.slice n).arr.loaf ∧
        (u.slice n).arr.hlc = (s.slice n).arr.hlc) ∧
    (k.soft = false → op.isWbk = true →
      ∃ u, exec (.transactionDecision n t) s = .next u ∧ home .grant lsI ∈ u.mesh ∧
        (op = .wbDirty → ∃ x, u.trk n t = some x ∧ x.waitDat = true) ∧
        (l.anvil = false → l.res = .coarseS ∨ l.res = .coarseO →
          ((s.slice n).anyRev1 groups = false → ∀ h ∈ groups, snoopOf n t a (h, .snCensus) ∈ u.mesh) ∧
          ((s.slice n).anyRev1 groups = true → ∀ m ∈ u.mesh, m.op = .snCensus → m ∈ s.mesh)) ∧
        (∀ w, l.anvil = false → op ≠ .wbDirty → l.way = some w → s.calm n →
          (l.res = .x ∧ l.fine.owner = some k.src.toNat) ∨
            ((l.res = .s ∨ l.res = .o) ∧ named ∧ l.fine.owner ≠ some k.src.toNat) →
          (u.fineAt n (fineSet a) w).free = true ∨ ((u.fineAt n (fineSet a) w).owner ≠ some k.src.toNat ∧
            (u.fineAt n (fineSet a) w).sharers.contains k.src.toNat = false))) ∧
    (k.soft = true → l.anvil = false →
      (l.res = .p → op = .rdShare ∨ op = .rdOwn ∨ op = .rdOnce → s.decidesTo n t k [] (fun u _ =>
        ({ home .datS lsI with poison := true, data := Config.lostData a } : Msg).full ∈ u.mesh)) ∧
      ((op = .rdShare ∧ (l.res = .coarseS ∨ (l.res = .i ∧ k.noSoft = true) ∨
          (l.res = .s ∧ (k.noSoft = true ∨ l.fine.sfmt = true ∨ 3 ≤ l.fine.slots.length)))) ∨
          (op = .rdOnce ∧ (l.res = .i ∨ l.res = .s ∨ l.res = .coarseS)) →
        s.decidesTo n t k [] (fun u x => gives (.line .datS lsI) u x ∧ x.resv = .none)) ∧
      (op = .rdShare → l.res = .s → k.noSoft = false → l.fine.sfmt = false → l.fine.slots.length < 3 →
        s.decidesTo n t k [] (gives (.line .datS lsS))) ∧
      (∀ w, op = .rdShare ∨ op = .rdOwn → l.res = .i → k.noSoft = false → s.freeWay n t k w →
          (∀ v, v < w → ¬ s.freeWay n t k v) →
        s.decidesTo n t k [] (fun u x => gives (.line .datX lsE) u x ∧ x.resv = .way w)) ∧
      ((∀ w, ¬ s.freeWay n t k w) → s.loafFind n a = none → l.res = .i →
        (op = .rdShare → s.decidesTo n t k [] (fun u x => gives (.line .datS lsI) u x ∧ x.resv = .none)) ∧
        (op = .rdOwn → s.rests n t k rsSoft)) ∧
      ((op = .rdOwn ∧ l.res ≠ .p ∧ (l.res ≠ .i ∨ k.noSoft = true)) ∨
          ((op = .rdShare ∨ op = .rdOnce) ∧ (l.res = .x ∨ l.res = .o ∨ l.res = .coarseO ∨ l.res = .u)) →
        s.rests n t k rsSoft)) ∧
    (l.anvil = true →
      (isAgent k.src.toNat = true → s.agentRev k.src.toNat = 3 → k.noAnvil = false →
        (op = .rdShare ∨ op = .rdOnce → s.decidesTo n t k [] (fun u x => gives (.line .datS lsI) u x ∧
          ∀ d, s.unbuffered n k → s.cached n k d → ({ home .datS lsI with data := d } : Msg).full ∈ u.mesh)) ∧
        (op = .wrFull ∨ op = .wrPart → k.soft = false →
          s.decidesTo n t k [] (fun u x => home .grant lsI ∈ u.mesh ∧ x.waitDat = true)) ∧
        (∀ d, op = .atomOp → k.soft = false → k.opPoison = false → s.unbuffered n k → s.cached n k d →
          s.decidesTo n t k [] (fun u x => x.atomDone = true ∧ x.waitSeal = true ∧ { home .datAtom 0 with
            be := 0xFFFF
            data := (lowBytes (atomSize k.sub) (lineWord d (offsetOf k.addr))).setWidth 512 } ∈ u.mesh))) ∧
      (op = .rdOwn → k.soft = true → s.rests n t k rsSoft) ∧
      (op = .rdOwn → k.soft = false → (∃ w, s.freeWay n t k w) →
        ∃ (u : State) (x : Tracker), exec (.transactionDecision n t) s = .next u ∧ u.trk n t = some x ∧ x.stage = .live ∧
          a ∈ (u.slice n).cooldowns ∧ (∃ v, (s.fineAt n (fineSet a) v).isFor a = true ∧
            (s.fineAt n (fineSet a) v).anvil = true ∧ (u.fineAt n (fineSet a) v).free = true)))

/-- 03 R101: a RSP or DAT message whose HTRK names no tracker that waits for it changes nothing but the fault record of 0x0F; after a
stray answer to a stash the target's shim looks for no DatX to it any longer (the shim's note is the model's, log 87).

(Not the spec's: the shim's note of a stash is log 87.) -/
def Obligations.StrayMessages : Prop :=
  ∀ (s : State) (n t : Nat) (f : Flits) (m : Msg) (c : Instr), s.receives n f m →
    s.trk n m.htrk.toNat = none → mfind (s.slice n).fences m.htrk.toNat = none →
    ((m.op = .snDone ∧ c = .snDone n f) ∨ (m.op = .cnsLine ∧ c = .cnsLine n t f) ∨ (m.op = .datWb ∧ c = .datWb n f) ∨
      (m.op = .seal ∧ c = .seal n f) ∨ (m.op = .stashTake ∧ c = .stashTake n f) ∨
      (m.op = .stashRefuse ∧ c = .stashRefuse n f) ∨ (m.op = .memDat ∧ c = .memDat n f)) →
    let sh := m.src.toNat
    let u := if (m.op = .stashTake ∨ m.op = .stashRefuse) ∧ isAgent sh = true ∧ (n, m.htrk) ∈ (s.shim sh).stashes then
        (s.takeMesh m).updShim sh fun x => { x with stashes := x.stashes.erase (n, m.htrk) }
      else s.takeMesh m
    ∃ det, exec c s = .next (raiseSlice n 0x0F det u)

/-- 03 R101, 04 Tables 04-2, 04-7, 04-8, R119, R120, 07 R199, 05 R153: the messages that carry a transaction on. A snoop answer is
recorded in its tracker's round. The DatWb of a WrFull enters the merging buffer as an OPEN entry with every byte, POISON kept.
The Seal of a RdShare of an untracked line ends it: the line is in X with its requester as the holder, in the way that the
decision reserved, and the tracker is free. A StashTake has the line sent to the target as DatX M; a StashRefuse has it
written from the line buffer. -/
def Obligations.SliceAnswers : Prop :=
  ∀ (s : State) (n : Nat) (f : Flits) (m : Msg) (k : Tracker), s.canon = true → s.tablesRise = true → s.receives n f m →
    let t := m.htrk.toNat
    s.trk n t = some k → k.stage = .live → k.quar = [] → k.bad = false → k.evict = none →
    (m.op = .snDone → (∀ b, k.kind ≠ .walk b) → k.waitStash = false → m.src.toNat ∈ k.round.sent →
      exec (.snDone n f) s = .next (advance n t ((s.takeMesh m).updTrk n t fun k =>
        { k with round := k.round.done m.src.toNat m.sub m.aux }))) ∧
    (∀ e p, m.op = .datWb → k.kind = .msg .wrFull → k.waitDat = true → m.src = k.src → m.rqtx = k.rqtx → k.ans.isSome = true →
        k.look.res ≠ .p → k.silent = false → k.pendWr = [] → s.memDest (lineOf k.addr) = .port p →
        (s.slice n).mbOf .opened (lineOf k.addr) = none → (s.slice n).mbFree = some e →
      ∃ u, exec (.datWb n f) s = .next u ∧ ((u.slice n).mbE e).st = .opened ∧ ((u.slice n).mbE e).line = lineOf k.addr ∧
        ((u.slice n).mbE e).target = portNode p ∧ ((u.slice n).mbE e).mask = fullMask ∧
        ((u.slice n).mbE e).data = m.data ∧ ((u.slice n).mbE e).poison = m.poison) ∧
    (∀ w, m.op = .seal → mfind (s.slice n).fences t = none → k.kind = .msg .rdShare → k.look = {} →
        k.ans = some (.datX, lsE) → k.waitSeal = true → k.sealTimer = true → m.src = k.src → m.rqtx = k.rqtx →
        isCaching k.src.toNat = true → k.rdone = true → k.round = {} → k.pendWr = [] → k.resv = .way w → k.toP = false →
        k.silent = false → k.early = false → k.stashed = false → k.unrouted = false → k.heldLoaf = none →
        (s.slice n).serving = true → (s.slice n).mode ≠ .broadcast → s.fineFind n (lineOf k.addr) = none →
        s.loafFind n (lineOf k.addr) = none → s.calm n →
      ∃ u, exec (.seal n f) s = .next u ∧ u.trk n t = none ∧
        (u.fineAt n (fineSet (lineOf k.addr)) w).isFor (lineOf k.addr) = true ∧
        (u.fineAt n (fineSet (lineOf k.addr)) w).hstate = hsX ∧
        (u.fineAt n (fineSet (lineOf k.addr)) w).owner = some k.src.toNat ∧
        (u.fineAt n (fineSet (lineOf k.addr)) w).colour = k.colour ∧ (∀ i, i ≠ n → u.slice i = s.slice i)) ∧
    (k.waitStash = true → m.src = k.peer → m.src.toNat ∈ k.round.sent →
      (∀ d poison, m.op = .stashTake → k.buf = some (d, poison) → k.bufBad = false →
        ∃ (u : State) (x : Tracker), exec (.stashTake n f) s = .next u ∧
          u.mesh = s.mesh.erase m ++ [{ op := .datX, src := sliceNode n, dst := k.peer, htrk := m.htrk, sub := lsM, data := d
                                        poison, be := BitVec.allOnes 32 }] ∧
          u.trk n t = some x ∧ x.stashed = true ∧ x.waitStash = false ∧ x.waitSeal = true ∧ x.sealTimer = true) ∧
      (m.op = .stashRefuse →
        exec (.stashRefuse n f) s = .next (advance n t (writeBuf n t ((s.takeMesh m).updTrk n t fun k =>
          { k with waitStash := false, stashTimer := false, round := { k.round with sent := [] } })))))

/-- 03 R88, R98, 07 R198 to R200, R211, R212: a slice and memory. MemDat gives its credit back and, for a RdOnce that waited for
nothing else, goes on to the requester. MB_ISSUE of a due entry sends MemWr and MemWd with the entry's bytes and mask and uses a
credit; MemAck frees the entry and gives the credit back. A tray line is read and answered where it is stored, a tray
write is merged and acknowledged when both its halves are there, as soon as the window of rise control has two slots left (17 R435) and
until then waiting in the input buffer; the scrub corrects a line's single-bit errors and goes on
to the next line.

(Not the spec's: SECDED outcomes are state (log 9); where mirrored writes wait is log 68; where a tray access waits for the
pipeline is log 101.) -/
def Obligations.SliceMemory : Prop :=
  (∀ (s : State) (n : Nat) (f : Flits) (m : Msg) (k : Tracker), s.canon = true → s.tablesRise = true → s.receives n f m →
    m.op = .memDat → (s.slice n).trk = [(m.htrk.toNat, k)] → k.kind = .msg .rdOnce →
    k.stage = .live → k.memNode = some m.src → k.rdone = true → k.round = {} → k.quar = [] → k.bad = false → k.evict = none →
    k.ans = none → k.give = .line .datS lsI → k.wantRead = false → k.unrouted = false → k.pendWr = [] → k.silent = false →
    k.sealGot = false → k.bufBad = false → k.look = {} → k.merge = (0, 0, false) →
    ∃ u, exec (.memDat n f) s = .next u ∧
      u.mesh = s.mesh.erase m ++ [{ op := .datS, src := sliceNode n, dst := k.src, htrk := m.htrk, rqtx := k.rqtx
                                    data := m.data, poison := m.poison, be := BitVec.allOnes 32 }] ∧
      mget 0 (u.slice n).rdCredits m.src.toNat = mget 0 (s.slice n).rdCredits m.src.toNat - 1 ∧
      (∀ i, i ≠ n → u.slice i = s.slice i)) ∧
  (∀ (s : State) (n e p : Nat), s.canon = true → s.tablesRise = true → n < s.par.nSlice → n < 68 → e < 32 → s.mbDue n e = true → (s.slice n).serving = true →
    (s.slice n).assay.inj.count = 0 → (s.slice n).mirrored = [] →
    let x := (s.slice n).mbE e
    x.badGroups = 0 → x.maskBad = false → x.target = portNode p → p < 32 → s.wrFree n (portNode p) = true →
    exec (.mbIssue n e) s = .next
      (((s.updSlice n fun sl => { sl.putMb e { x with st := .sent, urgent := false } with
          wrCredits := addCredit sl.wrCredits (portNode p) }).send
        { op := .memWr, src := sliceNode n, dst := portNode p, htrk := BitVec.ofNat 8 e, addr := x.line }).send
        { op := .memWd, src := sliceNode n, dst := portNode p, htrk := BitVec.ofNat 8 e, bmask := x.mask, be := beOf x.mask
          data := x.data, poison := x.poison })) ∧
  (∀ (s : State) (n : Nat) (f : Flits) (m : Msg), s.canon = true → s.receives n f m → m.op = .memAck →
    m.htrk.toNat < 32 → ((s.slice n).mbE m.htrk.toNat).st = .sent → ((s.slice n).mbE m.htrk.toNat).target = m.src →
    (s.slice n).trk = [] →
    exec (.memAck n f) s = .next ((s.takeMesh m).updSlice n fun sl =>
      { sl.putMb m.htrk.toNat {} with wrCredits := subCredit sl.wrCredits m.src })) ∧
  (∀ (s : State) (n : Nat) (f : Flits) (m : Msg) (p : TrayPlace), s.canon = true → s.tablesRise = true → s.receives n f m →
    (m.op = .memRd ∨ m.op = .memWr ∨ m.op = .memWd → s.trayOpen n = false →
      ∃ u, exec (.trayAccess n f) s = .next u ∧ (u.slice n).inBuf = [encode m] ∧ u.mesh = s.mesh.erase m ∧
        (u.slice n).arr = (s.slice n).arr ∧ (u.slice n).trayHalves = (s.slice n).trayHalves) ∧
    (m.op = .memRd → s.trayOpen n = true → s.trayPlace (lineOf m.addr) = some p → ((s.slice n).trayLine p).cw = [] →
      ∃ u, exec (.trayAccess n f) s = .next u ∧ (u.slice n).arr = (s.slice n).arr ∧
        u.mesh = s.mesh.erase m ++ [{ op := .memDat, src := sliceNode n, dst := m.src, htrk := m.htrk
                                      data := ((s.slice n).trayLine p).data, be := BitVec.allOnes 32 }]) ∧
    (∀ h a, m.op = .memWd → s.trayOpen n = true → (s.slice n).trayHalves = [h] → h.src = m.src → h.slot = m.htrk → h.addr = some a → h.body = none →
        m.be = beOf m.bmask → s.trayPlace a = some p → ((s.slice n).trayLine p).cw = [] → m.poison = false →
      ∃ u, exec (.trayAccess n f) s = .next u ∧ (u.slice n).trayHalves = [] ∧
        ((u.slice n).trayLine p).data = mergeBytes ((s.slice n).trayLine p).data m.data m.bmask ∧
        u.mesh = s.mesh.erase m ++ [{ op := .memAck, src := sliceNode n, dst := m.src, htrk := m.htrk }])) ∧
  (∀ (s : State) (n : Nat), s.canon = true → s.tablesRise = true → n < s.par.nSlice → s.trayLines ≠ 0 →
    (s.slice n).serving = true → s.trayOpen n = true → (s.slice n).slotOpen = true → (s.slice n).assay.inj.count = 0 →
    let p := s.trayNth ((s.slice n).arr.trayScrub % s.trayLines)
    (∀ j, j < p.cwCount → ((s.slice n).trayLine p).cwAt j ≠ .bad) →
    ∃ u, exec (.trayScrub n) s = .next u ∧ (u.slice n).arr.trayScrub = ((s.slice n).arr.trayScrub % s.trayLines + 1) % s.trayLines ∧
      ((u.slice n).trayLine p).data = ((s.slice n).trayLine p).data ∧
      (∀ j, j < p.cwCount → ((u.slice n).trayLine p).cwAt j = .good) ∧
      ((∃ j, j < p.cwCount ∧ ((s.slice n).trayLine p).cwAt j = .single) → bit (u.slice n).assay.status 9 = true) ∧
      u.mesh = s.mesh ∧ ∀ i, i ≠ n → s.copyPeer n ≠ some i → u.slice i = s.slice i)

/-- 02 R59, R60, R61, Table 02-8, 03 R80, R81, 09 R254: a census walk asks every admitted caching agent of revision 2 or later; an agent's
SnDone ends its part, and the last one completes the census, which ends LIMP when no other is pending; an owner's report of a
line in U names it as the owner, any other report adds its group; a report of another bucket raises 0x0E; a walk that times
out raises 0x11 and leaves its census waiting for the agents that did not answer.

(Not the spec's: that a newer request defers the completion is log 18.) -/
def Obligations.CensusSteps : Prop :=
  (∀ (s : State) (n t b : Nat) (c : Census), s.canon = true → s.tablesRise = true → n < s.par.nSlice →
    (s.slice n).census.find? (fun c => c.bucket = b && !c.started) = some c → (s.slice n).serving = true →
    (∀ kv ∈ (s.slice n).trk, kv.2.kind ≠ .walk b) → t < 256 → s.trk n t = none → (s.slice n).poolFree .own = true →
    let l := (s.slice n).admList.filter fun a => (s.slice n).rev a != some 1
    l ≠ [] →
    ∃ (u : State) (k : Tracker), exec (.censusWalkStart n t b) s = .next u ∧ u.trk n t = some k ∧ k.kind = .walk b ∧
      k.round.sent = l ∧ k.snoopTimer = true ∧ (∃ d ∈ (u.slice n).census, d.bucket = b ∧ d.started = true ∧ d.waiting = l) ∧
      u.mesh = s.mesh ++ l.map (fun a => { op := .snCensus, src := sliceNode n, dst := BitVec.ofNat 9 a
                                           htrk := BitVec.ofNat 8 t, addr := BitVec.ofNat 52 b }) ∧
      (u.slice n).arr = (s.slice n).arr ∧ ∀ i, i ≠ n → u.slice i = s.slice i) ∧
  (∀ (s : State) (n b : Nat) (f : Flits) (m : Msg) (k : Tracker) (c : Census), s.canon = true → s.tablesRise = true →
    s.receives n f m → m.op = .snDone → s.trk n m.htrk.toNat = some k → k.kind = .walk b → k.stage = .live →
    k.quar = [] → k.evict = none → k.pendWr = [] → k.heldLoaf = none → k.early = false → k.round.todo = [] →
    k.round.owed = [] → k.round.gone = [] → (s.slice n).census = [c] → c.bucket = b → c.started = true → c.unanswered = [] → c.left = [] →
    (∀ a, a ≠ m.src.toNat → k.round.sent = [m.src.toNat, a] → c.waiting = [m.src.toNat, a] →
      ∃ (u : State) (x : Tracker), exec (.snDone n f) s = .next u ∧ (u.slice n).census = [{ c with waiting := [a] }] ∧
        u.trk n m.htrk.toNat = some x ∧ x.round.sent = [a] ∧ u.mesh = s.mesh.erase m) ∧
    (k.round.sent = [m.src.toNat] → c.waiting = [m.src.toNat] → c.job = none →
        (s.slice n).anyRev1 (s.slice n).admList = false → s.uEntries n b = [] → s.unknownLoaves n b = [] →
        (s.slice n).frontiers = [] →
      ∃ u, exec (.snDone n f) s = .next u ∧ (u.slice n).census = [] ∧ (u.slice n).conds.lCensus = false ∧
        (let keep := fun i => i != b && ((s.bkt n i).kind = .owned || (s.bkt n i).kind = .frozen);
         (u.slice n).susFine = (s.slice n).susFine.settle keep ∧ (u.slice n).susLoaf = (s.slice n).susLoaf.settle keep) ∧
        u.trk n m.htrk.toNat = none ∧ u.mesh = s.mesh.erase m ∧
        (u.slice n).arr = (s.slice n).arr)) ∧
  (∀ (s : State) (n t b : Nat) (f : Flits) (m : Msg) (k : Tracker), s.canon = true → s.receives n f m →
    m.op = .cnsLine → s.trk n m.htrk.toNat = some k → k.kind = .walk b → k.stage = .live → k.quar = [] →
    m.src.toNat ∈ k.round.sent → m.sub ≠ lsI → m.sub.toNat ≤ 4 →
    let a := lineOf m.addr
    (bucketOf m.addr ≠ b → ∃ det, exec (.cnsLine n t f) s = .next (raiseSlice n 0x0E det (s.takeMesh m))) ∧
    (∀ c w, bucketOf m.addr = b → (s.slice n).walkOf b m.src.toNat = some c → (s.slice n).resolving a = false → s.fineFind n a = some w →
      let e := s.fineAt n (fineSet a) w
      e.hstate = hsU →
      (ownish m.sub = true → e.stash = false →
        exec (.cnsLine n t f) s = .next (ownSlot n (writeFine n a w
          { e with stash := true, sfmt := true, shr := fmt1 m.src.toNat e.gvec } (s.takeMesh m)))) ∧
      (ownish m.sub = false →
        exec (.cnsLine n t f) s = .next (ownSlot n (writeFine n a w
          { e with sfmt := true, shr := fmt1 e.slot0 (setBit e.gvec (groupOf m.src.toNat) true) } (s.takeMesh m)))))) ∧
  (∀ (s : State) (n t b : Nat) (k : Tracker), s.canon = true → s.tablesRise = true → n < s.par.nSlice → s.trk n t = some k →
    k.kind = .walk b → k.stage = .live → k.snoopTimer = true → k.round.sent ≠ [] → (s.slice n).conds.phase ≠ .hold →
    s.paused n = false →
    (∀ c ∈ (s.slice n).census, c.left = []) → (s.slice n).inBuf = [] → (s.slice n).mirrored = [] →
    ∃ (u : State) (x : Tracker), exec (.censusWalkTimeout n t) s = .next u ∧ bit (u.slice n).assay.status 0x11 = true ∧
      (u.slice n).census = (s.slice n).census.map (fun c =>
        if c.bucket = b ∧ c.started = true then { c with unanswered := c.unanswered ++ c.waiting, waiting := [] } else c) ∧
      u.trk n t = some x ∧ x.stage = .ended ∧ (∀ a ∈ k.round.sent, (a, Owed.snDone) ∈ x.quar) ∧ u.mesh = s.mesh)

/-- 04 R129, R131 to R136, R455, 05 R153, 06 R178, R188: what the timers of a slice do. A snoop round that is not answered in time
raises 0x11, answers the requester with STATE I and POISON and leaves the line in P; an eviction snoop raises 0x11 and puts its
slot in quarantine; a missing Seal raises 0x12, ends the transaction and fences the tracker for the transaction's requester and RQTX (05 R153); a memory read raises
0x13; a stash answer raises 0x11 and is no longer awaited. What a quarantine still waits for stays recorded. A hold and a
cool-down end; an idle Anvil line leaves Anvil mode, its entry free and its pin released. In a pause of the slice's array
access (13 R352, 17 R423) none of them does anything.

(Not the spec's: the bytes of lost data are a free value (log 14); what a Seal timeout leaves to quarantine is log 62; that
timers wait in a pause is log 89.) -/
def Obligations.TimersFire : Prop :=
  (∀ (s : State) (n t : Nat) (k : Tracker), s.canon = true → s.tablesRise = true → n < s.par.nSlice → s.trk n t = some k →
    k.stage = .live → (s.slice n).timers = true → (s.slice n).inBuf = [] → (s.slice n).mirrored = [] → s.paused n = false →
    k.kind ≠ .msg .drainW →
    let a := lineOf k.addr
    (∀ op h w, k.kind = .msg op → op = .rdShare ∨ op = .rdOwn ∨ op = .rdOnce → k.snoopTimer = true → k.round.sent = [h] →
        k.round.early = [] → k.evict = none → k.sealGot = false → k.early = false → k.silent = false →
        (s.slice n).mode ≠ .broadcast → s.calm n → s.fineFind n a = some w →
      ∃ (u : State) (x : Tracker), exec (.snoopResponseTimeout n t) s = .next u ∧
        bit (u.slice n).assay.status 0x11 = true ∧
        { op := .datS, src := sliceNode n, dst := k.src, htrk := BitVec.ofNat 8 t, rqtx := k.rqtx, poison := true
          data := Config.lostData a, be := BitVec.allOnes 32 } ∈ u.mesh ∧
        (u.fineAt n (fineSet a) w).hstate = hsP ∧ (u.fineAt n (fineSet a) w).isFor a = true ∧
        u.trk n t = some x ∧ x.stage = .ended ∧ (h, Owed.snDone) ∈ x.quar ∧ (k.src.toNat, Owed.seal) ∈ x.quar) ∧
    (∀ e l h, k.evict = some e → e.timer = true → e.quarantined = false → e.lines = [l] → l.round.sent = [h] →
        l.round.early = [] →
      ∃ (u : State) (x : Tracker) (e' : Evict), exec (.evictionSnoopTimeout n t) s = .next u ∧
        bit (u.slice n).assay.status 0x11 = true ∧ u.trk n t = some x ∧ (h, Owed.snDone) ∈ x.quar ∧ x.evict = some e' ∧
        e'.quarantined = true) ∧
    (k.sealTimer = true →
      ∃ u, exec (.sealTimeout n t) s = .next u ∧ bit (u.slice n).assay.status 0x12 = true ∧
        mfind (u.slice n).fences t = some (k.src, k.rqtx) ∧ ∀ x, u.trk n t = some x → x.stage = .ended) ∧
    (∀ node, k.memNode = some node → k.memTimer = true → k.kind ≠ .msg .pfHint →
      ∃ (u : State) (x : Tracker), exec (.memoryReadTimeout n t) s = .next u ∧ bit (u.slice n).assay.status 0x13 = true ∧
        u.trk n t = some x ∧ x.stage = .ended ∧ (node.toNat, Owed.memDat) ∈ x.quar) ∧
    (k.waitStash = true → k.stashTimer = true →
      ∃ (u : State) (x : Tracker), exec (.stashAnswerTimeout n t) s = .next u ∧ bit (u.slice n).assay.status 0x11 = true ∧
        u.trk n t = some x ∧ x.waitStash = false ∧ (k.peer.toNat, Owed.stash) ∈ x.quar)) ∧
  (∀ (s : State) (n : Nat) (line : PA), s.canon = true → s.tablesRise = true → n < s.par.nSlice →
    (s.slice n).inBuf = [] → (s.slice n).mirrored = [] → s.paused n = false →
    let a := lineOf line
    (∃ u, exec (.holdExpiry n line) s = .next u ∧
      (∀ h, h ∈ (u.slice n).holds ↔ h ∈ (s.slice n).holds ∧ h.line ≠ a) ∧
      (∀ req, (u.slice n).heldBy a req = false) ∧ (u.slice n).trk = (s.slice n).trk ∧
      ((∀ c ∈ (s.slice n).census, ¬ a ∈ c.left) → (u.slice n).arr = (s.slice n).arr ∧ ∀ i, i ≠ n → u.slice i = s.slice i)) ∧
    (∃ u, exec (.anvilCooldownEnd n line) s = .next u ∧
      (∀ c, c ∈ (u.slice n).cooldowns ↔ c ∈ (s.slice n).cooldowns ∧ c ≠ a) ∧ (u.slice n).arr = (s.slice n).arr ∧
      ∀ i, i ≠ n → u.slice i = s.slice i) ∧
    (∀ w, (s.slice n).timers = true → s.owns n a = true → (∀ kv ∈ (s.slice n).trk, kv.2.blocks a = false) →
        (List.range 16).find? (fun w => (s.fineAt n (fineSet a) w).anvil && (s.fineAt n (fineSet a) w).isFor a) = some w →
        s.fineLive n w = true →
      ∃ u, exec (.anvilIdleExit n line) s = .next u ∧ (u.slice n).fineE (fineSet a) w = 0 ∧
        (∀ v, s.hlcFind n a = some v → (u.slice n).pin (hlcSet a) v = false) ∧ (u.slice n).arr.hlc = (s.slice n).arr.hlc ∧
        (u.slice n).trk = (s.slice n).trk ∧ u.mesh = s.mesh)) ∧
  (∀ (s : State) (n t : Nat) (line : PA), s.canon = true → n < s.par.nSlice → s.paused n = true →
    ∀ c ∈ [Instr.snoopResponseTimeout n t, .evictionSnoopTimeout n t, .sealTimeout n t, .memoryReadTimeout n t,
      .stashAnswerTimeout n t, .holdExpiry n line, .anvilIdleExit n line, .anvilCooldownEnd n line, .censusWalkTimeout n t],
      exec c s = .next s)

/-- 01 R17, R18, 03 R88: a memory port. A read of a line with no write outstanding is handed to the controller, and one of a line with
a write outstanding is held until that write ends. A write is handed over when both its halves are there. What the controller
returns goes back to the slice that asked.

(Not the spec's: the order of a held read and a held write is log 33.) -/
def Obligations.MemoryPorts : Prop :=
  (∀ (s : State) (p : Nat) (f : Flits) (m : Msg), s.canon = true → p < s.par.nMport → s.spine.assay.inj.count = 0 →
    arrives f (portNode p) m →
    (m.op = .memRd → (s.port p).writing (lineOf m.addr) = false → (∀ r ∈ (s.port p).reads, r.issued = true) →
      ∃ u, exec (.memportMemRd p f) s = .next u ∧
        Out.ctrlRead p (lineOf m.addr) ((nodeSlice m.src).getD 0) m.htrk.toNat ∈ u.out ∧ u.mesh = s.mesh.erase m ∧
        u.slices = s.slices ∧ ∀ q, q ≠ p → u.port q = s.port q) ∧
    (m.op = .memRd → (s.port p).writing (lineOf m.addr) = true →
      ∃ u, exec (.memportMemRd p f) s = .next u ∧
        { src := m.src, htrk := m.htrk, line := lineOf m.addr, issued := false } ∈ (u.port p).reads) ∧
    (m.op = .memWr → (s.port p).halves = [] →
      ∃ u, exec (.memportWriteHalf p f) s = .next u ∧ u.out = s.out ∧ u.mesh = s.mesh.erase m ∧
        (u.port p).halves = [{ src := m.src, slot := m.htrk, addr := some m.addr, body := none }]) ∧
    (∀ a, m.op = .memWd → m.be = beOf m.bmask →
        (s.port p).halves = [{ src := m.src, slot := m.htrk, addr := some a, body := none }] → (s.port p).reads = [] →
        (s.port p).writes = [] →
      ∃ u, exec (.memportWriteHalf p f) s = .next u ∧ (u.port p).halves = [] ∧
        u.out = s.out ++ [.ctrlWrite p (lineOf a) m.data m.bmask m.poison] ∧ u.mesh = s.mesh.erase m)) ∧
  (∀ (s : State) (p n t : Nat) (data : Line) (poison : Bool) (r : PortRead), p < s.par.nMport →
    (s.port p).reads.find? (fun r => r.issued && r.src = sliceNode n && r.htrk.toNat = t) = some r →
    exec (.memportReadReturn p n t data poison) s =
      .next ((s.updPort p fun x => { x with reads := x.reads.erase r }).send
        { op := .memDat, src := portNode p, dst := sliceNode n, htrk := r.htrk, data, poison, be := BitVec.allOnes 32 })) ∧
  (∀ (s : State) (p n e : Nat) (w : PortWrite) (r : PortRead), s.canon = true → p < s.par.nMport → (s.port p).writes = [w] →
    w.issued = true → w.src = sliceNode n → w.slot.toNat = e → (s.port p).reads = [r] → r.issued = false → r.line = w.line →
    ∃ u, exec (.memportWriteDone p n e) s = .next u ∧ (u.port p).writes = [] ∧
      (u.port p).reads = [{ r with issued := true }] ∧
      u.mesh = s.mesh ++ [{ op := .memAck, src := portNode p, dst := sliceNode n, htrk := w.slot }] ∧
      u.out = s.out ++ [.ctrlRead p r.line ((nodeSlice r.src).getD 0) r.htrk.toNat])

/-- 10 R256, R258 to R265: the translation invalidation relay. TlbInvReq takes a free entry, is acknowledged at once, and goes to every
other member of the issuer's domain; the last acknowledgment frees the entry and grants the TlbSync that waited for it; a
TlbSync of an agent with no entry is granted at once; with no entry free the request waits; the timeout of an entry raises
0x61 once, and the entry goes on waiting. A target past step 2 of its retire counts as having acknowledged (09 R246). -/
def Obligations.RelaySteps : Prop :=
  (∀ (s : State) (f : Flits) (m : Msg), s.tablesRise = true → arrives f spineNode m →
    (m.op = .tlbInvReq →
      ((∀ e, e < 64 → (mfind s.spine.relay e).isSome = true) → exec (.tlbInv f) s = .next s) ∧
      (∀ e, (List.range 64).find? (fun e => (mfind s.spine.relay e).isNone) = some e → (s.shim m.src.toNat).neg ≠ 0 →
        let l := (s.domain (s.shim m.src.toNat).func).filter (· != m.src.toNat)
        let ack : Msg := { op := .tlbAck, src := spineNode, dst := m.src, htrk := BitVec.ofNat 8 e, rqtx := m.rqtx }
        ((∃ t ∈ l, (s.shim t).silenced = false) → ∃ (u : State) (r : Relay), exec (.tlbInv f) s = .next u ∧ mfind u.spine.relay e = some r ∧
          r.issuer = m.src.toNat ∧ r.targets = l.filter (fun t => !(s.shim t).silenced) ∧ r.payload = bits m.data 0 256 ∧ r.timer = true ∧
          u.mesh = s.mesh.erase m ++ [ack] ++ l.map (fun t => {
              op := .tlbInvSnp, src := spineNode, dst := agentNode t,
              htrk := BitVec.ofNat 8 e, tid := m.tid, data := (bits m.data 0 256).setWidth 512, be := 0xFFFF,
              poison := m.poison }) ∧
          u.shims = s.shims ∧ u.slices = s.slices) ∧
        ((∀ t ∈ l, (s.shim t).silenced = true) → (∀ w ∈ s.spine.syncs, ¬ e ∈ w.covers) → ∃ u, exec (.tlbInv f) s = .next u ∧ mfind u.spine.relay e = none ∧ ack ∈ u.mesh))) ∧
    (m.op = .tlbAck →
      (∀ r w, mfind s.spine.relay m.htrk.toNat = some r → r.targets = [m.src.toNat] → s.spine.syncs = [w] →
          w.covers = [m.htrk.toNat] →
        ∃ u, exec (.tlbAck f) s = .next u ∧ mfind u.spine.relay m.htrk.toNat = none ∧ u.spine.syncs = [] ∧
          u.mesh = s.mesh.erase m ++ [{ op := .grant, src := spineNode, dst := agentNode w.agent, rqtx := w.rqtx }]) ∧
      (∀ r a, mfind s.spine.relay m.htrk.toNat = some r → r.targets = [m.src.toNat, a] → a ≠ m.src.toNat →
        ∃ u, exec (.tlbAck f) s = .next u ∧ mfind u.spine.relay m.htrk.toNat = some { r with targets := [a], complete := false } ∧
          u.spine.syncs = s.spine.syncs ∧ u.mesh = s.mesh.erase m) ∧
      (mfind s.spine.relay m.htrk.toNat = none →
        ∃ u, exec (.tlbAck f) s = .next u ∧ bit u.spine.assay.status 0 = true ∧ u.spine.relay = s.spine.relay)) ∧
    (m.op = .tlbSync →
      ((∀ kv ∈ s.spine.relay, kv.2.issuer = m.src.toNat → kv.2.complete = true) →
        exec (.tlbSync f) s = .next ((s.takeMesh m).send { op := .grant, src := spineNode, dst := m.src, rqtx := m.rqtx })) ∧
      ((∃ kv ∈ s.spine.relay, kv.2.issuer = m.src.toNat ∧ kv.2.complete = false) →
        ∃ (u : State) (w : SyncWait), exec (.tlbSync f) s = .next u ∧ u.spine.syncs = s.spine.syncs ++ [w] ∧
          w.agent = m.src.toNat ∧ w.rqtx = m.rqtx ∧ (∀ e, e ∈ w.covers ↔ ∃ r, (e, r) ∈ s.spine.relay ∧ r.issuer = m.src.toNat) ∧
          u.mesh = s.mesh.erase m))) ∧
  (∀ (s : State) (e : Nat) (r : Relay), s.tablesRise = true → mfind s.spine.relay e = some r →
    (r.timer = true → r.complete = false → ∃ u, exec (.relayTimeout e) s = .next u ∧ bit u.spine.assay.status 1 = true ∧
      mfind u.spine.relay e = some { r with timer := false } ∧ u.mesh = s.mesh) ∧
    (r.timer = false ∨ r.complete = true → exec (.relayTimeout e) s = .next s))

/-- 11 R283 to R286, 03 R84: BAR4. While BAR requests are not answered a request is unsupported. A read that hits a slot of the Window
Translation Table, with nothing waiting and no drain owed, is sent as RdOnce to the home slice of its translated line with the
function's window TID; one that misses is answered with zeros, and a write that misses is dropped. The data of a read ends
it with a Seal and answers the host, the Grant of a write is followed by its DatWb, and a Rest has the operation sent again.
(With no injection armed at the spine and no WINDOW_SYNC running.) -/
def Obligations.WindowRequests : Prop :=
  (∀ (s : State) (fn off len : Nat) (write : Bool) (data : List Byte) (enables : List Bool) (ep : Bool), s.canon = true →
    fn < s.par.nFunc → s.noSync = true → s.spine.assay.inj.count = 0 →
    let x := s.fn fn
    (x.bars = false → exec (.bar4Request fn write off len data enables ep) s = .next (unsupported fn s)) ∧
    (x.bars = true → off + len ≤ Params.bar4Bytes s.par → 0 < len → off % 64 + len ≤ 64 → x.win = [] → x.winSt = .idle →
        x.winDrain = 0 →
      (write = false → x.hits false off = true →
        let a := lineOf (x.winAddr off)
        let e := s.master (bucketOf a)
        ∃ u, exec (.bar4Request fn write off len data enables ep) s = .next u ∧
          (u.fn fn).winSt = .sent (x.winRqtx + 1) ∧ (u.fn fn).win.length = 1 ∧ u.out = s.out ∧
          u.mesh = s.mesh ++ [{ op := .rdOnce, src := fnNode fn, dst := sliceNode e.slice, gen := e.gen, rqtx := x.winRqtx + 1
                                tid := x.wtid, ord := 1, addr := a }] ∧
          u.slices = s.slices ∧ ∀ g, g ≠ fn → u.fn g = s.fn g) ∧
      (x.hits write off = false →
        ∃ u, exec (.bar4Request fn write off len data enables ep) s = .next u ∧ (u.fn fn).win = [] ∧
          (u.fn fn).winSt = .idle ∧ u.mesh = s.mesh ∧ u.slices = s.slices ∧
          u.out = s.out ++ (if write then [] else [.windowRead fn (List.replicate len 0) (List.replicate len false)])))) ∧
  (∀ (s : State) (fn : Nat) (f : Flits) (m : Msg) (r : WinReq) (o : WinOp), s.canon = true → fn < s.par.nFunc →
    s.noSync = true → s.spine.assay.inj.count = 0 → arrives f (fnNode fn) m → (s.fn fn).winSt = .sent m.rqtx →
    (s.fn fn).win = [r] → r.ops = [o] → r.reg = none → r.dropped = false → r.write = o.write →
    (o.write = false → m.op = .datS →
      ∃ u, exec (.spineRequesterAnswer fn f) s = .next u ∧ (u.fn fn).win = [] ∧ (u.fn fn).winSt = .idle ∧
        u.mesh = s.mesh.erase m ++ [{ op := .seal, src := fnNode fn, dst := m.src, htrk := m.htrk, rqtx := m.rqtx }] ∧
        u.out = s.out ++ [.windowRead fn (r.got ++ o.bytes m.data) (r.poison ++ List.replicate o.len m.poison)] ∧ u.slices = s.slices) ∧
    (∀ n, o.write = true → m.op = .grant → nodeSlice m.src = some n →
      ∃ u, exec (.spineRequesterAnswer fn f) s = .next u ∧ (u.fn fn).win = [] ∧ (u.fn fn).winSt = .idle ∧ u.out = s.out ∧
        (u.fn fn).winDrain = setBit (s.fn fn).winDrain n true ∧
        u.mesh = s.mesh.erase m ++ [{
            op := .datWb, src := fnNode fn, dst := m.src, htrk := m.htrk, rqtx := m.rqtx,
            data := o.data, poison := o.poison, bmask := if o.mask = fullMask then 0 else o.mask,
            be := if o.mask = fullMask then BitVec.allOnes 32 else beOf o.mask }]) ∧
    (m.op = .rest →
      ∃ u, exec (.spineRequesterAnswer fn f) s = .next u ∧ (u.fn fn).winSt = .sent (m.rqtx + 1) ∧
        (u.fn fn).win = [r] ∧ u.out = s.out ∧
        u.mesh = s.mesh.erase m ++ [{
            op := o.op, src := fnNode fn, dst := sliceNode (s.master (bucketOf o.line)).slice,
            gen := (s.master (bucketOf o.line)).gen, rqtx := m.rqtx + 1, tid := (s.fn fn).wtid, ord := 1,
            addr := o.line }]))

/-- 03 R64 to R66, R70 to R77, R88 to R91, Tables 03-2 to 03-4, 03-8 to 03-14: every message whose unused fields are 0, with every
field at every value, is what a receiver reads from its flits: no field of a header, no data byte, no BE bit and no POISON is
lost, and no check fails. -/
def Obligations.MessageRoundTrip : Prop :=
  ∀ m : Msg, m.wf = true → ∃ det, spells (encode m) m det ∧ flitDst (encode m) = m.dst ∧ flitOp (encode m) = some m.op

/-- 02 R24 to R28, R34, 07 R190, R192, Table 07-1: what is stored of a fine entry, a loaf and an HLC way reads back as it was, every
word of it with good parity, and the line or region of an entry is recovered from its set and its tags. -/
def Obligations.StoredFormsRoundTrip : Prop :=
  (∀ e : FineEntry, decFine (encFine e) = e ∧ ∀ w, w < 4 → wordBad (encFine e) w = false) ∧
  (∀ e : LoafEntry, decLoaf (encLoaf e) = e ∧ ∀ w, w < 4 → wordBad (encLoaf e) w = false) ∧
  (∀ (tag : BitVec 33) (v : Bool) (d : Line), hlcTagOf (encHlc tag v d) = tag ∧ hlcV (encHlc tag v d) = v ∧
    hlcTpBad (encHlc tag v d) = false ∧ hlcDpBad (encHlc tag v d) d = false) ∧
  (∀ a : PA, fineSet a < 8192 ∧ fineAddr (fineSet a) (ptagOf (fineTag a)) (bits (fineTag a) 17 16) = lineOf a) ∧
  (∀ a : PA, loafSet a < 4096 ∧ loafAddr (loafSet a) (loafTag a) = regionOf a) ∧
  (∀ a : PA, bits a 47 5 = 0 → hlcSet a < 256 ∧ hlcAddr (hlcSet a) (hlcTag a) = lineOf a)

/-- 02 R25, R26: the set index, tag and partial tag of a line's fine entry and the set index and tag of its loaf, and the address
recovered from an entry: PA[18:6] is the set index XOR the fold, PA[20:9] of a loaf likewise; line i of a loaf is the line with
PA[8:6] = i. -/
def Obligations.AddressIndexing : Prop :=
  (∀ a : PA,
    let tag := bits a 19 33
    let fold := bits a 19 13 ^^^ bits a 32 13 ^^^ (bits a 45 7).setWidth 13
    fineTag a = tag ∧ fineSet a = (bits a 6 13 ^^^ fold).toNat ∧ fineSet a < 8192 ∧
    ptagOf tag = bits tag 0 17 ^^^ (bits tag 17 16).setWidth 17 ∧
    bits tag 0 17 = ptagOf tag ^^^ (bits tag 17 16).setWidth 17 ∧ bits a 6 13 = BitVec.ofNat 13 (fineSet a) ^^^ fold ∧
    ∀ b : PA, fineSet a = fineSet b → ptagOf tag = ptagOf (fineTag b) → bits tag 17 16 = bits (fineTag b) 17 16 →
      lineOf a = lineOf b) ∧
  (∀ a : PA,
    let fold := bits a 21 12 ^^^ bits a 33 12 ^^^ (bits a 45 7).setWidth 12
    loafTag a = bits a 21 31 ∧ loafSet a = (bits a 9 12 ^^^ fold).toNat ∧ loafSet a < 4096 ∧
    (∀ i, i < 8 → bits (regionLine a i) 6 3 = BitVec.ofNat 3 i ∧ regionOf (regionLine a i) = regionOf a) ∧
    ∀ b : PA, loafSet a = loafSet b → loafTag a = loafTag b → regionOf a = regionOf b)

/-- 02 R24, 03 R66, Table 03-14, 07 Table 07-1, R192: one wrong bit anywhere in a filter entry, a header flit, a data flit, an HLC tag word
or the data of an HLC way, all good before, fails a check. -/
def Obligations.OneWrongBitIsSeen : Prop :=
  (∀ (x : Entry) (i : Nat), i < 72 → wordBad x (i / 18) = false → wordBad (x ^^^ BitVec.ofNat 72 (2 ^ i)) (i / 18) = true) ∧
  (∀ (h : HdrFlit) (i : Nat), i < 144 → hdrBad h = 0 → hdrBad (h ^^^ BitVec.ofNat 144 (2 ^ i)) ≠ 0) ∧
  (∀ (d : DatFlit) (i : Nat), i < 288 → datBad d = false → datBad (d ^^^ BitVec.ofNat 288 (2 ^ i)) = true) ∧
  (∀ (x : BitVec 36) (i : Nat), i < 35 → hlcTpBad x = false → hlcTpBad (x ^^^ BitVec.ofNat 36 (2 ^ i)) = true) ∧
  (∀ (x : BitVec 36) (d : Line), hlcDpBad x d = false → hlcDpBad (x ^^^ BitVec.ofNat 36 (2 ^ 35)) d = true) ∧
  (∀ (x : BitVec 36) (d : Line) (i : Nat), i < 512 → hlcDpBad x d = false → hlcDpBad x (d ^^^ BitVec.ofNat 512 (2 ^ i)) = true)

/-- 08 R215: after cold reset the active slices are slices 0 to N_ACTIVE - 1, every bucket has generation 0 and, with
g = b mod (4 N_ACTIVE), belongs to slice g mod N_ACTIVE and its engine g div N_ACTIVE, in the master map, in the slices' tables and
in every shim's map; for every legal integration. -/
def Obligations.BucketsAtReset : Prop :=
  ∀ p : Params, p.legal = true →
    let s : State := { State.reset with par := p }
    (∀ n, n < p.nSlice → ((s.slice n).serving = true ↔ n < p.nActive)) ∧
    ∀ b, b < 4096 →
      let g := b % (4 * p.nActive)
      s.master b = { slice := g % p.nActive, engine := g / p.nActive, gen := 0 } ∧
      (∀ sh, s.bmap sh b = { slice := g % p.nActive, engine := g / p.nActive, gen := 0 }) ∧
      (∀ n, n < p.nSlice → s.bkt n b = if n = g % p.nActive then { kind := .owned, engine := g / p.nActive, gen := 0 } else {})

/-- 17 Table 17-4 step 5, 13 Table 13-3, 11 Table 11-5, 12 Table 12-3, 18: right after reset the invariant holds, every table rises, nothing
waits anywhere, slices below N_ACTIVE are in TRACK and the others in RETAIN with empty filters, every shim is idle, no ring runs, and
the settings have their reset values.

(Not the spec's: the integration is the reference one (log 2).) -/
def Obligations.ResetMeetsInvariant : Prop :=
  let s := State.reset
  s.Inv ∧ s.tablesRise = true ∧ s.pending = [] ∧ s.mesh = [] ∧ s.wires = [] ∧ s.out = [] ∧ s.spine.ready = true ∧
  (∀ n, n < s.par.nSlice → (s.slice n).mode = (if n < s.par.nActive then .track else .retain) ∧ (s.slice n).arr = {} ∧
    (s.slice n).trk = [] ∧ (s.slice n).adm = [] ∧ (s.slice n).cap = 64) ∧
  (∀ sh, (s.shim sh).st = .idle ∧ (s.shim sh).autoRetire = true ∧ (s.shim sh).pfEn = true) ∧
  (∀ f, (∀ i, ((s.fn f).ring i).en = false) ∧ (s.fn f).evtVec = 1 ∧ (s.fn f).errVec = 2 ∧ (s.fn f).asVec = 3) ∧
  s.spine.setup = false ∧ s.spine.toSnoop = 20 ∧ s.spine.toSeal = 50 ∧ s.spine.toMem = 100 ∧ s.spine.mbWindow = 32 ∧
  s.spine.prot.tmSeq = 0 ∧ s.spine.prot.rg = [] ∧ s.hall.buf = [] ∧ s.hall.seq = 0

/-- Every step keeps the keys of every table inside every part strictly rising: no entry of an array, tracker, bucket, credit, bank
or protection table ever stands twice.

(Not the spec's: the tables' form is the model's own (log 1).) -/
def Obligations.StepKeepsTables : Prop :=
  ∀ s t : State, s.tablesRise = true → step s = .next t → t.tablesRise = true

/-- 02 R36, R44, R48, R50, R52, R53, Tables 02-7, 06 R177, 07 R194 to R197, R202, Table 07-2: what writes a loaf, the HLC and a hold. A
read of an untracked line that finds no free way takes its colour's victim, whose line is demoted: its presence bit and its
groups are added to its region's loaf, or to a new one in the victim's colour; with no loaf to be had every holder is
invalidated with EVS. A line placed in a new loaf evicts that colour's victim loaf, whose groups are invalidated with EVS.
The Seal of a RdOwn of a line in a loaf moves it to the fine way reserved for it, its presence bit clear and the loaf invalid
when nothing else is present; or records it in the loaf as owned. With HOLD 1 a revision-3 requester then holds the line while
fewer than 64 holds are taken. The data of a WrFull overwrites the line's HLC way or fills its colour's lowest free one;
poisoned data clears it; a hint's data fills the way chosen for it with PFU 1.

(Not the spec's: that a line placed in an unknown loaf leaves it unknown is log 58.) -/
def Obligations.TrackingWrites : Prop :=
  (∀ (s : State) (n t : Nat) (k : Tracker) (op : Op), s.decides n t k → k.kind = .msg op → k.soft = false →
    op = .rdShare ∨ op = .rdOwn → (s.lookup n (lineOf k.addr)).anvil = false → (s.lookup n (lineOf k.addr)).res = .i →
    let a := lineOf k.addr
    let set := fineSet a
    let elig (v : Nat) : Bool := s.fineMask n t k.colour v && s.fineElig n set v
    (∀ v, ¬ s.freeWay n t k v) →
    ((∃ v, v < 16 ∧ elig v = true) →
      let w := treeWalk (mget 0 (s.slice n).arr.fineTree k.colour.toNat) elig 0 0 4
      let e := s.fineAt n set w
      let b := e.line set
      let lset := loafSet b
      let held := e.hstate = hsX ∨ e.hstate = hsO
      (∀ i, i < 4 → wordBad ((s.slice n).fineE set w) i = false) →
      (∀ j i, j < 8 → i < 4 → wordBad ((s.slice n).loafE lset j) i = false) →
      ∃ (u : State) (x : Tracker), exec (.transactionDecision n t) s = .next u ∧ u.trk n t = some x ∧ x.stage = .live ∧
        x.resv = .way w ∧ (u.fineAt n set w).free = true ∧
        (∀ j, s.loafFind n b = some j → u.loafAt n lset j = { s.loafAt n lset j with
          pres := setBit (s.loafAt n lset j).pres (lineInLoaf b) true, gvec := (s.loafAt n lset j).gvec ||| e.groups
          lstate := if held ∧ (s.loafAt n lset j).lstate ≠ lfUnknown then lfOwner else (s.loafAt n lset j).lstate }) ∧
        (s.loafFind n b = none →
          let open' (j : Nat) : Prop := s.loafMask n t e.colour j = true ∧ (s.slice n).keptLoaf lset j = false ∧
            (s.loafAt n lset j).lstate = 0
          (∀ j, j < 8 → open' j → (∀ i, i < j → ¬ open' i) → u.loafAt n lset j = {
            ltag := loafTag b, lstate := if held then lfOwner else lfClean, pres := setBit 0 (lineInLoaf b) true
            colour := e.colour, gvec := e.groups }) ∧
          ((∀ j, j < 8 → s.loafMask n t e.colour j = false) →
            (∀ o, e.owner = some o → (s.slice n).admitted o = true → { snoopOf n t b (o, .snOwn) with aux := 1 } ∈ u.mesh) ∧
            ∀ h ∈ e.sharers, (s.slice n).admitted h = true → { snoopOf n t b (h, .snKill) with aux := 1 } ∈ u.mesh))) ∧
    ((∀ v, v < 16 → s.fineMask n t k.colour v = false) → s.loafFind n a = none →
      let lset := loafSet a
      let lelig (j : Nat) : Bool := s.loafMask n t k.colour j && s.loafElig n lset j
      let j := treeWalk (mget 0 (s.slice n).arr.loafTree k.colour.toNat) lelig 0 0 3
      let l := s.loafAt n lset j
      (∃ i, i < 8 ∧ lelig i = true) → (∀ i, i < 8 → lelig i = true → (s.loafAt n lset i).lstate ≠ 0) →
      ∀ b, l.lines lset = [b] →
      ∃ (u : State) (x : Tracker), exec (.transactionDecision n t) s = .next u ∧ u.trk n t = some x ∧ x.stage = .live ∧
        x.resv = .loaf j ∧ x.heldLoaf = some (8 * lset + j) ∧
        u.loafAt n lset j = { ltag := loafTag a, lstate := lfClean, colour := k.colour } ∧
        ∀ h ∈ (s.slice n).admList, bit l.gvec (groupOf h) = true →
          { snoopOf n t b (h, if l.lstate = lfClean then .snKill else .snOwn) with aux := 1 } ∈ u.mesh)) ∧
  (∀ (s : State) (n : Nat) (f : Flits) (m : Msg) (k : Tracker), s.canon = true → s.tablesRise = true → s.receives n f m →
    let t := m.htrk.toNat
    let a := lineOf k.addr
    let set := fineSet a
    let lset := loafSet a
    s.trk n t = some k → k.stage = .live → k.quar = [] → k.bad = false → k.evict = none → k.pendWr = [] → k.silent = false →
    k.toP = false → k.unrouted = false → (s.slice n).serving = true → (s.slice n).mode ≠ .broadcast →
    (m.op = .seal → mfind (s.slice n).fences t = none → k.kind = .msg .rdOwn → k.soft = false →
        k.look.res = .coarseS ∨ k.look.res = .i → k.look.fine = {} → k.look.anvil = false →
        k.ans = some (.datX, lsE) → k.waitSeal = true → k.sealTimer = true → m.src = k.src → m.rqtx = k.rqtx →
        isCaching k.src.toNat = true → k.rdone = true → k.round.ended = true → k.early = false → k.stashed = false →
        k.heldLoaf = none → s.fineFind n a = none → s.calm n →
      ∃ u, exec (.seal n f) s = .next u ∧ u.trk n t = none ∧
        (∀ w j, k.resv = .way w → s.loafFind n a = some j → bit (s.loafAt n lset j).pres (lineInLoaf a) = true →
            (∀ kv ∈ (s.slice n).trk, kv.2.heldLoaf ≠ some (8 * lset + j)) →
          let l := s.loafAt n lset j
          let p := setBit l.pres (lineInLoaf a) false
          (u.fineAt n set w).isFor a = true ∧ (u.fineAt n set w).hstate = hsX ∧
          (u.fineAt n set w).owner = some k.src.toNat ∧ u.loafAt n lset j = (if p = 0 then {} else { l with pres := p })) ∧
        (∀ i j, k.resv = .loaf i → s.loafFind n a = some j → bit (s.loafAt n lset j).pres (lineInLoaf a) = false →
          let l := s.loafAt n lset j
          u.loafAt n lset j = { l with
            pres := setBit l.pres (lineInLoaf a) true, gvec := l.gvec ||| groupVec [k.src.toNat]
            lstate := if l.lstate = lfUnknown then lfUnknown else lfOwner }) ∧
        (k.hold = false ∨ s.agentRev k.src.toNat ≠ 3 → (u.slice n).holds = (s.slice n).holds) ∧
        (k.hold = true → s.agentRev k.src.toNat = 3 →
          let l := (s.slice n).holds.filter fun h => h.line != a
          (l.length < 64 → (u.slice n).holds = l ++ [{ line := a, agent := k.src.toNat }]) ∧
          (64 ≤ l.length → (u.slice n).holds = (s.slice n).holds))) ∧
    (∀ e p, m.op = .datWb → k.kind = .msg .wrFull → k.waitDat = true → m.src = k.src → m.rqtx = k.rqtx → k.ans.isSome = true →
        k.look.res ≠ .p → s.memDest a = .port p → (s.slice n).mbOf .opened a = none → (s.slice n).mbFree = some e →
        k.bufBad = false →
      ∃ u, exec (.datWb n f) s = .next u ∧
        let way (v : State) (i : Nat) : HlcWay := (v.slice n).hlcW (hlcSet a) i
        let open' (i : Nat) : Prop := s.hlcMask n t k.colour i = true ∧ (s.slice n).pin (hlcSet a) i = false ∧
          hlcV (way s i).tagw = false
        (∀ v, s.hlcFind n a = some v → m.poison = false →
          way u v = { tagw := encHlc (hlcTag a) true m.data, data := m.data }) ∧
        (∀ v, s.hlcFind n a = some v → m.poison = true → hlcV (way u v).tagw = false) ∧
        (∀ v, s.hlcFind n a = none → m.poison = false → s.hlcOk a = true → v < 8 → open' v → (∀ i, i < v → ¬ open' i) →
          way u v = { tagw := encHlc (hlcTag a) true m.data, data := m.data } ∧ (u.slice n).pfu (hlcSet a) v = false)) ∧
    (∀ v, m.op = .memDat → k.kind = .msg .pfHint → k.memNode = some m.src → k.pfWay = some v → m.poison = false →
        k.merge = (0, 0, false) → k.bufBad = false → (s.slice n).pin (hlcSet a) v = false → s.hlcOpen n v = true → s.calm n →
        (s.slice n).trk = [(t, k)] →
      ∃ u, exec (.memDat n f) s = .next u ∧ u.trk n t = none ∧ (u.slice n).pfu (hlcSet a) v = true ∧
        (u.slice n).hlcW (hlcSet a) v = { tagw := encHlc (hlcTag a) true m.data, data := m.data } ∧
        (u.slice n).ledger.pfFill = (s.slice n).ledger.pfFill + 1))
end

