-- ==== Sys2Proof/Laws/Bits.lean ====
section
/-! SUPPORT. Laws of bit fields and of the parity of stored words. -/

namespace Sys2Proof.Machine

/-- Bit j of a value with bit i set to b. -/
theorem bit_setBit {n : Nat} (x : BitVec n) (i j : Nat) (b : Bool) (hj : j < n) :
    bit (setBit x i b) j = if j = i then b else bit x j := by
  simp only [bit, setBit]
  cases b <;> simp only [if_true, Bool.false_eq_true, if_false] <;>
    simp only [BitVec.getLsbD_or, BitVec.getLsbD_and, BitVec.getLsbD_not, BitVec.getLsbD_ofNat, hj, decide_true, Bool.true_and,
      Nat.testBit_two_pow, eq_comm (a := i)] <;>
    split <;> simp_all

@[simp] theorem bit_bits {n : Nat} (x : BitVec n) (lo w i : Nat) : bit (bits x lo w) i = (decide (i < w) && bit x (lo + i)) := by
  simp [bit, bits, BitVec.getLsbD_extractLsb']

theorem odd_append (b : Bool) (p : BitVec 17) : odd (b1 b ++ p) = (b != odd p) := by
  have h : ∀ k, k ≤ 17 → onesUpTo (b1 b ++ p) k = onesUpTo p k := by
    intro k hk
    induction k with
    | zero => rfl
    | succ k ih =>
      have g : (b1 b ++ p).getLsbD k = p.getLsbD k := by
        have l : k < 17 := by omega
        rw [BitVec.getLsbD_append]; exact if_pos l
      simp only [onesUpTo, g, ih (by omega)]
  have e : ones (b1 b ++ p) = (if b then 1 else 0) + ones p := by
    show (if (b1 b ++ p).getLsbD 17 then 1 else 0) + onesUpTo (b1 b ++ p) 17 = _
    rw [h 17 (Nat.le_refl _), BitVec.getLsbD_append]
    cases b <;> simp [b1, ones]
  simp only [odd, e]
  cases b <;> simp <;> by_cases g : ones p % 2 = 1 <;> simp [g] <;> omega

/-- A stored word of good parity. -/
@[simp] theorem odd_word18 (p : BitVec 17) : odd (word18 p) = false := by
  rw [word18, odd_append]; simp

end Sys2Proof.Machine
end

