-- ==== Sys2Proof/Laws/Map.lean ====
section
/-! SUPPORT. Laws of the sparse tables: what a write leaves to read, and that every operation keeps the keys rising and the
canonical form. -/

namespace Sys2Proof.Machine

variable {α : Type}

@[simp] theorem mget_nil (d : α) (k : Nat) : mget d [] k = d := rfl

/-- What holds of the default and of every listed value holds of whatever is read. -/
theorem mget_all {p : α → Prop} {d : α} {m : Map α} (hd : p d) (h : ∀ x ∈ m, p x.2) (k : Nat) : p (mget d m k) := by
  induction m with
  | nil => exact hd
  | cons x r ih =>
    simp only [mget]; split
    · exact h x List.mem_cons_self
    · split
      · exact hd
      · exact ih fun y hy => h y (List.mem_cons_of_mem _ hy)

@[simp] theorem mrising_nil (lo : Nat) : mrising lo ([] : Map α) = true := rfl

theorem mrising_cons (lo j : Nat) (v : α) (r : Map α) :
    mrising lo ((j, v) :: r) = true ↔ lo ≤ j ∧ mrising (j + 1) r = true := by simp [mrising]

/-- Rising from a key is rising from any lower one. -/
theorem mrising_mono {lo lo' : Nat} {m : Map α} (h : lo' ≤ lo) (hm : mrising lo m = true) : mrising lo' m = true := by
  cases m with
  | nil => rfl
  | cons x r =>
    have ⟨h1, h2⟩ := (mrising_cons ..).1 hm
    exact (mrising_cons ..).2 ⟨by omega, h2⟩

/-- A key below all the keys listed reads as the default. -/
theorem mget_below (d : α) {lo k : Nat} {m : Map α} (hm : mrising lo m = true) (h : k < lo) : mget d m k = d := by
  cases m with
  | nil => rfl
  | cons x r => rw [mrising_cons] at hm; simp only [mget]; rw [if_neg (by omega), if_pos (by omega)]

theorem mget_cons_lt (d v : α) {j k : Nat} (r : Map α) (h : j < k) : mget d ((j, v) :: r) k = mget d r k := by
  simp only [mget]; rw [if_neg (by omega), if_neg (by omega)]

theorem mget_cons_eq (d v : α) (k : Nat) (r : Map α) : mget d ((k, v) :: r) k = v := by simp [mget]

section Put
variable [DecidableEq α]

/-- The three places a write may fall. -/
theorem mput_cons (d w v : α) (j k : Nat) (r : Map α) :
    (k < j ∧ mput d ((j, w) :: r) k v = if v = d then (j, w) :: r else (k, v) :: (j, w) :: r) ∨
    (k = j ∧ mput d ((j, w) :: r) k v = if v = d then r else (k, v) :: r) ∨
    (j < k ∧ mput d ((j, w) :: r) k v = (j, w) :: mput d r k v) := by
  rcases Nat.lt_trichotomy k j with h | h | h
  · exact .inl ⟨h, by simp [mput, h]⟩
  · subst h; exact .inr (.inl ⟨rfl, by simp [mput]⟩)
  · exact .inr (.inr ⟨h, by simp only [mput]; rw [if_neg (by omega), if_neg (by omega)]⟩)

theorem mrising_mput (d : α) {lo k : Nat} {m : Map α} (v : α) (hk : lo ≤ k) (hm : mrising lo m = true) :
    mrising lo (mput d m k v) = true := by
  induction m generalizing lo with
  | nil => simp only [mput]; split <;> simp [mrising, hk]
  | cons x r ih =>
    obtain ⟨j, w⟩ := x
    have ⟨h1, h2⟩ := (mrising_cons ..).1 hm
    rcases mput_cons d w v j k r with ⟨h, e⟩ | ⟨h, e⟩ | ⟨h, e⟩ <;> rw [e]
    · split
      · exact hm
      · exact (mrising_cons ..).2 ⟨hk, (mrising_cons ..).2 ⟨h, h2⟩⟩
    · subst h; split
      · exact mrising_mono (by omega) h2
      · exact (mrising_cons ..).2 ⟨hk, h2⟩
    · exact (mrising_cons ..).2 ⟨h1, ih (by omega) h2⟩

/-- What is written is read. -/
theorem mget_mput_same (d : α) {lo : Nat} {m : Map α} (k : Nat) (v : α) (hm : mrising lo m = true) :
    mget d (mput d m k v) k = v := by
  induction m generalizing lo with
  | nil => by_cases h : v = d <;> simp [mput, mget, h]
  | cons x r ih =>
    obtain ⟨j, w⟩ := x
    have ⟨h1, h2⟩ := (mrising_cons ..).1 hm
    rcases mput_cons d w v j k r with ⟨h, e⟩ | ⟨h, e⟩ | ⟨h, e⟩ <;> rw [e]
    · split
      · next hv => subst hv; simp only [mget]; rw [if_neg (by omega), if_pos h]
      · exact mget_cons_eq ..
    · subst h; split
      · next hv => subst hv; exact mget_below _ h2 (by omega)
      · exact mget_cons_eq ..
    · rw [mget_cons_lt _ _ _ h]; exact ih h2

/-- Every other key reads as before. -/
theorem mget_mput_ne (d d' : α) {lo i k : Nat} {m : Map α} (v : α) (hm : mrising lo m = true) (hk : i ≠ k) :
    mget d' (mput d m k v) i = mget d' m i := by
  induction m generalizing lo with
  | nil =>
    simp only [mput]; split
    · rfl
    · simp only [mget]; split
      · omega
      · split <;> rfl
  | cons x r ih =>
    obtain ⟨j, w⟩ := x
    have ⟨h1, h2⟩ := (mrising_cons ..).1 hm
    rcases mput_cons d w v j k r with ⟨h, e⟩ | ⟨h, e⟩ | ⟨h, e⟩ <;> rw [e]
    · split
      · rfl
      · rcases Nat.lt_or_gt_of_ne hk with g | g
        · simp only [mget]; rw [if_neg (by omega), if_pos g, if_neg (by omega), if_pos (by omega)]
        · rw [mget_cons_lt _ _ _ g]
    · subst h; rcases Nat.lt_or_gt_of_ne hk with g | g
      · rw [mget_below d' (m := (k, w) :: r) (lo := k) ((mrising_cons ..).2 ⟨by omega, h2⟩) g]
        split
        · exact mget_below _ h2 (by omega)
        · exact mget_below (lo := k) _ ((mrising_cons ..).2 ⟨by omega, h2⟩) g
      · rw [mget_cons_lt _ _ _ g]
        split
        · rfl
        · exact mget_cons_lt _ _ _ g
    · simp only [mget]
      split
      · rfl
      · split
        · rfl
        · exact ih h2

theorem mem_mput {d : α} {m : Map α} {k : Nat} {v : α} {x : Nat × α} (h : x ∈ mput d m k v) : x = (k, v) ∧ v ≠ d ∨ x ∈ m := by
  induction m with
  | nil => simp only [mput] at h; split at h <;> simp_all
  | cons y r ih =>
    obtain ⟨j, w⟩ := y
    rcases mput_cons d w v j k r with ⟨_, e⟩ | ⟨_, e⟩ | ⟨_, e⟩ <;> rw [e] at h
    · split at h <;> simp_all
    · split at h <;> simp_all; tauto
    · rcases List.mem_cons.1 h with h | h
      · exact .inr (h ▸ List.mem_cons_self)
      · exact (ih h).imp id (List.mem_cons_of_mem _)

/-- A write keeps the canonical form. -/
theorem mwf_mput (d : Nat → α) {m : Map α} (k : Nat) (v : α) (hm : mwf d m = true) : mwf d (mput (d k) m k v) = true := by
  simp only [mwf, Bool.and_eq_true, List.all_eq_true, decide_eq_true_eq] at *
  refine ⟨mrising_mput _ _ (Nat.zero_le _) hm.1, fun x hx => ?_⟩
  rcases mem_mput hx with ⟨rfl, h⟩ | h
  · exact h
  · exact hm.2 x h

theorem mwf_rising {d : Nat → α} {m : Map α} (hm : mwf d m = true) : mrising 0 m = true := by
  simp only [mwf, Bool.and_eq_true] at hm; exact hm.1

end Put

theorem mrising_mins {lo k : Nat} {m : Map α} (v : α) (hk : lo ≤ k) (hm : mrising lo m = true) :
    mrising lo (mins m k v) = true := by
  induction m generalizing lo with
  | nil => simp [mins, mrising, hk]
  | cons x r ih =>
    obtain ⟨j, w⟩ := x
    have ⟨h1, h2⟩ := (mrising_cons ..).1 hm
    simp only [mins]
    split
    · next h => exact (mrising_cons ..).2 ⟨hk, (mrising_cons ..).2 ⟨h, h2⟩⟩
    · split
      · next h => subst h; exact (mrising_cons ..).2 ⟨hk, h2⟩
      · exact (mrising_cons ..).2 ⟨h1, ih (by omega) h2⟩

theorem mfind_mins_same {lo : Nat} {m : Map α} (k : Nat) (v : α) (hm : mrising lo m = true) : mfind (mins m k v) k = some v := by
  induction m generalizing lo with
  | nil => simp [mins, mfind]
  | cons x r ih =>
    obtain ⟨j, w⟩ := x
    have ⟨h1, h2⟩ := (mrising_cons ..).1 hm
    simp only [mins]
    split
    · simp [mfind]
    · split
      · simp [mfind]
      · simp only [mfind]; rw [if_neg (by omega), if_neg (by omega)]; exact ih h2

theorem mrising_mdel {lo k : Nat} {m : Map α} (hm : mrising lo m = true) : mrising lo (mdel m k) = true := by
  induction m generalizing lo with
  | nil => rfl
  | cons x r ih =>
    obtain ⟨j, w⟩ := x
    have ⟨h1, h2⟩ := (mrising_cons ..).1 hm
    simp only [mdel]
    split
    · exact mrising_mono (by omega) h2
    · exact (mrising_cons ..).2 ⟨h1, ih h2⟩

@[simp] theorem mrising_mmap (f : Nat → α → α) {lo : Nat} {m : Map α} : mrising lo (mmap f m) = mrising lo m := by
  induction m generalizing lo with
  | nil => rfl
  | cons x r ih => simp only [mmap, List.map_cons, mrising] at *; rw [ih]

/-- A table of which some entries are dropped still rises. -/
theorem mrising_filter (p : Nat × α → Bool) {lo : Nat} {m : Map α} (hm : mrising lo m = true) :
    mrising lo (m.filter p) = true := by
  induction m generalizing lo with
  | nil => rfl
  | cons x r ih =>
    obtain ⟨j, w⟩ := x
    have ⟨h1, h2⟩ := (mrising_cons ..).1 hm
    rw [List.filter_cons]
    split
    · exact (mrising_cons ..).2 ⟨h1, ih h2⟩
    · exact mrising_mono (by omega) (ih h2)

end Sys2Proof.Machine
end

