-- ==== Sys2Proof/Laws/State.lean ====
section
/-! SUPPORT. What each named update of the state leaves and what it writes, one lemma for each field. -/

namespace Sys2Proof.Machine

variable (s : State)

/-! State.setSlice -/
@[simp] theorem State.setSlice_par (n : Nat) (x : Slice) : (s.setSlice n x).par = s.par := rfl
@[simp] theorem State.setSlice_pending (n : Nat) (x : Slice) : (s.setSlice n x).pending = s.pending := rfl
@[simp] theorem State.setSlice_out (n : Nat) (x : Slice) : (s.setSlice n x).out = s.out := rfl
@[simp] theorem State.setSlice_mesh (n : Nat) (x : Slice) : (s.setSlice n x).mesh = s.mesh := rfl
@[simp] theorem State.setSlice_wires (n : Nat) (x : Slice) : (s.setSlice n x).wires = s.wires := rfl
@[simp] theorem State.setSlice_slices (n : Nat) (x : Slice) : (s.setSlice n x).slices = mput (Slice.initial s.par n) s.slices n x := rfl
@[simp] theorem State.setSlice_shims (n : Nat) (x : Slice) : (s.setSlice n x).shims = s.shims := rfl
@[simp] theorem State.setSlice_ports (n : Nat) (x : Slice) : (s.setSlice n x).ports = s.ports := rfl
@[simp] theorem State.setSlice_fns (n : Nat) (x : Slice) : (s.setSlice n x).fns = s.fns := rfl
@[simp] theorem State.setSlice_spine (n : Nat) (x : Slice) : (s.setSlice n x).spine = s.spine := rfl
@[simp] theorem State.setSlice_hall (n : Nat) (x : Slice) : (s.setSlice n x).hall = s.hall := rfl

/-! State.updSlice -/
@[simp] theorem State.updSlice_par (n : Nat) (f : Slice → Slice) : (s.updSlice n f).par = s.par := rfl
@[simp] theorem State.updSlice_pending (n : Nat) (f : Slice → Slice) : (s.updSlice n f).pending = s.pending := rfl
@[simp] theorem State.updSlice_out (n : Nat) (f : Slice → Slice) : (s.updSlice n f).out = s.out := rfl
@[simp] theorem State.updSlice_mesh (n : Nat) (f : Slice → Slice) : (s.updSlice n f).mesh = s.mesh := rfl
@[simp] theorem State.updSlice_wires (n : Nat) (f : Slice → Slice) : (s.updSlice n f).wires = s.wires := rfl
@[simp] theorem State.updSlice_slices (n : Nat) (f : Slice → Slice) : (s.updSlice n f).slices = mput (Slice.initial s.par n) s.slices n (f (s.slice n)) := rfl
@[simp] theorem State.updSlice_shims (n : Nat) (f : Slice → Slice) : (s.updSlice n f).shims = s.shims := rfl
@[simp] theorem State.updSlice_ports (n : Nat) (f : Slice → Slice) : (s.updSlice n f).ports = s.ports := rfl
@[simp] theorem State.updSlice_fns (n : Nat) (f : Slice → Slice) : (s.updSlice n f).fns = s.fns := rfl
@[simp] theorem State.updSlice_spine (n : Nat) (f : Slice → Slice) : (s.updSlice n f).spine = s.spine := rfl
@[simp] theorem State.updSlice_hall (n : Nat) (f : Slice → Slice) : (s.updSlice n f).hall = s.hall := rfl

/-! State.setShim -/
@[simp] theorem State.setShim_par (sh : Nat) (x : Shim) : (s.setShim sh x).par = s.par := rfl
@[simp] theorem State.setShim_pending (sh : Nat) (x : Shim) : (s.setShim sh x).pending = s.pending := rfl
@[simp] theorem State.setShim_out (sh : Nat) (x : Shim) : (s.setShim sh x).out = s.out := rfl
@[simp] theorem State.setShim_mesh (sh : Nat) (x : Shim) : (s.setShim sh x).mesh = s.mesh := rfl
@[simp] theorem State.setShim_wires (sh : Nat) (x : Shim) : (s.setShim sh x).wires = s.wires := rfl
@[simp] theorem State.setShim_slices (sh : Nat) (x : Shim) : (s.setShim sh x).slices = s.slices := rfl
@[simp] theorem State.setShim_shims (sh : Nat) (x : Shim) : (s.setShim sh x).shims = mput {} s.shims sh x := rfl
@[simp] theorem State.setShim_ports (sh : Nat) (x : Shim) : (s.setShim sh x).ports = s.ports := rfl
@[simp] theorem State.setShim_fns (sh : Nat) (x : Shim) : (s.setShim sh x).fns = s.fns := rfl
@[simp] theorem State.setShim_spine (sh : Nat) (x : Shim) : (s.setShim sh x).spine = s.spine := rfl
@[simp] theorem State.setShim_hall (sh : Nat) (x : Shim) : (s.setShim sh x).hall = s.hall := rfl

/-! State.updShim -/
@[simp] theorem State.updShim_par (sh : Nat) (f : Shim → Shim) : (s.updShim sh f).par = s.par := rfl
@[simp] theorem State.updShim_pending (sh : Nat) (f : Shim → Shim) : (s.updShim sh f).pending = s.pending := rfl
@[simp] theorem State.updShim_out (sh : Nat) (f : Shim → Shim) : (s.updShim sh f).out = s.out := rfl
@[simp] theorem State.updShim_mesh (sh : Nat) (f : Shim → Shim) : (s.updShim sh f).mesh = s.mesh := rfl
@[simp] theorem State.updShim_wires (sh : Nat) (f : Shim → Shim) : (s.updShim sh f).wires = s.wires := rfl
@[simp] theorem State.updShim_slices (sh : Nat) (f : Shim → Shim) : (s.updShim sh f).slices = s.slices := rfl
@[simp] theorem State.updShim_shims (sh : Nat) (f : Shim → Shim) : (s.updShim sh f).shims = mput {} s.shims sh (f (s.shim sh)) := rfl
@[simp] theorem State.updShim_ports (sh : Nat) (f : Shim → Shim) : (s.updShim sh f).ports = s.ports := rfl
@[simp] theorem State.updShim_fns (sh : Nat) (f : Shim → Shim) : (s.updShim sh f).fns = s.fns := rfl
@[simp] theorem State.updShim_spine (sh : Nat) (f : Shim → Shim) : (s.updShim sh f).spine = s.spine := rfl
@[simp] theorem State.updShim_hall (sh : Nat) (f : Shim → Shim) : (s.updShim sh f).hall = s.hall := rfl

/-! State.setPort -/
@[simp] theorem State.setPort_par (p : Nat) (x : Port) : (s.setPort p x).par = s.par := rfl
@[simp] theorem State.setPort_pending (p : Nat) (x : Port) : (s.setPort p x).pending = s.pending := rfl
@[simp] theorem State.setPort_out (p : Nat) (x : Port) : (s.setPort p x).out = s.out := rfl
@[simp] theorem State.setPort_mesh (p : Nat) (x : Port) : (s.setPort p x).mesh = s.mesh := rfl
@[simp] theorem State.setPort_wires (p : Nat) (x : Port) : (s.setPort p x).wires = s.wires := rfl
@[simp] theorem State.setPort_slices (p : Nat) (x : Port) : (s.setPort p x).slices = s.slices := rfl
@[simp] theorem State.setPort_shims (p : Nat) (x : Port) : (s.setPort p x).shims = s.shims := rfl
@[simp] theorem State.setPort_ports (p : Nat) (x : Port) : (s.setPort p x).ports = mput {} s.ports p x := rfl
@[simp] theorem State.setPort_fns (p : Nat) (x : Port) : (s.setPort p x).fns = s.fns := rfl
@[simp] theorem State.setPort_spine (p : Nat) (x : Port) : (s.setPort p x).spine = s.spine := rfl
@[simp] theorem State.setPort_hall (p : Nat) (x : Port) : (s.setPort p x).hall = s.hall := rfl

/-! State.updPort -/
@[simp] theorem State.updPort_par (p : Nat) (f : Port → Port) : (s.updPort p f).par = s.par := rfl
@[simp] theorem State.updPort_pending (p : Nat) (f : Port → Port) : (s.updPort p f).pending = s.pending := rfl
@[simp] theorem State.updPort_out (p : Nat) (f : Port → Port) : (s.updPort p f).out = s.out := rfl
@[simp] theorem State.updPort_mesh (p : Nat) (f : Port → Port) : (s.updPort p f).mesh = s.mesh := rfl
@[simp] theorem State.updPort_wires (p : Nat) (f : Port → Port) : (s.updPort p f).wires = s.wires := rfl
@[simp] theorem State.updPort_slices (p : Nat) (f : Port → Port) : (s.updPort p f).slices = s.slices := rfl
@[simp] theorem State.updPort_shims (p : Nat) (f : Port → Port) : (s.updPort p f).shims = s.shims := rfl
@[simp] theorem State.updPort_ports (p : Nat) (f : Port → Port) : (s.updPort p f).ports = mput {} s.ports p (f (s.port p)) := rfl
@[simp] theorem State.updPort_fns (p : Nat) (f : Port → Port) : (s.updPort p f).fns = s.fns := rfl
@[simp] theorem State.updPort_spine (p : Nat) (f : Port → Port) : (s.updPort p f).spine = s.spine := rfl
@[simp] theorem State.updPort_hall (p : Nat) (f : Port → Port) : (s.updPort p f).hall = s.hall := rfl

/-! State.setFn -/
@[simp] theorem State.setFn_par (k : Nat) (x : Fn) : (s.setFn k x).par = s.par := rfl
@[simp] theorem State.setFn_pending (k : Nat) (x : Fn) : (s.setFn k x).pending = s.pending := rfl
@[simp] theorem State.setFn_out (k : Nat) (x : Fn) : (s.setFn k x).out = s.out := rfl
@[simp] theorem State.setFn_mesh (k : Nat) (x : Fn) : (s.setFn k x).mesh = s.mesh := rfl
@[simp] theorem State.setFn_wires (k : Nat) (x : Fn) : (s.setFn k x).wires = s.wires := rfl
@[simp] theorem State.setFn_slices (k : Nat) (x : Fn) : (s.setFn k x).slices = s.slices := rfl
@[simp] theorem State.setFn_shims (k : Nat) (x : Fn) : (s.setFn k x).shims = s.shims := rfl
@[simp] theorem State.setFn_ports (k : Nat) (x : Fn) : (s.setFn k x).ports = s.ports := rfl
@[simp] theorem State.setFn_fns (k : Nat) (x : Fn) : (s.setFn k x).fns = mput (Fn.initial k) s.fns k x := rfl
@[simp] theorem State.setFn_spine (k : Nat) (x : Fn) : (s.setFn k x).spine = s.spine := rfl
@[simp] theorem State.setFn_hall (k : Nat) (x : Fn) : (s.setFn k x).hall = s.hall := rfl

/-! State.updFn -/
@[simp] theorem State.updFn_par (k : Nat) (f : Fn → Fn) : (s.updFn k f).par = s.par := rfl
@[simp] theorem State.updFn_pending (k : Nat) (f : Fn → Fn) : (s.updFn k f).pending = s.pending := rfl
@[simp] theorem State.updFn_out (k : Nat) (f : Fn → Fn) : (s.updFn k f).out = s.out := rfl
@[simp] theorem State.updFn_mesh (k : Nat) (f : Fn → Fn) : (s.updFn k f).mesh = s.mesh := rfl
@[simp] theorem State.updFn_wires (k : Nat) (f : Fn → Fn) : (s.updFn k f).wires = s.wires := rfl
@[simp] theorem State.updFn_slices (k : Nat) (f : Fn → Fn) : (s.updFn k f).slices = s.slices := rfl
@[simp] theorem State.updFn_shims (k : Nat) (f : Fn → Fn) : (s.updFn k f).shims = s.shims := rfl
@[simp] theorem State.updFn_ports (k : Nat) (f : Fn → Fn) : (s.updFn k f).ports = s.ports := rfl
@[simp] theorem State.updFn_fns (k : Nat) (f : Fn → Fn) : (s.updFn k f).fns = mput (Fn.initial k) s.fns k (f (s.fn k)) := rfl
@[simp] theorem State.updFn_spine (k : Nat) (f : Fn → Fn) : (s.updFn k f).spine = s.spine := rfl
@[simp] theorem State.updFn_hall (k : Nat) (f : Fn → Fn) : (s.updFn k f).hall = s.hall := rfl

/-! State.updSpine -/
@[simp] theorem State.updSpine_par (f : Spine → Spine) : (s.updSpine f).par = s.par := rfl
@[simp] theorem State.updSpine_pending (f : Spine → Spine) : (s.updSpine f).pending = s.pending := rfl
@[simp] theorem State.updSpine_out (f : Spine → Spine) : (s.updSpine f).out = s.out := rfl
@[simp] theorem State.updSpine_mesh (f : Spine → Spine) : (s.updSpine f).mesh = s.mesh := rfl
@[simp] theorem State.updSpine_wires (f : Spine → Spine) : (s.updSpine f).wires = s.wires := rfl
@[simp] theorem State.updSpine_slices (f : Spine → Spine) : (s.updSpine f).slices = s.slices := rfl
@[simp] theorem State.updSpine_shims (f : Spine → Spine) : (s.updSpine f).shims = s.shims := rfl
@[simp] theorem State.updSpine_ports (f : Spine → Spine) : (s.updSpine f).ports = s.ports := rfl
@[simp] theorem State.updSpine_fns (f : Spine → Spine) : (s.updSpine f).fns = s.fns := rfl
@[simp] theorem State.updSpine_spine (f : Spine → Spine) : (s.updSpine f).spine = f s.spine := rfl
@[simp] theorem State.updSpine_hall (f : Spine → Spine) : (s.updSpine f).hall = s.hall := rfl

/-! State.updHall -/
@[simp] theorem State.updHall_par (f : Hallmark → Hallmark) : (s.updHall f).par = s.par := rfl
@[simp] theorem State.updHall_pending (f : Hallmark → Hallmark) : (s.updHall f).pending = s.pending := rfl
@[simp] theorem State.updHall_out (f : Hallmark → Hallmark) : (s.updHall f).out = s.out := rfl
@[simp] theorem State.updHall_mesh (f : Hallmark → Hallmark) : (s.updHall f).mesh = s.mesh := rfl
@[simp] theorem State.updHall_wires (f : Hallmark → Hallmark) : (s.updHall f).wires = s.wires := rfl
@[simp] theorem State.updHall_slices (f : Hallmark → Hallmark) : (s.updHall f).slices = s.slices := rfl
@[simp] theorem State.updHall_shims (f : Hallmark → Hallmark) : (s.updHall f).shims = s.shims := rfl
@[simp] theorem State.updHall_ports (f : Hallmark → Hallmark) : (s.updHall f).ports = s.ports := rfl
@[simp] theorem State.updHall_fns (f : Hallmark → Hallmark) : (s.updHall f).fns = s.fns := rfl
@[simp] theorem State.updHall_spine (f : Hallmark → Hallmark) : (s.updHall f).spine = s.spine := rfl
@[simp] theorem State.updHall_hall (f : Hallmark → Hallmark) : (s.updHall f).hall = f s.hall := rfl

/-! State.updProt -/
@[simp] theorem State.updProt_par (f : Protect → Protect) : (s.updProt f).par = s.par := rfl
@[simp] theorem State.updProt_pending (f : Protect → Protect) : (s.updProt f).pending = s.pending := rfl
@[simp] theorem State.updProt_out (f : Protect → Protect) : (s.updProt f).out = s.out := rfl
@[simp] theorem State.updProt_mesh (f : Protect → Protect) : (s.updProt f).mesh = s.mesh := rfl
@[simp] theorem State.updProt_wires (f : Protect → Protect) : (s.updProt f).wires = s.wires := rfl
@[simp] theorem State.updProt_slices (f : Protect → Protect) : (s.updProt f).slices = s.slices := rfl
@[simp] theorem State.updProt_shims (f : Protect → Protect) : (s.updProt f).shims = s.shims := rfl
@[simp] theorem State.updProt_ports (f : Protect → Protect) : (s.updProt f).ports = s.ports := rfl
@[simp] theorem State.updProt_fns (f : Protect → Protect) : (s.updProt f).fns = s.fns := rfl
@[simp] theorem State.updProt_spine (f : Protect → Protect) : (s.updProt f).spine = { s.spine with prot := f s.spine.prot } := rfl
@[simp] theorem State.updProt_hall (f : Protect → Protect) : (s.updProt f).hall = s.hall := rfl

/-! State.emit -/
@[simp] theorem State.emit_par (o : Out) : (s.emit o).par = s.par := rfl
@[simp] theorem State.emit_pending (o : Out) : (s.emit o).pending = s.pending := rfl
@[simp] theorem State.emit_out (o : Out) : (s.emit o).out = s.out ++ [o] := rfl
@[simp] theorem State.emit_mesh (o : Out) : (s.emit o).mesh = s.mesh := rfl
@[simp] theorem State.emit_wires (o : Out) : (s.emit o).wires = s.wires := rfl
@[simp] theorem State.emit_slices (o : Out) : (s.emit o).slices = s.slices := rfl
@[simp] theorem State.emit_shims (o : Out) : (s.emit o).shims = s.shims := rfl
@[simp] theorem State.emit_ports (o : Out) : (s.emit o).ports = s.ports := rfl
@[simp] theorem State.emit_fns (o : Out) : (s.emit o).fns = s.fns := rfl
@[simp] theorem State.emit_spine (o : Out) : (s.emit o).spine = s.spine := rfl
@[simp] theorem State.emit_hall (o : Out) : (s.emit o).hall = s.hall := rfl

/-! State.send -/
@[simp] theorem State.send_par (m : Msg) : (s.send m).par = s.par := rfl
@[simp] theorem State.send_pending (m : Msg) : (s.send m).pending = s.pending := rfl
@[simp] theorem State.send_out (m : Msg) : (s.send m).out = s.out := rfl
@[simp] theorem State.send_mesh (m : Msg) : (s.send m).mesh = s.mesh ++ [m] := rfl
@[simp] theorem State.send_wires (m : Msg) : (s.send m).wires = s.wires := rfl
@[simp] theorem State.send_slices (m : Msg) : (s.send m).slices = s.slices := rfl
@[simp] theorem State.send_shims (m : Msg) : (s.send m).shims = s.shims := rfl
@[simp] theorem State.send_ports (m : Msg) : (s.send m).ports = s.ports := rfl
@[simp] theorem State.send_fns (m : Msg) : (s.send m).fns = s.fns := rfl
@[simp] theorem State.send_spine (m : Msg) : (s.send m).spine = s.spine := rfl
@[simp] theorem State.send_hall (m : Msg) : (s.send m).hall = s.hall := rfl

/-! State.sendAll -/
@[simp] theorem State.sendAll_par (l : List Msg) : (s.sendAll l).par = s.par := rfl
@[simp] theorem State.sendAll_pending (l : List Msg) : (s.sendAll l).pending = s.pending := rfl
@[simp] theorem State.sendAll_out (l : List Msg) : (s.sendAll l).out = s.out := rfl
@[simp] theorem State.sendAll_mesh (l : List Msg) : (s.sendAll l).mesh = s.mesh ++ l := rfl
@[simp] theorem State.sendAll_wires (l : List Msg) : (s.sendAll l).wires = s.wires := rfl
@[simp] theorem State.sendAll_slices (l : List Msg) : (s.sendAll l).slices = s.slices := rfl
@[simp] theorem State.sendAll_shims (l : List Msg) : (s.sendAll l).shims = s.shims := rfl
@[simp] theorem State.sendAll_ports (l : List Msg) : (s.sendAll l).ports = s.ports := rfl
@[simp] theorem State.sendAll_fns (l : List Msg) : (s.sendAll l).fns = s.fns := rfl
@[simp] theorem State.sendAll_spine (l : List Msg) : (s.sendAll l).spine = s.spine := rfl
@[simp] theorem State.sendAll_hall (l : List Msg) : (s.sendAll l).hall = s.hall := rfl

/-! State.takeMesh -/
@[simp] theorem State.takeMesh_par (m : Msg) : (s.takeMesh m).par = s.par := rfl
@[simp] theorem State.takeMesh_pending (m : Msg) : (s.takeMesh m).pending = s.pending := rfl
@[simp] theorem State.takeMesh_out (m : Msg) : (s.takeMesh m).out = s.out := rfl
@[simp] theorem State.takeMesh_mesh (m : Msg) : (s.takeMesh m).mesh = s.mesh.erase m := rfl
@[simp] theorem State.takeMesh_wires (m : Msg) : (s.takeMesh m).wires = s.wires := rfl
@[simp] theorem State.takeMesh_slices (m : Msg) : (s.takeMesh m).slices = s.slices := rfl
@[simp] theorem State.takeMesh_shims (m : Msg) : (s.takeMesh m).shims = s.shims := rfl
@[simp] theorem State.takeMesh_ports (m : Msg) : (s.takeMesh m).ports = s.ports := rfl
@[simp] theorem State.takeMesh_fns (m : Msg) : (s.takeMesh m).fns = s.fns := rfl
@[simp] theorem State.takeMesh_spine (m : Msg) : (s.takeMesh m).spine = s.spine := rfl
@[simp] theorem State.takeMesh_hall (m : Msg) : (s.takeMesh m).hall = s.hall := rfl

/-! State.wire -/
@[simp] theorem State.wire_par (w : Wire) : (s.wire w).par = s.par := rfl
@[simp] theorem State.wire_pending (w : Wire) : (s.wire w).pending = s.pending := rfl
@[simp] theorem State.wire_out (w : Wire) : (s.wire w).out = s.out := rfl
@[simp] theorem State.wire_mesh (w : Wire) : (s.wire w).mesh = s.mesh := rfl
@[simp] theorem State.wire_wires (w : Wire) : (s.wire w).wires = s.wires ++ [w] := rfl
@[simp] theorem State.wire_slices (w : Wire) : (s.wire w).slices = s.slices := rfl
@[simp] theorem State.wire_shims (w : Wire) : (s.wire w).shims = s.shims := rfl
@[simp] theorem State.wire_ports (w : Wire) : (s.wire w).ports = s.ports := rfl
@[simp] theorem State.wire_fns (w : Wire) : (s.wire w).fns = s.fns := rfl
@[simp] theorem State.wire_spine (w : Wire) : (s.wire w).spine = s.spine := rfl
@[simp] theorem State.wire_hall (w : Wire) : (s.wire w).hall = s.hall := rfl

/-! State.takeWire -/
@[simp] theorem State.takeWire_par (w : Wire) : (s.takeWire w).par = s.par := rfl
@[simp] theorem State.takeWire_pending (w : Wire) : (s.takeWire w).pending = s.pending := rfl
@[simp] theorem State.takeWire_out (w : Wire) : (s.takeWire w).out = s.out := rfl
@[simp] theorem State.takeWire_mesh (w : Wire) : (s.takeWire w).mesh = s.mesh := rfl
@[simp] theorem State.takeWire_wires (w : Wire) : (s.takeWire w).wires = s.wires.erase w := rfl
@[simp] theorem State.takeWire_slices (w : Wire) : (s.takeWire w).slices = s.slices := rfl
@[simp] theorem State.takeWire_shims (w : Wire) : (s.takeWire w).shims = s.shims := rfl
@[simp] theorem State.takeWire_ports (w : Wire) : (s.takeWire w).ports = s.ports := rfl
@[simp] theorem State.takeWire_fns (w : Wire) : (s.takeWire w).fns = s.fns := rfl
@[simp] theorem State.takeWire_spine (w : Wire) : (s.takeWire w).spine = s.spine := rfl
@[simp] theorem State.takeWire_hall (w : Wire) : (s.takeWire w).hall = s.hall := rfl

/-! State.setBkt -/
@[simp] theorem State.setBkt_par (n b : Nat) (e : BktEntry) : (s.setBkt n b e).par = s.par := rfl
@[simp] theorem State.setBkt_pending (n b : Nat) (e : BktEntry) : (s.setBkt n b e).pending = s.pending := rfl
@[simp] theorem State.setBkt_out (n b : Nat) (e : BktEntry) : (s.setBkt n b e).out = s.out := rfl
@[simp] theorem State.setBkt_mesh (n b : Nat) (e : BktEntry) : (s.setBkt n b e).mesh = s.mesh := rfl
@[simp] theorem State.setBkt_wires (n b : Nat) (e : BktEntry) : (s.setBkt n b e).wires = s.wires := rfl
@[simp] theorem State.setBkt_shims (n b : Nat) (e : BktEntry) : (s.setBkt n b e).shims = s.shims := rfl
@[simp] theorem State.setBkt_ports (n b : Nat) (e : BktEntry) : (s.setBkt n b e).ports = s.ports := rfl
@[simp] theorem State.setBkt_fns (n b : Nat) (e : BktEntry) : (s.setBkt n b e).fns = s.fns := rfl
@[simp] theorem State.setBkt_spine (n b : Nat) (e : BktEntry) : (s.setBkt n b e).spine = s.spine := rfl
@[simp] theorem State.setBkt_hall (n b : Nat) (e : BktEntry) : (s.setBkt n b e).hall = s.hall := rfl

/-! State.setActBank -/
@[simp] theorem State.setActBank_par (n i : Nat) (x : Bank) : (s.setActBank n i x).par = s.par := rfl
@[simp] theorem State.setActBank_pending (n i : Nat) (x : Bank) : (s.setActBank n i x).pending = s.pending := rfl
@[simp] theorem State.setActBank_out (n i : Nat) (x : Bank) : (s.setActBank n i x).out = s.out := rfl
@[simp] theorem State.setActBank_mesh (n i : Nat) (x : Bank) : (s.setActBank n i x).mesh = s.mesh := rfl
@[simp] theorem State.setActBank_wires (n i : Nat) (x : Bank) : (s.setActBank n i x).wires = s.wires := rfl
@[simp] theorem State.setActBank_shims (n i : Nat) (x : Bank) : (s.setActBank n i x).shims = s.shims := rfl
@[simp] theorem State.setActBank_ports (n i : Nat) (x : Bank) : (s.setActBank n i x).ports = s.ports := rfl
@[simp] theorem State.setActBank_fns (n i : Nat) (x : Bank) : (s.setActBank n i x).fns = s.fns := rfl
@[simp] theorem State.setActBank_spine (n i : Nat) (x : Bank) : (s.setActBank n i x).spine = s.spine := rfl
@[simp] theorem State.setActBank_hall (n i : Nat) (x : Bank) : (s.setActBank n i x).hall = s.hall := rfl

/-! State.setShdBank -/
@[simp] theorem State.setShdBank_par (n i : Nat) (x : Bank) : (s.setShdBank n i x).par = s.par := rfl
@[simp] theorem State.setShdBank_pending (n i : Nat) (x : Bank) : (s.setShdBank n i x).pending = s.pending := rfl
@[simp] theorem State.setShdBank_out (n i : Nat) (x : Bank) : (s.setShdBank n i x).out = s.out := rfl
@[simp] theorem State.setShdBank_mesh (n i : Nat) (x : Bank) : (s.setShdBank n i x).mesh = s.mesh := rfl
@[simp] theorem State.setShdBank_wires (n i : Nat) (x : Bank) : (s.setShdBank n i x).wires = s.wires := rfl
@[simp] theorem State.setShdBank_shims (n i : Nat) (x : Bank) : (s.setShdBank n i x).shims = s.shims := rfl
@[simp] theorem State.setShdBank_ports (n i : Nat) (x : Bank) : (s.setShdBank n i x).ports = s.ports := rfl
@[simp] theorem State.setShdBank_fns (n i : Nat) (x : Bank) : (s.setShdBank n i x).fns = s.fns := rfl
@[simp] theorem State.setShdBank_spine (n i : Nat) (x : Bank) : (s.setShdBank n i x).spine = s.spine := rfl
@[simp] theorem State.setShdBank_hall (n i : Nat) (x : Bank) : (s.setShdBank n i x).hall = s.hall := rfl

/-! State.updTrk -/
@[simp] theorem State.updTrk_par (n t : Nat) (f : Tracker → Tracker) : (s.updTrk n t f).par = s.par := rfl
@[simp] theorem State.updTrk_pending (n t : Nat) (f : Tracker → Tracker) : (s.updTrk n t f).pending = s.pending := rfl
@[simp] theorem State.updTrk_out (n t : Nat) (f : Tracker → Tracker) : (s.updTrk n t f).out = s.out := rfl
@[simp] theorem State.updTrk_mesh (n t : Nat) (f : Tracker → Tracker) : (s.updTrk n t f).mesh = s.mesh := rfl
@[simp] theorem State.updTrk_wires (n t : Nat) (f : Tracker → Tracker) : (s.updTrk n t f).wires = s.wires := rfl
@[simp] theorem State.updTrk_shims (n t : Nat) (f : Tracker → Tracker) : (s.updTrk n t f).shims = s.shims := rfl
@[simp] theorem State.updTrk_ports (n t : Nat) (f : Tracker → Tracker) : (s.updTrk n t f).ports = s.ports := rfl
@[simp] theorem State.updTrk_fns (n t : Nat) (f : Tracker → Tracker) : (s.updTrk n t f).fns = s.fns := rfl
@[simp] theorem State.updTrk_spine (n t : Nat) (f : Tracker → Tracker) : (s.updTrk n t f).spine = s.spine := rfl
@[simp] theorem State.updTrk_hall (n t : Nat) (f : Tracker → Tracker) : (s.updTrk n t f).hall = s.hall := rfl

/-! State.setBmap -/
@[simp] theorem State.setBmap_par (sh b : Nat) (e : BMapEntry) : (s.setBmap sh b e).par = s.par := rfl
@[simp] theorem State.setBmap_pending (sh b : Nat) (e : BMapEntry) : (s.setBmap sh b e).pending = s.pending := rfl
@[simp] theorem State.setBmap_out (sh b : Nat) (e : BMapEntry) : (s.setBmap sh b e).out = s.out := rfl
@[simp] theorem State.setBmap_mesh (sh b : Nat) (e : BMapEntry) : (s.setBmap sh b e).mesh = s.mesh := rfl
@[simp] theorem State.setBmap_wires (sh b : Nat) (e : BMapEntry) : (s.setBmap sh b e).wires = s.wires := rfl
@[simp] theorem State.setBmap_slices (sh b : Nat) (e : BMapEntry) : (s.setBmap sh b e).slices = s.slices := rfl
@[simp] theorem State.setBmap_ports (sh b : Nat) (e : BMapEntry) : (s.setBmap sh b e).ports = s.ports := rfl
@[simp] theorem State.setBmap_fns (sh b : Nat) (e : BMapEntry) : (s.setBmap sh b e).fns = s.fns := rfl
@[simp] theorem State.setBmap_spine (sh b : Nat) (e : BMapEntry) : (s.setBmap sh b e).spine = s.spine := rfl
@[simp] theorem State.setBmap_hall (sh b : Nat) (e : BMapEntry) : (s.setBmap sh b e).hall = s.hall := rfl

/-! State.setMaster -/
@[simp] theorem State.setMaster_par (b : Nat) (e : MasterEntry) : (s.setMaster b e).par = s.par := rfl
@[simp] theorem State.setMaster_pending (b : Nat) (e : MasterEntry) : (s.setMaster b e).pending = s.pending := rfl
@[simp] theorem State.setMaster_out (b : Nat) (e : MasterEntry) : (s.setMaster b e).out = s.out := rfl
@[simp] theorem State.setMaster_mesh (b : Nat) (e : MasterEntry) : (s.setMaster b e).mesh = s.mesh := rfl
@[simp] theorem State.setMaster_wires (b : Nat) (e : MasterEntry) : (s.setMaster b e).wires = s.wires := rfl
@[simp] theorem State.setMaster_slices (b : Nat) (e : MasterEntry) : (s.setMaster b e).slices = s.slices := rfl
@[simp] theorem State.setMaster_shims (b : Nat) (e : MasterEntry) : (s.setMaster b e).shims = s.shims := rfl
@[simp] theorem State.setMaster_ports (b : Nat) (e : MasterEntry) : (s.setMaster b e).ports = s.ports := rfl
@[simp] theorem State.setMaster_fns (b : Nat) (e : MasterEntry) : (s.setMaster b e).fns = s.fns := rfl
@[simp] theorem State.setMaster_spine (b : Nat) (e : MasterEntry) : (s.setMaster b e).spine = { s.spine with master := mput (masterInit s.par b) s.spine.master b e } := rfl
@[simp] theorem State.setMaster_hall (b : Nat) (e : MasterEntry) : (s.setMaster b e).hall = s.hall := rfl

/-! Reading one kind of part after another kind is updated. -/
@[simp] theorem State.updSlice_shim (n : Nat) (f : Slice → Slice) (j : Nat) : (s.updSlice n f).shim j = s.shim j := rfl
@[simp] theorem State.updSlice_port (n : Nat) (f : Slice → Slice) (j : Nat) : (s.updSlice n f).port j = s.port j := rfl
@[simp] theorem State.updSlice_fn (n : Nat) (f : Slice → Slice) (j : Nat) : (s.updSlice n f).fn j = s.fn j := rfl
@[simp] theorem State.updShim_slice (sh : Nat) (f : Shim → Shim) (j : Nat) : (s.updShim sh f).slice j = s.slice j := rfl
@[simp] theorem State.updShim_port (sh : Nat) (f : Shim → Shim) (j : Nat) : (s.updShim sh f).port j = s.port j := rfl
@[simp] theorem State.updShim_fn (sh : Nat) (f : Shim → Shim) (j : Nat) : (s.updShim sh f).fn j = s.fn j := rfl
@[simp] theorem State.updPort_slice (p : Nat) (f : Port → Port) (j : Nat) : (s.updPort p f).slice j = s.slice j := rfl
@[simp] theorem State.updPort_shim (p : Nat) (f : Port → Port) (j : Nat) : (s.updPort p f).shim j = s.shim j := rfl
@[simp] theorem State.updPort_fn (p : Nat) (f : Port → Port) (j : Nat) : (s.updPort p f).fn j = s.fn j := rfl
@[simp] theorem State.updFn_slice (k : Nat) (f : Fn → Fn) (j : Nat) : (s.updFn k f).slice j = s.slice j := rfl
@[simp] theorem State.updFn_shim (k : Nat) (f : Fn → Fn) (j : Nat) : (s.updFn k f).shim j = s.shim j := rfl
@[simp] theorem State.updFn_port (k : Nat) (f : Fn → Fn) (j : Nat) : (s.updFn k f).port j = s.port j := rfl
@[simp] theorem State.updSpine_slice (f : Spine → Spine) (j : Nat) : (s.updSpine f).slice j = s.slice j := rfl
@[simp] theorem State.updSpine_shim (f : Spine → Spine) (j : Nat) : (s.updSpine f).shim j = s.shim j := rfl
@[simp] theorem State.updSpine_port (f : Spine → Spine) (j : Nat) : (s.updSpine f).port j = s.port j := rfl
@[simp] theorem State.updSpine_fn (f : Spine → Spine) (j : Nat) : (s.updSpine f).fn j = s.fn j := rfl
@[simp] theorem State.updHall_slice (f : Hallmark → Hallmark) (j : Nat) : (s.updHall f).slice j = s.slice j := rfl
@[simp] theorem State.updHall_shim (f : Hallmark → Hallmark) (j : Nat) : (s.updHall f).shim j = s.shim j := rfl
@[simp] theorem State.updHall_port (f : Hallmark → Hallmark) (j : Nat) : (s.updHall f).port j = s.port j := rfl
@[simp] theorem State.updHall_fn (f : Hallmark → Hallmark) (j : Nat) : (s.updHall f).fn j = s.fn j := rfl
@[simp] theorem State.updProt_slice (f : Protect → Protect) (j : Nat) : (s.updProt f).slice j = s.slice j := rfl
@[simp] theorem State.updProt_shim (f : Protect → Protect) (j : Nat) : (s.updProt f).shim j = s.shim j := rfl
@[simp] theorem State.updProt_port (f : Protect → Protect) (j : Nat) : (s.updProt f).port j = s.port j := rfl
@[simp] theorem State.updProt_fn (f : Protect → Protect) (j : Nat) : (s.updProt f).fn j = s.fn j := rfl
@[simp] theorem State.emit_slice (o : Out) (j : Nat) : (s.emit o).slice j = s.slice j := rfl
@[simp] theorem State.emit_shim (o : Out) (j : Nat) : (s.emit o).shim j = s.shim j := rfl
@[simp] theorem State.emit_port (o : Out) (j : Nat) : (s.emit o).port j = s.port j := rfl
@[simp] theorem State.emit_fn (o : Out) (j : Nat) : (s.emit o).fn j = s.fn j := rfl
@[simp] theorem State.send_slice (m : Msg) (j : Nat) : (s.send m).slice j = s.slice j := rfl
@[simp] theorem State.send_shim (m : Msg) (j : Nat) : (s.send m).shim j = s.shim j := rfl
@[simp] theorem State.send_port (m : Msg) (j : Nat) : (s.send m).port j = s.port j := rfl
@[simp] theorem State.send_fn (m : Msg) (j : Nat) : (s.send m).fn j = s.fn j := rfl
@[simp] theorem State.sendAll_slice (l : List Msg) (j : Nat) : (s.sendAll l).slice j = s.slice j := rfl
@[simp] theorem State.sendAll_shim (l : List Msg) (j : Nat) : (s.sendAll l).shim j = s.shim j := rfl
@[simp] theorem State.sendAll_port (l : List Msg) (j : Nat) : (s.sendAll l).port j = s.port j := rfl
@[simp] theorem State.sendAll_fn (l : List Msg) (j : Nat) : (s.sendAll l).fn j = s.fn j := rfl
@[simp] theorem State.takeMesh_slice (m : Msg) (j : Nat) : (s.takeMesh m).slice j = s.slice j := rfl
@[simp] theorem State.takeMesh_shim (m : Msg) (j : Nat) : (s.takeMesh m).shim j = s.shim j := rfl
@[simp] theorem State.takeMesh_port (m : Msg) (j : Nat) : (s.takeMesh m).port j = s.port j := rfl
@[simp] theorem State.takeMesh_fn (m : Msg) (j : Nat) : (s.takeMesh m).fn j = s.fn j := rfl
@[simp] theorem State.wire_slice (w : Wire) (j : Nat) : (s.wire w).slice j = s.slice j := rfl
@[simp] theorem State.wire_shim (w : Wire) (j : Nat) : (s.wire w).shim j = s.shim j := rfl
@[simp] theorem State.wire_port (w : Wire) (j : Nat) : (s.wire w).port j = s.port j := rfl
@[simp] theorem State.wire_fn (w : Wire) (j : Nat) : (s.wire w).fn j = s.fn j := rfl
@[simp] theorem State.takeWire_slice (w : Wire) (j : Nat) : (s.takeWire w).slice j = s.slice j := rfl
@[simp] theorem State.takeWire_shim (w : Wire) (j : Nat) : (s.takeWire w).shim j = s.shim j := rfl
@[simp] theorem State.takeWire_port (w : Wire) (j : Nat) : (s.takeWire w).port j = s.port j := rfl
@[simp] theorem State.takeWire_fn (w : Wire) (j : Nat) : (s.takeWire w).fn j = s.fn j := rfl
@[simp] theorem State.setBkt_shim (n b : Nat) (e : BktEntry) (j : Nat) : (s.setBkt n b e).shim j = s.shim j := rfl
@[simp] theorem State.setBkt_port (n b : Nat) (e : BktEntry) (j : Nat) : (s.setBkt n b e).port j = s.port j := rfl
@[simp] theorem State.setBkt_fn (n b : Nat) (e : BktEntry) (j : Nat) : (s.setBkt n b e).fn j = s.fn j := rfl
@[simp] theorem State.setActBank_shim (n i : Nat) (x : Bank) (j : Nat) : (s.setActBank n i x).shim j = s.shim j := rfl
@[simp] theorem State.setActBank_port (n i : Nat) (x : Bank) (j : Nat) : (s.setActBank n i x).port j = s.port j := rfl
@[simp] theorem State.setActBank_fn (n i : Nat) (x : Bank) (j : Nat) : (s.setActBank n i x).fn j = s.fn j := rfl
@[simp] theorem State.setShdBank_shim (n i : Nat) (x : Bank) (j : Nat) : (s.setShdBank n i x).shim j = s.shim j := rfl
@[simp] theorem State.setShdBank_port (n i : Nat) (x : Bank) (j : Nat) : (s.setShdBank n i x).port j = s.port j := rfl
@[simp] theorem State.setShdBank_fn (n i : Nat) (x : Bank) (j : Nat) : (s.setShdBank n i x).fn j = s.fn j := rfl
@[simp] theorem State.updTrk_shim (n t : Nat) (f : Tracker → Tracker) (j : Nat) : (s.updTrk n t f).shim j = s.shim j := rfl
@[simp] theorem State.updTrk_port (n t : Nat) (f : Tracker → Tracker) (j : Nat) : (s.updTrk n t f).port j = s.port j := rfl
@[simp] theorem State.updTrk_fn (n t : Nat) (f : Tracker → Tracker) (j : Nat) : (s.updTrk n t f).fn j = s.fn j := rfl
@[simp] theorem State.setBmap_slice (sh b : Nat) (e : BMapEntry) (j : Nat) : (s.setBmap sh b e).slice j = s.slice j := rfl
@[simp] theorem State.setBmap_port (sh b : Nat) (e : BMapEntry) (j : Nat) : (s.setBmap sh b e).port j = s.port j := rfl
@[simp] theorem State.setBmap_fn (sh b : Nat) (e : BMapEntry) (j : Nat) : (s.setBmap sh b e).fn j = s.fn j := rfl
@[simp] theorem State.setMaster_slice (b : Nat) (e : MasterEntry) (j : Nat) : (s.setMaster b e).slice j = s.slice j := rfl
@[simp] theorem State.setMaster_shim (b : Nat) (e : MasterEntry) (j : Nat) : (s.setMaster b e).shim j = s.shim j := rfl
@[simp] theorem State.setMaster_port (b : Nat) (e : MasterEntry) (j : Nat) : (s.setMaster b e).port j = s.port j := rfl
@[simp] theorem State.setMaster_fn (b : Nat) (e : MasterEntry) (j : Nat) : (s.setMaster b e).fn j = s.fn j := rfl

end Sys2Proof.Machine
end

