-- ==== Sys2Proof/Laws/Parts.lean ====
section
/-! SUPPORT. What the shared operations over the parts can do: reading after an update, the canonical form, the three outcomes
of a command to a part, and `Keeps`, which every operation of the block has: the integration and the queue stay, and the canonical form
is kept. -/

namespace Sys2Proof.Machine

/-! ### The canonical form -/

theorem State.canon_iff (s : State) : s.canon = true ↔ mwf (Slice.initial s.par) s.slices = true ∧
    mwf (fun _ => ({} : Shim)) s.shims = true ∧ mwf (fun _ => ({} : Port)) s.ports = true ∧ mwf Fn.initial s.fns = true := by
  simp only [State.canon, Bool.and_eq_true, and_assoc]

theorem State.canon_of_eq {s t : State} (hp : t.par = s.par) (h1 : t.slices = s.slices) (h2 : t.shims = s.shims)
    (h3 : t.ports = s.ports) (h4 : t.fns = s.fns) : t.canon = s.canon := by
  simp only [State.canon, hp, h1, h2, h3, h4]

theorem State.canon_updSlice {s : State} (n : Nat) (f : Slice → Slice) (h : s.canon = true) : (s.updSlice n f).canon = true := by
  rw [State.canon_iff] at *
  exact ⟨mwf_mput (Slice.initial s.par) n _ h.1, h.2⟩

theorem State.canon_updShim {s : State} (n : Nat) (f : Shim → Shim) (h : s.canon = true) : (s.updShim n f).canon = true := by
  rw [State.canon_iff] at *
  exact ⟨h.1, mwf_mput (fun _ => ({} : Shim)) n _ h.2.1, h.2.2⟩

theorem State.canon_updPort {s : State} (n : Nat) (f : Port → Port) (h : s.canon = true) : (s.updPort n f).canon = true := by
  rw [State.canon_iff] at *
  exact ⟨h.1, h.2.1, mwf_mput (fun _ => ({} : Port)) n _ h.2.2.1, h.2.2.2⟩

theorem State.canon_updFn {s : State} (n : Nat) (f : Fn → Fn) (h : s.canon = true) : (s.updFn n f).canon = true := by
  rw [State.canon_iff] at *
  exact ⟨h.1, h.2.1, h.2.2.1, mwf_mput Fn.initial n _ h.2.2.2⟩

/-! ### Reading a part after an update -/

theorem State.slice_updSlice_same {s : State} (n : Nat) (f : Slice → Slice) (h : s.canon = true) :
    (s.updSlice n f).slice n = f (s.slice n) :=
  mget_mput_same _ n _ (mwf_rising ((State.canon_iff s).1 h).1)

theorem State.slice_updSlice_ne {s : State} {n m : Nat} (f : Slice → Slice) (h : s.canon = true) (hm : m ≠ n) :
    (s.updSlice n f).slice m = s.slice m :=
  mget_mput_ne _ _ _ (mwf_rising ((State.canon_iff s).1 h).1) hm

theorem State.shim_updShim_same {s : State} (n : Nat) (f : Shim → Shim) (h : s.canon = true) :
    (s.updShim n f).shim n = f (s.shim n) :=
  mget_mput_same _ n _ (mwf_rising ((State.canon_iff s).1 h).2.1)

theorem State.shim_updShim_ne {s : State} {n m : Nat} (f : Shim → Shim) (h : s.canon = true) (hm : m ≠ n) :
    (s.updShim n f).shim m = s.shim m :=
  mget_mput_ne _ _ _ (mwf_rising ((State.canon_iff s).1 h).2.1) hm

theorem State.port_updPort_same {s : State} (n : Nat) (f : Port → Port) (h : s.canon = true) :
    (s.updPort n f).port n = f (s.port n) :=
  mget_mput_same _ n _ (mwf_rising ((State.canon_iff s).1 h).2.2.1)

theorem State.port_updPort_ne {s : State} {n m : Nat} (f : Port → Port) (h : s.canon = true) (hm : m ≠ n) :
    (s.updPort n f).port m = s.port m :=
  mget_mput_ne _ _ _ (mwf_rising ((State.canon_iff s).1 h).2.2.1) hm

theorem State.fn_updFn_same {s : State} (n : Nat) (f : Fn → Fn) (h : s.canon = true) : (s.updFn n f).fn n = f (s.fn n) :=
  mget_mput_same _ n _ (mwf_rising ((State.canon_iff s).1 h).2.2.2)

theorem State.fn_updFn_ne {s : State} {n m : Nat} (f : Fn → Fn) (h : s.canon = true) (hm : m ≠ n) :
    (s.updFn n f).fn m = s.fn m :=
  mget_mput_ne _ _ _ (mwf_rising ((State.canon_iff s).1 h).2.2.2) hm

/-! ### A command to a part -/

theorem atSlice_built {n : Nat} {s : State} (f : State → State) (h : n < s.par.nSlice) : atSlice n s f = .next (f s) := if_pos h
theorem atSlice_unbuilt {n : Nat} {s : State} (f : State → State) (h : ¬ n < s.par.nSlice) : atSlice n s f = .fault .notBuilt :=
  if_neg h
theorem atSlice_next {n : Nat} {s t : State} {f : State → State} (h : atSlice n s f = .next t) : n < s.par.nSlice ∧ t = f s := by
  by_cases c : n < s.par.nSlice
  · rw [atSlice_built f c] at h; cases h; exact ⟨c, rfl⟩
  · rw [atSlice_unbuilt f c] at h; cases h

theorem atShim_built {n : Nat} {s : State} (f : State → State) (h : s.hasShim n = true) : atShim n s f = .next (f s) := if_pos h
theorem atShim_unbuilt {n : Nat} {s : State} (f : State → State) (h : ¬ s.hasShim n = true) : atShim n s f = .fault .notBuilt :=
  if_neg h
theorem atShim_next {n : Nat} {s t : State} {f : State → State} (h : atShim n s f = .next t) : s.hasShim n = true ∧ t = f s := by
  by_cases c : s.hasShim n = true
  · rw [atShim_built f c] at h; cases h; exact ⟨c, rfl⟩
  · rw [atShim_unbuilt f c] at h; cases h

theorem atPort_built {n : Nat} {s : State} (f : State → State) (h : n < s.par.nMport) : atPort n s f = .next (f s) := if_pos h
theorem atPort_unbuilt {n : Nat} {s : State} (f : State → State) (h : ¬ n < s.par.nMport) : atPort n s f = .fault .notBuilt :=
  if_neg h
theorem atPort_next {n : Nat} {s t : State} {f : State → State} (h : atPort n s f = .next t) : n < s.par.nMport ∧ t = f s := by
  by_cases c : n < s.par.nMport
  · rw [atPort_built f c] at h; cases h; exact ⟨c, rfl⟩
  · rw [atPort_unbuilt f c] at h; cases h

theorem atFn_built {n : Nat} {s : State} (f : State → State) (h : n < s.par.nFunc) : atFn n s f = .next (f s) := if_pos h
theorem atFn_unbuilt {n : Nat} {s : State} (f : State → State) (h : ¬ n < s.par.nFunc) : atFn n s f = .fault .notBuilt := if_neg h
theorem atFn_next {n : Nat} {s t : State} {f : State → State} (h : atFn n s f = .next t) : n < s.par.nFunc ∧ t = f s := by
  by_cases c : n < s.par.nFunc
  · rw [atFn_built f c] at h; cases h; exact ⟨c, rfl⟩
  · rw [atFn_unbuilt f c] at h; cases h

/-! ### What every operation keeps -/

/-- t has the integration and the queue of s, and its part tables are canonical where those of s are. -/
structure Keeps (s t : State) : Prop where
  par : t.par = s.par
  pending : t.pending = s.pending
  canon : s.canon = true → t.canon = true

theorem Keeps.refl (s : State) : Keeps s s := ⟨rfl, rfl, id⟩

theorem Keeps.trans {s t u : State} (h : Keeps s t) (g : Keeps t u) : Keeps s u :=
  ⟨g.par.trans h.par, g.pending.trans h.pending, fun c => g.canon (h.canon c)⟩

/-- Nothing of the part tables written. -/
theorem Keeps.of_eq {s t : State} (hp : t.par = s.par) (hq : t.pending = s.pending) (h1 : t.slices = s.slices)
    (h2 : t.shims = s.shims) (h3 : t.ports = s.ports) (h4 : t.fns = s.fns) : Keeps s t :=
  ⟨hp, hq, fun h => (State.canon_of_eq hp h1 h2 h3 h4).trans h⟩

theorem keeps_updSlice (s : State) (n : Nat) (f : Slice → Slice) : Keeps s (s.updSlice n f) := ⟨rfl, rfl, State.canon_updSlice n f⟩
theorem keeps_updShim (s : State) (n : Nat) (f : Shim → Shim) : Keeps s (s.updShim n f) := ⟨rfl, rfl, State.canon_updShim n f⟩
theorem keeps_updPort (s : State) (n : Nat) (f : Port → Port) : Keeps s (s.updPort n f) := ⟨rfl, rfl, State.canon_updPort n f⟩
theorem keeps_updFn (s : State) (n : Nat) (f : Fn → Fn) : Keeps s (s.updFn n f) := ⟨rfl, rfl, State.canon_updFn n f⟩
theorem keeps_updSpine (s : State) (f : Spine → Spine) : Keeps s (s.updSpine f) := .of_eq rfl rfl rfl rfl rfl rfl
theorem keeps_updHall (s : State) (f : Hallmark → Hallmark) : Keeps s (s.updHall f) := .of_eq rfl rfl rfl rfl rfl rfl
theorem keeps_updProt (s : State) (f : Protect → Protect) : Keeps s (s.updProt f) := .of_eq rfl rfl rfl rfl rfl rfl
theorem keeps_emit (s : State) (o : Out) : Keeps s (s.emit o) := .of_eq rfl rfl rfl rfl rfl rfl
theorem keeps_send (s : State) (m : Msg) : Keeps s (s.send m) := .of_eq rfl rfl rfl rfl rfl rfl
theorem keeps_sendAll (s : State) (l : List Msg) : Keeps s (s.sendAll l) := .of_eq rfl rfl rfl rfl rfl rfl
theorem keeps_takeMesh (s : State) (m : Msg) : Keeps s (s.takeMesh m) := .of_eq rfl rfl rfl rfl rfl rfl
theorem keeps_wire (s : State) (w : Wire) : Keeps s (s.wire w) := .of_eq rfl rfl rfl rfl rfl rfl
theorem keeps_takeWire (s : State) (w : Wire) : Keeps s (s.takeWire w) := .of_eq rfl rfl rfl rfl rfl rfl
theorem keeps_setBkt (s : State) (n b : Nat) (e : BktEntry) : Keeps s (s.setBkt n b e) := keeps_updSlice ..
theorem keeps_setMaster (s : State) (b : Nat) (e : MasterEntry) : Keeps s (s.setMaster b e) := keeps_updSpine ..
theorem keeps_setBmap (s : State) (sh b : Nat) (e : BMapEntry) : Keeps s (s.setBmap sh b e) := keeps_updShim ..

/-- A choice between two operations. -/
theorem Keeps.ite {s t u : State} {c : Prop} [Decidable c] (ht : Keeps s t) (hu : Keeps s u) : Keeps s (if c then t else u) := by
  split
  · exact ht
  · exact hu

/-- An operation repeated. -/
theorem keeps_eachOf {α : Type} (l : List α) (f : α → State → State) (h : ∀ x s, Keeps s (f x s)) (s : State) :
    Keeps s (eachOf l f s) := by
  induction l generalizing s with
  | nil => exact .refl s
  | cons x r ih => exact (h x s).trans (ih (f x s))

/-- An invariant of the operation repeated. -/
theorem eachOf_inv {α : Type} (P : State → Prop) (l : List α) (f : α → State → State) (h : ∀ x s, P s → P (f x s)) (s : State)
    (hs : P s) : P (eachOf l f s) := by
  induction l generalizing s with
  | nil => exact hs
  | cons x r ih => exact ih (f x s) (h x s hs)

@[simp] theorem eachOf_nil {α : Type} (f : α → State → State) (s : State) : eachOf [] f s = s := rfl
@[simp] theorem eachOf_cons {α : Type} (x : α) (l : List α) (f : α → State → State) (s : State) :
    eachOf (x :: l) f s = eachOf l f (f x s) := rfl

/-! ### Mirrored writes, times and shims -/

theorem keeps_setSlice (s : State) (n : Nat) (x : Slice) : Keeps s (s.setSlice n x) := keeps_updSlice s n fun _ => x

/-- All that a mirrored write can do: it goes out, one of at most 32, or it waits behind the others. -/
theorem mirrorSend_cases (n : Nat) (key : Bool × Nat × Nat) (w : Wire) (s : State) :
    (s.slice n).mirrored.length < 32 ∧ (s.slice n).mirrorQ = [] ∧
      mirrorSend n key w s = (s.setSlice n { s.slice n with mirrored := (s.slice n).mirrored ++ [key] }).wire w ∨
    (32 ≤ (s.slice n).mirrored.length ∨ (s.slice n).mirrorQ ≠ []) ∧
      mirrorSend n key w s = s.setSlice n { s.slice n with mirrorQ := (s.slice n).mirrorQ ++ [(key, w)] } := by
  simp only [mirrorSend]
  split
  · next h => left; simpa [and_assoc] using h
  · next h =>
    refine .inr ⟨?_, rfl⟩
    by_cases hl : (s.slice n).mirrored.length < 32
    · exact .inr fun e => h (by simp [hl, e])
    · exact .inl (Nat.le_of_not_lt hl)

theorem keeps_mirrorSend (n : Nat) (key : Bool × Nat × Nat) (w : Wire) (s : State) : Keeps s (mirrorSend n key w s) := by
  rcases mirrorSend_cases n key w s with ⟨_, _, e⟩ | ⟨_, e⟩ <;> rw [e]
  · exact (keeps_setSlice ..).trans (keeps_wire ..)
  · exact keeps_setSlice ..

/-- All that the turn of the waiting mirrored writes can do: nothing, or the oldest goes out, one of at most 32. -/
theorem mirrorNext_cases (n : Nat) (s : State) :
    mirrorNext n s = s ∨ ∃ x r, (s.slice n).mirrorQ = x :: r ∧ (s.slice n).mirrored.length < 32 ∧
      mirrorNext n s = (s.setSlice n { s.slice n with mirrored := (s.slice n).mirrored ++ [x.1], mirrorQ := r }).wire x.2 := by
  cases h : (s.slice n).mirrorQ with
  | nil => left; simp [mirrorNext, h]
  | cons x r =>
    by_cases hl : (s.slice n).mirrored.length < 32
    · exact .inr ⟨x, r, rfl, hl, by simp [mirrorNext, h, hl]⟩
    · left; simp [mirrorNext, h, hl]

theorem keeps_mirrorNext (n : Nat) (s : State) : Keeps s (mirrorNext n s) := by
  rcases mirrorNext_cases n s with e | ⟨x, r, _, _, e⟩ <;> rw [e]
  · exact .refl s
  · exact (keeps_setSlice ..).trans (keeps_wire ..)

theorem keeps_tellTime (ts : W64) (s : State) : Keeps s (tellTime ts s) := by
  simp only [tellTime]
  split
  · exact keeps_updHall ..
  · exact .refl s

theorem keeps_shimsForget (n : Nat) (s : State) : Keeps s (shimsForget n s) :=
  keeps_eachOf _ _ (fun sh s => by
    dsimp only
    split
    · exact keeps_updShim ..
    · exact .refl s) s

/-! ### Feeds, modes and faults -/

/-- All that a record handed to a feed can do: nothing, a place in the feed, or a count. -/
theorem feed_cases (s : State) (node : Nat) (r : HRec) :
    s.feed node r = s ∨
    (mget [] s.hall.feeds node).length < 8 ∧
      s.feed node r = s.updHall (fun h => { h with feeds := mput [] h.feeds node (mget [] h.feeds node ++ [r]) }) ∨
    8 ≤ (mget [] s.hall.feeds node).length ∧
      s.feed node r = s.updHall (fun h =>
        { h with feedLoss := mput {} h.feedLoss node ((mget {} h.feedLoss node).add r (s.destsOf r)) }) := by
  simp only [State.feed]
  split
  · exact .inl rfl
  · split
    · next h => exact .inr (.inl ⟨h, rfl⟩)
    · next h => exact .inr (.inr ⟨Nat.le_of_not_lt h, rfl⟩)

theorem keeps_feed (s : State) (node : Nat) (r : HRec) : Keeps s (s.feed node r) := by
  rcases feed_cases s node r with e | ⟨_, e⟩ | ⟨_, e⟩ <;> rw [e]
  · exact .refl s
  · exact keeps_updHall ..
  · exact keeps_updHall ..

/-- A record writes nothing but the recorder. -/
theorem feed_frame (s : State) (node : Nat) (r : HRec) :
    (s.feed node r).slices = s.slices ∧ (s.feed node r).shims = s.shims ∧ (s.feed node r).ports = s.ports ∧
    (s.feed node r).fns = s.fns ∧ (s.feed node r).spine = s.spine ∧ (s.feed node r).mesh = s.mesh ∧
    (s.feed node r).wires = s.wires ∧ (s.feed node r).out = s.out ∧ (s.feed node r).par = s.par ∧
    (s.feed node r).pending = s.pending := by
  rcases feed_cases s node r with e | ⟨_, e⟩ | ⟨_, e⟩ <;> rw [e] <;> simp

theorem slice_feed (s : State) (node n : Nat) (r : HRec) : (s.feed node r).slice n = s.slice n := by
  simp only [State.slice, feed_frame]

theorem keeps_setConds (s : State) (n : Nat) (f : Conds → Conds) : Keeps s (s.setConds n f) := by
  simp only [State.setConds]
  split
  · exact keeps_updSlice ..
  · exact (keeps_updSlice ..).trans (keeps_feed ..)

/-- Conditions changed: the slice's conditions are the new ones, and its other fields stay. -/
theorem slice_setConds {s : State} (n : Nat) (f : Conds → Conds) (h : s.canon = true) :
    (s.setConds n f).slice n = { s.slice n with conds := f (s.slice n).conds } := by
  simp only [State.setConds]
  split
  · exact State.slice_updSlice_same n _ h
  · rw [slice_feed]; exact State.slice_updSlice_same n _ h

theorem keeps_trigger (src : Nat) (s : State) : Keeps s (s.trigger src) := by
  simp only [State.trigger]
  split
  · exact keeps_updHall s fun h => { h with fatalDue := h.fatalDue + 1 }
  · exact .refl s

theorem keeps_endSequence (s : State) : Keeps s (endSequence s) := by
  simp only [endSequence]
  split
  · exact .refl s
  · exact keeps_updSpine ..

theorem keeps_holdSlice (n : Nat) (s : State) : Keeps s (holdSlice n s) := by
  simp only [holdSlice]
  split
  · exact .refl s
  · split
    · exact ((keeps_setConds ..).trans (keeps_updSpine ..)).trans (keeps_endSequence _)
    · exact (keeps_setConds ..).trans (keeps_updSpine ..)

theorem keeps_raiseSlice (n src : Nat) (d : Detail) (s : State) : Keeps s (raiseSlice n src d s) := by
  unfold raiseSlice
  refine (keeps_trigger src s).trans ?_
  generalize s.trigger src = s
  dsimp only
  split
  · exact ((keeps_updSlice ..).trans (keeps_feed ..)).trans (keeps_holdSlice ..)
  · exact (keeps_updSlice ..).trans (keeps_feed ..)

theorem keeps_ackUpds (sh : Nat) (s : State) : Keeps s (ackUpds sh s) := by
  simp only [ackUpds]
  exact (keeps_eachOf _ _ (fun _ _ => keeps_wire ..) s).trans (keeps_updShim ..)

theorem keeps_raiseShim (sh src : Nat) (d : Detail) (s : State) : Keeps s (raiseShim sh src d s) := by
  unfold raiseShim
  refine (keeps_trigger src s).trans ?_
  generalize s.trigger src = s
  dsimp only
  split
  · exact ((keeps_updShim ..).trans (keeps_feed ..)).trans ((keeps_updShim ..).trans (keeps_ackUpds ..))
  · exact (keeps_updShim ..).trans (keeps_feed ..)

theorem keeps_raiseSpine (part : BitVec 9) (src : Nat) (d : Detail) (s : State) : Keeps s (raiseSpine part src d s) := by
  unfold raiseSpine
  exact (keeps_trigger src s).trans ((keeps_updSpine ..).trans (keeps_feed ..))

/-! ### Commands and jobs -/

theorem keeps_completeCmd (fn idx : Nat) (code : BitVec 8) (result : Nat) (s : State) : Keeps s (completeCmd fn idx code result s) := by
  simp only [completeCmd]
  split
  · exact .refl s
  · split
    · exact (keeps_updFn ..).trans (keeps_updFn ..)
    · exact (keeps_updFn ..).trans (keeps_feed ..)

theorem keeps_updJob (s : State) (id : Nat) (f : JobKind → JobKind) : Keeps s (s.updJob id f) := keeps_updSpine ..
theorem keeps_addJob (s : State) (cmd : Option (Nat × Nat)) (k : JobKind) : Keeps s (s.addJob cmd k).1 :=
  .of_eq rfl rfl rfl rfl rfl rfl
theorem keeps_dropJob (s : State) (id : Nat) : Keeps s (s.dropJob id) := keeps_updSpine ..

theorem keeps_finishJob (id : Nat) (code : BitVec 8) (result : Nat) (s : State) : Keeps s (finishJob id code result s) := by
  simp only [finishJob]
  split
  · exact .refl s
  · split
    · exact (keeps_dropJob ..).trans (keeps_completeCmd ..)
    · exact keeps_dropJob ..

/-- All that the start of a ring command can do: nothing, while it may not start or waits; the refusal of its form or of its right;
its work, on the state in which it is marked started. -/
theorem startCmd_cases (fn idx opc : Nat) (go : Taken → State → Option State) (s : State) :
    startCmd fn idx opc go s = s ∨ ∃ k, s.taken fn idx = some k ∧ k.opc.toNat = opc ∧ s.canStart fn k = true ∧
      (k.formOk = false ∧ startCmd fn idx opc go s = completeCmd fn idx ccBADOP 0 s ∨
       k.formOk = true ∧ s.mayRun fn opc = false ∧
         startCmd fn idx opc go s = completeCmd fn idx ccDENIED 0 (cmdDenied fn k s) ∨
       k.formOk = true ∧ s.mayRun fn opc = true ∧
         startCmd fn idx opc go s = (go k (s.begin fn idx)).getD s) := by
  cases hk : s.taken fn idx with
  | none => left; simp [startCmd, hk]
  | some k =>
    simp only [startCmd, hk]
    split
    · exact .inl rfl
    · next h =>
      right
      simp only [Bool.or_eq_true, bne_iff_ne, ne_eq, Bool.not_eq_true', not_or, not_not, Bool.not_eq_false] at h
      refine ⟨k, rfl, h.1, h.2, ?_⟩
      split
      · next h2 => exact .inl ⟨by simpa using h2, rfl⟩
      · next h2 =>
        split
        · next h3 => exact .inr (.inl ⟨by simpa using h2, by simpa using h3, rfl⟩)
        · next h3 => exact .inr (.inr ⟨by simpa using h2, by simpa using h3, rfl⟩)

end Sys2Proof.Machine
end

