-- ==== Sys2Proof/Tests/Slice0.lean ====
section
/-! SUPPORT. The model's own tests: terms the well-formedness check refuses, the worked examples of the spec,
and for every statement with hypotheses a state and operands that meet all of them together. -/

namespace Sys2Proof.Tests
open Sys2Proof.Machine

set_option Elab.async false

/-! States the witnesses share. -/
/-- The block right after reset. -/
abbrev z : State := State.reset
/-- Slice 3 and function 2 as a step found them. -/
def zBusy : State :=
  (z.updSlice 3 fun x => { x with us := 9 }).updShim 7 fun x => { x with st := .admitted, neg := 2 }
def zNmi : State := z.updSpine fun sp => { sp with nmi := some (0x141#9, 3), crstDue := true, nmiLost := 2 }
/-- Function f answers its BARs, may write to the host and has the spine's register view. -/
def up (f : Nat) (s : State) : State :=
  s.updFn f fun x => { x with busMaster := true, memSpace := true, regview := 2 }
def zUp : State := up 0 (up 2 z)
/-- A ring of function 2 set up. -/
def ringUp (i : RingId) (r : Ring) (s : State) : State := updRing 2 i (fun _ => r) s
def zRings : State :=
  ringUp .cmd { base := 16, log2 := 6, en := true, pidx := 3, cidx := 2 } <|
  ringUp .cpl { base := 32, log2 := 8, en := true, pidx := 9, cidx := 7 } <|
  ringUp .evt { base := 48, log2 := 7, en := true, pidx := 5, cidx := 5 } <| zUp
def openVec (f v : Nat) (s : State) : State := s.updFn f fun x => x.setVec v { addr := 0xFEE00000, data := 7, mask := false }
/-- Host addresses of function 2's next ring entries. -/
def cmdAt (s : State) : W64 := (s.hostAddr 2 ((s.fn 2).cmd.entryAddr (s.fn 2).cmd.cidx 64) false).getD 0
def cplAt (s : State) : W64 := (s.hostAddr 2 ((s.fn 2).cpl.entryAddr (s.fn 2).cpl.pidx 16) true).getD 0
def hrec0 : HRec := { hrec 0x300 0 (sliceNode 3) 5 6 0 with ts := 77, seq := 12, dest := 5, pend := 4 }
/-- Bytes lo to lo + len - 1 of a word with value v. -/
def wordOf (l : List (Nat × Nat)) : BitVec 512 := BitVec.ofNat 512 (l.foldl (fun v x => v + x.2 * 2 ^ (8 * x.1)) 0)
/-- Function f has taken one command, with the bytes named. -/
def taking (f opc : Nat) (l : List (Nat × Nat)) (s : State) : State :=
  s.updFn f fun x => { x with taken := [{ idx := 0, ring := 0, desc := wordOf ((0, opc) :: (2, 0xBEEF) :: l) }], nextCmd := 1 }
/-- Its record, as the statements name it. -/
def cmdOf (s : State) (f : Nat) : Taken := ((s.fn f).taken.head?).getD { idx := 0, ring := 0, desc := 0 }
/-- An address of bucket b (b below 4096): PA[20:9] is b and nothing above is set. -/
def inB (b : Nat) : PA := BitVec.ofNat 52 (512 * b)
/-- Function f owns every page up to 2^26 (Range Guard entry 0 with every colour). -/
def owning (f : Nat) (s : State) : State :=
  s.updProt fun p => { p with rg := [(0, { valid := true, owner := f, colours := 0xFFFF, base := 0, limit := 0x3FFF })] }
def atcE (f : Nat) (page : W64) (lock : Bool) : AtcEntry :=
  { fn := f, page, sizeLog2 := 12, tpage := 0x5000, read := true, write := true, lock }
def withAtc (l : List AtcEntry) (s : State) : State := s.updSpine fun sp => { sp with atc := l }
def withJobs (l : List Job) (s : State) : State := s.updSpine fun sp => { sp with jobs := l, nextJob := 9 }
def ats (f : Nat) (s : State) : State := s.updFn f fun x => { x with ats := true }
def phase (n : Nat) (p : Phase) (s : State) : State := s.updSlice n fun x => { x with conds := { x.conds with phase := p } }
def trk (n t : Nat) (k : Tracker) (s : State) : State := s.updSlice n (·.putTrk t k)
def tk (kind : TKind) (a : PA) : Tracker := { kind, pool := .shared, age := 0, src := 5, rqtx := 9, addr := a }
def adm (l : List Nat) (n : Nat) (s : State) : State := s.updSlice n fun x => { x with adm := l.map fun a => (a, 3) }
/-- A fine entry of a line stored at slice n. -/
def fineIn (n : Nat) (a : PA) (w : Nat) (e : FineEntry) (s : State) : State :=
  s.updSlice n fun x => x.putFine (fineSet a) w (encFine (e.withTag a))
def mesh (m : Msg) (s : State) : State := { s with mesh := [m] }
def wires (l : List Wire) (s : State) : State := { s with wires := l }
def zLow : State := z.updFn 2 fun x => { x with busMaster := true, memSpace := true }
def zFeed : State := (z.feed 0x143 hrec0).feed 0x143 {hrec0 with p0 := 1}
def zTok : State := z.updHall fun h => (h.setBucket 0x300 {h.bucket 0x300 with tokens := 15}).setBucket 0x102 {h.bucket 0x102 with tokens := 0, count := 4, first := 1, last := 9, dest := 3}
def zEvt : State := openVec 2 1 (zRings.updHall fun h => {h with buf := [{hrec0 with seq := 1, pend := 1}, hrec0, {hrec0 with seq := 13}]})
def zGasp : State := zEvt.updHall fun h => {h with lgEn := true, lgFunc := 2, lgBase := 64}
def zFl : State := zGasp.updHall fun h => {h with flush := some {reason := 1, recs := List.replicate 17 hrec0, written := 0, start := 5}}
def zFl2 : State := zGasp.updHall fun h => {h with flush := some {reason := 1, recs := List.replicate 17 hrec0, written := 16, start := 5}}
def zSq : State := setHalf 2 (.latched 0x10D8 5) (zUp.updHall fun h => {h with sq := [1,2], sqLeft := 2})
def zRdy : State := trk 3 0 { (tk (.msg .rdShare) (inB 67)) with stage := .ready } z
def zOff : State := (zRings.updFn 2 fun x => {x with cmd := {x.cmd with en := false, stop := true, cause := 3}, cpl := {x.cpl with en := false}, evt := {x.evt with en := false}})
def dn : Done := {idx := 0, ring := 2, tag := 7, code := 3, opc := 0x22, result := 9, intr := false}
def zPend (m fm : Bool) : State := zUp.updFn 2 fun x => { (x.setVec 63 { addr := 5, data := 1, mask := m, pending := true }).setVec 4 {mask := m, pending := true} with functionMask := fm}
def zFlr : State := (taking 2 0x22 [] (zRings.updFn 2 fun x => {x with done := [dn], wtt := [(0,{valid := true})], wtid := 5})).updSpine fun sp => {sp with atc := [{fn := 2, page := 0, sizeLog2 := 12, tpage := 0, read := true, write := true, lock := true},{fn := 1, page := 0, sizeLog2 := 12, tpage := 0, read := true, write := true, lock := true}], jobs := [{id := 1, cmd := some (2,0), kind := .restore}], prot := {sp.prot with proposals := [{pid := 1, fn := 2, digest := 5, seq := 1, bytes := []}]}}
def zTm : State := taking 0 0x38 [(16,24),(8,0x4000)] zUp
def zT5 : State := taking 0 0x38 [(5,24),(8,0x4000)] zUp
def zTd : State := taking 1 0x38 [(16,24),(8,0x4000)] zUp
def zNop : State := taking 1 0 [] z
def zRes : State := taking 1 0x7F [(9,1)] z
def zTo : State := taking 0 0x22 [(8,1000),(10,0),(12,10000)] z
def zAn : State := taking 0 0x21 [(8,1),(9,2),(10,1000),(12,10),(14,10000)] z
def zMs : State := taking 0 0x23 [(8,1)] z
def zMc : State := taking 0 0x23 [] z
def zHcl : State := taking 0 0x24 [(8,0x300),(10,7),(11,1),(12,65535)] z
def zHc : State := taking 0 0x24 [(8,0x300),(10,7),(12,65535)] z
def zWs : State := taking 2 0x25 [] z
def zAl (l : List AtcEntry) : State := withAtc l (ats 2 (up 2 (taking 2 0x3A [(8,0x1234),(16,3)] z)))
def zAl8 : State := zAl (List.replicate 8 (atcE 2 0x3000 true))
def zUn (l : List AtcEntry) : State := withAtc l (taking 2 0x3B [(8,0x1FFF)] z)
def zSt : State := taking 0 0x3F [(8,0x10000),(16,2^67)] zUp
def zCr : State := taking 0 0x30 [(8,67),(16,0x10080)] zUp
def zFl5 (opc start len : Nat) : State := taking 2 opc [(8,start),(16,len)] z
def zRj : State := withJobs [{id := 4, cmd := some (2,0), kind := .range .clean 0x600 0x640 1 2 false []}] (owning 2 (zFl5 2 0x600 0x40))
def zCe (l : List Job): State := withJobs l (owning 2 (taking 2 4 [(8,0),(16,0x400),(24,15)] z))
def zLr (md : Nat) : State := owning 2 ((taking 2 5 ([(8,0x600),(16,md)] ++ if md = 0 then [(24,0x8000)] else []) (up 2 z)).updFn 2 fun x => {x with rights := 0x1FF})
def zLn : State := owning 3 (zLr 1)
def zBm (b t e : Nat) : State := taking 0 0x10 [(8,b),(10,t),(11,e)] z
def zSa : State := phase 60 .retain (taking 0 0x13 [(8,67)] z)
def zSc : State := taking 0 0x12 [(8,0),(9,67)] z
def zSe : State := taking 0 0x11 [(8,3)] z
def zSr : State := taking 0 0x14 [(8,67)] z
def img : List Byte := let l (c : BitVec 32) := bytesOf (0xABCD#32) 4 ++ [1, 3, 7, 0, 16, 0, 0, 0] ++ bytesOf c 4; l (crc32 (l 0))
def zRl : State := taking 0 0x18 [(8,67),(9,3),(16,0x8000),(24,16)] (up 0 z)
def zRs : State := (((z.setShdBank 67 3 (bankOf img)).updSlice 67 fun x => {x with recipe := some {engines := [3], digests := [], current := some 3}}))
def zTc (f h : Nat) : State := taking 0 0x20 [(8,f),(9,h)] z
def calRec (n : Nat) : List Byte := calRecord {trims := 5, mofs := 7, atom := 1, data := 2, nodata := 3, lookup := 4, scan := 5, leak := 6, written := false} n
def zCw : State := taking 0 0x31 [(8,3),(16,0x8000)] (up 0 z)
def zCa : State := (withJobs [{id := 4, cmd := some (0,0), kind := .calWrite 3}] zCw).updSpine fun s => {s with dvfsHeld := some 1}
def rgItem : List Byte := [3,0,32,0, 1,5,1,0, 255,255,0,0,0,0,0,0] ++ bytesOf (0x1000#64) 8 ++ bytesOf (0x2FFF#64) 8
def rec1 : List Byte := [1,0,1,0,1,0,0,0, 0,0,0,0,0,0,0,0] ++ rgItem
def zTm5 (d : BitVec 256) : State := taking 0 0x38 [(8,0x8000),(16,rec1.length),(24,d.toNat)] (up 0 z)
def prop1 : Proposal := {pid := 7, fn := 0, digest := sha256 rec1, seq := 1, bytes := rec1}
def zCm (d : BitVec 256) (pid : Nat) : State := (taking 1 0x39 [(8,pid),(24,d.toNat)] z).updProt fun p => {p with proposals := [{prop1 with pid := 8}, prop1]}
def zLk : State := z.updSpine fun s => {s with setup := true}
def zAa (sh : Nat) : State := taking 0 0x28 [(8,sh),(10,15),(11,7)] zLk
def zAd (sh neg : Nat) : State := (withJobs [{id := 4, cmd := some (0,0), kind := .agentAdmit sh}] (zAa sh)).updShim sh fun x => {x with st := .admitting, mapLoaded := true, neg, cap := 7, allow := 5, func := 15}
def q1 : QMsg := {m := {op := .rdOwn, src := 5, rqtx := 3, addr := inB 67, dst := sliceNode 3}}
def zAdm (sh : Nat) (s : State) : State := (s.updShim sh fun x => {x with st := .admitted, admittedPin := true, neg := 3, cap := 7, allow := 7, func := 2, mapLoaded := true, reqQ := [q1], wbkQ := [q1], rspQ := [q1], outst := [{rqtx := 3, op := .rdOwn, bucket := 67, seq := 0, built := some 0},{rqtx := 4, op := .rdOwn, bucket := 68, seq := 1, built := some 1}], seq := 2, drains := [{rqtx := 5, held := none, seq := 1}]}).updSlices fun _ sl => if isCaching sh then { sl with adm := mins sl.adm sh 3 } else sl
def zAr (sh : Nat) : State := zAdm sh (taking 0 0x29 [(8,sh)] zLk)
def zFd (sh : Nat) : State := (zAdm sh zLk).updShim sh fun x => {x with st := .fenced, retireDue := true}
def rj (sh p : Nat) : Job := {id := 4, cmd := some (0,0), kind := .agentRetire sh p false}
def zRe (sh p : Nat) : State := withJobs [rj sh p] ((zAr sh).updShim sh fun x => {x with st := .fenced, reqQ := [], wbkQ := [], drains := []})
def seedTo (n : Nat) (x : SeedNext) (s : State) : State := s.updSlice n fun sl => {sl with conds := {phase := .seed, seedNext := x}}
def zSaj : State := seedTo 67 .track (withJobs [{id := 4, cmd := some (0,0), kind := .admitSlice 67}] (taking 0 0x14 [(8,67)] z))
def zHold (n : Nat) : State := (phase n .hold z).updSpine fun s => {s with salvageQ := [n]}
def sv (l : List Nat) : Salvage := {slice := 63, ports := l}
def zSv (l : List Nat) : State := (((zHold 63).updSpine fun s => {s with salvage := some (sv l), salvageQ := []}).updPort 15 fun p => {p with notices := [63]}).updPort 3 fun p => {p with notices := [63], halves := [{src := sliceNode 63, slot := 2, addr := some 0x40, body := none}]}
def rdy (b : Nat) : Tracker := {tk (.msg .rdOnce) (inB b) with stage := .ready}
def zStl : State := (List.range 8).foldl (fun s i => trk 3 i (rdy 67) s) (z.updSlice 3 fun x => {x with idleFor := [(0,256)]})
def stl : Steal := {bucket := 67, victim := 1, thief := 0, why := .idle}
def zStl2 : State := zStl.updSlice 3 fun x => {x with steal := some stl}
def mv67 : Mv := {b := 67, target := 5, engine := 2}
def sc67 : Scan := {kind := .move, stop := 12288, pos := 12288, period := 1, moves := [mv67]}
def zFlip : State := ((z.setBkt 3 67 {kind := .frozen, engine := 1, gen := 63}).updSlice 3 fun x => {x with scans := [sc67], conds := {x.conds with pMove := true}}).setBkt 5 67 {incoming := true}
def zFlip' : State := (zFlip.updShim 4 fun x => {x with st := .admitted, mapLoaded := true, neg := 2}).setMaster 67 {slice := 3, engine := 1, gen := 63, moving := true}
def zAck : State := (wires [.mapAck 4 67 5] z).setMaster 67 {slice := 5, engine := 2, gen := 5, unacked := [4,9]}
def scPu : Scan := {kind := .purge, stop := 12288, pos := 12288, period := 1}
def zPu : State := (withJobs [{id := 4, cmd := some (0,0), kind := .move 3 67 5 9 false}] (taking 0 0x10 [(8,67),(10,5),(11,2)] z)).updSlice 3 fun x => {x with scans := [scPu]}
def a67 : PA := inB 67
def e67 : FineEntry := ({} : FineEntry).setX 5 |>.withTag a67
def set67 : Nat := fineSet a67
def cf (mir : Bool) : Wire := .copyFine 3 5 set67 15 0 (encFine e67) true mir
def cr : Wire := .copyRefuse 5 3 set67 false (encFine e67)
def zCr7 : State := fineIn 3 a67 9 e67 (wires [cr] z)
def eA : FineEntry := ({ ({} : FineEntry) with hstate := hsS, anvil := true } : FineEntry).withTag a67
def zMs7 (p : Nat) : State := (adm [5] 3 (fineIn 3 a67 9 e67 (fineIn 3 (inB 66) 3 e67 z))).updSlice 3 fun x => {x with scans := [{sc67 with pos := p}], conds := {x.conds with pMove := true}}
def zDw : State := z.updSlice 3 fun x => {x with fineDising := 1, loafDising := 1, scans := [{kind := .disable, pos := 12544, stop := 12544, period := 1, fineW := 1, loafW := 0, hlcW := 0}]}
def zTy : State := ((withJobs [{id := 4, cmd := some (0,0), kind := .tray 8 4 [3] []}] (taking 0 0x20 [(8,8),(9,4)] z)).updSlice 3 fun x => {x with scans := [{kind := .tray, pos := 8448, stop := 8448, period := 1}], conds := {x.conds with pTray := true}})
def scRc : Scan := {kind := .recolour, pos := 12544, stop := 12544, period := 1}
def zRc : State := ((withJobs [{id := 4, cmd := some (1,0), kind := .countermark 7 [3] []}] (taking 1 0x39 [(8,7)] z)).updSlice 3 fun x => {x with scans := [scRc]})
def zRc2 : State := zRc.updSpine fun sp => {sp with jobs := [{id := 4, cmd := some (1,0), kind := .countermark 7 [3,5] []}]}
def zTy2 : State := zTy.updSpine fun sp => {sp with jobs := [{id := 4, cmd := some (0,0), kind := .tray 8 4 [3,5] []}]}
def zTp : State := ((z.updSlice 3 fun x => {x with temper := {x.temper with occSum := 90, occN := 4, latSum := 10000000, latN := 3}}).updSlice 2 fun x => {x with temper := {x.temper with occSum := 900, occN := 4, latSum := 10, latN := 3}}).updSpine fun s => {s with temper := {s.temper with ratio := 9}}
def zAe : State := (z.updSlice 3 fun x => {x with conds := {x.conds with bLost := true}}).updSpine fun s => {s with autoEvac := [3,9]}
def zAct : State := (zRc.updSpine fun sp => {sp with jobs := [{id := 4, cmd := some (1,0), kind := .countermark 7 [3] [(5, [(2, sha256 [1,2,3])])]}]}).setShdBank 5 2 {valid := true, image := [1,2,3], lcp := 3}
def zMs8 (p : Nat) : State := (adm [5] 3 (fineIn 3 a67 9 e67 (fineIn 3 (inB 66) 3 e67 z))).updSlice 3 fun x => {x with scans := [{sc67 with pos := p}], conds := {x.conds with pMove := true}}
def admS (sh rev : Nat) (s : State) : State := s.updShim sh fun x => {x with st := .admitted, admittedPin := true, neg := rev, cap := 7, allow := 7, func := 2, mapLoaded := true}
def mO : Msg := {op := .rdOwn, rqtx := 3, addr := a67, tid := 7, src := 1, dst := 2}
def mW : Msg := {op := .wbDirty, rqtx := 3, addr := a67, tid := 7}
def mSD : Msg := {op := .snDone, htrk := 3, dst := sliceNode 3, sub := 1, aux := 0}
def mWB : Msg := {op := .datWb, htrk := 3, dst := sliceNode 3, rqtx := 3, data := 77, be := BitVec.allOnes 32}
def zFull8 : State := (admS 207 3 z).updShim 207 fun x => {x with reqQ := List.replicate 32 {m := mO}}
def mST : Msg := {op := .stashTake, htrk := 3, dst := sliceNode 3}
def q (m : Msg) (w : Nat) : QMsg := {m, wait := w}
def zI (f : Shim → Shim) : State := (admS 207 3 z).updShim 207 f
def mSeal : Msg := {op := .seal, dst := agentNode 207}
def mG : Msg := {op := .grant, dst := agentNode 207, src := sliceNode 67, rqtx := 3, sub := 2}
def out1 : Outst := {rqtx := 3, op := .wrFull, bucket := 67, seq := 0, built := some 0}
def dr : Drain := {rqtx := 5, held := none, seq := 1}
def drS : Drain := {dr with sent := true, waiting := [67], bits := 1}
def mGd : Msg := {op := .grant, dst := agentNode 207, src := sliceNode 67, rqtx := 5}
def mu : Wire := .mapUpdate 207 67 5 2 1 true
def ls : Wire := .lostNotice 207 67 [3, 9]
def zAr8 : State := zI fun x => {x with reqQ := [q mO 0], wbkQ := [q mW 0], rspQ := [q mSD 0], drains := [dr], outst := [out1]}
def mH : Msg := {mO with src := 5, dst := sliceNode 3, tid := 7}
def at3 (s : State) : State := mesh mH (adm [5] 3 s)
def mH1 : Msg := {mH with gen := 63}
def mD : Msg := {op := .drainW, src := 5, dst := sliceNode 3, rqtx := 8}
def kCh : Tracker := {tk (.msg .rdOnce) a67 with stage := .chain, age := 1}
def kR (op : Op) : Tracker := {tk (.msg op) a67 with stage := .ready}
def dec (op : Op) (s : State) : State := trk 3 4 (kR op) (adm [5,6] 3 s)
def fx : FineEntry := ({} : FineEntry).setX 6
def mrt0 (s : State) : State := s.updSpine fun sp => {sp with setup := true, mrt := [(0,{valid := true, cntlog := 4, first := 0, base := 0, limit := 0x3FFFFF})]}
def stray (m : Msg) : Msg := {m with htrk := 200, dst := sliceNode 3, src := 5}
def zS (m : Msg) : State := mesh (stray m) (adm [5] 3 z)
def mMD : Msg := {op := .memDat, htrk := 200, dst := sliceNode 3, src := portNode 15, data := 99, be := BitVec.allOnes 32}
def live (k : Tracker) : Tracker := {k with stage := .live}
def kSn : Tracker := live {tk (.msg .rdOwn) a67 with round := {all := [(6,.snOwn)], sent := [6]}, rdone := false, snoopTimer := true}
def mS6 : Msg := {op := .snDone, htrk := 200, dst := sliceNode 3, src := 6, sub := 0, aux := 0}
def kWf : Tracker := live {tk (.msg .wrFull) a67 with waitDat := true, ans := some (.grant, 0)}
def mWf : Msg := {op := .datWb, htrk := 200, rqtx := 9, dst := sliceNode 3, src := 5, sub := 4, data := 77, be := BitVec.allOnes 32, poison := true}
def kSl : Tracker := live {tk (.msg .rdShare) a67 with ans := some (.datX, lsE), waitSeal := true, sealTimer := true, resv := .way 9, colour := 3}
def mSl : Msg := {op := .seal, htrk := 200, rqtx := 9, dst := sliceNode 3, src := 5}
def kSt : Tracker := live {tk (.msg .wrStash) a67 with waitStash := true, stashTimer := true, peer := 6, round := {sent := [6]}, buf := some (55, true), rdone := false}
def mTk : Msg := {op := .stashTake, htrk := 200, dst := sliceNode 3, src := 6}
def mRf : Msg := {op := .stashRefuse, htrk := 200, dst := sliceNode 3, src := 6}
def kMd : Tracker := live {tk (.msg .rdOnce) a67 with memNode := some (portNode 15), memTimer := true, give := .line .datS lsI, start := 0}
def zMd : State := (trk 3 200 kMd (mesh mMD (adm [5,6] 3 (mrt0 z)))).updSlice 3 fun x => {x with rdCredits := [((portNode 15).toNat, 3)]}
def mbE : MbEntry := {st := .opened, line := a67, target := portNode 15, mask := 0xFF, data := 99, poison := true}
def zMb : State := z.updSlice 63 fun x => ({x with hclk := 100}).putMb 31 {mbE.seal with age := 32}
def mAk : Msg := {op := .memAck, htrk := 31, dst := sliceNode 67, src := portNode 15}
def tray (s : State) : State := (mrt0 s).updSpine fun sp => {sp with trayEn := true, trayFt := 8, trayHt := 4, trayBase := 1, traySeg := [(0,{valid := true, slice := 3}),(63,{valid := true, slice := 5})]}
def aT (seg off : Nat) : PA := BitVec.ofNat 52 (2^26 + seg * 2^20 + off)
def mTr (off : Nat) : Msg := {op := .memRd, htrk := 9, dst := sliceNode 3, src := sliceNode 7, addr := aT 0 off}
def zTr (off : Nat) (l : TrayLine) : State := let s := mesh (mTr off) (tray z)
  match s.trayPlace (aT 0 off) with | some p => s.updSlice 3 fun x => x.putTray p l | none => s
def mWd : Msg := {op := .memWd, htrk := 9, dst := sliceNode 3, src := sliceNode 7, bmask := 0xF0F, data := 0x112233445566778899AABBCCDDEEFF, be := beOf 0xF0F}
def zTw : State := mesh mWd ((zTr 64 {data := BitVec.allOnes 512}).updSlice 3 fun x => {x with trayHalves := [{src := sliceNode 7, slot := 9, addr := some (aT 0 64), body := none}]})
def zSb : State := (zTr 64 {data := 5, cw := [.good, .single]}).updSlice 3 fun x => {x with arr := {x.arr with trayScrub := 1}}
def cen : Census := {bucket := 67}
def zCs : State := (adm [5,6,207] 3 z).updSlice 3 fun x => {x with census := [cen], conds := {x.conds with lCensus := true}, adm := [(5,3),(6,1),(207,2)]}
def cen2 (l : List Nat) : Census := {bucket := 67, started := true, waiting := l}
def kWk (l : List Nat) : Tracker := {tk (.walk 67) 67 with stage := .live, src := sliceNode 3, round := {sent := l}, rdone := false, snoopTimer := true}
def zWk (l : List Nat) (m : Msg) : State := trk 3 200 (kWk l) ((mesh m zCs).updSlice 3 fun x => {x with census := [cen2 l]})
def mCn (b : Nat) (st : BitVec 3) : Msg := {op := .cnsLine, src := 6, dst := sliceNode 3, htrk := 200, addr := inB b, sub := st}
def eU : FineEntry := {hstate := hsU, sfmt := true, shr := fmt1 0 (2 : BitVec 16)}
def kT (k : TKind) : Tracker := live {tk k a67 with round := {all := [(6,.snOwn)], sent := [6]}, rdone := false, snoopTimer := true}
def ev1 : Evict := {isLoaf := false, fine := fx.withTag (inB 66), lines := [{line := inB 66, round := {sent := [6]}}], timer := true}
def kEv : Tracker := live {tk .evictOnly a67 with evict := some ev1}
def zAi : State := fineIn 3 a67 9 {hstate := hsS, anvil := true} z
def mRp (l : PA) : Msg := {op := .memRd, src := sliceNode 67, dst := portNode 15, htrk := 9, addr := l}
def pw : PortWrite := {src := sliceNode 67, slot := 3, line := a67, data := 5, mask := 3, poison := false, issued := true}
def mMw : Msg := {op := .memWr, src := sliceNode 67, dst := portNode 15, htrk := 9, addr := a67}
def mPd : Msg := {op := .memWd, src := sliceNode 67, dst := portNode 15, htrk := 9, bmask := 0xF0F, be := beOf 0xF0F, data := 99, poison := true}
def pr : PortRead := {src := sliceNode 67, htrk := 9, line := a67, issued := true}
def mTi : Msg := {op := .tlbInvReq, src := 5, dst := spineNode, rqtx := 8, tid := 3, data := 77, be := 0xFFFF, poison := true}
def rel (i : Nat) (l : List Nat) : Relay := {issuer := i, rqtx := 8, payload := 77, poison := false, targets := l}
def zR (l : List (Nat × Relay)) (m : Msg) : State := (admS 256 1 (admS 6 2 (admS 5 3 (mesh m z)))).updSpine fun sp => {sp with relay := l}
def mTa : Msg := {op := .tlbAck, src := 6, dst := spineNode, htrk := 63}
def mTs : Msg := {op := .tlbSync, src := 5, dst := spineNode, rqtx := 9}
def zWi (v : Bool) : State := owning 2 ((up 2 z).updFn 2 fun x => {x with wtt := [(0,{valid := v, rd := true, wr := true, len := 1, tbase := 0})], wtid := 5, winRqtx := 1023})
def op1 (w : Bool) : WinOp := {line := a67, write := w, data := 99, mask := if w then 0xF0 else 0, off := 60, len := 4}
def wr1 (w : Bool) : WinReq := {num := 0, write := w, ops := [op1 w]}
def zWa (w : Bool) (m : Msg) : State := mesh m ((zWi true).updFn 2 fun x => {x with win := [wr1 w], winCount := 1, winSt := .sent 5})
def mDs : Msg := {op := .datS, src := sliceNode 3, dst := fnNode 2, htrk := 9, rqtx := 5, data := BitVec.allOnes 512, be := BitVec.allOnes 32, poison := true}
def mGr : Msg := {op := .grant, src := sliceNode 3, dst := fnNode 2, htrk := 9, rqtx := 5}
def mRe : Msg := {op := .rest, src := sliceNode 3, dst := fnNode 2, rqtx := 5, aux := 2}
def mA : Msg := {op := .rdOwn, rqtx := 3, addr := a67, tid := 7, src := 1, dst := 2}
def zCrst : State := zNmi.updHall fun h => {h with flush := some {reason := 1, recs := [], start := 0}}
def zFeed11 : State := (z.feed 0x143 hrec0).feed 0x144 {hrec0 with p0 := 1}
def zRt : State := zUp.updFn 2 fun x => {x.setVec 5 {addr := 0xFEE00000, data := 7, mask := false, pending := true} with notReady := true, functionMask := true}
def zPj : State := (withJobs [{id := 4, cmd := some (0,0), kind := .calWrite 67}] (taking 0 0x31 [(8,67)] (up 0 (phase 67 .off z)))).updSpine fun s => {s with pwr := setBit s.pwr 67 false}
def qm (m : Msg) (w : Nat) : QMsg := {m, wait := w}
def mPf : Msg := {mA with op := .pfHint}
def zSh (f : Shim → Shim) : State := z.updShim 207 f
def dec12 (op : Op) (s : State) : State := trk 3 4 (kR op) (adm [5,6,7,40,207] 3 s)
def zM : State := mrt0 z
def fE : FineEntry := {}
/-- A loaf of the line's region at slice n. -/
def loafIn (n : Nat) (a : PA) (w : Nat) (l : LoafEntry) (s : State) : State :=
  s.updSlice n fun x => x.putLoaf (loafSet a) w (encLoaf { l with ltag := loafTag a })
def lfC : LoafEntry := {lstate := lfClean, pres := setBit 0 (lineInLoaf a67) true, gvec := groupVec [6,40]}
def lfO : LoafEntry := {lfC with lstate := lfOwner}
def lfU : LoafEntry := {lfC with lstate := lfUnknown}
def hlcIn (n : Nat) (a : PA) (w : Nat) (d : Line) (pin : Bool) (s : State) : State :=
  s.updSlice n fun x => (x.putHlc (hlcSet a) w {tagw := encHlc (hlcTag a) true d, data := d}).putFlags (hlcSet a) w pin false
def noM (k : Tracker) : Tracker := { k with masks := {fine := 0, loaf := 0, hlc := 0} }
def decN (k : Tracker) : State := trk 3 4 k (adm [5,6,7,40,207] 3 zM)
def kS (op : Op) (ns : Bool) : Tracker := {kR op with soft := true, noSoft := ns}
def decS (op : Op) (ns : Bool) (s : State) : State := trk 3 4 (kS op ns) (adm [5,6,7,40,207] 3 s)
def fAn : FineEntry := {hstate := hsI, anvil := true}
def zAv (s : State) : State := (hlcIn 3 a67 5 77 true (fineIn 3 a67 9 fAn s)).updShim 5 fun x => {x with st := .admitted, admittedPin := true, neg := 3, cap := 7, allow := 7, func := 2, mapLoaded := true}
def kAt : Tracker := {kR .atomOp with addr := a67 + 8, sub := 3, aux := 0, operand := 5}
def zPf : State := dec12 .pfHint zM
def loafIn13 (n : Nat) (a : PA) (w : Nat) (l : LoafEntry) (s : State) : State :=
  s.updSlice n fun x => x.putLoaf (loafSet a) w (encLoaf { l with ltag := loafTag a })
def bD : PA := a67 + BitVec.ofNat 52 (2^31 + 2^18)
def cD : PA := a67 + BitVec.ofNat 52 (2^32 + 2^20)
def kM (op : Op) (f l : Nat) : Tracker :=
  {tk (.msg op) a67 with stage := .ready, masks := {fine := BitVec.ofNat 16 f, loaf := BitVec.ofNat 8 l, hlc := 255}}
def decM (k : Tracker) (s : State) : State := trk 3 4 k (adm [5,6,7,40,207] 3 s)
def kSl13 (r : Resv) (h : Bool) : Tracker := live {tk (.msg .rdOwn) a67 with ans := some (.datX, lsE), waitSeal := true, sealTimer := true, resv := r, colour := 3, hold := h}
def kSc (r : Resv) (h : Bool) : Tracker := {kSl13 r h with look := {res := .coarseS}}
def agent3 (s : State) : State := s.updShim 5 fun x => { x with st := .admitted, neg := 3 }
def sl (k : Tracker) (s : State) : State := trk 3 200 k (mesh mSl (adm [5,6] 3 (agent3 s)))
def mWf13 (p : Bool) : Msg := {op := .datWb, htrk := 200, rqtx := 9, dst := sliceNode 3, src := 5, sub := 4, data := 77, be := BitVec.allOnes 32, poison := p}
def wf (p : Bool) (s : State) : State := trk 3 200 kWf (mesh (mWf13 p) (adm [5,6] 3 s))
def kPf : Tracker := live {tk (.msg .pfHint) a67 with memNode := some (portNode 15), memTimer := true, pfWay := some 5}
def srst1 : SrcCfg := {sev := 2, intr := false, nmi := false, srst := true, crst := false, exterr := false}
def zSr14 (n : Nat) (s : State) : State := raiseSlice n 1 {} (s.updSpine fun sp => {sp with srcCfg := mput (srcDefault 1) sp.srcCfg 1 srst1})
def zFeed14 : State := (z.feed 0x143 hrec0).feed 0x144 {hrec0 with p0 := 1}
def rq (s : State) : State := (ats 2 s).updFn 2 fun x => {x with transReqs := [(0x300000, false)], specReqs := [(0x700000, false)]}
def rfAt : W64 := ((ats 2 zRings).fn 2).cmd.entryAddr ((ats 2 zRings).fn 2).cmd.cidx 64
def zRf (b : Bool) (st : BitVec 4) : State := (ats 2 zRings).updFn 2 fun x => {x with transFails := [(transKey rfAt false, (b, st))]}
def svT : Salvage := {slice := 67, ports := [15]}
def zTk (ks : List (Nat × Tracker)) (s : State) : State :=
  ((((phase 67 .hold s).setBkt 67 67 {kind := .owned, engine := 1, gen := 5}).setBkt 3 67 {}).updSpine fun sp => {sp with salvage := some svT}).updPort 15 (fun p => {p with notices := [67]}) |>.updSlice 67 fun x => {x with trk := ks}
def fTk : FineEntry := ({} : FineEntry).setX 5 |>.withTag a67
def kDat : Tracker := {tk (.msg .wbDirty) a67 with stage := .live, waitDat := true}
def kLive : Tracker := {tk (.msg .rdOwn) a67 with stage := .live}
def zTk1 (k : Tracker) : State := fineIn 0 a67 9 fTk (zTk [(4,k)] z)
def kAtN : Tracker := {tk (.msg .atomOp) a67 with stage := .ready}
def kRdy : Tracker := {tk (.msg .rdOwn) a67 with stage := .ready}
def s67 : Nat := fineSet a67
def zMq : State := (wires [.copyAck 5 3 s67 false 67] z).updSlice 3 fun x => {x with mirrored := List.replicate 32 (false,s67,67), mirrorQ := [((false,s67,66), .copyFine 3 5 s67 2 0 0 false true)]}
def zSh14 (s : State) : State := s.updSlice 3 fun x => {x with temper := {x.temper with slow := true, lat := 800, sinceShed := 9, bktLast := [(67,4),(131,9)]}}

/-! IdleStepIsTimeAlone -/
theorem wit_IdleStepIsTimeAlone_1 : (z.canon = true) ∧ (z.pending = []) := by decide

/-! StepKeepsInvariant -/
def StepKeepsInvariant_1_s : State := {zBusy with pending := [.seedEnd 5]}
theorem wit_StepKeepsInvariant_1 : (StepKeepsInvariant_1_s.Inv) ∧ (∃ t, step StepKeepsInvariant_1_s = Host.Outcome.next t) := ⟨by (repeat' apply And.intro) <;> decide +kernel, _, rfl⟩

/-! WellFormedQueueNeverStops -/
def WellFormedQueueNeverStops_1_s : State := {zBusy with pending := [.seedEnd 5]}
theorem wit_WellFormedQueueNeverStops_1 : (WellFormedQueueNeverStops_1_s.Inv) := by (repeat' apply And.intro) <;> first | decide +kernel | exact fun _ => rfl | (intro b h; cases h) | (intro b h; exact absurd h (by decide +kernel))

/-! SpinePinRows -/
theorem wit_SpinePinRows_5 : (z.dvfsHigh = false) ∧ (3 < z.par.nDvfs) ∧ (z.applying = false) := by decide
theorem wit_SpinePinRows_6 : (z.dvfsHigh = false) ∧ (z.par.nDvfs ≤ 4) := by decide
def SpinePinRows_7_s : State := (z.updSpine fun sp => {sp with dvfsTaken := true})
theorem wit_SpinePinRows_7 : (SpinePinRows_7_s.spine.dvfsTaken = true) := by decide
theorem wit_SpinePinRows_8 : (z.spine.dvfsTaken = false) := by decide
theorem wit_SpinePinRows_10 : (zBusy.canon = true) ∧ (7 < 8) := by decide

/-! SliceFaults -/
theorem wit_SliceFaults_1 : (zBusy.canon = true) ∧ (28 < 64) := by decide

/-! SpinePinRows -/
def SpinePinRows_11_s : State := ((z.updSpine fun sp => {sp with jobs := [{id := 1, cmd := none, kind := .calWrite 3}]}).updSlice 3 fun x => {x with conds := {x.conds with pCal := true}})
theorem wit_SpinePinRows_11 : (SpinePinRows_11_s.dvfsHigh = false) ∧ (3 < SpinePinRows_11_s.par.nDvfs) ∧ (SpinePinRows_11_s.applying = true) := by decide

/-! SliceFaults -/
theorem wit_SliceFaults_5 : (67 < z.par.nSlice) ∧ (7 < 8) ∧ ((z.slice 67).conds.phase ≠ Phase.off) := by decide
theorem wit_SliceFaults_6 : (z.canon = true) ∧ (67 < z.par.nSlice) := by decide

/-! SummaryLevels -/
def SummaryLevels_1_s : State := (raiseSlice 3 0x1C {} z)
theorem wit_SummaryLevels_1 : (SummaryLevels_1_s.par.hasPart 323 = true) ∧ (323 ∉ SummaryLevels_1_s.spine.episodes) ∧ (bit (SummaryLevels_1_s.rises 323) 5 = false) := by decide
theorem wit_SummaryLevels_4 : (z.par.wiredPart 323 = true) ∧ ((z.injOf 323).source ≠ 101#8) ∧ (5 % 64 ≠ 0) ∧ (323 ∉ z.spine.episodes) := by decide
def SummaryLevels_7_s : State := (z.updSpine fun sp => {sp with episodes := [4,0x143]})
theorem wit_SummaryLevels_7 : (SummaryLevels_7_s.par.wiredPart 323 = true) ∧ ((SummaryLevels_7_s.injOf 323).source ≠ 101#8) ∧ (323 ∈ SummaryLevels_7_s.spine.episodes) := by decide
def SummaryLevels_9_s : State := (z.updSpine fun sp => {sp with episodes := [4,0x143]})
theorem wit_SummaryLevels_9 : (SummaryLevels_9_s.par.wiredPart 323 = true) ∧ ((SummaryLevels_9_s.injOf 323).source ≠ 101#8) := by decide

/-! HallmarkBuffer -/
def HallmarkBuffer_1_l : List HRec := [{hrec0 with p0 := 1}]
theorem wit_HallmarkBuffer_1 : (zFeed.par.hasPart 323 = true) ∧ (zFeed.hall.pwrFail = false) ∧ (zFeed.hall.fatalDue = 0) ∧ (mget [] zFeed.hall.feeds 323 = hrec0 :: HallmarkBuffer_1_l) ∧ (zFeed.hall.nextFeed = some 323) ∧ (zFeed.codeOff hrec0.code.toNat = false) ∧ (hmExempt hrec0.code = false) ∧ (hrec0.sev.toNat < 2) ∧ (0 < (zFeed.hall.bucket hrec0.code.toNat).tokens) ∧ (zFeed.hall.buf.length < 4096) ∧ (mget { } zFeed.hall.feedLoss 323 = { }) ∧ (∀ (f : ℕ), (zFeed.fn f).lostRecs = 0) := by (repeat' apply And.intro) <;> first | decide +kernel | exact fun _ => rfl | (intro b h; cases h) | (intro b h; exact absurd h (by decide +kernel))
theorem wit_HallmarkBuffer_2 : (hmListed 768 = true) ∧ (3 < 768) ∧ (768 < 4096) ∧ ((zTok.hall.bucket 768).tokens < (zTok.hall.bucket 768).burst) ∧ ((zTok.hall.bucket 768).count = 0) := by decide
theorem wit_HallmarkBuffer_3 : ((z.hall.bucket 768).burst ≤ (z.hall.bucket 768).tokens) := by decide
theorem wit_HallmarkBuffer_4 : (hmListed 258 = true) ∧ (3 < 258) ∧ (258 < 4096) ∧ (hmSec 258 = false) ∧ (zTok.tablesRise = true) ∧ (zTok.hall.pwrFail = false) ∧ (zTok.hall.buf.length < 4096) ∧ (zTok.codeOff 1 = false) ∧ ((zTok.hall.bucket 258).tokens < (zTok.hall.bucket 258).burst) ∧ ((zTok.hall.bucket 258).count ≠ 0) := by decide

/-! HallmarkOutputs -/
theorem wit_HallmarkOutputs_1 : (zEvt.canon = true) ∧ (2 < zEvt.par.nFunc) ∧ (2 < 16) ∧ (List.find? (fun o => bit o.pend 2) zEvt.hall.buf = some hrec0) ∧ ((zEvt.fn 2).evt.en = true) ∧ ((zEvt.fn 2).evt.stop = false) ∧ ((zEvt.fn 2).evt.full = false) ∧ ((zEvt.fn 2).up = true) ∧ (∀ (f : ℕ), (zEvt.fn f).lostRecs = 0) := by (repeat' apply And.intro) <;> first | decide +kernel | exact fun f => mget_all (p := fun x : Fn => x.lostRecs = 0) (d := Fn.initial f) (m := zEvt.fns) rfl (by decide +kernel) f
theorem wit_HallmarkOutputs_2 : (zEvt.canon = true) ∧ (zEvt.hall.pwrFail = false) ∧ (zEvt.hall.flush = none) ∧ (zEvt.hall.buf.length < 4096) := by decide
def HallmarkOutputs_4_x : Flush := {reason := 1, recs := List.replicate 17 hrec0, written := 0, start := 5}
theorem wit_HallmarkOutputs_4 : (zFl.hall.flush = some HallmarkOutputs_4_x) ∧ (zFl.hall.pwrFlush = false) ∧ ((zFl.fn zFl.hall.lgFunc).up = true) ∧ (HallmarkOutputs_4_x.written + 16 < HallmarkOutputs_4_x.recs.length) := by decide
def HallmarkOutputs_5_x : Flush := {reason := 1, recs := List.replicate 17 hrec0, written := 16, start := 5}
theorem wit_HallmarkOutputs_5 : (zFl2.hall.flush = some HallmarkOutputs_5_x) ∧ (zFl2.hall.pwrFlush = false) ∧ ((zFl2.fn zFl2.hall.lgFunc).up = true) ∧ (HallmarkOutputs_5_x.recs.length ≤ HallmarkOutputs_5_x.written + 16) := by decide
def HallmarkOutputs_6_s : State := (zFeed.updHall fun h => {h with pwrFail := true})
theorem wit_HallmarkOutputs_6 : (HallmarkOutputs_6_s.par.hasPart 323 = true) ∧ (HallmarkOutputs_6_s.hall.pwrFail = true) ∧ (HallmarkOutputs_6_s.hall.fatalDue = 0) := by decide

/-! RegisterAccesses -/
theorem wit_RegisterAccesses_1 : (zUp.canon = true) ∧ (2 < zUp.par.nFunc) ∧ (zUp.reads 2 4096 = true) ∧ (zUp.regAt 2 4096 = some (Reg.spnId, false)) ∧ (4096 % 4 = 0) ∧ (4096 < 65536) ∧ (false = false) ∧ (Reg.spnId.wide = true) ∧ (4096 % 8 = 0) ∧ ((zUp.fn 2).half = HalfAcc.none) := by decide
theorem wit_RegisterAccesses_2 : (zUp.canon = true) ∧ (2 < zUp.par.nFunc) ∧ (zUp.reads 2 4104 = true) ∧ (zUp.regAt 2 4104 = some (Reg.spnRev, false)) ∧ (4104 % 4 = 0) ∧ (4104 < 65536) ∧ (Reg.spnRev.wide = false) ∧ ((zUp.fn 2).half = HalfAcc.none) := by decide
theorem wit_RegisterAccesses_3 : (zUp.canon = true) ∧ (2 < zUp.par.nFunc) ∧ (zUp.reads 2 4096 = true) ∧ (zUp.regAt 2 4096 = some (Reg.spnId, false)) ∧ (4096 % 4 = 0) ∧ (4096 < 65536) ∧ (false = false) ∧ (Reg.spnId.wide = true) ∧ ((zUp.fn 2).half = HalfAcc.none) := by decide
def RegisterAccesses_5_s : State := (setHalf 2 (.latched 0x1000 5) zUp)
theorem wit_RegisterAccesses_5 : (RegisterAccesses_5_s.canon = true) ∧ (2 < RegisterAccesses_5_s.par.nFunc) ∧ (RegisterAccesses_5_s.reads 2 4100 = true) ∧ (RegisterAccesses_5_s.regAt 2 4100 = some (Reg.spnId, true)) ∧ (4100 % 4 = 0) ∧ (4100 < 65536) ∧ (true = true) ∧ ((RegisterAccesses_5_s.fn 2).half = HalfAcc.latched (4100 - 4) (5 : BitVec 32)) := by decide
theorem wit_RegisterAccesses_7 : ((setHalf 2 .none zSq).canon = true) ∧ (2 < (setHalf 2 .none zSq).par.nFunc) ∧ ((setHalf 2 .none zSq).reads 2 4312 = true) ∧ ((setHalf 2 .none zSq).regAt 2 4312 = some (Reg.sqData, false)) ∧ (4312 % 4 = 0) ∧ (4312 < 65536) ∧ (false = false) ∧ (Reg.sqData = Reg.sqData) ∧ (4312 % 8 = 0) ∧ (((setHalf 2 .none zSq).fn 2).half = HalfAcc.none) := by decide
def RegisterAccesses_12_r : Reg := (.ringBase .cmd)
theorem wit_RegisterAccesses_12 : (zUp.canon = true) ∧ (2 < zUp.par.nFunc) ∧ (zUp.regAt 2 256 = some (RegisterAccesses_12_r, false)) ∧ (256 % 8 = 0) ∧ (256 < 65536) ∧ ((zUp.fn 2).half = HalfAcc.none) ∧ (zUp.writes 2 256 = true) ∧ (RegisterAccesses_12_r.wide = true) := by decide
def RegisterAccesses_13_r : Reg := (.ringBase .cmd)
theorem wit_RegisterAccesses_13 : (zUp.canon = true) ∧ (2 < zUp.par.nFunc) ∧ (zUp.regAt 2 256 = some (RegisterAccesses_13_r, false)) ∧ (256 % 8 = 0) ∧ (256 < 65536) ∧ ((zUp.fn 2).half = HalfAcc.none) ∧ (zUp.writes 2 256 = true) ∧ (RegisterAccesses_13_r.wide = true) ∧ (zUp.regAt 2 (256 + 4) = some (RegisterAccesses_13_r, true)) := by decide
theorem wit_RegisterAccesses_27 : (zUp.canon = true) ∧ (2 < zUp.par.nFunc) ∧ (zUp.regAt 2 4104 = some (Reg.spnRev, false)) ∧ (4104 % 8 = 0) ∧ (4104 < 65536) ∧ ((zUp.fn 2).half = HalfAcc.none) ∧ (zUp.writes 2 4104 = true) ∧ (Reg.spnRev.wide = false) := by decide

/-! ProtectedFieldsHold -/
def ProtectedFieldsHold_1_r : Reg := (.colourMask 0)
theorem wit_ProtectedFieldsHold_1 : (ProtectedFieldsHold_1_r.rwt &&& (0xFF : W64) ≠ 0) := by decide

/-! RegisterAccesses -/
theorem wit_RegisterAccesses_30 : (zUp.canon = true) ∧ (2 < zUp.par.nFunc) ∧ ((zUp.fn 2).bars = true) ∧ ((zUp.fn 2).win = []) ∧ ((zUp.fn 2).winSt = WinSt.idle) ∧ (zUp.noSync = true) ∧ (aligned 264 4 = true) ∧ (264 < 4096) ∧ (bellAt 264 = none ∨ (zUp.fn 2).half = HalfAcc.none) := by decide
theorem wit_RegisterAccesses_31 : (zUp.canon = true) ∧ (2 < zUp.par.nFunc) ∧ ((zUp.fn 2).bars = true) ∧ ((zUp.fn 2).win = []) ∧ ((zUp.fn 2).winSt = WinSt.idle) ∧ (zUp.noSync = true) ∧ (aligned 266 4 = false) ∧ (266 < 65536) := by decide
def RegisterAccesses_32_r : Reg := (.rg 0 false)
theorem wit_RegisterAccesses_32 : (zLow.canon = true) ∧ (2 < zLow.par.nFunc) ∧ (zLow.regAt 2 8192 = some (RegisterAccesses_32_r, false)) ∧ (8192 % 8 = 0) ∧ (8192 < 65536) ∧ ((zLow.fn 2).half = HalfAcc.none) := by decide

/-! SliceFaults -/
theorem wit_SliceFaults_7 : (3 < zRdy.par.nSlice) ∧ (1 < 4) ∧ ((zRdy.slice 3).serving = true) ∧ (zRdy.readyOf 3 1 ≠ 0) := by decide

/-! SpineRegisterRows -/
theorem wit_SpineRegisterRows_1 : (zUp.canon = true) ∧ (2 < zUp.par.nFunc) ∧ (zUp.writes 2 4112 = true) ∧ (4112 % 8 = 0) ∧ (4112 < 65536) ∧ ((zUp.fn 2).half = HalfAcc.none) ∧ (4112 = 4112) ∧ (bit (1 : W64) 0 = true) := by decide
theorem wit_SpineRegisterRows_2 : (zUp.canon = true) ∧ (2 < zUp.par.nFunc) ∧ (zUp.writes 2 4608 = true) ∧ (4608 % 8 = 0) ∧ (4608 < 65536) ∧ ((zUp.fn 2).half = HalfAcc.none) ∧ (4608 = 4608 + 8 * 0) ∧ (0 < 64) := by decide
def SpineRegisterRows_10_s : State := (raiseSpine 0x1F0 0x61 {} zUp)
theorem wit_SpineRegisterRows_10 : (SpineRegisterRows_10_s.canon = true) ∧ (2 < SpineRegisterRows_10_s.par.nFunc) ∧ (SpineRegisterRows_10_s.writes 2 4240 = true) ∧ (4240 % 8 = 0) ∧ (4240 < 65536) ∧ ((SpineRegisterRows_10_s.fn 2).half = HalfAcc.none) ∧ (SpineRegisterRows_10_s.regAt 2 4240 = some (Reg.first PartId.spine false, false)) ∧ (bit (1 : W64) 0 = true) := by decide
def SpineRegisterRows_12_s : State := (raiseSlice 67 0x1C {} (zUp.updFn 2 fun x => {x with indIndex := 67}))
def SpineRegisterRows_12_p : PartId := (.slice 67)
theorem wit_SpineRegisterRows_12 : (SpineRegisterRows_12_s.canon = true) ∧ (2 < SpineRegisterRows_12_s.par.nFunc) ∧ (SpineRegisterRows_12_s.writes 2 16424 = true) ∧ (16424 % 8 = 0) ∧ (16424 < 65536) ∧ ((SpineRegisterRows_12_s.fn 2).half = HalfAcc.none) ∧ (SpineRegisterRows_12_s.regAt 2 16424 = some (Reg.status SpineRegisterRows_12_p, false)) := by decide
def SpineRegisterRows_14_s : State := (zUp.updFn 2 fun x => {x with indIndex := 67})
def SpineRegisterRows_14_p : PartId := (.slice 67)
theorem wit_SpineRegisterRows_14 : (SpineRegisterRows_14_s.canon = true) ∧ (2 < SpineRegisterRows_14_s.par.nFunc) ∧ (SpineRegisterRows_14_s.writes 2 16448 = true) ∧ (16448 % 8 = 0) ∧ (16448 < 65536) ∧ ((SpineRegisterRows_14_s.fn 2).half = HalfAcc.none) ∧ (SpineRegisterRows_14_s.regAt 2 16448 = some (Reg.inj SpineRegisterRows_14_p, false)) := by decide
theorem wit_SpineRegisterRows_17 : (zUp.canon = true) ∧ (2 < zUp.par.nFunc) ∧ (zUp.writes 2 4216 = true) ∧ (4216 % 8 = 0) ∧ (4216 < 65536) ∧ ((zUp.fn 2).half = HalfAcc.none) ∧ (4216 = 4216) := by decide

/-! RingControl -/
theorem wit_RingControl_1 : (zOff.canon = true) ∧ (2 < zOff.par.nFunc) ∧ ((zOff.fn 2).bars = true) ∧ ((zOff.fn 2).half = HalfAcc.none) ∧ ((zOff.fn 2).room true 4 = true) := by decide
theorem wit_RingControl_4 : (zRings.canon = true) ∧ (2 < zRings.par.nFunc) ∧ ((zRings.fn 2).bars = true) ∧ ((zRings.fn 2).half = HalfAcc.none) ∧ ((zRings.fn 2).room true 4 = true) := by decide
def RingControl_5_s : State := (taking 2 0x22 [] zRings)
theorem wit_RingControl_5 : (RingControl_5_s.canon = true) ∧ (2 < RingControl_5_s.par.nFunc) ∧ ((RingControl_5_s.fn 2).bars = true) ∧ ((RingControl_5_s.fn 2).half = HalfAcc.none) ∧ ((RingControl_5_s.fn 2).room true 4 = true) ∧ (bit (0x5 : W64) 8 = false) ∧ ((RingControl_5_s.fn 2).cpl.en = true) ∧ (∃ k ∈ (RingControl_5_s.fn 2).taken, k.orphan = false) := by decide
def RingControl_7_s : State := (zOff.updFn 2 fun x => {x with evt := {x.evt with stop := true, cause := 2}})
theorem wit_RingControl_7 : (RingControl_7_s.canon = true) ∧ (2 < RingControl_7_s.par.nFunc) ∧ ((RingControl_7_s.fn 2).bars = true) ∧ ((RingControl_7_s.fn 2).half = HalfAcc.none) ∧ ((RingControl_7_s.fn 2).room true 4 = true) := by decide

/-! Doorbells -/
theorem wit_Doorbells_1 : (zRings.canon = true) ∧ (2 < zRings.par.nFunc) ∧ ((zRings.fn 2).bars = true) ∧ ((zRings.fn 2).room true 4 = true) ∧ ((zRings.fn 2).cmd.en = true) ∧ ((4 : BitVec 32).toNat < (zRings.fn 2).cmd.span) ∧ ((zRings.fn 2).cmd.ahead (zRings.fn 2).cmd.cidx (4 : BitVec 32).toNat ≤ (zRings.fn 2).cmd.size) := by decide
theorem wit_Doorbells_3 : (zRings.canon = true) ∧ (2 < zRings.par.nFunc) ∧ ((zRings.fn 2).bars = true) ∧ ((zRings.fn 2).room true 4 = true) ∧ ((zRings.fn 2).cpl.en = true) ∧ ((9 : BitVec 32).toNat < (zRings.fn 2).cpl.span) ∧ ((zRings.fn 2).cpl.ahead (zRings.fn 2).cpl.cidx (9 : BitVec 32).toNat ≤ (zRings.fn 2).cpl.count) := by decide
def Doorbells_4_s : State := (zRings.updFn 2 fun x => {x with evt := {x.evt with pidx := 9}})
theorem wit_Doorbells_4 : (Doorbells_4_s.canon = true) ∧ (2 < Doorbells_4_s.par.nFunc) ∧ ((Doorbells_4_s.fn 2).bars = true) ∧ ((Doorbells_4_s.fn 2).room true 4 = true) ∧ ((Doorbells_4_s.fn 2).evt.en = true) ∧ ((9 : BitVec 32).toNat < (Doorbells_4_s.fn 2).evt.span) ∧ ((Doorbells_4_s.fn 2).evt.ahead (Doorbells_4_s.fn 2).evt.cidx (9 : BitVec 32).toNat ≤ (Doorbells_4_s.fn 2).evt.count) := by decide
theorem wit_Doorbells_6 : (zRings.canon = true) ∧ (2 < zRings.par.nFunc) := by decide

/-! RingTraffic -/
theorem wit_RingTraffic_1 : (zRings.canon = true) ∧ (2 < zRings.par.nFunc) ∧ ((zRings.fn 2).canFetch = true) ∧ (zRings.hostAddr 2 ((zRings.fn 2).cmd.entryAddr (zRings.fn 2).cmd.cidx 64) false = some (cmdAt zRings)) ∧ ((hostCheck 2 (cmdAt zRings) false zRings).1 = true) ∧ ((hostCheck 2 (cmdAt zRings) false zRings).2 = zRings) := by decide
def RingTraffic_7_s : State := (openVec 2 0 (zRings.updFn 2 fun x => {x with done := [dn, dn]}))
def RingTraffic_7_l : List Done := [dn]
def RingTraffic_7_hostAt : W64 := (cplAt (openVec 2 0 (zRings.updFn 2 fun x => {x with done := [dn, dn]})))
theorem wit_RingTraffic_7 : (RingTraffic_7_s.canon = true) ∧ (2 < RingTraffic_7_s.par.nFunc) ∧ ((RingTraffic_7_s.fn 2).done = dn :: RingTraffic_7_l) ∧ ((RingTraffic_7_s.fn 2).cpl.en = true) ∧ ((RingTraffic_7_s.fn 2).cpl.stop = false) ∧ ((RingTraffic_7_s.fn 2).cpl.full = false) ∧ ((RingTraffic_7_s.fn 2).up = true) ∧ (RingTraffic_7_s.hostAddr 2 ((RingTraffic_7_s.fn 2).cpl.entryAddr (RingTraffic_7_s.fn 2).cpl.pidx 16) true = some RingTraffic_7_hostAt) ∧ ((hostCheck 2 RingTraffic_7_hostAt true RingTraffic_7_s).1 = true) ∧ ((hostCheck 2 RingTraffic_7_hostAt true RingTraffic_7_s).2 = RingTraffic_7_s) := by decide

/-! FunctionConfiguration -/
theorem wit_FunctionConfiguration_1 : ((zPend true false).canon = true) ∧ (2 < (zPend true false).par.nFunc) ∧ (63 < 64) ∧ (((zPend true false).fn 2).up = true) ∧ ((((zPend true false).fn 2).vec 63).pending = true) ∧ (((zPend true false).fn 2).functionMask = false) := by decide
theorem wit_FunctionConfiguration_2 : ((zPend false true).canon = true) ∧ (2 < (zPend false true).par.nFunc) ∧ (63 < 64) ∧ (((zPend false true).fn 2).up = true) ∧ ((((zPend false true).fn 2).vec 63).pending = true) ∧ ((((zPend false true).fn 2).vec 63).mask = false) ∧ (((zPend false true).fn 2).notReady = false) ∧ ((zPend false true).spine.ready = true) := by decide
theorem wit_FunctionConfiguration_3 : ((zPend false true).canon = true) ∧ (2 < (zPend false true).par.nFunc) ∧ (63 < 64) ∧ (((zPend false true).fn 2).up = true) ∧ ((((zPend false true).fn 2).vec 63).pending = true) ∧ (((zPend false true).fn 2).functionMask = true) := by decide
theorem wit_FunctionConfiguration_4 : ((zPend true true).canon = true) ∧ (2 < (zPend true true).par.nFunc) ∧ (63 < 64) ∧ (((zPend true true).fn 2).up = true) ∧ ((((zPend true true).fn 2).vec 63).pending = true) ∧ ((((zPend true true).fn 2).vec 63).mask = true) ∧ (((zPend true true).fn 2).notReady = false) ∧ ((zPend true true).spine.ready = true) := by decide
def FunctionConfiguration_5_s : State := (openVec 2 5 (z.updFn 2 fun x => {x with heldMsix := [5, 6], taken := [{idx := 0, ring := 0, desc := 0}]}))
theorem wit_FunctionConfiguration_5 : (FunctionConfiguration_5_s.canon = true) ∧ (2 < FunctionConfiguration_5_s.par.nFunc) := by decide

/-! FunctionLevelReset -/
theorem wit_FunctionLevelReset_1 : (zFlr.canon = true) ∧ (2 < zFlr.par.nFunc) ∧ ((List.map (fun x => x.id) zFlr.spine.jobs).Nodup) := by decide

/-! Translations -/
def Translations_1_s : State := ((ats 2 (withAtc [atcE 2 0x1000 true, atcE 2 0x3000 false] z)).updFn 2 fun x => {x with transReqs := [(0x1000, true)]})
theorem wit_Translations_1 : (2 < Translations_1_s.par.nFunc) ∧ ((Translations_1_s.fn 2).ats = true) ∧ ((Translations_1_s.fn 2).requested (0x1234 : W64) true false = true) ∧ ((if true = true then true else true) = true) := by decide
def Translations_4_s : State := ((ats 2 z).updFn 2 fun x => {x with transReqs := [(0x300000, false)]})
theorem wit_Translations_4 : (2 < Translations_4_s.par.nFunc) ∧ ((Translations_4_s.fn 2).ats = true) ∧ ((Translations_4_s.fn 2).requested (0x300234 : W64) false false = true) ∧ ((if false = true then true else false) = false) := by decide
theorem wit_Translations_5 : (2 < (ats 2 z).par.nFunc) ∧ (((ats 2 z).fn 2).ats = true) ∧ (Translation.poisoned = Translation.unsupportedRequest ∨ Translation.poisoned = Translation.completerAbort ∨ Translation.poisoned = Translation.poisoned ∨ Translation.poisoned = Translation.timeout) := by decide
def Translations_6_s : State := (withAtc [atcE 2 0x1000 true, atcE 2 0x3000 false, atcE 2 0x4000 false, atcE 1 0x3000 false] z)
theorem wit_Translations_6 : (2 < Translations_6_s.par.nFunc) := by decide
theorem wit_Translations_7 : (2 < zRings.par.nFunc) ∧ (zRings.canon = true) ∧ ((zRings.fn 2).canFetch = true) ∧ (zRings.hostAddr 2 ((zRings.fn 2).cmd.entryAddr (zRings.fn 2).cmd.cidx 64) false ≠ none) := by decide
theorem wit_Translations_9 : (0 < zTm.par.nFunc) ∧ (zTm.mayStart 0 0 56 (cmdOf zTm 0)) ∧ (16 ≤ (cmdOf zTm 0).num 16 4) ∧ ((cmdOf zTm 0).num 16 4 ≤ 16384) ∧ ((cmdOf zTm 0).num 16 4 % 8 = 0) ∧ ((zTm.fn 0).up = true) ∧ ((zTm.fn 0).ats = false) := by decide +kernel
theorem wit_Translations_10 : (2 < (ats 2 z).par.nFunc) := by decide

/-! CommandLife -/
theorem wit_CommandLife_1 : (zTm.canon = true) ∧ (zTm.taken 0 0 = some (cmdOf zTm 0)) := by decide +kernel
theorem wit_CommandLife_3 : (zTm.taken 0 0 = some (cmdOf zTm 0)) ∧ ((cmdOf zTm 0).opc.toNat ≠ 57 ∨ zTm.canStart 0 (cmdOf zTm 0) = false) := by decide +kernel
theorem wit_CommandLife_4 : (zT5.taken 0 0 = some (cmdOf zT5 0)) ∧ ((cmdOf zT5 0).opc.toNat = 56) ∧ (zT5.canStart 0 (cmdOf zT5 0) = true) ∧ ((cmdOf zT5 0).formOk = false) := by decide +kernel
theorem wit_CommandLife_5 : (zTd.taken 1 0 = some (cmdOf zTd 1)) ∧ ((cmdOf zTd 1).opc.toNat = 56) ∧ (zTd.canStart 1 (cmdOf zTd 1) = true) ∧ ((cmdOf zTd 1).formOk = true) ∧ (zTd.mayRun 1 56 = false) := by decide +kernel
theorem wit_CommandLife_6 : (zNop.mayStart 1 0 0 (cmdOf zNop 1)) := by decide +kernel
theorem wit_CommandLife_7 : (1 < zRes.par.nFunc) ∧ (zRes.taken 1 0 = some (cmdOf zRes 1)) ∧ (opBytes (cmdOf zRes 1).opc.toNat = none) ∧ (zRes.canStart 1 (cmdOf zRes 1) = true) := by decide +kernel

/-! SettingsCommands -/
theorem wit_SettingsCommands_1 : (zTo.mayStart 0 0 34 (cmdOf zTo 0)) ∧ ((cmdOf zTo 0).num 8 2 ≤ 1000) ∧ ((cmdOf zTo 0).num 10 2 ≤ 1000) ∧ ((cmdOf zTo 0).num 12 2 ≤ 10000) ∧ ((cmdOf zTo 0).num 12 2 = 0 ∨ 10 ≤ (cmdOf zTo 0).num 12 2) := by decide +kernel
theorem wit_SettingsCommands_2 : (zAn.mayStart 0 0 33 (cmdOf zAn 0)) ∧ ((cmdOf zAn 0).num 8 1 ≤ 1) ∧ (2 ≤ (cmdOf zAn 0).num 9 1) ∧ (1 ≤ (cmdOf zAn 0).num 10 2) ∧ ((cmdOf zAn 0).num 10 2 ≤ 1000) ∧ (10 ≤ (cmdOf zAn 0).num 12 2) ∧ ((cmdOf zAn 0).num 12 2 ≤ 10000) ∧ ((cmdOf zAn 0).num 14 2 ≤ 10000) ∧ ((cmdOf zAn 0).num 8 1 = 1 ∨ ∀ n < zAn.par.nSlice, zAn.paused n = false) := by decide +kernel
theorem wit_SettingsCommands_3 : (zMs.mayStart 0 0 35 (cmdOf zMs 0)) ∧ ((cmdOf zMs 0).num 8 1 = 1) := by decide +kernel
theorem wit_SettingsCommands_4 : (zMc.mayStart 0 0 35 (cmdOf zMc 0)) ∧ ((cmdOf zMc 0).num 8 1 = 0) := by decide +kernel
theorem wit_SettingsCommands_7 : (zHcl.mayStart 0 0 36 (cmdOf zHcl 0)) ∧ (zHcl.tablesRise = true) ∧ (hmListed ((cmdOf zHcl 0).num 8 2) = true) ∧ ((cmdOf zHcl 0).num 11 1 = 1) ∧ ((cmdOf zHcl 0).num 12 2 ≠ 0) := by decide +kernel
theorem wit_SettingsCommands_8 : (zHc.mayStart 0 0 36 (cmdOf zHc 0)) ∧ (hmListed ((cmdOf zHc 0).num 8 2) = true) ∧ (hmSec ((cmdOf zHc 0).num 8 2) = false) ∧ ((cmdOf zHc 0).num 11 1 = 0) ∧ ((cmdOf zHc 0).num 12 2 ≠ 0) := by decide +kernel
theorem wit_SettingsCommands_10 : (zWs.canon = true) ∧ (zWs.mayStart 2 0 37 (cmdOf zWs 2)) ∧ ((cmdOf zWs 2).orphan = false) ∧ (zWs.noSync = true) ∧ (∀ j ∈ zWs.spine.jobs, j.id < zWs.spine.nextJob) := by decide +kernel

/-! AtcAndRecordCommands -/
def AtcAndRecordCommands_1_s : State := (zAl [atcE 2 0x1000 false])
def AtcAndRecordCommands_1_k : Taken := (cmdOf (zAl []) 2)
theorem wit_AtcAndRecordCommands_1 : (AtcAndRecordCommands_1_s.mayStart 2 0 58 AtcAndRecordCommands_1_k) ∧ (AtcAndRecordCommands_1_k.num 16 1 < 4) ∧ ((AtcAndRecordCommands_1_s.fn 2).ats = true) ∧ ((AtcAndRecordCommands_1_s.fn 2).up = true) ∧ ((List.filter (fun e => e.lock && !e.covers 2 (bits AtcAndRecordCommands_1_k.desc 64 64)) AtcAndRecordCommands_1_s.spine.atc).length < 8) ∧ (AtcAndRecordCommands_1_k.num 16 1 % 2 = 1 → true = true) ∧ (2 ≤ AtcAndRecordCommands_1_k.num 16 1 → true = true) := by decide +kernel
def AtcAndRecordCommands_2_k : Taken := (cmdOf (zAl []) 2)
theorem wit_AtcAndRecordCommands_2 : (zAl8.mayStart 2 0 58 AtcAndRecordCommands_2_k) ∧ (AtcAndRecordCommands_2_k.num 16 1 < 4) ∧ ((zAl8.fn 2).ats = true) ∧ (8 ≤ (List.filter (fun e => e.lock && !e.covers 2 (bits AtcAndRecordCommands_2_k.desc 64 64)) zAl8.spine.atc).length) := by decide +kernel
def AtcAndRecordCommands_4_s : State := (zUn [atcE 2 0x1000 true, atcE 2 0x3000 true, atcE 1 0x1000 true])
def AtcAndRecordCommands_4_k : Taken := (cmdOf (zUn []) 2)
theorem wit_AtcAndRecordCommands_4 : (AtcAndRecordCommands_4_s.mayStart 2 0 59 AtcAndRecordCommands_4_k) ∧ (∃ e ∈ AtcAndRecordCommands_4_s.spine.atc, e.lock = true ∧ e.covers 2 (bits AtcAndRecordCommands_4_k.desc 64 64) = true) := by decide +kernel
def AtcAndRecordCommands_5_s : State := (zUn [atcE 2 0x1000 false, atcE 2 0x3000 true, atcE 1 0x1000 true])
def AtcAndRecordCommands_5_k : Taken := (cmdOf (zUn []) 2)
theorem wit_AtcAndRecordCommands_5 : (AtcAndRecordCommands_5_s.mayStart 2 0 59 AtcAndRecordCommands_5_k) ∧ (∀ e ∈ AtcAndRecordCommands_5_s.spine.atc, e.covers 2 (bits AtcAndRecordCommands_5_k.desc 64 64) = true → e.lock = false) := by decide +kernel
def AtcAndRecordCommands_6_hostAt : W64 := ((zSt.hostAddr 0 0x10000 true).getD 0)
theorem wit_AtcAndRecordCommands_6 : (67 < zSt.par.nSlice) ∧ (67 < 72) ∧ ((hostCheck 0 AtcAndRecordCommands_6_hostAt true (zSt.begin 0 0)).1 = true) ∧ ((hostCheck 0 AtcAndRecordCommands_6_hostAt true (zSt.begin 0 0)).2 = zSt.begin 0 0) ∧ ((zSt.fn 0).up = true) ∧ (zSt.mayStart 0 0 63 (cmdOf zSt 0)) ∧ ((cmdOf zSt 0).num 8 8 % 128 = 0) ∧ (bits (cmdOf zSt 0).desc 128 72 = BitVec.ofNat 72 (2 ^ 67)) ∧ (zSt.hostAddr 0 (BitVec.ofNat 64 ((cmdOf zSt 0).num 8 8)) true = some AtcAndRecordCommands_6_hostAt) := by decide +kernel
def AtcAndRecordCommands_7_hostAt : W64 := ((zCr.hostAddr 0 0x10080 true).getD 0)
theorem wit_AtcAndRecordCommands_7 : (67 < zCr.par.nSlice) ∧ (67 < 72) ∧ ((hostCheck 0 AtcAndRecordCommands_7_hostAt true (zCr.begin 0 0)).1 = true) ∧ ((hostCheck 0 AtcAndRecordCommands_7_hostAt true (zCr.begin 0 0)).2 = zCr.begin 0 0) ∧ ((zCr.fn 0).up = true) ∧ (zCr.mayStart 0 0 48 (cmdOf zCr 0)) ∧ ((cmdOf zCr 0).num 8 1 = 67) ∧ ((bits (cmdOf zCr 0).desc 128 64).toNat % 128 = 0) ∧ (zCr.hostAddr 0 (bits (cmdOf zCr 0).desc 128 64) true = some AtcAndRecordCommands_7_hostAt) := by decide +kernel
def AtcAndRecordCommands_8_hostAt : W64 := ((zUp.hostAddr 2 0x10080 false).getD 0)
theorem wit_AtcAndRecordCommands_8 : (0 < 128) ∧ (BitVec.toNat (0x10080 : W64) % 4096 + 128 ≤ 4096) ∧ (zUp.hostAddr 2 (0x10080 : W64) false = some AtcAndRecordCommands_8_hostAt) := by decide

/-! LineCommands -/
def LineCommands_1_k : Taken := (cmdOf (zFl5 1 0x40 0x40) 2)
theorem wit_LineCommands_1 : ((zFl5 1 0x40 0x40).mayStart 2 0 (rangeOpc RangeKind.flush) LineCommands_1_k) := by decide +kernel
def LineCommands_2_s : State := (zFl5 2 (2^52-64) 64)
def LineCommands_2_k : Taken := (cmdOf (zFl5 2 (2^52-64) 64) 2)
theorem wit_LineCommands_2 : (LineCommands_2_s.mayStart 2 0 (rangeOpc RangeKind.clean) LineCommands_2_k) := by decide +kernel
theorem wit_LineCommands_4 : (zRj.canon = true) ∧ (3 < zRj.par.nSlice) ∧ (zRj.job 4 = some { id := 4, cmd := some (2, 0), kind := JobKind.range RangeKind.clean 1536 1600 1 2 false [] }) ∧ (1536 < 1600) ∧ (1536 % 64 = 0) ∧ (1536 < 2 ^ 52) ∧ (zRj.ownerOk (1536#52) 2 = true) ∧ (zRj.serves 3 (bucketOf 1536#52) = true) ∧ (255 < 256) ∧ (zRj.trk 3 255 = none) ∧ ((zRj.slice 3).poolFree Pool.own = true) := by decide
def LineCommands_5_s : State := (zCe [])
def LineCommands_5_k : Taken := (cmdOf (zCe []) 2)
theorem wit_LineCommands_5 : (LineCommands_5_s.canon = true) ∧ (LineCommands_5_s.mayStart 2 0 4 LineCommands_5_k) ∧ (LineCommands_5_k.rangeOk = true) ∧ (LineCommands_5_k.num 24 1 < 16) ∧ (∀ j ∈ LineCommands_5_s.spine.jobs, ∀ (l : List ℕ) (w : ℕ) (p : Bool), j.kind ≠ JobKind.censusRange l w p) := by (repeat' apply And.intro) <;> first | decide +kernel | exact fun _ => rfl | (intro b h; cases h) | (intro b h; exact absurd h (by decide +kernel))
def LineCommands_6_s : State := (zCe [{id := 4, cmd := some (1,0), kind := .censusRange [3] 0 false}])
def LineCommands_6_k : Taken := (cmdOf (zCe []) 2)
theorem wit_LineCommands_6 : (LineCommands_6_s.canon = true) ∧ (LineCommands_6_s.mayStart 2 0 4 LineCommands_6_k) ∧ (LineCommands_6_k.rangeOk = true) ∧ (LineCommands_6_k.num 24 1 < 16) ∧ (∃ j ∈ LineCommands_6_s.spine.jobs, ∃ l w p, j.kind = JobKind.censusRange l w p) := by refine ⟨by decide +kernel, by decide +kernel, by decide +kernel, by decide +kernel, _, List.mem_cons_self, _, _, _, rfl⟩
def LineCommands_7_k : Taken := (cmdOf (zLr 0) 2)
theorem wit_LineCommands_7 : ((zLr 0).canon = true) ∧ ((zLr 0).mayStart 2 0 5 LineCommands_7_k) ∧ (LineCommands_7_k.num 8 8 % 64 = 0) ∧ (LineCommands_7_k.num 8 8 < 2 ^ 52) ∧ (LineCommands_7_k.num 16 1 < 2) ∧ (LineCommands_7_k.num 24 8 % 64 = 0) ∧ ((zLr 0).ownerOk (BitVec.ofNat 52 (LineCommands_7_k.num 8 8)) 2 = true) ∧ ((zLr 0).serves ((zLr 0).master (bucketOf (BitVec.ofNat 52 (LineCommands_7_k.num 8 8)))).slice (bucketOf (BitVec.ofNat 52 (LineCommands_7_k.num 8 8))) = true) ∧ (255 < 256) ∧ ((zLr 0).trk ((zLr 0).master (bucketOf (BitVec.ofNat 52 (LineCommands_7_k.num 8 8)))).slice 255 = none) ∧ (((zLr 0).slice ((zLr 0).master (bucketOf (BitVec.ofNat 52 (LineCommands_7_k.num 8 8)))).slice).poolFree Pool.own = true) ∧ (LineCommands_7_k.num 16 1 = 0 → ((zLr 0).begin 2 0).bufOpen 2 0 (BitVec.ofNat 64 (LineCommands_7_k.num 24 8)) 64 false) := by decide +kernel
def LineCommands_9_k : Taken := (cmdOf (zLr 1) 2)
theorem wit_LineCommands_9 : (zLn.canon = true) ∧ (zLn.mayStart 2 0 5 LineCommands_9_k) ∧ (LineCommands_9_k.num 8 8 % 64 = 0) ∧ (LineCommands_9_k.num 8 8 < 2 ^ 52) ∧ (LineCommands_9_k.num 16 1 < 2) ∧ (LineCommands_9_k.num 24 8 % 64 = 0) ∧ (zLn.ownerOk (BitVec.ofNat 52 (LineCommands_9_k.num 8 8)) 2 = false) := by decide +kernel

/-! BucketMoveStarts -/
def BucketMoveStarts_1_k : Taken := (cmdOf (zBm 67 5 3) 0)
theorem wit_BucketMoveStarts_1 : ((zBm 67 5 3).canon = true) ∧ ((zBm 67 5 3).mayStart 0 0 16 BucketMoveStarts_1_k) ∧ (BucketMoveStarts_1_k.num 8 2 < 4096) ∧ (BucketMoveStarts_1_k.num 10 1 < (zBm 67 5 3).par.nSlice) ∧ (BucketMoveStarts_1_k.num 11 1 < 4) ∧ (((zBm 67 5 3).master (BucketMoveStarts_1_k.num 8 2)).slice < (zBm 67 5 3).par.nSlice) ∧ (BucketMoveStarts_1_k.num 10 1 ≠ ((zBm 67 5 3).master (BucketMoveStarts_1_k.num 8 2)).slice) ∧ ((zBm 67 5 3).moveRefused ((zBm 67 5 3).master (BucketMoveStarts_1_k.num 8 2)).slice (BucketMoveStarts_1_k.num 8 2) (BucketMoveStarts_1_k.num 10 1) = none) := by decide +kernel
def BucketMoveStarts_3_k : Taken := (cmdOf (zBm 67 3 0) 0)
theorem wit_BucketMoveStarts_3 : ((zBm 67 3 0).canon = true) ∧ ((zBm 67 3 0).mayStart 0 0 16 BucketMoveStarts_3_k) ∧ (BucketMoveStarts_3_k.num 8 2 < 4096) ∧ (BucketMoveStarts_3_k.num 10 1 < (zBm 67 3 0).par.nSlice) ∧ (BucketMoveStarts_3_k.num 11 1 < 4) ∧ (((zBm 67 3 0).master (BucketMoveStarts_3_k.num 8 2)).slice < (zBm 67 3 0).par.nSlice) ∧ (BucketMoveStarts_3_k.num 10 1 = ((zBm 67 3 0).master (BucketMoveStarts_3_k.num 8 2)).slice) ∧ (((zBm 67 3 0).slice ((zBm 67 3 0).master (BucketMoveStarts_3_k.num 8 2)).slice).serving = true) ∧ (((zBm 67 3 0).slice ((zBm 67 3 0).master (BucketMoveStarts_3_k.num 8 2)).slice).steal = none) ∧ (BucketMoveStarts_3_k.num 8 2 ∉ ((zBm 67 3 0).slice ((zBm 67 3 0).master (BucketMoveStarts_3_k.num 8 2)).slice).holdoffs) ∧ (((zBm 67 3 0).bkt ((zBm 67 3 0).master (BucketMoveStarts_3_k.num 8 2)).slice (BucketMoveStarts_3_k.num 8 2)).kind = BKind.owned) := by decide +kernel

/-! SliceLifeCommands -/
theorem wit_SliceLifeCommands_1 : (zSa.canon = true) ∧ (zSa.jobsNamed = true) ∧ (67 < zSa.par.nSlice) ∧ ((cmdOf zSa 0).num 8 1 = 67) ∧ (zSa.mayStart 0 0 19 (cmdOf zSa 0)) ∧ ((zSa.slice 67).conds.phase = Phase.retain) ∧ (zSa.activeCount < 64) ∧ (∀ e < 4, zSa.topRev ≤ (zSa.actBank 67 e).lcp) := by decide +kernel
theorem wit_SliceLifeCommands_2 : (zSc.canon = true) ∧ (zSc.jobsNamed = true) ∧ (0 < zSc.par.nSlice) ∧ ((cmdOf zSc 0).num 8 1 = 0) ∧ (zSc.mayStart 0 0 18 (cmdOf zSc 0)) ∧ ((cmdOf zSc 0).num 9 1 = 67) ∧ (67 < zSc.par.nSlice) ∧ ((zSc.slice 0).mode = Mode.track ∨ (zSc.slice 0).mode = Mode.proof ∨ (zSc.slice 0).mode = Mode.limp) ∧ ((zSc.slice 67).conds.phase = Phase.retain) ∧ (zSc.inMove 0 = false) ∧ (zSc.inCopy 0 = false) ∧ (zSc.inMove 67 = false) ∧ (zSc.inCopy 67 = false) ∧ (zSc.evacuating 0 = false) := by decide +kernel
theorem wit_SliceLifeCommands_3 : (zSe.canon = true) ∧ (zSe.jobsNamed = true) ∧ (3 < zSe.par.nSlice) ∧ ((cmdOf zSe 0).num 8 1 = 3) ∧ (zSe.mayStart 0 0 17 (cmdOf zSe 0)) ∧ (zSe.evacRefused 3 = none) := by decide +kernel
theorem wit_SliceLifeCommands_6 : (zSr.canon = true) ∧ (67 < zSr.par.nSlice) ∧ (zSr.mayStart 0 0 20 (cmdOf zSr 0)) ∧ ((cmdOf zSr 0).num 8 1 = 67) ∧ (bit zSr.spine.pwr 67 = true) ∧ (zSr.stubs 67 = []) ∧ ((zSr.slice 67).conds.phase = Phase.retain ∨ (zSr.slice 67).conds.phase = Phase.hold ∧ (zSr.slice 67).conds.hSalv = false ∧ zSr.heldBuckets 67 = []) := by decide +kernel

/-! RecipeSteps -/
theorem wit_RecipeSteps_1 : (zRl.canon = true) ∧ (67 < zRl.par.nSlice) ∧ (3 < 4) ∧ (zRl.mayStart 0 0 24 (cmdOf zRl 0)) ∧ ((cmdOf zRl 0).num 8 1 = 67) ∧ ((cmdOf zRl 0).num 9 1 = 3) ∧ (1 ≤ (cmdOf zRl 0).num 24 2) ∧ ((cmdOf zRl 0).num 24 2 ≤ 1536) ∧ ((zRl.slice 67).recipe = none) ∧ ((zRl.slice 67).conds.phase ≠ Phase.off) ∧ ((zRl.begin 0 0).bufOpen 0 0 (bits (cmdOf zRl 0).desc 128 64) ((cmdOf zRl 0).num 24 2) false) ∧ (imageOk ((zRl.begin 0 0).bufBytes 0 (bits (cmdOf zRl 0).desc 128 64) img ((cmdOf zRl 0).num 24 2)) = true) := by decide +kernel
def RecipeSteps_2_r : RecipeAct := {engines := [3], digests := [], current := some 3}
theorem wit_RecipeSteps_2 : (zRs.canon = true) ∧ (67 < zRs.par.nSlice) ∧ ((zRs.slice 67).recipe = some RecipeSteps_2_r) ∧ (RecipeSteps_2_r.current = some 3) ∧ (RecipeSteps_2_r.returning = false) ∧ ((zRs.slice 67).steal = none) ∧ (zRs.engineBuckets 67 3 = []) ∧ ((zRs.slice 67).serving = true ∨ (zRs.slice 67).conds.phase = Phase.retain) ∧ (zRs.tablesRise = true) ∧ (∀ (x : ℕ), (zRs.shdBank 67 x).bad = false) ∧ ((zRs.actBank 67 3).bad = false) ∧ ((zRs.slice 67).assay.inj.count = 0) := by refine ⟨by decide +kernel, by decide +kernel, by decide +kernel, by decide +kernel, by decide +kernel, by decide +kernel, by decide +kernel, by decide +kernel, by decide +kernel, fun x => ?_, by decide +kernel, by decide +kernel⟩; rw [State.shdBank, show (zRs.slice 67).shd = [(3, bankOf img)] by decide +kernel]; unfold mget; by_cases h : 3 = x <;> simp only [h, if_true, if_false] <;> first | decide +kernel | (split <;> rfl)

/-! TrayAndCalibration -/
def TrayAndCalibration_1_k : Taken := (cmdOf (zTc 8 4) 0)
theorem wit_TrayAndCalibration_1 : ((zTc 8 4).canon = true) ∧ ((zTc 8 4).mayStart 0 0 32 TrayAndCalibration_1_k) ∧ (TrayAndCalibration_1_k.num 8 1 = 8) ∧ (TrayAndCalibration_1_k.num 9 1 = 4) ∧ (8 ≤ 8) ∧ (4 ≤ 4) ∧ ((zTc 8 4).spine.trayEn = false) ∧ ((zTc 8 4).trayUsable 8 4 = true) ∧ ((zTc 8 4).spine.trayFt ≤ 8) ∧ ((zTc 8 4).spine.trayHt ≤ 4) := by decide +kernel
def TrayAndCalibration_3_s : State := ((zTc 0 0).updSpine fun s => {s with trayEn := true})
def TrayAndCalibration_3_k : Taken := (cmdOf (zTc 0 0) 0)
theorem wit_TrayAndCalibration_3 : (TrayAndCalibration_3_s.canon = true) ∧ (TrayAndCalibration_3_s.mayStart 0 0 32 TrayAndCalibration_3_k) ∧ (TrayAndCalibration_3_k.num 8 1 = 0) ∧ (TrayAndCalibration_3_k.num 9 1 = 0) ∧ (0 ≤ 8) ∧ (0 ≤ 4) ∧ (TrayAndCalibration_3_s.spine.trayEn = true) := by decide +kernel
theorem wit_TrayAndCalibration_4 : (zCw.canon = true) ∧ (3 < zCw.par.nSlice) ∧ (zCw.mayStart 0 0 49 (cmdOf zCw 0)) ∧ ((cmdOf zCw 0).num 8 1 = 3) ∧ (zCw.dvfsHigh = false) ∧ ((zCw.begin 0 0).bufOpen 0 0 (bits (cmdOf zCw 0).desc 128 64) 128 false) ∧ (calOk ((zCw.begin 0 0).bufBytes 0 (bits (cmdOf zCw 0).desc 128 64) (calRec 3) 128) 3 = true) ∧ ((zCw.slice 3).conds.hSalv = false) := by set_option maxRecDepth 100000 in decide +kernel
def TrayAndCalibration_5_s : State := (zCa.updSlice 3 fun x => {x with conds := {x.conds with pCal := true}})
theorem wit_TrayAndCalibration_5 : (TrayAndCalibration_5_s.canon = true) ∧ (TrayAndCalibration_5_s.jobsNamed = true) ∧ (3 < TrayAndCalibration_5_s.par.nSlice) ∧ ({ id := 4, cmd := some (0, 0), kind := JobKind.calWrite 3 } ∈ TrayAndCalibration_5_s.spine.jobs) ∧ (∀ j ∈ TrayAndCalibration_5_s.spine.jobs, j.kind = JobKind.calWrite 3 → j.id = 4) ∧ (TrayAndCalibration_5_s.taken 0 0 = some (cmdOf zCw 0)) ∧ ((cmdOf zCw 0).orphan = false) ∧ ((TrayAndCalibration_5_s.slice 3).inBuf = []) ∧ ((TrayAndCalibration_5_s.slice 3).conds.pCal = true) := by decide +kernel

/-! WardenCommands -/
def WardenCommands_1_s : State := (zTm5 (sha256 rec1))
def WardenCommands_1_k : Taken := (cmdOf (zTm5 (sha256 rec1)) 0)
theorem wit_WardenCommands_1 : (WardenCommands_1_s.mayStart 0 0 56 WardenCommands_1_k) ∧ (16 ≤ WardenCommands_1_k.num 16 4) ∧ (WardenCommands_1_k.num 16 4 ≤ 16384) ∧ (WardenCommands_1_k.num 16 4 % 8 = 0) ∧ ((WardenCommands_1_s.begin 0 0).bufOpen 0 0 (bits WardenCommands_1_k.desc 64 64) (WardenCommands_1_k.num 16 4) false) ∧ (WardenCommands_1_s.spine.prot.proposals.length < 4) ∧ (sha256 ((WardenCommands_1_s.begin 0 0).bufBytes 0 (bits WardenCommands_1_k.desc 64 64) rec1 (WardenCommands_1_k.num 16 4)) = bits WardenCommands_1_k.desc 192 256) ∧ (WardenCommands_1_s.recordOk ((WardenCommands_1_s.begin 0 0).bufBytes 0 (bits WardenCommands_1_k.desc 64 64) rec1 (WardenCommands_1_k.num 16 4)) = true) := by decide +kernel
def WardenCommands_2_s : State := (zCm (sha256 rec1) 7)
def WardenCommands_2_k : Taken := (cmdOf (zCm (sha256 rec1) 7) 1)
theorem wit_WardenCommands_2 : (WardenCommands_2_s.mayStart 1 0 57 WardenCommands_2_k) ∧ (List.find? (fun p => decide (p.pid = WardenCommands_2_k.num 8 2)) WardenCommands_2_s.spine.prot.proposals = some prop1) ∧ (prop1.digest = bits WardenCommands_2_k.desc 192 256) ∧ (prop1.seq = WardenCommands_2_s.spine.prot.tmSeq + 1) := by decide +kernel
def WardenCommands_3_k : Taken := (cmdOf (zCm 5 7) 1)
theorem wit_WardenCommands_3 : ((zCm 5 7).mayStart 1 0 57 WardenCommands_3_k) ∧ (List.find? (fun p => decide (p.pid = WardenCommands_3_k.num 8 2)) (zCm 5 7).spine.prot.proposals = some prop1) ∧ (prop1.digest ≠ bits WardenCommands_3_k.desc 192 256) := by decide +kernel
def WardenCommands_4_k : Taken := (cmdOf (zCm 5 9) 1)
theorem wit_WardenCommands_4 : ((zCm 5 9).mayStart 1 0 57 WardenCommands_4_k) ∧ (∀ q ∈ (zCm 5 9).spine.prot.proposals, q.pid ≠ WardenCommands_4_k.num 8 2) := by decide +kernel
theorem wit_WardenCommands_5 : (List.find? (fun p => decide (p.pid = 7)) (zCm 5 9).spine.prot.proposals = some prop1) ∧ ((zCm 5 9).windowOpen prop1 = true) := by decide +kernel
def WardenCommands_6_s : State := ((zCm 5 9).updFn 0 fun x => {x with done := [{idx := 1, ring := 1, tag := 0, code := 0, opc := 0x38, result := 7, intr := false}]})
theorem wit_WardenCommands_6 : (List.find? (fun p => decide (p.pid = 7)) WardenCommands_6_s.spine.prot.proposals = some prop1) ∧ (WardenCommands_6_s.windowOpen prop1 = false) := by decide +kernel

/-! TrayAndCalibration -/
theorem wit_TrayAndCalibration_7 : ((phase 3 .off zCw).canon = true) ∧ (3 < (phase 3 .off zCw).par.nSlice) ∧ ((phase 3 .off zCw).mayStart 0 0 49 (cmdOf zCw 0)) ∧ ((cmdOf zCw 0).num 8 1 = 3) ∧ ((phase 3 .off zCw).dvfsHigh = false) ∧ (((phase 3 .off zCw).begin 0 0).bufOpen 0 0 (bits (cmdOf zCw 0).desc 128 64) 128 false) ∧ (calOk (((phase 3 .off zCw).begin 0 0).bufBytes 0 (bits (cmdOf zCw 0).desc 128 64) (calRec 3) 128) 3 = true) ∧ (((phase 3 .off zCw).slice 3).conds.hSalv = false) ∧ (((phase 3 .off zCw).slice 3).serving = false) ∧ (((phase 3 .off zCw).slice 3).conds.phase = Phase.off ∨ bit (phase 3 .off zCw).spine.pwr 3 = false) := by set_option maxRecDepth 100000 in decide +kernel
theorem wit_TrayAndCalibration_8 : ((phase 3 .retain zCw).canon = true) ∧ (3 < (phase 3 .retain zCw).par.nSlice) ∧ ((phase 3 .retain zCw).mayStart 0 0 49 (cmdOf zCw 0)) ∧ ((cmdOf zCw 0).num 8 1 = 3) ∧ ((phase 3 .retain zCw).dvfsHigh = false) ∧ (((phase 3 .retain zCw).begin 0 0).bufOpen 0 0 (bits (cmdOf zCw 0).desc 128 64) 128 false) ∧ (calOk (((phase 3 .retain zCw).begin 0 0).bufBytes 0 (bits (cmdOf zCw 0).desc 128 64) (calRec 3) 128) 3 = true) ∧ (((phase 3 .retain zCw).slice 3).conds.hSalv = false) ∧ (((phase 3 .retain zCw).slice 3).serving = false) ∧ (((phase 3 .retain zCw).slice 3).conds.phase ≠ Phase.off) ∧ (bit (phase 3 .retain zCw).spine.pwr 3 = true) := by set_option maxRecDepth 100000 in decide +kernel
theorem wit_TrayAndCalibration_9 : (zCw.canon = true) ∧ (3 < zCw.par.nSlice) ∧ (zCw.mayStart 0 0 49 (cmdOf zCw 0)) ∧ ((cmdOf zCw 0).num 8 1 = 3) ∧ (zCw.dvfsHigh = false) ∧ ((zCw.begin 0 0).bufOpen 0 0 (bits (cmdOf zCw 0).desc 128 64) 128 false) ∧ (calOk ((zCw.begin 0 0).bufBytes 0 (bits (cmdOf zCw 0).desc 128 64) (calRec 3) 128) 3 = true) ∧ ((zCw.slice 3).conds.hSalv = false) ∧ ((zCw.slice 3).serving = true) := by set_option maxRecDepth 100000 in decide +kernel

/-! Admission -/
def Admission_1_k : Taken := (cmdOf (zAa 287) 0)
theorem wit_Admission_1 : ((zAa 287).canon = true) ∧ ((zAa 287).mayStart 0 0 40 Admission_1_k) ∧ (Admission_1_k.num 8 2 = 287) ∧ ((zAa 287).agentBuilt 287 = true) ∧ (Admission_1_k.num 10 1 < (zAa 287).par.nFunc) ∧ (Admission_1_k.num 11 1 < 8) ∧ ((zAa 287).spine.setup = true) ∧ (((zAa 287).shim 287).st = ShimSt.idle) ∧ ((zAa 287).retireJob 287 = none) ∧ (((zAa 287).shim 287).resetPending = false) := by decide +kernel
theorem wit_Admission_3 : ((zAd 207 0).canon = true) ∧ ((zAd 207 0).hasShim 207 = true) ∧ (((zAd 207 0).shim 207).st = ShimSt.admitting) ∧ (((zAd 207 0).shim 207).mapLoaded = true) ∧ (((zAd 207 0).shim 207).neg = 0) ∧ (commonRev (7 : BitVec 3) ((zAd 207 0).shim 207).allow (zAd 207 0).lcpLimit ≠ 0) := by decide +kernel
def Admission_5_k : Taken := (cmdOf (zAd 207 3) 0)
def Admission_5_j : Job := {id := 4, cmd := some (0,0), kind := .agentAdmit 207}
theorem wit_Admission_5 : ((zAd 207 3).canon = true) ∧ ((zAd 207 3).jobsNamed = true) ∧ ((zAd 207 3).hasShim 207 = true) ∧ (((zAd 207 3).shim 207).st = ShimSt.admitting) ∧ (((zAd 207 3).shim 207).neg ≠ 0) ∧ ((zAd 207 3).admitJob 207 = some Admission_5_j) ∧ (Admission_5_j.cmd = some (0, 0)) ∧ ((zAd 207 3).taken 0 0 = some Admission_5_k) ∧ (Admission_5_k.orphan = false) := by decide
def Admission_6_k : Taken := (cmdOf (zAd 207 3) 0)
def Admission_6_j : Job := {id := 4, cmd := some (0,0), kind := .agentAdmit 207}
theorem wit_Admission_6 : ((zAd 207 0).canon = true) ∧ ((zAd 207 0).jobsNamed = true) ∧ ((zAd 207 0).hasShim 207 = true) ∧ (((zAd 207 0).shim 207).st = ShimSt.admitting) ∧ (((zAd 207 0).shim 207).mapLoaded = true) ∧ (((zAd 207 0).shim 207).neg = 0) ∧ ((zAd 207 0).admitJob 207 = some Admission_6_j) ∧ (Admission_6_j.cmd = some (0, 0)) ∧ ((zAd 207 0).taken 0 0 = some Admission_6_k) ∧ (Admission_6_k.orphan = false) ∧ (∀ kv ∈ (zAd 207 0).spine.master, 207 ∉ kv.2.unacked) := by decide +kernel
def Admission_7_k : Taken := (cmdOf (zAd 207 3) 0)
def Admission_7_j : Job := {id := 4, cmd := some (0,0), kind := .agentAdmit 207}
theorem wit_Admission_7 : ((zAd 207 0).canon = true) ∧ ((zAd 207 0).jobsNamed = true) ∧ ((zAd 207 0).hasShim 207 = true) ∧ (((zAd 207 0).shim 207).st = ShimSt.admitting) ∧ (((zAd 207 0).shim 207).mapLoaded = true) ∧ (((zAd 207 0).shim 207).neg = 0) ∧ ((zAd 207 0).admitJob 207 = some Admission_7_j) ∧ (Admission_7_j.cmd = some (0, 0)) ∧ ((zAd 207 0).taken 0 0 = some Admission_7_k) ∧ (Admission_7_k.orphan = false) ∧ (∀ kv ∈ (zAd 207 0).spine.master, 207 ∉ kv.2.unacked) ∧ (commonRev (2 : BitVec 3) ((zAd 207 0).shim 207).allow (zAd 207 0).lcpLimit = 0) := by decide +kernel

/-! Retirement -/
def Retirement_1_k : Taken := (cmdOf (zAr 207) 0)
theorem wit_Retirement_1 : ((zAr 207).canon = true) ∧ ((zAr 207).hasShim 207 = true) ∧ ((zAr 207).retireJob 207 = none) ∧ ((zAr 207).admitJob 207 = none) ∧ ((zAr 207).tablesRise = true) ∧ ((zAr 207).mayStart 0 0 41 Retirement_1_k) ∧ (Retirement_1_k.num 8 2 = 207) ∧ (isAgent 207 = true) ∧ (((zAr 207).shim 207).st ≠ ShimSt.idle) := by decide
theorem wit_Retirement_3 : ((zFd 207).canon = true) ∧ ((zFd 207).hasShim 207 = true) ∧ ((zFd 207).retireJob 207 = none) ∧ ((zFd 207).admitJob 207 = none) ∧ ((zFd 207).tablesRise = true) ∧ (((zFd 207).shim 207).retireDue = true) ∧ (((zFd 207).shim 207).st = ShimSt.fenced) := by decide
theorem wit_Retirement_5 : ((zRe 207 0).canon = true) ∧ ((zRe 207 0).jobsNamed = true) ∧ ((zRe 207 0).hasShim 207 = true) ∧ ((zRe 207 0).retireJob 207 = some (rj 207 0)) ∧ (((zRe 207 0).shim 207).silenced = false) ∧ (∀ n < (zRe 207 0).par.nSlice, (zRe 207 0).paused n = false) := by decide
def Retirement_7_s : State := ((zRe 207 9).updShim 207 fun x => {x with silenced := true})
def Retirement_7_k : Taken := (cmdOf (zAr 207) 0)
theorem wit_Retirement_7 : (Retirement_7_s.canon = true) ∧ (Retirement_7_s.jobsNamed = true) ∧ (Retirement_7_s.hasShim 207 = true) ∧ (Retirement_7_s.retireJob 207 = some (rj 207 9)) ∧ ((rj 207 9).cmd = some (0, 0)) ∧ ((rj 207 9).kind = JobKind.agentRetire 207 9 false) ∧ (Retirement_7_s.taken 0 0 = some Retirement_7_k) ∧ (Retirement_7_k.orphan = false) ∧ ((Retirement_7_s.shim 207).silenced = true) ∧ (∀ n < Retirement_7_s.par.nSlice, Retirement_7_s.scrubbed 207 n = true) ∧ (∀ kv ∈ Retirement_7_s.spine.master, 207 ∉ kv.2.unacked) := by decide +kernel

/-! SeedAndPower -/
theorem wit_SeedAndPower_1 : ((seedTo 67 .retain z).canon = true) ∧ ((seedTo 67 .retain z).jobsNamed = true) ∧ (67 < (seedTo 67 .retain z).par.nSlice) ∧ (((seedTo 67 .retain z).slice 67).conds.phase = Phase.seed) ∧ ((seedTo 67 .retain z).spine.dvfsTaken = false) ∧ (67 ∉ (seedTo 67 .retain z).spine.srst) ∧ (((seedTo 67 .retain z).slice 67).conds.seedNext = SeedNext.retain ∨ ((seedTo 67 .retain z).slice 67).conds.seedNext = SeedNext.resetRetain) := by decide
theorem wit_SeedAndPower_3 : (zSaj.canon = true) ∧ (zSaj.jobsNamed = true) ∧ (67 < zSaj.par.nSlice) ∧ ((zSaj.slice 67).conds.phase = Phase.seed) ∧ (zSaj.spine.dvfsTaken = false) ∧ (67 ∉ zSaj.spine.srst) ∧ ((zSaj.slice 67).conds.seedNext = SeedNext.track) := by decide
def SeedAndPower_4_s : State := ((seedTo 63 .coldReset z).updSpine fun s => {s with ready := false})
theorem wit_SeedAndPower_4 : (SeedAndPower_4_s.canon = true) ∧ (SeedAndPower_4_s.jobsNamed = true) ∧ (63 < SeedAndPower_4_s.par.nSlice) ∧ ((SeedAndPower_4_s.slice 63).conds.phase = Phase.seed) ∧ (SeedAndPower_4_s.spine.dvfsTaken = false) ∧ (63 ∉ SeedAndPower_4_s.spine.srst) ∧ ((SeedAndPower_4_s.slice 63).conds = { phase := Phase.seed, seedNext := SeedNext.coldReset }) := by decide
theorem wit_SeedAndPower_7 : (z.canon = true) ∧ (67 < z.par.nSlice) ∧ (bit z.spine.pwr 67 = true) ∧ (z.offOk 67 = true) := by decide
theorem wit_SeedAndPower_8 : (z.canon = true) ∧ (63 < z.par.nSlice) ∧ (bit z.spine.pwr 63 = true) ∧ (z.offOk 63 = false) ∧ ((z.slice 63).conds.phase ≠ Phase.off) := by decide
def SeedAndPower_9_s : State := ((phase 67 .off z).updSpine fun s => {s with pwr := setBit s.pwr 67 false})
theorem wit_SeedAndPower_9 : (SeedAndPower_9_s.canon = true) ∧ (67 < SeedAndPower_9_s.par.nSlice) ∧ (bit SeedAndPower_9_s.spine.pwr 67 = false) ∧ ((SeedAndPower_9_s.slice 67).conds.phase = Phase.off) ∧ (67 < 68) ∧ (∀ j ∈ SeedAndPower_9_s.spine.jobs, j.kind ≠ JobKind.calWrite 67) := by decide

/-! Salvages -/
def Salvages_1_rest : List ℕ := []
theorem wit_Salvages_1 : ((zHold 63).canon = true) ∧ (63 < (zHold 63).par.nSlice) ∧ ((zHold 63).spine.salvageQ = 63 :: Salvages_1_rest) ∧ ((zHold 63).spine.salvage = none) ∧ (((zHold 63).slice 63).conds.phase = Phase.hold) ∧ ((zHold 63).heldBuckets 63 ≠ []) ∧ ((holdCleanup 63 ((zHold 63).updSpine fun sp => { master := sp.master, relay := sp.relay, syncs := sp.syncs, atc := sp.atc, setup := sp.setup, mrt := sp.mrt, prot := sp.prot, mbWindow := sp.mbWindow, scanCode := sp.scanCode, temper := sp.temper, temperNow := sp.temperNow, admitWait := sp.admitWait, trayEn := sp.trayEn, trayFt := sp.trayFt, trayHt := sp.trayHt, trayBase := sp.trayBase, traySeg := sp.traySeg, srcCfg := sp.srcCfg, assay := sp.assay, nmiLost := sp.nmiLost, nmi := sp.nmi, wayLimit := sp.wayLimit, wayWindow := sp.wayWindow, errOut := sp.errOut, levels := sp.levels, episodes := sp.episodes, crstDue := sp.crstDue, clk := sp.clk, chipRstReq := sp.chipRstReq, srst := sp.srst, anvil := sp.anvil, toSnoop := sp.toSnoop, toSeal := sp.toSeal, toMem := sp.toMem, jobs := sp.jobs, nextJob := sp.nextJob, nextTake := sp.nextTake, salvage := sp.salvage, salvageQ := Salvages_1_rest, autoEvac := sp.autoEvac, cal := sp.cal, dvfsTaken := sp.dvfsTaken, dvfsRdy := sp.dvfsRdy, dvfsIgnored := sp.dvfsIgnored, dvfsHeld := sp.dvfsHeld, throttle := sp.throttle, throttleOut := sp.throttleOut, ready := sp.ready, pwr := sp.pwr, offDue := sp.offDue })).heldBuckets 63 ≠ []) := by decide +kernel
def Salvages_3_s : State := (zSv [3,15])
def Salvages_3_v : Salvage := (sv [3,15])
theorem wit_Salvages_3 : (Salvages_3_s.canon = true) ∧ (63 < Salvages_3_s.par.nSlice) ∧ (Salvages_3_s.spine.salvage = some Salvages_3_v) ∧ (Salvages_3_v.slice = 63) ∧ (15 < Salvages_3_s.par.nMport) ∧ (63 ∈ (Salvages_3_s.port 15).notices) ∧ (∀ h ∈ (Salvages_3_s.port 15).halves, h.src ≠ sliceNode 63) ∧ (∀ w ∈ (Salvages_3_s.port 15).writes, w.src ≠ sliceNode 63) := by decide
def Salvages_4_s : State := (zSv [3,15])
def Salvages_4_v : Salvage := (sv [3,15])
theorem wit_Salvages_4 : (Salvages_4_s.canon = true) ∧ (63 < Salvages_4_s.par.nSlice) ∧ (Salvages_4_s.spine.salvage = some Salvages_4_v) ∧ (Salvages_4_v.slice = 63) ∧ (3 < Salvages_4_s.par.nMport) ∧ ((∃ h ∈ (Salvages_4_s.port 3).halves, h.src = sliceNode 63) ∨ ∃ w ∈ (Salvages_4_s.port 3).writes, w.src = sliceNode 63) := by decide
def Salvages_5_s : State := (zSv [3,15])
def Salvages_5_v : Salvage := (sv [3,15])
theorem wit_Salvages_5 : (Salvages_5_s.canon = true) ∧ (63 < Salvages_5_s.par.nSlice) ∧ (Salvages_5_s.spine.salvage = some Salvages_5_v) ∧ (Salvages_5_v.slice = 63) ∧ (Salvages_5_v.ports ≠ []) := by decide
def Salvages_6_s : State := (List.foldl (fun s n => if n = 63 then s else phase n .retain s) (zSv [3,15]) (List.range 64))
def Salvages_6_v : Salvage := (sv [3,15])
theorem wit_Salvages_6 : (Salvages_6_s.canon = true) ∧ (63 < Salvages_6_s.par.nSlice) ∧ (Salvages_6_s.spine.salvage = some Salvages_6_v) ∧ (Salvages_6_v.slice = 63) ∧ (Salvages_6_v.ports ≠ []) ∧ (∀ q ∈ Salvages_6_v.ports, q < Salvages_6_s.par.nMport) ∧ (Salvages_6_s.heldBuckets 63 ≠ []) ∧ (Salvages_6_s.roomy 63 = []) ∧ (Salvages_6_v.copyJob = none) := by decide +kernel

/-! StealSteps -/
theorem wit_StealSteps_1 : (zStl.canon = true) ∧ (3 < zStl.par.nSlice) ∧ ((zStl.slice 3).serving = true) ∧ (zStl.tablesRise = true) ∧ (0 < 4) ∧ ((zStl.slice 3).steal = none) ∧ (zStl.readyOf 3 0 = 0) ∧ ((zStl.slice 3).stealCfg.idle ≤ mget 0 (zStl.slice 3).idleFor 0) ∧ (argMax (zStl.readyOf 3) (List.filter (fun x => x != 0) (List.range 4)) = some 1) ∧ ((zStl.slice 3).stealCfg.minq ≤ zStl.readyOf 3 1) ∧ (zStl.stealBucket 3 1 = some 67) := by decide +kernel
theorem wit_StealSteps_2 : (zStl2.canon = true) ∧ (3 < zStl2.par.nSlice) ∧ ((zStl2.slice 3).serving = true) ∧ (zStl2.tablesRise = true) := by decide
def StealSteps_3_s : State := (trk 3 4 {rdy 67 with stage := .live} zStl2)
theorem wit_StealSteps_3 : (StealSteps_3_s.canon = true) ∧ (3 < StealSteps_3_s.par.nSlice) ∧ ((StealSteps_3_s.slice 3).serving = true) ∧ (StealSteps_3_s.tablesRise = true) := by decide
def StealSteps_4_s : State := (z.updSlice 3 fun x => {x with holdoffs := [5,67]})
theorem wit_StealSteps_4 : (StealSteps_4_s.canon = true) ∧ (3 < StealSteps_4_s.par.nSlice) ∧ ((StealSteps_4_s.slice 3).serving = true) ∧ (StealSteps_4_s.tablesRise = true) ∧ (67 ∈ (StealSteps_4_s.slice 3).holdoffs) := by decide

/-! BucketMovesEnd -/
theorem wit_BucketMovesEnd_1 : (zFlip'.canon = true) ∧ (zFlip'.tablesRise = true) ∧ (3 < zFlip'.par.nSlice) ∧ (67 < 4096) ∧ ((zFlip'.bkt 3 67).kind = BKind.frozen) ∧ ((zFlip'.slice 3).serving = true) ∧ (∀ k < zFlip'.par.nSlice, (zFlip'.bkt k 67).kind = BKind.frozen ∨ (zFlip'.bkt k 67).kind = BKind.stub → k = 3) ∧ (List.find? (fun x => (decide (x.kind = ScanKind.move) || decide (x.kind = ScanKind.copy)) && decide (x.stop ≤ x.pos) && x.moves.any fun y => decide (y.b = 67)) (zFlip'.slice 3).scans = some sc67) ∧ (sc67.kind = ScanKind.move) ∧ (List.find? (fun y => decide (y.b = 67)) sc67.moves = some mv67) ∧ (mv67.target ≠ 3) ∧ (mv67.target < zFlip'.par.nSlice) ∧ ((zFlip'.slice mv67.target).serving = true) ∧ (zFlip'.paused 3 = false) ∧ (zFlip'.paused mv67.target = false) ∧ (quietBucket 3 67 zFlip' = zFlip') ∧ (zFlip'.drainedOut 3 67 = true) := by decide
theorem wit_BucketMovesEnd_2 : ((zAck.findWire 0 fun w =>     match w with     | Wire.mapAck sh b gen => true     | x => false) =   some (Wire.mapAck 4 67 (5 : BitVec 6))) := by decide
theorem wit_BucketMovesEnd_5 : (3 < z.par.nSlice) ∧ (List.find? (fun sc => decide (sc.kind = ScanKind.purge) && decide (sc.stop ≤ sc.pos)) (z.slice 3).scans = none) := by decide
def BucketMovesEnd_6_s : State := (zPu.setBkt 3 67 {kind := .stub, gen := 9, peer := 5, purge := true})
theorem wit_BucketMovesEnd_6 : (BucketMovesEnd_6_s.canon = true) ∧ (BucketMovesEnd_6_s.tablesRise = true) ∧ (3 < BucketMovesEnd_6_s.par.nSlice) ∧ (List.find? (fun sc => decide (sc.kind = ScanKind.purge) && decide (sc.stop ≤ sc.pos)) (BucketMovesEnd_6_s.slice 3).scans = some scPu) := by decide
def BucketMovesEnd_7_s : State := (zPu.setBkt 3 67 {kind := .stub, gen := 9, peer := 5, purge := true})
theorem wit_BucketMovesEnd_7 : (BucketMovesEnd_7_s.canon = true) ∧ (3 < BucketMovesEnd_7_s.par.nSlice) ∧ (List.find? (fun sc => decide (sc.kind = ScanKind.purge) && decide (sc.stop ≤ sc.pos)) (BucketMovesEnd_7_s.slice 3).scans = some scPu) ∧ (BucketMovesEnd_7_s.spine.jobs = [{ id := 4, cmd := some (0, 0), kind := JobKind.move 3 67 5 (9 : BitVec 6) false }]) ∧ (BucketMovesEnd_7_s.taken 0 0 = some (cmdOf zPu 0)) ∧ ((cmdOf zPu 0).orphan = false) := by decide +kernel

/-! EntriesCopied -/
def EntriesCopied_1_s : State := ((wires [cf true] z).setBkt 5 67 {incoming := true})
theorem wit_EntriesCopied_1 : (5 < EntriesCopied_1_s.par.nSlice) ∧ ((EntriesCopied_1_s.slice 5).serving = true) ∧ (EntriesCopied_1_s.paused 5 = false) ∧ ((firstCopies 5 [] EntriesCopied_1_s.wires)[0]? = some (Wire.copyFine 3 5 set67 15 0 (encFine e67) true true)) ∧ (fineBucket set67 (encFine e67) = some 67) ∧ ((EntriesCopied_1_s.bkt 5 67).incoming = true) ∧ ((decFine (encFine e67)).sent = true) ∧ (EntriesCopied_1_s.fineFind 5 ((decFine (encFine e67)).line set67) = none) ∧ (EntriesCopied_1_s.fineLive 5 15 = true) ∧ ((EntriesCopied_1_s.fineAt 5 set67 15).free = true) := by decide
def EntriesCopied_3_s : State := (wires [cf true] z)
theorem wit_EntriesCopied_3 : (5 < EntriesCopied_3_s.par.nSlice) ∧ ((EntriesCopied_3_s.slice 5).serving = true) ∧ (EntriesCopied_3_s.paused 5 = false) ∧ ((firstCopies 5 [] EntriesCopied_3_s.wires)[0]? = some (Wire.copyFine 3 5 set67 15 0 (encFine e67) true true)) ∧ (fineBucket set67 (encFine e67) = some 67) ∧ ((EntriesCopied_3_s.bkt 5 67).incoming = false) := by decide
def EntriesCopied_4_s : State := ((wires [.copyAck 5 3 set67 false 67] z).updSlice 3 fun x => {x with mirrored := [(false,set67,67),(false,set67,67)]})
theorem wit_EntriesCopied_4 : (3 < EntriesCopied_4_s.par.nSlice) ∧ ((EntriesCopied_4_s.slice 3).inBuf = []) ∧ (EntriesCopied_4_s.findWire 0 (isAckTo 3) = some (Wire.copyAck 5 3 set67 false 67)) := by decide
def EntriesCopied_5_s : State := (wires [cr] z)
theorem wit_EntriesCopied_5 : (3 < EntriesCopied_5_s.par.nSlice) ∧ ((EntriesCopied_5_s.slice 3).serving = true) ∧ (EntriesCopied_5_s.paused 3 = false) ∧ ((EntriesCopied_5_s.slice 3).mirrored = []) ∧ (EntriesCopied_5_s.findWire 0 (isRefusalTo 3) = some (Wire.copyRefuse 5 3 set67 false (encFine e67))) ∧ (EntriesCopied_5_s.fineFind 3 ((decFine (encFine e67)).line set67) = none) := by decide
def EntriesCopied_6_u : State := ((allocOwn 3 255 .evictOnly a67 .ended zCr7).getD z)
theorem wit_EntriesCopied_6 : (3 < zCr7.par.nSlice) ∧ ((zCr7.slice 3).serving = true) ∧ (zCr7.paused 3 = false) ∧ ((zCr7.slice 3).mirrored = []) ∧ (zCr7.findWire 0 (isRefusalTo 3) = some (Wire.copyRefuse 5 3 set67 false (encFine e67))) ∧ (zCr7.fineFind 3 ((decFine (encFine e67)).line set67) = some 9) ∧ ((zCr7.fineAt 3 set67 9).sent = true) ∧ ((zCr7.fineAt 3 set67 9).hstate ≠ hsP) ∧ ((zCr7.fineAt 3 set67 9).hstate ≠ hsU) ∧ ((zCr7.slice 3).busyLine ((decFine (encFine e67)).line set67) = false) ∧ ((zCr7.fineAt 3 set67 9).anvil = false) ∧ (allocOwn 3 255 TKind.evictOnly ((decFine (encFine e67)).line set67) Stage.ended zCr7 = some EntriesCopied_6_u) := by decide +kernel
def EntriesCopied_7_s : State := (fineIn 3 a67 9 eA (wires [cr] z))
theorem wit_EntriesCopied_7 : (3 < EntriesCopied_7_s.par.nSlice) ∧ ((EntriesCopied_7_s.slice 3).serving = true) ∧ (EntriesCopied_7_s.paused 3 = false) ∧ ((EntriesCopied_7_s.slice 3).mirrored = []) ∧ (EntriesCopied_7_s.findWire 0 (isRefusalTo 3) = some (Wire.copyRefuse 5 3 set67 false (encFine e67))) ∧ (EntriesCopied_7_s.fineFind 3 ((decFine (encFine e67)).line set67) = some 9) ∧ ((EntriesCopied_7_s.fineAt 3 set67 9).sent = true) ∧ ((EntriesCopied_7_s.fineAt 3 set67 9).hstate ≠ hsP) ∧ ((EntriesCopied_7_s.fineAt 3 set67 9).hstate ≠ hsU) ∧ ((EntriesCopied_7_s.slice 3).busyLine ((decFine (encFine e67)).line set67) = false) ∧ ((EntriesCopied_7_s.fineAt 3 set67 9).anvil = true) := by decide
def EntriesCopied_8_sc : Scan := {sc67 with pos := set67}
theorem wit_EntriesCopied_8 : ((zMs7 set67).canon = true) ∧ (3 < (zMs7 set67).par.nSlice) ∧ (((zMs7 set67).slice 3).serving = true) ∧ (((zMs7 set67).slice 3).scan ScanKind.move = some EntriesCopied_8_sc) := by decide

/-! ScansEnd -/
def ScansEnd_1_sc : Scan := {kind := .disable, pos := 12544, stop := 12544, period := 1, fineW := 1, loafW := 0, hlcW := 0}
theorem wit_ScansEnd_1 : (zDw.canon = true) ∧ (3 < zDw.par.nSlice) ∧ ((zDw.slice 3).scan ScanKind.disable = some ScansEnd_1_sc) ∧ (ScansEnd_1_sc.stop ≤ ScansEnd_1_sc.pos) ∧ ((zDw.slice 3).serving = true) := by decide
def ScansEnd_2_fl : List ℕ := []
theorem wit_ScansEnd_2 : (zTy.canon = true) ∧ (3 < zTy.par.nSlice) ∧ (zTy.jobsNamed = true) ∧ (zTy.spine.jobs = [{ id := 4, cmd := some (0, 0), kind := JobKind.tray 8 4 [3] ScansEnd_2_fl }]) ∧ (zTy.trayFlushed = true) ∧ (zTy.paused 3 = false) ∧ (∃ sc ∈ (zTy.slice 3).scans, sc.kind = ScanKind.tray ∧ sc.stop ≤ sc.pos) ∧ (zTy.taken 0 0 = some (cmdOf zTy 0)) ∧ ((cmdOf zTy 0).orphan = false) := by decide +kernel
def ScansEnd_3_acts : List (ℕ × List (ℕ × BitVec 256)) := []
theorem wit_ScansEnd_3 : (zRc.canon = true) ∧ (3 < zRc.par.nSlice) ∧ ((zRc.slice 3).scan ScanKind.recolour = some scRc) ∧ (scRc.stop ≤ scRc.pos) ∧ (zRc.spine.jobs = [{ id := 4, cmd := some (1, 0), kind := JobKind.countermark 7 [3] ScansEnd_3_acts }]) ∧ (zRc.taken 1 0 = some (cmdOf zRc 1)) ∧ ((cmdOf zRc 1).orphan = false) := by decide +kernel
def ScansEnd_4_cmd : Option (ℕ × ℕ) := (some (1,0))
def ScansEnd_4_left : List ℕ := [3,5]
def ScansEnd_4_acts : List (ℕ × List (ℕ × BitVec 256)) := []
theorem wit_ScansEnd_4 : (zRc2.canon = true) ∧ (3 < zRc2.par.nSlice) ∧ ((zRc2.slice 3).scan ScanKind.recolour = some scRc) ∧ (scRc.stop ≤ scRc.pos) ∧ (zRc2.spine.jobs = [{ id := 4, cmd := ScansEnd_4_cmd, kind := JobKind.countermark 7 ScansEnd_4_left ScansEnd_4_acts }]) ∧ (∃ m ∈ ScansEnd_4_left, m ≠ 3) := by decide
def ScansEnd_5_s : State := (zRc.updSpine fun sp => {sp with jobs := []})
theorem wit_ScansEnd_5 : (ScansEnd_5_s.canon = true) ∧ (3 < ScansEnd_5_s.par.nSlice) ∧ ((ScansEnd_5_s.slice 3).scan ScanKind.recolour = some scRc) ∧ (scRc.stop ≤ scRc.pos) ∧ (ScansEnd_5_s.spine.jobs = []) := by decide
def ScansEnd_6_left : List ℕ := [3,5]
def ScansEnd_6_fl : List ℕ := []
def ScansEnd_6_cmd : Option (ℕ × ℕ) := (some (0,0))
theorem wit_ScansEnd_6 : (zTy2.canon = true) ∧ (3 < zTy2.par.nSlice) ∧ (zTy2.spine.jobs = [{ id := 4, cmd := ScansEnd_6_cmd, kind := JobKind.tray 8 4 ScansEnd_6_left ScansEnd_6_fl }]) ∧ (3 ∈ ScansEnd_6_left) ∧ (∃ m ∈ ScansEnd_6_left, m ≠ 3) ∧ (zTy2.trayFlushed = true) ∧ (zTy2.paused 3 = false) ∧ (∃ sc ∈ (zTy2.slice 3).scans, sc.kind = ScanKind.tray ∧ sc.stop ≤ sc.pos) := by decide

/-! TemperAndAutoEvacuation -/
theorem wit_TemperAndAutoEvacuation_1 : (zTp.canon = true) := by decide
theorem wit_TemperAndAutoEvacuation_3 : (z.canon = true) := by decide
theorem wit_TemperAndAutoEvacuation_4 : (zAe.canon = true) ∧ (zAe.spine.jobs = []) ∧ (zAe.spine.salvage = none) := by decide +kernel

/-! ScansEnd -/
def ScansEnd_8_acts : List (ℕ × List (ℕ × BitVec 256)) := [(5, [(2, sha256 [1,2,3])])]
theorem wit_ScansEnd_8 : (zAct.canon = true) ∧ (3 < zAct.par.nSlice) ∧ ((zAct.slice 3).scan ScanKind.recolour = some scRc) ∧ (scRc.stop ≤ scRc.pos) ∧ (zAct.spine.jobs = [{ id := 4, cmd := some (1, 0), kind := JobKind.countermark 7 [3] ScansEnd_8_acts }]) ∧ (zAct.taken 1 0 = some (cmdOf zRc 1)) ∧ ((cmdOf zRc 1).orphan = false) := by decide +kernel

/-! EntriesCopied -/
def EntriesCopied_10_sc : Scan := {sc67 with pos := 536}
theorem wit_EntriesCopied_10 : ((zMs8 536).canon = true) ∧ (3 < (zMs8 536).par.nSlice) ∧ (((zMs8 536).slice 3).serving = true) ∧ (((zMs8 536).slice 3).scan ScanKind.move = some EntriesCopied_10_sc) ∧ ((zMs8 536).paused 3 = false) ∧ (((zMs8 536).slice 3).slotOpen = true) ∧ ((zMs8 536).slotDue 3 EntriesCopied_10_sc = true) ∧ (EntriesCopied_10_sc.pos < 8192) ∧ (EntriesCopied_10_sc.pos + 1 < EntriesCopied_10_sc.stop) ∧ (((zMs8 536).slice 3).mirrored = []) ∧ (have u := spendSlot 3 ScanKind.move (ownSlot 3 (zMs8 536)); readFineSet 3 EntriesCopied_10_sc.pos u = u) := by decide +kernel
def EntriesCopied_11_s : State := ((zMs8 536).updSlice 3 fun x => {x with lastSlot := x.hclk + 1})
def EntriesCopied_11_sc : Scan := {sc67 with pos := 536}
theorem wit_EntriesCopied_11 : (EntriesCopied_11_s.canon = true) ∧ (3 < EntriesCopied_11_s.par.nSlice) ∧ ((EntriesCopied_11_s.slice 3).serving = true) ∧ ((EntriesCopied_11_s.slice 3).scan ScanKind.move = some EntriesCopied_11_sc) ∧ (EntriesCopied_11_s.paused 3 = true ∨ (EntriesCopied_11_s.slice 3).slotOpen = false ∨ EntriesCopied_11_s.slotDue 3 EntriesCopied_11_sc = false) := by decide

/-! ShimTakesMessages -/
def ShimTakesMessages_1_det : Detail := (rxDetail (encode mO) false)
theorem wit_ShimTakesMessages_1 : ((admS 207 3 z).canon = true) ∧ ((admS 207 3 z).hasShim 207 = true) ∧ (207 < 288) ∧ (((admS 207 3 z).shim 207).assay.inj.count = 0) ∧ (∀ (b : ℕ), ((admS 207 3 z).bmap 207 b).bad = false) ∧ (∀ kv ∈ ((admS 207 3 z).shim 207).streams, kv.2.bad = false) ∧ (spells (encode mO) mO ShimTakesMessages_1_det) ∧ (((admS 207 3 z).shim 207).room mO = true) ∧ (((admS 207 3 z).shim 207).silenced = false) ∧ (((admS 207 3 z).shim 207).cut = false) ∧ (((admS 207 3 z).shim 207).st = ShimSt.admitted) ∧ (mO.legal ((admS 207 3 z).shim 207).neg (isCaching 207) = true) ∧ ((mO.op.isLineReq || mO.op.isWbk) = true) ∧ (mO.ord = 0) := by (repeat' apply And.intro) <;> first | decide +kernel | exact fun _ => rfl | (intro b h; cases h) | (intro b h; exact absurd h (by decide +kernel))
def ShimTakesMessages_5_det : Detail := (rxDetail (encode mO) false)
theorem wit_ShimTakesMessages_5 : (zFull8.canon = true) ∧ (zFull8.hasShim 207 = true) ∧ (207 < 288) ∧ ((zFull8.shim 207).assay.inj.count = 0) ∧ (∀ (b : ℕ), (zFull8.bmap 207 b).bad = false) ∧ (∀ kv ∈ (zFull8.shim 207).streams, kv.2.bad = false) ∧ (spells (encode mO) mO ShimTakesMessages_5_det) ∧ ((zFull8.shim 207).room mO = false) := by (repeat' apply And.intro) <;> first | decide +kernel | exact fun _ => rfl | (intro b h; cases h) | (intro b h; exact absurd h (by decide +kernel))
def ShimTakesMessages_7_det : Detail := (rxDetail (encode mSD) false)
theorem wit_ShimTakesMessages_7 : ((admS 207 3 z).canon = true) ∧ ((admS 207 3 z).hasShim 207 = true) ∧ (207 < 288) ∧ (((admS 207 3 z).shim 207).assay.inj.count = 0) ∧ (∀ (b : ℕ), ((admS 207 3 z).bmap 207 b).bad = false) ∧ (∀ kv ∈ ((admS 207 3 z).shim 207).streams, kv.2.bad = false) ∧ (spells (encode mSD) mSD ShimTakesMessages_7_det) ∧ (((admS 207 3 z).shim 207).room mSD = true) ∧ (((admS 207 3 z).shim 207).silenced = false) ∧ (((admS 207 3 z).shim 207).cut = false) ∧ (((admS 207 3 z).shim 207).st = ShimSt.admitted) ∧ (mSD.legal ((admS 207 3 z).shim 207).neg (isCaching 207) = true) ∧ (mSD.op.cls = 3) ∧ (mSD.op ≠ Op.stashTake) := by (repeat' apply And.intro) <;> first | decide +kernel | exact fun _ => rfl | (intro b h; cases h) | (intro b h; exact absurd h (by decide +kernel))
def ShimTakesMessages_8_det : Detail := (rxDetail (encode mWB) false)
theorem wit_ShimTakesMessages_8 : ((admS 207 3 z).canon = true) ∧ ((admS 207 3 z).hasShim 207 = true) ∧ (207 < 288) ∧ (((admS 207 3 z).shim 207).assay.inj.count = 0) ∧ (∀ (b : ℕ), ((admS 207 3 z).bmap 207 b).bad = false) ∧ (∀ kv ∈ ((admS 207 3 z).shim 207).streams, kv.2.bad = false) ∧ (spells (encode mWB) mWB ShimTakesMessages_8_det) ∧ (((admS 207 3 z).shim 207).room mWB = true) ∧ (((admS 207 3 z).shim 207).silenced = false) ∧ (((admS 207 3 z).shim 207).cut = false) ∧ (((admS 207 3 z).shim 207).st = ShimSt.admitted) ∧ (mWB.legal ((admS 207 3 z).shim 207).neg (isCaching 207) = true) ∧ (mWB.op.cls = 4) := by (repeat' apply And.intro) <;> first | decide +kernel | exact fun _ => rfl | (intro b h; cases h) | (intro b h; exact absurd h (by decide +kernel))
def ShimTakesMessages_9_det : Detail := (rxDetail (encode mO) false)
theorem wit_ShimTakesMessages_9 : ((admS 287 3 z).canon = true) ∧ ((admS 287 3 z).hasShim 287 = true) ∧ (287 < 288) ∧ (((admS 287 3 z).shim 287).assay.inj.count = 0) ∧ (∀ (b : ℕ), ((admS 287 3 z).bmap 287 b).bad = false) ∧ (∀ kv ∈ ((admS 287 3 z).shim 287).streams, kv.2.bad = false) ∧ (spells (encode mO) mO ShimTakesMessages_9_det) ∧ (((admS 287 3 z).shim 287).room mO = true) ∧ (((admS 287 3 z).shim 287).silenced = false) ∧ (((admS 287 3 z).shim 287).cut = false) ∧ ((mO.op.isReq || mO.op.isWbk) = true) ∧ (((admS 287 3 z).shim 287).st = ShimSt.admitted ∧ mO.legal ((admS 287 3 z).shim 287).neg (isCaching 287) = false ∧ rsIllegal = rsIllegal ∧ 3 = 3 ∨ (((admS 287 3 z).shim 287).st = ShimSt.idle ∨ ((admS 287 3 z).shim 287).st = ShimSt.admitting) ∧ rsIllegal = rsNotAdm ∧ 3 = 4) := by (repeat' apply And.intro) <;> first | decide +kernel | exact fun _ => rfl | (intro b h; cases h) | (intro b h; exact absurd h (by decide +kernel))
def ShimTakesMessages_12_det : Detail := (rxDetail (encode mST) false)
theorem wit_ShimTakesMessages_12 : ((admS 207 3 z).canon = true) ∧ ((admS 207 3 z).hasShim 207 = true) ∧ (207 < 288) ∧ (((admS 207 3 z).shim 207).assay.inj.count = 0) ∧ (∀ (b : ℕ), ((admS 207 3 z).bmap 207 b).bad = false) ∧ (∀ kv ∈ ((admS 207 3 z).shim 207).streams, kv.2.bad = false) ∧ (spells (encode mST) mST ShimTakesMessages_12_det) ∧ (((admS 207 3 z).shim 207).room mST = true) ∧ (((admS 207 3 z).shim 207).silenced = false) ∧ (((admS 207 3 z).shim 207).cut = false) ∧ (((admS 207 3 z).shim 207).st = ShimSt.admitted) ∧ (mST.legal ((admS 207 3 z).shim 207).neg (isCaching 207) = true) ∧ (mST.op = Op.stashTake) ∧ (nodeSlice mST.dst = some 3) := by (repeat' apply And.intro) <;> first | decide +kernel | exact fun _ => rfl | (intro b h; cases h) | (intro b h; exact absurd h (by decide +kernel))
def ShimTakesMessages_13_s : State := ((admS 207 3 z).updShim 207 fun x => {x with silenced := true})
def ShimTakesMessages_13_det : Detail := (rxDetail (encode mO) false)
theorem wit_ShimTakesMessages_13 : (ShimTakesMessages_13_s.canon = true) ∧ (ShimTakesMessages_13_s.hasShim 207 = true) ∧ (207 < 288) ∧ ((ShimTakesMessages_13_s.shim 207).assay.inj.count = 0) ∧ (∀ (b : ℕ), (ShimTakesMessages_13_s.bmap 207 b).bad = false) ∧ (∀ kv ∈ (ShimTakesMessages_13_s.shim 207).streams, kv.2.bad = false) ∧ (spells (encode mO) mO ShimTakesMessages_13_det) ∧ ((ShimTakesMessages_13_s.shim 207).room mO = true) ∧ ((ShimTakesMessages_13_s.shim 207).silenced = true ∨ (ShimTakesMessages_13_s.shim 207).cut = true) := by (repeat' apply And.intro) <;> first | decide +kernel | exact fun _ => rfl | (intro b h; cases h) | (intro b h; exact absurd h (by decide +kernel))
def ShimTakesMessages_14_s : State := ((admS 207 3 z).updShim 207 fun x => {x with st := .fenced})
def ShimTakesMessages_14_det : Detail := (rxDetail (encode mO) false)
theorem wit_ShimTakesMessages_14 : (ShimTakesMessages_14_s.canon = true) ∧ (ShimTakesMessages_14_s.hasShim 207 = true) ∧ (207 < 288) ∧ ((ShimTakesMessages_14_s.shim 207).assay.inj.count = 0) ∧ (∀ (b : ℕ), (ShimTakesMessages_14_s.bmap 207 b).bad = false) ∧ (∀ kv ∈ (ShimTakesMessages_14_s.shim 207).streams, kv.2.bad = false) ∧ (spells (encode mO) mO ShimTakesMessages_14_det) ∧ ((ShimTakesMessages_14_s.shim 207).room mO = true) ∧ ((ShimTakesMessages_14_s.shim 207).silenced = false) ∧ ((ShimTakesMessages_14_s.shim 207).cut = false) ∧ ((ShimTakesMessages_14_s.shim 207).st = ShimSt.fenced) ∧ ((mO.op.isReq || mO.op.isWbk) = true) := by (repeat' apply And.intro) <;> first | decide +kernel | exact fun _ => rfl | (intro b h; cases h) | (intro b h; exact absurd h (by decide +kernel))

/-! ShimInjectsAndDelivers -/
def ShimInjectsAndDelivers_1_s : State := (zI fun x => {x with reqQ := [q mO 5, q {mO with rqtx := 4} 64], rspQ := [q mSD 0]})
def ShimInjectsAndDelivers_1_q : QMsg := (q {mO with rqtx := 4} 64)
theorem wit_ShimInjectsAndDelivers_1 : (ShimInjectsAndDelivers_1_s.canon = true) ∧ (ShimInjectsAndDelivers_1_s.hasShim 207 = true) ∧ (List.find? (fun q => decide (64 ≤ q.wait)) (ShimInjectsAndDelivers_1_s.shim 207).reqQ = some ShimInjectsAndDelivers_1_q) := by decide
def ShimInjectsAndDelivers_2_s : State := (zI fun x => {x with reqQ := [q mO 63], rspQ := [q mSD 0], datQ := [q mWB 0]})
def ShimInjectsAndDelivers_2_l : List QMsg := []
theorem wit_ShimInjectsAndDelivers_2 : (ShimInjectsAndDelivers_2_s.canon = true) ∧ (ShimInjectsAndDelivers_2_s.hasShim 207 = true) ∧ (List.find? (fun q => decide (64 ≤ q.wait)) (ShimInjectsAndDelivers_2_s.shim 207).reqQ = none) ∧ ((ShimInjectsAndDelivers_2_s.shim 207).rspQ = (q mSD 0) :: ShimInjectsAndDelivers_2_l) := by decide +kernel
def ShimInjectsAndDelivers_3_s : State := (zI fun x => {x with reqQ := [q mO 63], wbkQ := [q mW 0], datQ := [q mWB 0]})
def ShimInjectsAndDelivers_3_l : List QMsg := []
theorem wit_ShimInjectsAndDelivers_3 : (ShimInjectsAndDelivers_3_s.canon = true) ∧ (ShimInjectsAndDelivers_3_s.hasShim 207 = true) ∧ (List.find? (fun q => decide (64 ≤ q.wait)) (ShimInjectsAndDelivers_3_s.shim 207).reqQ = none) ∧ ((ShimInjectsAndDelivers_3_s.shim 207).rspQ = []) ∧ ((ShimInjectsAndDelivers_3_s.shim 207).datQ = (q mWB 0) :: ShimInjectsAndDelivers_3_l) := by decide +kernel
def ShimInjectsAndDelivers_4_s : State := (zI fun x => {x with reqQ := [q mO 63], wbkQ := [q mW 0]})
def ShimInjectsAndDelivers_4_l : List QMsg := []
theorem wit_ShimInjectsAndDelivers_4 : (ShimInjectsAndDelivers_4_s.canon = true) ∧ (ShimInjectsAndDelivers_4_s.hasShim 207 = true) ∧ (List.find? (fun q => decide (64 ≤ q.wait)) (ShimInjectsAndDelivers_4_s.shim 207).reqQ = none) ∧ ((ShimInjectsAndDelivers_4_s.shim 207).rspQ = []) ∧ ((ShimInjectsAndDelivers_4_s.shim 207).datQ = []) ∧ ((ShimInjectsAndDelivers_4_s.shim 207).wbkQ = (q mW 0) :: ShimInjectsAndDelivers_4_l) := by decide +kernel
def ShimInjectsAndDelivers_5_s : State := (zI fun x => {x with reqQ := [q mO 63]})
def ShimInjectsAndDelivers_5_l : List QMsg := []
theorem wit_ShimInjectsAndDelivers_5 : (ShimInjectsAndDelivers_5_s.canon = true) ∧ (ShimInjectsAndDelivers_5_s.hasShim 207 = true) ∧ (List.find? (fun q => decide (64 ≤ q.wait)) (ShimInjectsAndDelivers_5_s.shim 207).reqQ = none) ∧ ((ShimInjectsAndDelivers_5_s.shim 207).rspQ = []) ∧ ((ShimInjectsAndDelivers_5_s.shim 207).datQ = []) ∧ ((ShimInjectsAndDelivers_5_s.shim 207).wbkQ = []) ∧ ((ShimInjectsAndDelivers_5_s.shim 207).reqQ = (q mO 63) :: ShimInjectsAndDelivers_5_l) ∧ ((q mO 63).m.op ≠ Op.pfHint) := by decide +kernel
theorem wit_ShimInjectsAndDelivers_6 : (z.canon = true) ∧ (z.hasShim 207 = true) ∧ (List.find? (fun q => decide (64 ≤ q.wait)) (z.shim 207).reqQ = none) ∧ ((z.shim 207).rspQ = []) ∧ ((z.shim 207).datQ = []) ∧ ((z.shim 207).wbkQ = []) ∧ ((z.shim 207).reqQ = []) := by decide
def ShimInjectsAndDelivers_7_s : State := (mesh mSeal (zI fun x => {x with rspIn := List.replicate 32 mSeal}))
theorem wit_ShimInjectsAndDelivers_7 : (ShimInjectsAndDelivers_7_s.canon = true) ∧ (ShimInjectsAndDelivers_7_s.hasShim 207 = true) ∧ (207 < 288) ∧ ((ShimInjectsAndDelivers_7_s.shim 207).assay.inj.count = 0) ∧ (arrives (encode mSeal) (agentNode 207) mSeal) ∧ ((ShimInjectsAndDelivers_7_s.shim 207).roomIn mSeal = false) := by decide +kernel
def ShimInjectsAndDelivers_8_s : State := (mesh mSeal (zI id))
theorem wit_ShimInjectsAndDelivers_8 : (ShimInjectsAndDelivers_8_s.canon = true) ∧ (ShimInjectsAndDelivers_8_s.hasShim 207 = true) ∧ (207 < 288) ∧ ((ShimInjectsAndDelivers_8_s.shim 207).assay.inj.count = 0) ∧ (arrives (encode mSeal) (agentNode 207) mSeal) ∧ ((ShimInjectsAndDelivers_8_s.shim 207).roomIn mSeal = true) := by decide +kernel
def ShimInjectsAndDelivers_9_s : State := (mesh mG (zI fun x => {x with silenced := true}))
theorem wit_ShimInjectsAndDelivers_9 : (ShimInjectsAndDelivers_9_s.canon = true) ∧ (ShimInjectsAndDelivers_9_s.hasShim 207 = true) ∧ (207 < 288) ∧ ((ShimInjectsAndDelivers_9_s.shim 207).assay.inj.count = 0) ∧ (arrives (encode mG) (agentNode 207) mG) ∧ ((ShimInjectsAndDelivers_9_s.shim 207).roomIn mG = true) := by decide +kernel
def ShimInjectsAndDelivers_10_s : State := (mesh mG (zI fun x => {x with outst := [{out1 with rqtx := 4}, out1]}))
theorem wit_ShimInjectsAndDelivers_10 : (ShimInjectsAndDelivers_10_s.canon = true) ∧ (ShimInjectsAndDelivers_10_s.hasShim 207 = true) ∧ (207 < 288) ∧ ((ShimInjectsAndDelivers_10_s.shim 207).assay.inj.count = 0) ∧ (arrives (encode mG) (agentNode 207) mG) ∧ ((ShimInjectsAndDelivers_10_s.shim 207).roomIn mG = true) := by decide +kernel
def ShimInjectsAndDelivers_11_s : State := (mesh mG (zI fun x => {x with outst := [{out1 with rqtx := 4}, out1]}))
theorem wit_ShimInjectsAndDelivers_11 : (ShimInjectsAndDelivers_11_s.canon = true) ∧ (ShimInjectsAndDelivers_11_s.hasShim 207 = true) ∧ (207 < 288) ∧ ((ShimInjectsAndDelivers_11_s.shim 207).assay.inj.count = 0) ∧ (arrives (encode mG) (agentNode 207) mG) ∧ ((ShimInjectsAndDelivers_11_s.shim 207).roomIn mG = true) ∧ (notAtAgent (isCaching 207) mG = false) ∧ ((ShimInjectsAndDelivers_11_s.shim 207).silenced = false) ∧ ((ShimInjectsAndDelivers_11_s.shim 207).st ≠ ShimSt.idle) ∧ ((ShimInjectsAndDelivers_11_s.shim 207).cut = false) ∧ ((ShimInjectsAndDelivers_11_s.shim 207).lostMsg mG = false) ∧ ((ShimInjectsAndDelivers_11_s.shim 207).drainGrant mG = none) ∧ ((ShimInjectsAndDelivers_11_s.shim 207).stashData mG = none) ∧ ((ShimInjectsAndDelivers_11_s.shim 207).lateAns mG = none) := by decide +kernel

/-! DrainAndMapSteps -/
def DrainAndMapSteps_1_s : State := (zI fun x => {x with drains := [dr], seq := 1, drainVec := 0x80000000000000009#68, lost := [3]})
theorem wit_DrainAndMapSteps_1 : (DrainAndMapSteps_1_s.canon = true) ∧ (DrainAndMapSteps_1_s.hasShim 207 = true) ∧ ((DrainAndMapSteps_1_s.shim 207).drains = [dr]) ∧ ((DrainAndMapSteps_1_s.shim 207).drainReady dr = true) ∧ (List.filter (fun n => bit (DrainAndMapSteps_1_s.shim 207).drainVec n && !(DrainAndMapSteps_1_s.shim 207).lost.contains n) (List.range 68) ≠ []) := by decide
def DrainAndMapSteps_2_s : State := (zI fun x => {x with drains := [dr], seq := 1, drainVec := 8, lost := [3]})
theorem wit_DrainAndMapSteps_2 : (DrainAndMapSteps_2_s.canon = true) ∧ (DrainAndMapSteps_2_s.hasShim 207 = true) ∧ ((DrainAndMapSteps_2_s.shim 207).drains = [dr]) ∧ ((DrainAndMapSteps_2_s.shim 207).drainReady dr = true) ∧ (List.filter (fun n => bit (DrainAndMapSteps_2_s.shim 207).drainVec n && !(DrainAndMapSteps_2_s.shim 207).lost.contains n) (List.range 68) = []) ∧ (dr.held = none) ∧ (dr.gone = false) := by decide
def DrainAndMapSteps_3_s : State := (mesh mGd (zI fun x => {x with drains := [drS], seq := 1, drainVec := 9}))
theorem wit_DrainAndMapSteps_3 : (DrainAndMapSteps_3_s.canon = true) ∧ (DrainAndMapSteps_3_s.hasShim 207 = true) ∧ (207 < 288) ∧ ((DrainAndMapSteps_3_s.shim 207).assay.inj.count = 0) ∧ (arrives (encode mGd) (agentNode 207) mGd) ∧ ((DrainAndMapSteps_3_s.shim 207).silenced = false) ∧ ((DrainAndMapSteps_3_s.shim 207).st ≠ ShimSt.idle) ∧ ((DrainAndMapSteps_3_s.shim 207).roomIn mGd = true) ∧ ((DrainAndMapSteps_3_s.shim 207).lost = []) ∧ ((DrainAndMapSteps_3_s.shim 207).drains = [drS]) ∧ (drS.sent = true) ∧ (drS.held = none) ∧ (drS.gone = false) ∧ (drS.waiting = [67]) ∧ (mGd.op = Op.grant) ∧ (mGd.rqtx = drS.rqtx) ∧ (nodeSlice mGd.src = some 67) := by decide +kernel
def DrainAndMapSteps_4_s : State := (wires [mu] (zI fun x => {x with outst := [out1], seq := 1}))
theorem wit_DrainAndMapSteps_4 : (DrainAndMapSteps_4_s.canon = true) ∧ (DrainAndMapSteps_4_s.tablesRise = true) ∧ (DrainAndMapSteps_4_s.hasShim 207 = true) ∧ ((DrainAndMapSteps_4_s.findWire 0 fun w =>     match w with     | Wire.mapUpdate k b slice engine gen needAck => decide (k = 207)     | x => false) =   some (Wire.mapUpdate 207 67 5 2 (1 : BitVec 6) true)) ∧ (newerGen (1 : BitVec 6) (DrainAndMapSteps_4_s.bmap 207 67).gen = true ∨ (1 : BitVec 6) = (DrainAndMapSteps_4_s.bmap 207 67).gen) := by decide
def DrainAndMapSteps_6_s : State := (wires [mu] (zI fun x => {x with outst := [{out1 with bucket := 68}], seq := 1}))
theorem wit_DrainAndMapSteps_6 : (DrainAndMapSteps_6_s.canon = true) ∧ (DrainAndMapSteps_6_s.tablesRise = true) ∧ (DrainAndMapSteps_6_s.hasShim 207 = true) ∧ ((DrainAndMapSteps_6_s.findWire 0 fun w =>     match w with     | Wire.mapUpdate k b slice engine gen needAck => decide (k = 207)     | x => false) =   some (Wire.mapUpdate 207 67 5 2 (1 : BitVec 6) true)) ∧ (newerGen (1 : BitVec 6) (DrainAndMapSteps_6_s.bmap 207 67).gen = true ∨ (1 : BitVec 6) = (DrainAndMapSteps_6_s.bmap 207 67).gen) := by decide
def DrainAndMapSteps_8_s : State := (wires [mu] (z.setBmap 207 67 {slice := 5, engine := 2, gen := 3}))
theorem wit_DrainAndMapSteps_8 : (DrainAndMapSteps_8_s.canon = true) ∧ (DrainAndMapSteps_8_s.tablesRise = true) ∧ (DrainAndMapSteps_8_s.hasShim 207 = true) ∧ ((DrainAndMapSteps_8_s.findWire 0 fun w =>     match w with     | Wire.mapUpdate k b slice engine gen needAck => decide (k = 207)     | x => false) =   some (Wire.mapUpdate 207 67 5 2 (1 : BitVec 6) true)) ∧ (newerGen (1 : BitVec 6) (DrainAndMapSteps_8_s.bmap 207 67).gen = false) ∧ ((1 : BitVec 6) ≠ (DrainAndMapSteps_8_s.bmap 207 67).gen) := by decide
def DrainAndMapSteps_9_s : State := (wires [ls] (zI fun x => {x with outst := [out1], seq := 1, reqQ := [q {op := .drainW, dst := sliceNode 67} 0, q mO 0]}))
def DrainAndMapSteps_9_l : List (BitVec 10 × ℕ) := [3,9]
theorem wit_DrainAndMapSteps_9 : (DrainAndMapSteps_9_s.canon = true) ∧ (DrainAndMapSteps_9_s.hasShim 207 = true) ∧ ((DrainAndMapSteps_9_s.findWire 0 fun w =>     match w with     | Wire.lostNotice k slice rqtxs => decide (k = 207)     | x => false) =   some (Wire.lostNotice 207 67 DrainAndMapSteps_9_l)) ∧ ((DrainAndMapSteps_9_s.shim 207).silenced = false) ∧ ((DrainAndMapSteps_9_s.shim 207).st ≠ ShimSt.idle) ∧ ((DrainAndMapSteps_9_s.shim 207).cut = false) ∧ ((DrainAndMapSteps_9_s.shim 207).drains = []) := by decide

/-! AgentAndShimReset -/
theorem wit_AgentAndShimReset_1 : (zAr8.canon = true) ∧ (zAr8.hasShim 207 = true) ∧ ((zAr8.shim 207).st = ShimSt.admitting ∨ (zAr8.shim 207).st = ShimSt.admitted) := by decide
theorem wit_AgentAndShimReset_4 : (z.canon = true) ∧ (z.hasShim 207 = true) ∧ ((z.shim 207).st = ShimSt.idle ∨ (z.shim 207).st = ShimSt.fenced) := by decide
def AgentAndShimReset_5_s : State := (z.updShim 287 fun x => {x with resetPending := true, pfDepth := 2, drainVec := 8})
theorem wit_AgentAndShimReset_5 : (AgentAndShimReset_5_s.canon = true) ∧ (AgentAndShimReset_5_s.hasShim 287 = true) ∧ ((AgentAndShimReset_5_s.shim 287).st = ShimSt.idle) ∧ ((AgentAndShimReset_5_s.shim 287).resetPending = true) := by decide
theorem wit_AgentAndShimReset_6 : (zAr8.canon = true) ∧ (zAr8.hasShim 207 = true) ∧ ((zAr8.shim 207).st ≠ ShimSt.idle ∨ (zAr8.shim 207).resetPending = false) := by decide

/-! HeaderChecks -/
def HeaderChecks_1_s : State := (at3 (z.setBkt 3 67 {kind := .frozen, engine := 1}))
theorem wit_HeaderChecks_1 : (HeaderChecks_1_s.canon = true) ∧ (HeaderChecks_1_s.mayHead 3 (encode mH) mH) ∧ ((mH.op.isReq || mH.op.isWbk) = true) ∧ (mH.op.notAtSlice = false) ∧ (senderOk mH = true) ∧ (mH.op ≠ Op.drainW) ∧ (mH.op ≠ Op.pfHint) ∧ ((HeaderChecks_1_s.bkt 3 (bucketOf mH.addr)).bad = false) ∧ ((HeaderChecks_1_s.bkt 3 (bucketOf mH.addr)).kind = BKind.frozen) := by decide +kernel
def HeaderChecks_2_s : State := (mesh mH1 (z.setBkt 3 67 {kind := .stub, gen := 0, peer := 5}))
theorem wit_HeaderChecks_2 : (HeaderChecks_2_s.canon = true) ∧ (HeaderChecks_2_s.mayHead 3 (encode mH1) mH1) ∧ ((mH1.op.isReq || mH1.op.isWbk) = true) ∧ (mH1.op.notAtSlice = false) ∧ (senderOk mH1 = true) ∧ (mH1.op ≠ Op.drainW) ∧ (mH1.op ≠ Op.pfHint) ∧ ((HeaderChecks_2_s.bkt 3 (bucketOf mH1.addr)).bad = false) ∧ ((HeaderChecks_2_s.bkt 3 (bucketOf mH1.addr)).kind = BKind.stub) ∧ (1 ≤ ((HeaderChecks_2_s.bkt 3 (bucketOf mH1.addr)).gen - mH1.gen).toNat) ∧ (((HeaderChecks_2_s.bkt 3 (bucketOf mH1.addr)).gen - mH1.gen).toNat < 32) := by decide +kernel
def HeaderChecks_3_s : State := (at3 (z.setBkt 3 67 {}))
theorem wit_HeaderChecks_3 : (HeaderChecks_3_s.canon = true) ∧ (HeaderChecks_3_s.mayHead 3 (encode mH) mH) ∧ ((mH.op.isReq || mH.op.isWbk) = true) ∧ (mH.op.notAtSlice = false) ∧ (senderOk mH = true) ∧ (mH.op ≠ Op.drainW) ∧ (mH.op ≠ Op.pfHint) ∧ ((HeaderChecks_3_s.bkt 3 (bucketOf mH.addr)).bad = false) ∧ ((HeaderChecks_3_s.bkt 3 (bucketOf mH.addr)).kind = BKind.none) := by decide +kernel
theorem wit_HeaderChecks_4 : ((at3 z).canon = true) ∧ ((at3 z).mayHead 3 (encode mH) mH) ∧ ((mH.op.isReq || mH.op.isWbk) = true) ∧ (mH.op.notAtSlice = false) ∧ (senderOk mH = true) ∧ (mH.op ≠ Op.drainW) ∧ (mH.op ≠ Op.pfHint) ∧ (((at3 z).bkt 3 (bucketOf mH.addr)).bad = false) ∧ (((at3 z).bkt 3 (bucketOf mH.addr)).kind = BKind.owned) ∧ ((((at3 z).bkt 3 (bucketOf mH.addr)).gen - mH.gen).toNat < 32) ∧ ((((at3 z).slice 3).poolFor mH).isSome = true) ∧ (((at3 z).slice 3).mayTake 255 mH = true) ∧ ((at3 z).rgPass mH = true) := by decide +kernel
def HeaderChecks_6_s : State := (at3 ((owning 2 z).updProt fun p => {p with rg := p.rg.map fun kv => (kv.1, {kv.2 with colours := 2})}))
theorem wit_HeaderChecks_6 : (HeaderChecks_6_s.canon = true) ∧ (HeaderChecks_6_s.mayHead 3 (encode mH) mH) ∧ ((mH.op.isReq || mH.op.isWbk) = true) ∧ (mH.op.notAtSlice = false) ∧ (senderOk mH = true) ∧ (mH.op ≠ Op.drainW) ∧ (mH.op ≠ Op.pfHint) ∧ ((HeaderChecks_6_s.bkt 3 (bucketOf mH.addr)).bad = false) ∧ ((HeaderChecks_6_s.bkt 3 (bucketOf mH.addr)).kind = BKind.owned) ∧ (((HeaderChecks_6_s.bkt 3 (bucketOf mH.addr)).gen - mH.gen).toNat < 32) ∧ (((HeaderChecks_6_s.slice 3).poolFor mH).isSome = true) ∧ ((HeaderChecks_6_s.slice 3).mayTake 255 mH = true) ∧ (HeaderChecks_6_s.rgPass mH = false) ∧ (mH.op = Op.rdShare ∨ mH.op = Op.rdOwn ∨ mH.op = Op.rdOnce) := by decide +kernel
theorem wit_HeaderChecks_7 : ((mesh mD z).canon = true) ∧ ((mesh mD z).tablesRise = true) ∧ ((mesh mD z).mayHead 3 (encode mD) mD) ∧ (mD.op = Op.drainW) ∧ ((((mesh mD z).slice 3).poolFor mD).isSome = true) ∧ (((mesh mD z).slice 3).mayTake 255 mD = true) ∧ (∀ kv ∈ ((mesh mD z).slice 3).trk, kv.2.src = mD.src → kv.2.age < ((mesh mD z).slice 3).allocSeq → kv.2.passed = true) := by decide +kernel
def HeaderChecks_8_s : State := (mesh mD (phase 3 .hold z))
theorem wit_HeaderChecks_8 : (3 < HeaderChecks_8_s.par.nSlice) ∧ ((HeaderChecks_8_s.slice 3).conds.phase = Phase.hold) ∧ ((HeaderChecks_8_s.slice 3).assay.inj.count = 0) ∧ (arrives (encode mD) (sliceNode 3) mD) ∧ (HeaderChecks_8_s.nodeBuilt mD.src = true) ∧ (mD.op = Op.drainW) := by decide +kernel
theorem wit_HeaderChecks_9 : (3 < (trk 3 4 kCh z).par.nSlice) ∧ ((trk 3 4 kCh z).trk 3 4 = some kCh) ∧ (kCh.stage = Stage.chain) ∧ (((trk 3 4 kCh z).slice 3).lineFree (lineOf kCh.addr) kCh.src.toNat kCh.age = true) := by decide +kernel
def HeaderChecks_10_s : State := (trk 3 5 {tk (.msg .rdOwn) a67 with stage := .live} (trk 3 4 kCh z))
theorem wit_HeaderChecks_10 : (3 < HeaderChecks_10_s.par.nSlice) ∧ (HeaderChecks_10_s.trk 3 4 = some kCh) ∧ (kCh.stage ≠ Stage.chain ∨ (HeaderChecks_10_s.slice 3).lineFree (lineOf kCh.addr) kCh.src.toNat kCh.age = false) := by decide +kernel
def HeaderChecks_11_s : State := (mesh {mH with gen := 5} (adm [5] 3 z))
def HeaderChecks_11_f : Flits := (encode {mH with gen := 5})
def HeaderChecks_11_m : Msg := {mH with gen := 5}
theorem wit_HeaderChecks_11 : (HeaderChecks_11_s.canon = true) ∧ (HeaderChecks_11_s.mayHead 3 HeaderChecks_11_f HeaderChecks_11_m) ∧ ((HeaderChecks_11_m.op.isReq || HeaderChecks_11_m.op.isWbk) = true) ∧ (HeaderChecks_11_m.op.notAtSlice = false) ∧ (senderOk HeaderChecks_11_m = true) ∧ (HeaderChecks_11_m.op ≠ Op.drainW) ∧ (HeaderChecks_11_m.op ≠ Op.pfHint) ∧ ((HeaderChecks_11_s.bkt 3 (bucketOf HeaderChecks_11_m.addr)).bad = false) ∧ ((HeaderChecks_11_s.bkt 3 (bucketOf HeaderChecks_11_m.addr)).kind = BKind.owned) ∧ (32 ≤ ((HeaderChecks_11_s.bkt 3 (bucketOf HeaderChecks_11_m.addr)).gen - HeaderChecks_11_m.gen).toNat) := by decide +kernel

/-! DecisionActs -/
def DecisionActs_1_s : State := (dec .rdOwn (fineIn 3 a67 9 fx z))
theorem wit_DecisionActs_1 : (DecisionActs_1_s.decides 3 4 (kR .rdOwn)) ∧ ((kR .rdOwn).kind = TKind.msg Op.rdOwn) ∧ ((kR .rdOwn).soft = false) ∧ ((DecisionActs_1_s.lookup 3 (lineOf (kR .rdOwn).addr)).anvil = false) ∧ ((DecisionActs_1_s.lookup 3 (lineOf (kR .rdOwn).addr)).res = LRes.x) ∧ ((DecisionActs_1_s.lookup 3 (lineOf (kR .rdOwn).addr)).fine.owner = some 6) ∧ ((DecisionActs_1_s.slice 3).admitted 6 = true) ∧ (6 ≠ (kR .rdOwn).src.toNat) ∧ (Op.rdOwn = Op.rdShare ∨ Op.rdOwn = Op.rdOwn ∨ Op.rdOwn = Op.upgrade) := by decide +kernel
def DecisionActs_3_s : State := (dec .rdOwn (fineIn 3 a67 9 (fx.setP [6] 0) z))
theorem wit_DecisionActs_3 : (DecisionActs_3_s.decides 3 4 (kR .rdOwn)) ∧ ((kR .rdOwn).kind = TKind.msg Op.rdOwn) ∧ ((kR .rdOwn).soft = false) ∧ ((DecisionActs_3_s.lookup 3 (lineOf (kR .rdOwn).addr)).anvil = false) ∧ ((DecisionActs_3_s.lookup 3 (lineOf (kR .rdOwn).addr)).res = LRes.p) ∧ (Op.rdOwn = Op.rdShare ∨ (Op.rdOwn = Op.rdOwn ∨ Op.rdOwn = Op.upgrade) ∨ Op.rdOwn = Op.rdOnce) := by decide +kernel
def DecisionActs_5_s : State := (dec .upgrade (fineIn 3 a67 9 (fx.setS [5] 0) z))
theorem wit_DecisionActs_5 : (DecisionActs_5_s.decides 3 4 (kR .upgrade)) ∧ ((kR .upgrade).kind = TKind.msg Op.upgrade) ∧ ((kR .upgrade).soft = false) ∧ ((DecisionActs_5_s.lookup 3 (lineOf (kR .upgrade).addr)).anvil = false) ∧ ((DecisionActs_5_s.lookup 3 (lineOf (kR .upgrade).addr)).res = LRes.s) ∧ (Op.upgrade = Op.upgrade) ∧ ((DecisionActs_5_s.lookup 3 (lineOf (kR .upgrade).addr)).fine.sfmt = false) ∧ ((DecisionActs_5_s.lookup 3 (lineOf (kR .upgrade).addr)).fine.slots = [(kR .upgrade).src.toNat]) := by decide +kernel
def DecisionActs_6_s : State := (dec .rdOnce (mrt0 z))
theorem wit_DecisionActs_6 : (DecisionActs_6_s.decides 3 4 (kR .rdOnce)) ∧ ((kR .rdOnce).kind = TKind.msg Op.rdOnce) ∧ ((kR .rdOnce).soft = false) ∧ ((DecisionActs_6_s.lookup 3 (lineOf (kR .rdOnce).addr)).anvil = false) ∧ ((DecisionActs_6_s.lookup 3 (lineOf (kR .rdOnce).addr)).res = LRes.i) ∧ (Op.rdOnce = Op.rdOnce) ∧ (DecisionActs_6_s.unbuffered 3 (kR .rdOnce)) ∧ (DecisionActs_6_s.hlcFind 3 (lineOf (kR .rdOnce).addr) = none) ∧ (DecisionActs_6_s.memDest (lineOf (kR .rdOnce).addr) = Dest.port 7) ∧ (DecisionActs_6_s.rdFree 3 (portNode 7) = true) := by decide +kernel

/-! StrayMessages -/
def StrayMessages_1_f : Flits := (encode (stray mSD))
def StrayMessages_1_c : Instr := (.snDone 3 (encode (stray mSD)))
theorem wit_StrayMessages_1 : ((zS mSD).receives 3 StrayMessages_1_f (stray mSD)) ∧ ((zS mSD).trk 3 (stray mSD).htrk.toNat = none) ∧ (mfind ((zS mSD).slice 3).fences (stray mSD).htrk.toNat = none) ∧ ((stray mSD).op = Op.snDone ∧ StrayMessages_1_c = Instr.snDone 3 StrayMessages_1_f ∨ (stray mSD).op = Op.cnsLine ∧ StrayMessages_1_c = Instr.cnsLine 3 0 StrayMessages_1_f ∨ (stray mSD).op = Op.datWb ∧ StrayMessages_1_c = Instr.datWb 3 StrayMessages_1_f ∨ (stray mSD).op = Op.seal ∧ StrayMessages_1_c = Instr.seal 3 StrayMessages_1_f ∨ (stray mSD).op = Op.stashTake ∧ StrayMessages_1_c = Instr.stashTake 3 StrayMessages_1_f ∨ (stray mSD).op = Op.stashRefuse ∧ StrayMessages_1_c = Instr.stashRefuse 3 StrayMessages_1_f ∨ (stray mSD).op = Op.memDat ∧ StrayMessages_1_c = Instr.memDat 3 StrayMessages_1_f) := by decide +kernel

/-! SliceAnswers -/
def SliceAnswers_1_s : State := (trk 3 200 kSn (mesh mS6 (adm [5,6] 3 z)))
theorem wit_SliceAnswers_1 : (SliceAnswers_1_s.canon = true) ∧ (SliceAnswers_1_s.tablesRise = true) ∧ (SliceAnswers_1_s.receives 3 (encode mS6) mS6) ∧ (SliceAnswers_1_s.trk 3 mS6.htrk.toNat = some kSn) ∧ (kSn.stage = Stage.live) ∧ (kSn.quar = []) ∧ (kSn.bad = false) ∧ (kSn.evict = none) ∧ (mS6.op = Op.snDone) ∧ (∀ (b : ℕ), kSn.kind ≠ TKind.walk b) ∧ (kSn.waitStash = false) ∧ (mS6.src.toNat ∈ kSn.round.sent) := by (repeat' apply And.intro) <;> first | decide +kernel | exact fun _ => rfl | (intro b h; cases h) | (intro b h; exact absurd h (by decide +kernel))
def SliceAnswers_2_s : State := (trk 3 200 kWf (mesh mWf (adm [5,6] 3 (mrt0 z))))
theorem wit_SliceAnswers_2 : (SliceAnswers_2_s.canon = true) ∧ (SliceAnswers_2_s.tablesRise = true) ∧ (SliceAnswers_2_s.receives 3 (encode mWf) mWf) ∧ (SliceAnswers_2_s.trk 3 mWf.htrk.toNat = some kWf) ∧ (kWf.stage = Stage.live) ∧ (kWf.quar = []) ∧ (kWf.bad = false) ∧ (kWf.evict = none) ∧ (mWf.op = Op.datWb) ∧ (kWf.kind = TKind.msg Op.wrFull) ∧ (kWf.waitDat = true) ∧ (mWf.src = kWf.src) ∧ (mWf.rqtx = kWf.rqtx) ∧ (kWf.ans.isSome = true) ∧ (kWf.look.res ≠ LRes.p) ∧ (kWf.silent = false) ∧ (kWf.pendWr = []) ∧ (SliceAnswers_2_s.memDest (lineOf kWf.addr) = Dest.port 7) ∧ ((SliceAnswers_2_s.slice 3).mbOf MbSt.opened (lineOf kWf.addr) = none) ∧ ((SliceAnswers_2_s.slice 3).mbFree = some 0) := by decide +kernel
def SliceAnswers_3_s : State := (trk 3 200 kSl (mesh mSl (adm [5,6] 3 (mrt0 z))))
theorem wit_SliceAnswers_3 : (SliceAnswers_3_s.canon = true) ∧ (SliceAnswers_3_s.tablesRise = true) ∧ (SliceAnswers_3_s.receives 3 (encode mSl) mSl) ∧ (SliceAnswers_3_s.trk 3 mSl.htrk.toNat = some kSl) ∧ (kSl.stage = Stage.live) ∧ (kSl.quar = []) ∧ (kSl.bad = false) ∧ (kSl.evict = none) ∧ (mSl.op = Op.seal) ∧ (mfind (SliceAnswers_3_s.slice 3).fences mSl.htrk.toNat = none) ∧ (kSl.kind = TKind.msg Op.rdShare) ∧ (kSl.look = { }) ∧ (kSl.ans = some (Op.datX, lsE)) ∧ (kSl.waitSeal = true) ∧ (kSl.sealTimer = true) ∧ (mSl.src = kSl.src) ∧ (mSl.rqtx = kSl.rqtx) ∧ (isCaching kSl.src.toNat = true) ∧ (kSl.rdone = true) ∧ (kSl.round = { }) ∧ (kSl.pendWr = []) ∧ (kSl.resv = Resv.way 9) ∧ (kSl.toP = false) ∧ (kSl.silent = false) ∧ (kSl.early = false) ∧ (kSl.stashed = false) ∧ (kSl.unrouted = false) ∧ (kSl.heldLoaf = none) ∧ ((SliceAnswers_3_s.slice 3).serving = true) ∧ ((SliceAnswers_3_s.slice 3).mode ≠ Mode.broadcast) ∧ (SliceAnswers_3_s.fineFind 3 (lineOf kSl.addr) = none) ∧ (SliceAnswers_3_s.loafFind 3 (lineOf kSl.addr) = none) ∧ (SliceAnswers_3_s.calm 3) := by decide +kernel
def SliceAnswers_4_s : State := (trk 3 200 kSt (mesh mTk (adm [5,6] 3 (mrt0 z))))
theorem wit_SliceAnswers_4 : (SliceAnswers_4_s.canon = true) ∧ (SliceAnswers_4_s.tablesRise = true) ∧ (SliceAnswers_4_s.receives 3 (encode mTk) mTk) ∧ (SliceAnswers_4_s.trk 3 mTk.htrk.toNat = some kSt) ∧ (kSt.stage = Stage.live) ∧ (kSt.quar = []) ∧ (kSt.bad = false) ∧ (kSt.evict = none) ∧ (kSt.waitStash = true) ∧ (mTk.src = kSt.peer) ∧ (mTk.src.toNat ∈ kSt.round.sent) ∧ (mTk.op = Op.stashTake) ∧ (kSt.buf = some ((55 : Line), true)) ∧ (kSt.bufBad = false) := by decide +kernel
def SliceAnswers_5_s : State := (trk 3 200 kSt (mesh mRf (adm [5,6] 3 (mrt0 z))))
theorem wit_SliceAnswers_5 : (SliceAnswers_5_s.canon = true) ∧ (SliceAnswers_5_s.tablesRise = true) ∧ (SliceAnswers_5_s.receives 3 (encode mRf) mRf) ∧ (SliceAnswers_5_s.trk 3 mRf.htrk.toNat = some kSt) ∧ (kSt.stage = Stage.live) ∧ (kSt.quar = []) ∧ (kSt.bad = false) ∧ (kSt.evict = none) ∧ (kSt.waitStash = true) ∧ (mRf.src = kSt.peer) ∧ (mRf.src.toNat ∈ kSt.round.sent) ∧ (mRf.op = Op.stashRefuse) := by decide +kernel

/-! SliceMemory -/
theorem wit_SliceMemory_1 : (zMd.canon = true) ∧ (zMd.tablesRise = true) ∧ (zMd.receives 3 (encode mMD) mMD) ∧ (mMD.op = Op.memDat) ∧ ((zMd.slice 3).trk = [(mMD.htrk.toNat, kMd)]) ∧ (kMd.kind = TKind.msg Op.rdOnce) ∧ (kMd.stage = Stage.live) ∧ (kMd.memNode = some mMD.src) ∧ (kMd.rdone = true) ∧ (kMd.round = { }) ∧ (kMd.quar = []) ∧ (kMd.bad = false) ∧ (kMd.evict = none) ∧ (kMd.ans = none) ∧ (kMd.give = Give.line Op.datS lsI) ∧ (kMd.wantRead = false) ∧ (kMd.unrouted = false) ∧ (kMd.pendWr = []) ∧ (kMd.silent = false) ∧ (kMd.sealGot = false) ∧ (kMd.bufBad = false) ∧ (kMd.look = { }) ∧ (kMd.merge = (0, 0, false)) := by decide +kernel
theorem wit_SliceMemory_2 : (zMb.canon = true) ∧ (zMb.tablesRise = true) ∧ (63 < zMb.par.nSlice) ∧ (63 < 68) ∧ (31 < 32) ∧ (zMb.mbDue 63 31 = true) ∧ ((zMb.slice 63).serving = true) ∧ ((zMb.slice 63).assay.inj.count = 0) ∧ ((zMb.slice 63).mirrored = []) ∧ (((zMb.slice 63).mbE 31).badGroups = 0) ∧ (((zMb.slice 63).mbE 31).maskBad = false) ∧ (((zMb.slice 63).mbE 31).target = portNode 15) ∧ (15 < 32) ∧ (zMb.wrFree 63 (portNode 15) = true) := by decide +kernel
def SliceMemory_3_s : State := (mesh mAk (z.updSlice 67 fun x => {x.putMb 31 {mbE with st := .sent} with wrCredits := [((portNode 15).toNat, 3)]}))
theorem wit_SliceMemory_3 : (SliceMemory_3_s.canon = true) ∧ (SliceMemory_3_s.receives 67 (encode mAk) mAk) ∧ (mAk.op = Op.memAck) ∧ (mAk.htrk.toNat < 32) ∧ (((SliceMemory_3_s.slice 67).mbE mAk.htrk.toNat).st = MbSt.sent) ∧ (((SliceMemory_3_s.slice 67).mbE mAk.htrk.toNat).target = mAk.src) ∧ ((SliceMemory_3_s.slice 67).trk = []) := by decide +kernel
def SliceMemory_4_s : State := (zTr 64 {data := 5})
def SliceMemory_4_f : Flits := (encode (mTr 64))
def SliceMemory_4_p : TrayPlace := (((tray z).trayPlace (aT 0 64)).getD (.fine 0 0))
theorem wit_SliceMemory_4 : (SliceMemory_4_s.canon = true) ∧ (SliceMemory_4_s.tablesRise = true) ∧ (SliceMemory_4_s.receives 3 SliceMemory_4_f (mTr 64)) ∧ ((mTr 64).op = Op.memRd) ∧ (SliceMemory_4_s.trayOpen 3 = true) ∧ (SliceMemory_4_s.trayPlace (lineOf (mTr 64).addr) = some SliceMemory_4_p) ∧ (((SliceMemory_4_s.slice 3).trayLine SliceMemory_4_p).cw = []) := by decide +kernel
def SliceMemory_6_p : TrayPlace := (((tray z).trayPlace (aT 0 64)).getD (.fine 0 0))
def SliceMemory_6_h : PortHalf := {src := sliceNode 7, slot := 9, addr := some (aT 0 64), body := none}
theorem wit_SliceMemory_6 : (zTw.canon = true) ∧ (zTw.tablesRise = true) ∧ (zTw.receives 3 (encode mWd) mWd) ∧ (mWd.op = Op.memWd) ∧ (zTw.trayOpen 3 = true) ∧ ((zTw.slice 3).trayHalves = [SliceMemory_6_h]) ∧ (SliceMemory_6_h.src = mWd.src) ∧ (SliceMemory_6_h.slot = mWd.htrk) ∧ (SliceMemory_6_h.addr = some (aT 0 64)) ∧ (SliceMemory_6_h.body = none) ∧ (mWd.be = beOf mWd.bmask) ∧ (zTw.trayPlace (aT 0 64) = some SliceMemory_6_p) ∧ (((zTw.slice 3).trayLine SliceMemory_6_p).cw = []) ∧ (mWd.poison = false) := by decide +kernel
theorem wit_SliceMemory_7 : (zSb.canon = true) ∧ (zSb.tablesRise = true) ∧ (3 < zSb.par.nSlice) ∧ (zSb.trayLines ≠ 0) ∧ ((zSb.slice 3).serving = true) ∧ (zSb.trayOpen 3 = true) ∧ ((zSb.slice 3).slotOpen = true) ∧ ((zSb.slice 3).assay.inj.count = 0) ∧ (∀ j < (zSb.trayNth ((zSb.slice 3).arr.trayScrub % zSb.trayLines)).cwCount, ((zSb.slice 3).trayLine (zSb.trayNth ((zSb.slice 3).arr.trayScrub % zSb.trayLines))).cwAt j ≠ CwState.bad) := by decide +kernel

/-! CensusSteps -/
theorem wit_CensusSteps_1 : (zCs.canon = true) ∧ (zCs.tablesRise = true) ∧ (3 < zCs.par.nSlice) ∧ (List.find? (fun c => decide (c.bucket = 67) && !c.started) (zCs.slice 3).census = some cen) ∧ ((zCs.slice 3).serving = true) ∧ (∀ kv ∈ (zCs.slice 3).trk, kv.2.kind ≠ TKind.walk 67) ∧ (255 < 256) ∧ (zCs.trk 3 255 = none) ∧ ((zCs.slice 3).poolFree Pool.own = true) ∧ (List.filter (fun a => (zCs.slice 3).rev a != some 1) (zCs.slice 3).admList ≠ []) := by decide
def CensusSteps_2_s : State := (zWk [6,207] mS6)
def CensusSteps_2_k : Tracker := (kWk [6,207])
def CensusSteps_2_c : Census := (cen2 [6,207])
theorem wit_CensusSteps_2 : (CensusSteps_2_s.canon = true) ∧ (CensusSteps_2_s.tablesRise = true) ∧ (CensusSteps_2_s.receives 3 (encode mS6) mS6) ∧ (mS6.op = Op.snDone) ∧ (CensusSteps_2_s.trk 3 mS6.htrk.toNat = some CensusSteps_2_k) ∧ (CensusSteps_2_k.kind = TKind.walk 67) ∧ (CensusSteps_2_k.stage = Stage.live) ∧ (CensusSteps_2_k.quar = []) ∧ (CensusSteps_2_k.evict = none) ∧ (CensusSteps_2_k.pendWr = []) ∧ (CensusSteps_2_k.heldLoaf = none) ∧ (CensusSteps_2_k.early = false) ∧ (CensusSteps_2_k.round.todo = []) ∧ (CensusSteps_2_k.round.owed = []) ∧ (CensusSteps_2_k.round.gone = []) ∧ ((CensusSteps_2_s.slice 3).census = [CensusSteps_2_c]) ∧ (CensusSteps_2_c.bucket = 67) ∧ (CensusSteps_2_c.started = true) ∧ (CensusSteps_2_c.unanswered = []) ∧ (CensusSteps_2_c.left = []) ∧ (207 ≠ mS6.src.toNat) ∧ (CensusSteps_2_k.round.sent = [mS6.src.toNat, 207]) ∧ (CensusSteps_2_c.waiting = [mS6.src.toNat, 207]) := by decide +kernel
def CensusSteps_3_s : State := ((zWk [6] mS6).updSlice 3 fun x => {x with adm := [(5,3),(6,2)]})
def CensusSteps_3_k : Tracker := (kWk [6])
def CensusSteps_3_c : Census := (cen2 [6])
theorem wit_CensusSteps_3 : (CensusSteps_3_s.canon = true) ∧ (CensusSteps_3_s.tablesRise = true) ∧ (CensusSteps_3_s.receives 3 (encode mS6) mS6) ∧ (mS6.op = Op.snDone) ∧ (CensusSteps_3_s.trk 3 mS6.htrk.toNat = some CensusSteps_3_k) ∧ (CensusSteps_3_k.kind = TKind.walk 67) ∧ (CensusSteps_3_k.stage = Stage.live) ∧ (CensusSteps_3_k.quar = []) ∧ (CensusSteps_3_k.evict = none) ∧ (CensusSteps_3_k.pendWr = []) ∧ (CensusSteps_3_k.heldLoaf = none) ∧ (CensusSteps_3_k.early = false) ∧ (CensusSteps_3_k.round.todo = []) ∧ (CensusSteps_3_k.round.owed = []) ∧ (CensusSteps_3_k.round.gone = []) ∧ ((CensusSteps_3_s.slice 3).census = [CensusSteps_3_c]) ∧ (CensusSteps_3_c.bucket = 67) ∧ (CensusSteps_3_c.started = true) ∧ (CensusSteps_3_c.unanswered = []) ∧ (CensusSteps_3_c.left = []) ∧ (CensusSteps_3_k.round.sent = [mS6.src.toNat]) ∧ (CensusSteps_3_c.waiting = [mS6.src.toNat]) ∧ (CensusSteps_3_c.job = none) ∧ ((CensusSteps_3_s.slice 3).anyRev1 (CensusSteps_3_s.slice 3).admList = false) ∧ (CensusSteps_3_s.uEntries 3 67 = []) ∧ (CensusSteps_3_s.unknownLoaves 3 67 = []) ∧ ((CensusSteps_3_s.slice 3).frontiers = []) := by decide +kernel
def CensusSteps_4_s : State := (zWk [6] (mCn 66 1))
def CensusSteps_4_f : Flits := (encode (mCn 66 1))
def CensusSteps_4_k : Tracker := (kWk [6])
theorem wit_CensusSteps_4 : (CensusSteps_4_s.canon = true) ∧ (CensusSteps_4_s.receives 3 CensusSteps_4_f (mCn 66 1)) ∧ ((mCn 66 1).op = Op.cnsLine) ∧ (CensusSteps_4_s.trk 3 (mCn 66 1).htrk.toNat = some CensusSteps_4_k) ∧ (CensusSteps_4_k.kind = TKind.walk 67) ∧ (CensusSteps_4_k.stage = Stage.live) ∧ (CensusSteps_4_k.quar = []) ∧ ((mCn 66 1).src.toNat ∈ CensusSteps_4_k.round.sent) ∧ ((mCn 66 1).sub ≠ lsI) ∧ ((mCn 66 1).sub.toNat ≤ 4) ∧ (bucketOf (mCn 66 1).addr ≠ 67) := by decide +kernel
def CensusSteps_5_s : State := (fineIn 3 a67 9 eU (zWk [6] (mCn 67 lsE)))
def CensusSteps_5_f : Flits := (encode (mCn 67 lsE))
def CensusSteps_5_k : Tracker := (kWk [6])
def CensusSteps_5_c : Census := (cen2 [6])
theorem wit_CensusSteps_5 : (CensusSteps_5_s.canon = true) ∧ (CensusSteps_5_s.receives 3 CensusSteps_5_f (mCn 67 lsE)) ∧ ((mCn 67 lsE).op = Op.cnsLine) ∧ (CensusSteps_5_s.trk 3 (mCn 67 lsE).htrk.toNat = some CensusSteps_5_k) ∧ (CensusSteps_5_k.kind = TKind.walk 67) ∧ (CensusSteps_5_k.stage = Stage.live) ∧ (CensusSteps_5_k.quar = []) ∧ ((mCn 67 lsE).src.toNat ∈ CensusSteps_5_k.round.sent) ∧ ((mCn 67 lsE).sub ≠ lsI) ∧ ((mCn 67 lsE).sub.toNat ≤ 4) ∧ (bucketOf (mCn 67 lsE).addr = 67) ∧ ((CensusSteps_5_s.slice 3).walkOf 67 (mCn 67 lsE).src.toNat = some CensusSteps_5_c) ∧ ((CensusSteps_5_s.slice 3).resolving (lineOf (mCn 67 lsE).addr) = false) ∧ (CensusSteps_5_s.fineFind 3 (lineOf (mCn 67 lsE).addr) = some 9) ∧ ((CensusSteps_5_s.fineAt 3 (fineSet (lineOf (mCn 67 lsE).addr)) 9).hstate = hsU) := by decide +kernel
def CensusSteps_7_s : State := (zWk [6,207] mS6)
def CensusSteps_7_k : Tracker := (kWk [6,207])
theorem wit_CensusSteps_7 : (CensusSteps_7_s.canon = true) ∧ (CensusSteps_7_s.tablesRise = true) ∧ (3 < CensusSteps_7_s.par.nSlice) ∧ (CensusSteps_7_s.trk 3 200 = some CensusSteps_7_k) ∧ (CensusSteps_7_k.kind = TKind.walk 67) ∧ (CensusSteps_7_k.stage = Stage.live) ∧ (CensusSteps_7_k.snoopTimer = true) ∧ (CensusSteps_7_k.round.sent ≠ []) ∧ ((CensusSteps_7_s.slice 3).conds.phase ≠ Phase.hold) ∧ (CensusSteps_7_s.paused 3 = false) ∧ (∀ c ∈ (CensusSteps_7_s.slice 3).census, c.left = []) ∧ ((CensusSteps_7_s.slice 3).inBuf = []) ∧ ((CensusSteps_7_s.slice 3).mirrored = []) := by decide +kernel

/-! TimersFire -/
def TimersFire_1_s : State := (trk 3 200 (kT (.msg .rdOwn)) (fineIn 3 a67 9 fx (adm [5,6] 3 z)))
def TimersFire_1_k : Tracker := (kT (.msg .rdOwn))
theorem wit_TimersFire_1 : (TimersFire_1_s.canon = true) ∧ (TimersFire_1_s.tablesRise = true) ∧ (3 < TimersFire_1_s.par.nSlice) ∧ (TimersFire_1_s.trk 3 200 = some TimersFire_1_k) ∧ (TimersFire_1_k.stage = Stage.live) ∧ ((TimersFire_1_s.slice 3).timers = true) ∧ ((TimersFire_1_s.slice 3).inBuf = []) ∧ ((TimersFire_1_s.slice 3).mirrored = []) ∧ (TimersFire_1_s.paused 3 = false) ∧ (TimersFire_1_k.kind ≠ TKind.msg Op.drainW) ∧ (TimersFire_1_k.kind = TKind.msg Op.rdOwn) ∧ (Op.rdOwn = Op.rdShare ∨ Op.rdOwn = Op.rdOwn ∨ Op.rdOwn = Op.rdOnce) ∧ (TimersFire_1_k.snoopTimer = true) ∧ (TimersFire_1_k.round.sent = [6]) ∧ (TimersFire_1_k.round.early = []) ∧ (TimersFire_1_k.evict = none) ∧ (TimersFire_1_k.sealGot = false) ∧ (TimersFire_1_k.early = false) ∧ (TimersFire_1_k.silent = false) ∧ ((TimersFire_1_s.slice 3).mode ≠ Mode.broadcast) ∧ (TimersFire_1_s.calm 3) ∧ (TimersFire_1_s.fineFind 3 (lineOf TimersFire_1_k.addr) = some 9) := by decide +kernel
def TimersFire_3_s : State := (trk 3 200 kEv (adm [5,6] 3 z))
def TimersFire_3_l : EvLine := {line := inB 66, round := {sent := [6]}}
theorem wit_TimersFire_3 : (TimersFire_3_s.canon = true) ∧ (TimersFire_3_s.tablesRise = true) ∧ (3 < TimersFire_3_s.par.nSlice) ∧ (TimersFire_3_s.trk 3 200 = some kEv) ∧ (kEv.stage = Stage.live) ∧ ((TimersFire_3_s.slice 3).timers = true) ∧ ((TimersFire_3_s.slice 3).inBuf = []) ∧ ((TimersFire_3_s.slice 3).mirrored = []) ∧ (TimersFire_3_s.paused 3 = false) ∧ (kEv.kind ≠ TKind.msg Op.drainW) ∧ (kEv.evict = some ev1) ∧ (ev1.timer = true) ∧ (ev1.quarantined = false) ∧ (ev1.lines = [TimersFire_3_l]) ∧ (TimersFire_3_l.round.sent = [6]) ∧ (TimersFire_3_l.round.early = []) := by decide +kernel
def TimersFire_4_s : State := (trk 3 200 kSl (adm [5,6] 3 (mrt0 z)))
theorem wit_TimersFire_4 : (TimersFire_4_s.canon = true) ∧ (TimersFire_4_s.tablesRise = true) ∧ (3 < TimersFire_4_s.par.nSlice) ∧ (TimersFire_4_s.trk 3 200 = some kSl) ∧ (kSl.stage = Stage.live) ∧ ((TimersFire_4_s.slice 3).timers = true) ∧ ((TimersFire_4_s.slice 3).inBuf = []) ∧ ((TimersFire_4_s.slice 3).mirrored = []) ∧ (TimersFire_4_s.paused 3 = false) ∧ (kSl.kind ≠ TKind.msg Op.drainW) ∧ (kSl.sealTimer = true) := by decide +kernel
def TimersFire_5_s : State := (trk 3 200 kMd (adm [5,6] 3 (mrt0 z)))
theorem wit_TimersFire_5 : (TimersFire_5_s.canon = true) ∧ (TimersFire_5_s.tablesRise = true) ∧ (3 < TimersFire_5_s.par.nSlice) ∧ (TimersFire_5_s.trk 3 200 = some kMd) ∧ (kMd.stage = Stage.live) ∧ ((TimersFire_5_s.slice 3).timers = true) ∧ ((TimersFire_5_s.slice 3).inBuf = []) ∧ ((TimersFire_5_s.slice 3).mirrored = []) ∧ (TimersFire_5_s.paused 3 = false) ∧ (kMd.kind ≠ TKind.msg Op.drainW) ∧ (kMd.memNode = some (portNode 15)) ∧ (kMd.memTimer = true) ∧ (kMd.kind ≠ TKind.msg Op.pfHint) := by decide +kernel
def TimersFire_6_s : State := (trk 3 200 kSt (adm [5,6] 3 (mrt0 z)))
theorem wit_TimersFire_6 : (TimersFire_6_s.canon = true) ∧ (TimersFire_6_s.tablesRise = true) ∧ (3 < TimersFire_6_s.par.nSlice) ∧ (TimersFire_6_s.trk 3 200 = some kSt) ∧ (kSt.stage = Stage.live) ∧ ((TimersFire_6_s.slice 3).timers = true) ∧ ((TimersFire_6_s.slice 3).inBuf = []) ∧ ((TimersFire_6_s.slice 3).mirrored = []) ∧ (TimersFire_6_s.paused 3 = false) ∧ (kSt.kind ≠ TKind.msg Op.drainW) ∧ (kSt.waitStash = true) ∧ (kSt.stashTimer = true) := by decide +kernel
def TimersFire_7_s : State := (z.updSlice 3 fun x => {x with holds := [{line := a67, agent := 5},{line := inB 66, agent := 5}], cooldowns := [a67]})
theorem wit_TimersFire_7 : (TimersFire_7_s.canon = true) ∧ (TimersFire_7_s.tablesRise = true) ∧ (3 < TimersFire_7_s.par.nSlice) ∧ ((TimersFire_7_s.slice 3).inBuf = []) ∧ ((TimersFire_7_s.slice 3).mirrored = []) ∧ (TimersFire_7_s.paused 3 = false) := by decide
def TimersFire_8_s : State := (z.updSlice 3 fun x => {x with holds := [{line := a67, agent := 5},{line := inB 66, agent := 5}], cooldowns := [a67, inB 3, a67]})
theorem wit_TimersFire_8 : (TimersFire_8_s.canon = true) ∧ (TimersFire_8_s.tablesRise = true) ∧ (3 < TimersFire_8_s.par.nSlice) ∧ ((TimersFire_8_s.slice 3).inBuf = []) ∧ ((TimersFire_8_s.slice 3).mirrored = []) ∧ (TimersFire_8_s.paused 3 = false) := by decide
def TimersFire_9_line : PA := (a67 + 5)
theorem wit_TimersFire_9 : (zAi.canon = true) ∧ (zAi.tablesRise = true) ∧ (3 < zAi.par.nSlice) ∧ ((zAi.slice 3).inBuf = []) ∧ ((zAi.slice 3).mirrored = []) ∧ (zAi.paused 3 = false) ∧ ((zAi.slice 3).timers = true) ∧ (zAi.owns 3 (lineOf TimersFire_9_line) = true) ∧ (∀ kv ∈ (zAi.slice 3).trk, kv.2.blocks (lineOf TimersFire_9_line) = false) ∧ (List.find? (fun w => (zAi.fineAt 3 (fineSet (lineOf TimersFire_9_line)) w).anvil && (zAi.fineAt 3 (fineSet (lineOf TimersFire_9_line)) w).isFor (lineOf TimersFire_9_line)) (List.range 16) = some 9) ∧ (zAi.fineLive 3 9 = true) := by decide

/-! SliceMemory -/
def SliceMemory_9_s : State := ((zTr 64 {data := 5}).updSlice 3 fun x => {x with slots := 7})
def SliceMemory_9_f : Flits := (encode (mTr 64))
theorem wit_SliceMemory_9 : (SliceMemory_9_s.canon = true) ∧ (SliceMemory_9_s.tablesRise = true) ∧ (SliceMemory_9_s.receives 3 SliceMemory_9_f (mTr 64)) ∧ ((mTr 64).op = Op.memRd ∨ (mTr 64).op = Op.memWr ∨ (mTr 64).op = Op.memWd) ∧ (SliceMemory_9_s.trayOpen 3 = false) := by decide +kernel

/-! MemoryPorts -/
def MemoryPorts_1_s : State := (mesh (mRp a67) z)
def MemoryPorts_1_f : Flits := (encode (mRp a67))
theorem wit_MemoryPorts_1 : (MemoryPorts_1_s.canon = true) ∧ (15 < MemoryPorts_1_s.par.nMport) ∧ (MemoryPorts_1_s.spine.assay.inj.count = 0) ∧ (arrives MemoryPorts_1_f (portNode 15) (mRp a67)) ∧ ((mRp a67).op = Op.memRd) ∧ ((MemoryPorts_1_s.port 15).writing (lineOf (mRp a67).addr) = false) ∧ (∀ r ∈ (MemoryPorts_1_s.port 15).reads, r.issued = true) := by decide +kernel
def MemoryPorts_2_s : State := (mesh (mRp a67) (z.updPort 15 fun x => {x with writes := [pw]}))
def MemoryPorts_2_f : Flits := (encode (mRp a67))
theorem wit_MemoryPorts_2 : (MemoryPorts_2_s.canon = true) ∧ (15 < MemoryPorts_2_s.par.nMport) ∧ (MemoryPorts_2_s.spine.assay.inj.count = 0) ∧ (arrives MemoryPorts_2_f (portNode 15) (mRp a67)) ∧ ((mRp a67).op = Op.memRd) ∧ ((MemoryPorts_2_s.port 15).writing (lineOf (mRp a67).addr) = true) := by decide +kernel
theorem wit_MemoryPorts_3 : ((mesh mMw z).canon = true) ∧ (15 < (mesh mMw z).par.nMport) ∧ ((mesh mMw z).spine.assay.inj.count = 0) ∧ (arrives (encode mMw) (portNode 15) mMw) ∧ (mMw.op = Op.memWr) ∧ (((mesh mMw z).port 15).halves = []) := by decide +kernel
def MemoryPorts_4_s : State := (mesh mPd (z.updPort 15 fun x => {x with halves := [{src := sliceNode 67, slot := 9, addr := some a67, body := none}]}))
theorem wit_MemoryPorts_4 : (MemoryPorts_4_s.canon = true) ∧ (15 < MemoryPorts_4_s.par.nMport) ∧ (MemoryPorts_4_s.spine.assay.inj.count = 0) ∧ (arrives (encode mPd) (portNode 15) mPd) ∧ (mPd.op = Op.memWd) ∧ (mPd.be = beOf mPd.bmask) ∧ ((MemoryPorts_4_s.port 15).halves = [{ src := mPd.src, slot := mPd.htrk, addr := some a67, body := none }]) ∧ ((MemoryPorts_4_s.port 15).reads = []) ∧ ((MemoryPorts_4_s.port 15).writes = []) := by decide +kernel
def MemoryPorts_5_s : State := (z.updPort 15 fun x => {x with reads := [pr]})
theorem wit_MemoryPorts_5 : (15 < MemoryPorts_5_s.par.nMport) ∧ (List.find? (fun r => r.issued && decide (r.src = sliceNode 67) && decide (r.htrk.toNat = 9)) (MemoryPorts_5_s.port 15).reads = some pr) := by decide
def MemoryPorts_6_s : State := (z.updPort 15 fun x => {x with writes := [pw], reads := [{pr with issued := false}]})
def MemoryPorts_6_r : PortRead := {pr with issued := false}
theorem wit_MemoryPorts_6 : (MemoryPorts_6_s.canon = true) ∧ (15 < MemoryPorts_6_s.par.nMport) ∧ ((MemoryPorts_6_s.port 15).writes = [pw]) ∧ (pw.issued = true) ∧ (pw.src = sliceNode 67) ∧ (pw.slot.toNat = 3) ∧ ((MemoryPorts_6_s.port 15).reads = [MemoryPorts_6_r]) ∧ (MemoryPorts_6_r.issued = false) ∧ (MemoryPorts_6_r.line = pw.line) := by decide +kernel

/-! RelaySteps -/
def RelaySteps_1_s : State := (zR ((List.range 64).map fun i => (i, rel 6 [5])) mTi)
theorem wit_RelaySteps_1 : (RelaySteps_1_s.tablesRise = true) ∧ (arrives (encode mTi) spineNode mTi) ∧ (mTi.op = Op.tlbInvReq) ∧ (∀ e < 64, (mfind RelaySteps_1_s.spine.relay e).isSome = true) := by decide +kernel
def RelaySteps_2_s : State := (zR ((List.range 63).map fun i => (i, rel 6 [5])) mTi)
theorem wit_RelaySteps_2 : (RelaySteps_2_s.tablesRise = true) ∧ (arrives (encode mTi) spineNode mTi) ∧ (mTi.op = Op.tlbInvReq) ∧ (List.find? (fun e => (mfind RelaySteps_2_s.spine.relay e).isNone) (List.range 64) = some 63) ∧ ((RelaySteps_2_s.shim mTi.src.toNat).neg ≠ 0) := by decide +kernel
def RelaySteps_5_s : State := ((zR [(63, rel 5 [6])] mTa).updSpine fun sp => {sp with syncs := [{agent := 5, rqtx := 4, covers := [63]}]})
def RelaySteps_5_r : Relay := (rel 5 [6])
def RelaySteps_5_w : SyncWait := {agent := 5, rqtx := 4, covers := [63]}
theorem wit_RelaySteps_5 : (RelaySteps_5_s.tablesRise = true) ∧ (arrives (encode mTa) spineNode mTa) ∧ (mTa.op = Op.tlbAck) ∧ (mfind RelaySteps_5_s.spine.relay mTa.htrk.toNat = some RelaySteps_5_r) ∧ (RelaySteps_5_r.targets = [mTa.src.toNat]) ∧ (RelaySteps_5_s.spine.syncs = [RelaySteps_5_w]) ∧ (RelaySteps_5_w.covers = [mTa.htrk.toNat]) := by decide +kernel
def RelaySteps_6_s : State := ((zR [(63, rel 5 [6, 256])] mTa).updSpine fun sp => {sp with syncs := [{agent := 5, rqtx := 4, covers := [63]}]})
def RelaySteps_6_r : Relay := (rel 5 [6, 256])
theorem wit_RelaySteps_6 : (RelaySteps_6_s.tablesRise = true) ∧ (arrives (encode mTa) spineNode mTa) ∧ (mTa.op = Op.tlbAck) ∧ (mfind RelaySteps_6_s.spine.relay mTa.htrk.toNat = some RelaySteps_6_r) ∧ (RelaySteps_6_r.targets = [mTa.src.toNat, 256]) ∧ (256 ≠ mTa.src.toNat) := by decide +kernel
def RelaySteps_7_s : State := (zR [(62, rel 5 [6, 256])] mTa)
theorem wit_RelaySteps_7 : (RelaySteps_7_s.tablesRise = true) ∧ (arrives (encode mTa) spineNode mTa) ∧ (mTa.op = Op.tlbAck) ∧ (mfind RelaySteps_7_s.spine.relay mTa.htrk.toNat = none) := by decide +kernel
def RelaySteps_8_s : State := (zR [(62, rel 6 [5, 256])] mTs)
theorem wit_RelaySteps_8 : (RelaySteps_8_s.tablesRise = true) ∧ (arrives (encode mTs) spineNode mTs) ∧ (mTs.op = Op.tlbSync) ∧ (∀ kv ∈ RelaySteps_8_s.spine.relay, kv.2.issuer = mTs.src.toNat → kv.2.complete = true) := by decide +kernel
def RelaySteps_9_s : State := (zR [(1, rel 6 [5, 256]), (62, rel 5 [6]), (63, rel 5 [6])] mTs)
theorem wit_RelaySteps_9 : (RelaySteps_9_s.tablesRise = true) ∧ (arrives (encode mTs) spineNode mTs) ∧ (mTs.op = Op.tlbSync) ∧ (∃ kv ∈ RelaySteps_9_s.spine.relay, kv.2.issuer = mTs.src.toNat ∧ kv.2.complete = false) := by decide +kernel
def RelaySteps_10_s : State := (zR [(63, rel 6 [5, 256])] mTs)
def RelaySteps_10_r : Relay := (rel 6 [5, 256])
theorem wit_RelaySteps_10 : (RelaySteps_10_s.tablesRise = true) ∧ (mfind RelaySteps_10_s.spine.relay 63 = some RelaySteps_10_r) ∧ (RelaySteps_10_r.timer = true) ∧ (RelaySteps_10_r.complete = false) := by decide
def RelaySteps_11_s : State := (zR [(63, {rel 6 [5, 256] with timer := false})] mTs)
def RelaySteps_11_r : Relay := {rel 6 [5, 256] with timer := false}
theorem wit_RelaySteps_11 : (RelaySteps_11_s.tablesRise = true) ∧ (mfind RelaySteps_11_s.spine.relay 63 = some RelaySteps_11_r) ∧ (RelaySteps_11_r.timer = false ∨ RelaySteps_11_r.complete = true) := by decide

/-! WindowRequests -/
theorem wit_WindowRequests_1 : (z.canon = true) ∧ (2 < z.par.nFunc) ∧ (z.noSync = true) ∧ (z.spine.assay.inj.count = 0) ∧ ((z.fn 2).bars = false) := by decide
theorem wit_WindowRequests_2 : ((zWi true).canon = true) ∧ (2 < (zWi true).par.nFunc) ∧ ((zWi true).noSync = true) ∧ ((zWi true).spine.assay.inj.count = 0) ∧ (((zWi true).fn 2).bars = true) ∧ (60 + 4 ≤ Params.bar4Bytes (zWi true).par) ∧ (0 < 4) ∧ (60 % 64 + 4 ≤ 64) ∧ (((zWi true).fn 2).win = []) ∧ (((zWi true).fn 2).winSt = WinSt.idle) ∧ (((zWi true).fn 2).winDrain = 0) ∧ (false = false) ∧ (((zWi true).fn 2).hits false 60 = true) := by decide
theorem wit_WindowRequests_3 : ((zWi false).canon = true) ∧ (2 < (zWi false).par.nFunc) ∧ ((zWi false).noSync = true) ∧ ((zWi false).spine.assay.inj.count = 0) ∧ (((zWi false).fn 2).bars = true) ∧ (0 + 64 ≤ Params.bar4Bytes (zWi false).par) ∧ (0 < 64) ∧ (0 % 64 + 64 ≤ 64) ∧ (((zWi false).fn 2).win = []) ∧ (((zWi false).fn 2).winSt = WinSt.idle) ∧ (((zWi false).fn 2).winDrain = 0) ∧ (((zWi false).fn 2).hits false 0 = false) := by decide
theorem wit_WindowRequests_5 : ((zWa false mDs).canon = true) ∧ (2 < (zWa false mDs).par.nFunc) ∧ ((zWa false mDs).noSync = true) ∧ ((zWa false mDs).spine.assay.inj.count = 0) ∧ (arrives (encode mDs) (fnNode 2) mDs) ∧ (((zWa false mDs).fn 2).winSt = WinSt.sent mDs.rqtx) ∧ (((zWa false mDs).fn 2).win = [(wr1 false)]) ∧ ((wr1 false).ops = [(op1 false)]) ∧ ((wr1 false).reg = none) ∧ ((wr1 false).dropped = false) ∧ ((wr1 false).write = (op1 false).write) ∧ ((op1 false).write = false) ∧ (mDs.op = Op.datS) := by decide +kernel
theorem wit_WindowRequests_6 : ((zWa true mGr).canon = true) ∧ (2 < (zWa true mGr).par.nFunc) ∧ ((zWa true mGr).noSync = true) ∧ ((zWa true mGr).spine.assay.inj.count = 0) ∧ (arrives (encode mGr) (fnNode 2) mGr) ∧ (((zWa true mGr).fn 2).winSt = WinSt.sent mGr.rqtx) ∧ (((zWa true mGr).fn 2).win = [(wr1 true)]) ∧ ((wr1 true).ops = [(op1 true)]) ∧ ((wr1 true).reg = none) ∧ ((wr1 true).dropped = false) ∧ ((wr1 true).write = (op1 true).write) ∧ ((op1 true).write = true) ∧ (mGr.op = Op.grant) ∧ (nodeSlice mGr.src = some 3) := by decide +kernel
theorem wit_WindowRequests_7 : ((zWa true mRe).canon = true) ∧ (2 < (zWa true mRe).par.nFunc) ∧ ((zWa true mRe).noSync = true) ∧ ((zWa true mRe).spine.assay.inj.count = 0) ∧ (arrives (encode mRe) (fnNode 2) mRe) ∧ (((zWa true mRe).fn 2).winSt = WinSt.sent mRe.rqtx) ∧ (((zWa true mRe).fn 2).win = [(wr1 true)]) ∧ ((wr1 true).ops = [(op1 true)]) ∧ ((wr1 true).reg = none) ∧ ((wr1 true).dropped = false) ∧ ((wr1 true).write = (op1 true).write) ∧ (mRe.op = Op.rest) := by decide +kernel

/-! StepKeepsTables -/
def StepKeepsTables_1_s : State := {zWa false mRe with pending := [.spineRequesterAnswer 2 (encode mRe)]}
theorem wit_StepKeepsTables_1 : (StepKeepsTables_1_s.tablesRise = true) ∧ (∃ t, step StepKeepsTables_1_s = Host.Outcome.next t) := ⟨by decide +kernel, _, rfl⟩

/-! BucketsAtReset -/
theorem wit_BucketsAtReset_1 : (Params.reference.legal = true) := by decide

/-! RelaySteps -/
def RelaySteps_13_s : State := (((zR [] mTi).updShim 6 fun x => {x with silenced := true}).updShim 256 fun x => {x with silenced := true})
theorem wit_RelaySteps_13 : (RelaySteps_13_s.tablesRise = true) ∧ (arrives (encode mTi) spineNode mTi) ∧ (mTi.op = Op.tlbInvReq) ∧ (List.find? (fun e => (mfind RelaySteps_13_s.spine.relay e).isNone) (List.range 64) = some 0) ∧ ((RelaySteps_13_s.shim mTi.src.toNat).neg ≠ 0) ∧ (∀ t ∈ List.filter (fun x => x != mTi.src.toNat) (RelaySteps_13_s.domain (RelaySteps_13_s.shim mTi.src.toNat).func), (RelaySteps_13_s.shim t).silenced = true) ∧ (∀ w ∈ RelaySteps_13_s.spine.syncs, 0 ∉ w.covers) := by decide +kernel

/-! SpinePinRows -/
theorem wit_SpinePinRows_12 : (zCrst.spine.crstDue = true) ∧ (true = true ∨ zCrst.flushing = false) := by decide
theorem wit_SpinePinRows_13 : (zCrst.spine.crstDue = false ∨ false = false ∧ zCrst.flushing = true) := by decide

/-! HallmarkBuffer -/
theorem wit_HallmarkBuffer_5 : (zFeed11.par.hasPart 324 = true) ∧ (zFeed11.hall.fatalDue = 0) ∧ (zFeed11.hall.nextFeed ≠ some 324) ∧ (mget { } zFeed11.hall.feedLoss 324 = { }) ∧ (∀ (f : ℕ), (zFeed11.fn f).lostRecs = 0) := by (repeat' apply And.intro) <;> first | decide +kernel | exact fun _ => rfl | (intro b h; cases h) | (intro b h; exact absurd h (by decide +kernel))

/-! RegisterAccesses -/
def RegisterAccesses_33_s : State := (setHalf 2 (.latched 0x1000 5) zUp)
theorem wit_RegisterAccesses_33 : (RegisterAccesses_33_s.canon = true) ∧ (2 < RegisterAccesses_33_s.par.nFunc) ∧ ((RegisterAccesses_33_s.fn 2).bars = true) ∧ ((RegisterAccesses_33_s.fn 2).win = []) ∧ ((RegisterAccesses_33_s.fn 2).winSt = WinSt.idle) ∧ (RegisterAccesses_33_s.noSync = true) ∧ (aligned 0 4 = true) ∧ ((bellAt 0).isSome = true) ∧ ((RegisterAccesses_33_s.fn 2).half = HalfAcc.latched 4096 (5 : BitVec 32) ∨ (RegisterAccesses_33_s.fn 2).half = HalfAcc.staged 4096 (5 : BitVec 32)) := by decide

/-! Doorbells -/
def Doorbells_11_s : State := (setHalf 2 (.staged 0x100 9) zRings)
theorem wit_Doorbells_11 : (Doorbells_11_s.canon = true) ∧ (2 < Doorbells_11_s.par.nFunc) ∧ ((Doorbells_11_s.fn 2).bars = true) ∧ ((Doorbells_11_s.fn 2).room true 4 = true) := by decide
def Doorbells_12_s : State := (setHalf 2 (.staged 0x100 9) zUp)
theorem wit_Doorbells_12 : (Doorbells_12_s.canon = true) ∧ (2 < Doorbells_12_s.par.nFunc) ∧ ((Doorbells_12_s.fn 2).bars = true) ∧ (((Doorbells_12_s.fn 2).ring RingId.evt).en = false) ∧ ((Doorbells_12_s.fn 2).room true 4 = true) ∧ ((Doorbells_12_s.fn 2).half = HalfAcc.latched 256 (9 : BitVec 32) ∨ (Doorbells_12_s.fn 2).half = HalfAcc.staged 256 (9 : BitVec 32)) := by decide
theorem wit_Doorbells_13 : (zUp.canon = true) ∧ (2 < zUp.par.nFunc) ∧ ((zUp.fn 2).bars = true) ∧ (((zUp.fn 2).ring RingId.evt).en = false) ∧ ((zUp.fn 2).half = HalfAcc.none) := by decide

/-! FunctionConfiguration -/
theorem wit_FunctionConfiguration_7 : (zRt.canon = true) ∧ (2 < zRt.par.nFunc) ∧ (5 < 64) ∧ ((zRt.fn 2).up = true) ∧ (((zRt.fn 2).vec 5).pending = true) ∧ ((zRt.fn 2).notReady = true ∨ zRt.spine.ready = false) := by decide

/-! Translations -/
theorem wit_Translations_11 : (2 < (ats 2 z).par.nFunc) ∧ (((ats 2 z).fn 2).ats = true) := by decide

/-! TrayAndCalibration -/
theorem wit_TrayAndCalibration_10 : (3 < z.par.nSlice) ∧ ((z.slice 3).conds.pCal = false) := by decide

/-! SeedAndPower -/
def SeedAndPower_10_s : State := ((phase 67 .hold z).updSpine fun s => {s with pwr := setBit s.pwr 67 false})
theorem wit_SeedAndPower_10 : (SeedAndPower_10_s.canon = true) ∧ (67 < SeedAndPower_10_s.par.nSlice) ∧ (bit SeedAndPower_10_s.spine.pwr 67 = false) ∧ (67 < 68) ∧ ((SeedAndPower_10_s.slice 67).conds.phase = Phase.hold) ∧ ((SeedAndPower_10_s.slice 67).conds.hSalv = false) ∧ (SeedAndPower_10_s.heldBuckets 67 = []) ∧ (SeedAndPower_10_s.stubs 67 = []) := by decide +kernel
def SeedAndPower_11_j : Job := {id := 4, cmd := some (0,0), kind := .calWrite 67}
theorem wit_SeedAndPower_11 : (zPj.canon = true) ∧ (67 < zPj.par.nSlice) ∧ (zPj.jobsNamed = true) ∧ (bit zPj.spine.pwr 67 = false) ∧ (67 < 68) ∧ ((zPj.slice 67).conds.phase = Phase.off) ∧ (SeedAndPower_11_j ∈ zPj.spine.jobs) ∧ (SeedAndPower_11_j.kind = JobKind.calWrite 67) ∧ (SeedAndPower_11_j.cmd = some (0, 0)) ∧ (zPj.taken 0 0 = some (cmdOf zPj 0)) ∧ ((cmdOf zPj 0).orphan = false) := by decide +kernel

/-! ShimInjectsAndDelivers -/
def ShimInjectsAndDelivers_13_s : State := (zSh fun x => {x with reqQ := [qm mPf 3, qm mA 0]})
theorem wit_ShimInjectsAndDelivers_13 : (ShimInjectsAndDelivers_13_s.canon = true) ∧ (ShimInjectsAndDelivers_13_s.hasShim 207 = true) ∧ (List.find? (fun q => decide (64 ≤ q.wait)) (ShimInjectsAndDelivers_13_s.shim 207).reqQ = none) ∧ ((ShimInjectsAndDelivers_13_s.shim 207).rspQ = []) ∧ ((ShimInjectsAndDelivers_13_s.shim 207).datQ = []) ∧ ((ShimInjectsAndDelivers_13_s.shim 207).wbkQ = []) ∧ (List.find? (fun q => q.m.op != Op.pfHint) (ShimInjectsAndDelivers_13_s.shim 207).reqQ = some (qm mA 0)) := by decide +kernel
def ShimInjectsAndDelivers_14_s : State := (zSh fun x => {x with reqQ := [qm mPf 3, qm mPf 0]})
def ShimInjectsAndDelivers_14_l : List QMsg := [qm mPf 0]
theorem wit_ShimInjectsAndDelivers_14 : (ShimInjectsAndDelivers_14_s.canon = true) ∧ (ShimInjectsAndDelivers_14_s.hasShim 207 = true) ∧ (List.find? (fun q => decide (64 ≤ q.wait)) (ShimInjectsAndDelivers_14_s.shim 207).reqQ = none) ∧ ((ShimInjectsAndDelivers_14_s.shim 207).rspQ = []) ∧ ((ShimInjectsAndDelivers_14_s.shim 207).datQ = []) ∧ ((ShimInjectsAndDelivers_14_s.shim 207).wbkQ = []) ∧ ((ShimInjectsAndDelivers_14_s.shim 207).reqQ = (qm mPf 3) :: ShimInjectsAndDelivers_14_l) ∧ (∀ p ∈ (ShimInjectsAndDelivers_14_s.shim 207).reqQ, p.m.op = Op.pfHint) := by decide +kernel

/-! TimersFire -/
def TimersFire_12_s : State := (z.updSpine fun s => {s with dvfsTaken := true})
theorem wit_TimersFire_12 : (TimersFire_12_s.canon = true) ∧ (3 < TimersFire_12_s.par.nSlice) ∧ (TimersFire_12_s.paused 3 = true) := by decide

/-! StealSteps -/
def StealSteps_5_s : State := (z.updSpine fun s => {s with dvfsTaken := true})
theorem wit_StealSteps_5 : (StealSteps_5_s.canon = true) ∧ (3 < StealSteps_5_s.par.nSlice) ∧ ((StealSteps_5_s.slice 3).serving = true) ∧ (StealSteps_5_s.tablesRise = true) ∧ (StealSteps_5_s.paused 3 = true) := by decide

/-! DecisionActs -/
def DecisionActs_7_s : State := (dec12 .rdShare (fineIn 3 a67 9 (fE.setO 6 [7] 0) zM))
theorem wit_DecisionActs_7 : (DecisionActs_7_s.decides 3 4 (kR .rdShare)) ∧ ((kR .rdShare).kind = TKind.msg Op.rdShare) ∧ ((kR .rdShare).soft = false) ∧ ((DecisionActs_7_s.lookup 3 (lineOf (kR .rdShare).addr)).anvil = false) ∧ ((DecisionActs_7_s.lookup 3 (lineOf (kR .rdShare).addr)).res = LRes.o) ∧ (Op.rdShare = Op.rdShare) ∧ ((DecisionActs_7_s.lookup 3 (lineOf (kR .rdShare).addr)).fine.owner = some 6) ∧ ((DecisionActs_7_s.slice 3).admitted 6 = true) ∧ (6 ≠ (kR .rdShare).src.toNat) := by decide +kernel
theorem wit_DecisionActs_8 : ((dec12 .rdShare zM).decides 3 4 (kR .rdShare)) ∧ ((kR .rdShare).kind = TKind.msg Op.rdShare) ∧ ((kR .rdShare).soft = false) ∧ (((dec12 .rdShare zM).lookup 3 (lineOf (kR .rdShare).addr)).anvil = false) ∧ (((dec12 .rdShare zM).lookup 3 (lineOf (kR .rdShare).addr)).res = LRes.i) ∧ (Op.rdShare = Op.rdShare ∨ Op.rdShare = Op.rdOwn ∨ Op.rdShare = Op.upgrade) ∧ ((dec12 .rdShare zM).freeWay 3 4 (kR .rdShare) 0) ∧ (∀ v < 0, ¬(dec12 .rdShare zM).freeWay 3 4 (kR .rdShare) v) := by decide +kernel
def DecisionActs_10_s : State := (dec12 .rdShare (fineIn 3 a67 9 (fE.setS [6,7] 0) zM))
theorem wit_DecisionActs_10 : (DecisionActs_10_s.decides 3 4 (kR .rdShare)) ∧ ((kR .rdShare).kind = TKind.msg Op.rdShare) ∧ ((kR .rdShare).soft = false) ∧ ((DecisionActs_10_s.lookup 3 (lineOf (kR .rdShare).addr)).anvil = false) ∧ ((DecisionActs_10_s.lookup 3 (lineOf (kR .rdShare).addr)).res = LRes.s ∨ (DecisionActs_10_s.lookup 3 (lineOf (kR .rdShare).addr)).res = LRes.coarseS) ∧ (Op.rdShare = Op.rdShare) := by decide +kernel
def DecisionActs_12_s : State := (dec12 .rdOwn (fineIn 3 a67 9 (fE.setS [6,7] 0) zM))
theorem wit_DecisionActs_12 : (DecisionActs_12_s.decides 3 4 (kR .rdOwn)) ∧ ((kR .rdOwn).kind = TKind.msg Op.rdOwn) ∧ ((kR .rdOwn).soft = false) ∧ ((DecisionActs_12_s.lookup 3 (lineOf (kR .rdOwn).addr)).anvil = false) ∧ ((DecisionActs_12_s.lookup 3 (lineOf (kR .rdOwn).addr)).res = LRes.s) ∧ (Op.rdOwn = Op.rdOwn ∨ Op.rdOwn = Op.upgrade) ∧ (¬(Op.rdOwn = Op.upgrade ∧ (DecisionActs_12_s.lookup 3 (lineOf (kR .rdOwn).addr)).fine.sfmt = false ∧ (DecisionActs_12_s.lookup 3 (lineOf (kR .rdOwn).addr)).fine.slots.contains (kR .rdOwn).src.toNat = true)) := by decide +kernel
def DecisionActs_14_s : State := (dec12 .rdOwn (loafIn 3 a67 2 lfC zM))
theorem wit_DecisionActs_14 : (DecisionActs_14_s.decides 3 4 (kR .rdOwn)) ∧ ((kR .rdOwn).kind = TKind.msg Op.rdOwn) ∧ ((kR .rdOwn).soft = false) ∧ ((DecisionActs_14_s.lookup 3 (lineOf (kR .rdOwn).addr)).anvil = false) ∧ ((DecisionActs_14_s.lookup 3 (lineOf (kR .rdOwn).addr)).res = LRes.coarseS) ∧ (Op.rdOwn = Op.rdOwn ∨ Op.rdOwn = Op.upgrade) ∧ ((DecisionActs_14_s.lookup 3 (lineOf (kR .rdOwn).addr)).way.isSome = true ∨ (DecisionActs_14_s.slice 3).mode = Mode.broadcast ∨ ∃ w, DecisionActs_14_s.freeWay 3 4 (kR .rdOwn) w) := by decide +kernel
def DecisionActs_15_s : State := (dec12 .rdOwn (fineIn 3 a67 9 (fE.setO 6 [7,40] 0) zM))
theorem wit_DecisionActs_15 : (DecisionActs_15_s.decides 3 4 (kR .rdOwn)) ∧ ((kR .rdOwn).kind = TKind.msg Op.rdOwn) ∧ ((kR .rdOwn).soft = false) ∧ ((DecisionActs_15_s.lookup 3 (lineOf (kR .rdOwn).addr)).anvil = false) ∧ ((DecisionActs_15_s.lookup 3 (lineOf (kR .rdOwn).addr)).res = LRes.o) ∧ (Op.rdOwn = Op.rdOwn ∨ Op.rdOwn = Op.upgrade) ∧ (¬(Op.rdOwn = Op.upgrade ∧ ((DecisionActs_15_s.lookup 3 (lineOf (kR .rdOwn).addr)).fine.sfmt = false ∧ (DecisionActs_15_s.lookup 3 (lineOf (kR .rdOwn).addr)).fine.slots.contains (kR .rdOwn).src.toNat = true ∨ (DecisionActs_15_s.lookup 3 (lineOf (kR .rdOwn).addr)).fine.owner = some (kR .rdOwn).src.toNat))) := by decide +kernel
def DecisionActs_16_s : State := (dec12 .rdShare (loafIn 3 a67 2 lfO zM))
theorem wit_DecisionActs_16 : (DecisionActs_16_s.decides 3 4 (kR .rdShare)) ∧ ((kR .rdShare).kind = TKind.msg Op.rdShare) ∧ ((kR .rdShare).soft = false) ∧ ((DecisionActs_16_s.lookup 3 (lineOf (kR .rdShare).addr)).anvil = false) ∧ ((DecisionActs_16_s.lookup 3 (lineOf (kR .rdShare).addr)).res = LRes.coarseO ∨ (DecisionActs_16_s.lookup 3 (lineOf (kR .rdShare).addr)).res = LRes.u) ∧ ((DecisionActs_16_s.lookup 3 (lineOf (kR .rdShare).addr)).way.isSome = true ∨ (DecisionActs_16_s.slice 3).mode = Mode.broadcast ∨ ∃ w, DecisionActs_16_s.freeWay 3 4 (kR .rdShare) w) := by decide +kernel
def DecisionActs_17_s : State := (dec12 .rdOwn (loafIn 3 a67 2 lfO zM))
theorem wit_DecisionActs_17 : (DecisionActs_17_s.decides 3 4 (kR .rdOwn)) ∧ ((kR .rdOwn).kind = TKind.msg Op.rdOwn) ∧ ((kR .rdOwn).soft = false) ∧ ((DecisionActs_17_s.lookup 3 (lineOf (kR .rdOwn).addr)).anvil = false) ∧ ((DecisionActs_17_s.lookup 3 (lineOf (kR .rdOwn).addr)).res = LRes.coarseO ∨ (DecisionActs_17_s.lookup 3 (lineOf (kR .rdOwn).addr)).res = LRes.u) ∧ ((DecisionActs_17_s.lookup 3 (lineOf (kR .rdOwn).addr)).way.isSome = true ∨ (DecisionActs_17_s.slice 3).mode = Mode.broadcast ∨ ∃ w, DecisionActs_17_s.freeWay 3 4 (kR .rdOwn) w) ∧ (Op.rdOwn = Op.rdOwn ∨ Op.rdOwn = Op.upgrade) := by decide +kernel
def DecisionActs_18_s : State := (dec12 .rdOnce (loafIn 3 a67 2 lfU zM))
theorem wit_DecisionActs_18 : (DecisionActs_18_s.decides 3 4 (kR .rdOnce)) ∧ ((kR .rdOnce).kind = TKind.msg Op.rdOnce) ∧ ((kR .rdOnce).soft = false) ∧ ((DecisionActs_18_s.lookup 3 (lineOf (kR .rdOnce).addr)).anvil = false) ∧ ((DecisionActs_18_s.lookup 3 (lineOf (kR .rdOnce).addr)).res = LRes.coarseO ∨ (DecisionActs_18_s.lookup 3 (lineOf (kR .rdOnce).addr)).res = LRes.u) ∧ ((DecisionActs_18_s.lookup 3 (lineOf (kR .rdOnce).addr)).way.isSome = true ∨ (DecisionActs_18_s.slice 3).mode = Mode.broadcast ∨ ∃ w, DecisionActs_18_s.freeWay 3 4 (kR .rdOnce) w) ∧ (Op.rdOnce = Op.rdOnce) := by decide +kernel
def DecisionActs_21_s : State := (dec12 .upgrade (fineIn 3 a67 9 (fE.setS [5,6] 0) zM))
theorem wit_DecisionActs_21 : (DecisionActs_21_s.decides 3 4 (kR .upgrade)) ∧ ((kR .upgrade).kind = TKind.msg Op.upgrade) ∧ ((kR .upgrade).soft = false) ∧ ((DecisionActs_21_s.lookup 3 (lineOf (kR .upgrade).addr)).anvil = false) ∧ (Op.upgrade = Op.upgrade) ∧ ((DecisionActs_21_s.lookup 3 (lineOf (kR .upgrade).addr)).res = LRes.s) ∧ ((DecisionActs_21_s.lookup 3 (lineOf (kR .upgrade).addr)).fine.sfmt = false ∧ (DecisionActs_21_s.lookup 3 (lineOf (kR .upgrade).addr)).fine.slots.contains (kR .upgrade).src.toNat = true) := by decide +kernel
def DecisionActs_22_s : State := (dec12 .upgrade (fineIn 3 a67 9 (fE.setO 5 [6] 0) zM))
theorem wit_DecisionActs_22 : (DecisionActs_22_s.decides 3 4 (kR .upgrade)) ∧ ((kR .upgrade).kind = TKind.msg Op.upgrade) ∧ ((kR .upgrade).soft = false) ∧ ((DecisionActs_22_s.lookup 3 (lineOf (kR .upgrade).addr)).anvil = false) ∧ (Op.upgrade = Op.upgrade) ∧ ((DecisionActs_22_s.lookup 3 (lineOf (kR .upgrade).addr)).res = LRes.o) ∧ ((DecisionActs_22_s.lookup 3 (lineOf (kR .upgrade).addr)).fine.owner = some (kR .upgrade).src.toNat) := by decide +kernel
def DecisionActs_23_s : State := (dec12 .upgrade (fineIn 3 a67 9 (fE.setO 6 [5,7] 0) zM))
theorem wit_DecisionActs_23 : (DecisionActs_23_s.decides 3 4 (kR .upgrade)) ∧ ((kR .upgrade).kind = TKind.msg Op.upgrade) ∧ ((kR .upgrade).soft = false) ∧ ((DecisionActs_23_s.lookup 3 (lineOf (kR .upgrade).addr)).anvil = false) ∧ (Op.upgrade = Op.upgrade) ∧ ((DecisionActs_23_s.lookup 3 (lineOf (kR .upgrade).addr)).res = LRes.o) ∧ ((DecisionActs_23_s.lookup 3 (lineOf (kR .upgrade).addr)).fine.owner ≠ some (kR .upgrade).src.toNat) ∧ ((DecisionActs_23_s.lookup 3 (lineOf (kR .upgrade).addr)).fine.sfmt = false ∧ (DecisionActs_23_s.lookup 3 (lineOf (kR .upgrade).addr)).fine.slots.contains (kR .upgrade).src.toNat = true) := by decide +kernel
def DecisionActs_24_s : State := (dec12 .rdOnce (fineIn 3 a67 9 (fE.setS [5,6] 0) zM))
theorem wit_DecisionActs_24 : (DecisionActs_24_s.decides 3 4 (kR .rdOnce)) ∧ ((kR .rdOnce).kind = TKind.msg Op.rdOnce) ∧ ((kR .rdOnce).soft = false) ∧ ((DecisionActs_24_s.lookup 3 (lineOf (kR .rdOnce).addr)).anvil = false) ∧ (Op.rdOnce = Op.rdOnce) ∧ ((DecisionActs_24_s.lookup 3 (lineOf (kR .rdOnce).addr)).res = LRes.i ∨ (DecisionActs_24_s.lookup 3 (lineOf (kR .rdOnce).addr)).res = LRes.s ∨ (DecisionActs_24_s.lookup 3 (lineOf (kR .rdOnce).addr)).res = LRes.coarseS) := by decide +kernel
def DecisionActs_25_s : State := (dec12 .rdOnce (fineIn 3 a67 9 (fE.setX 6) zM))
theorem wit_DecisionActs_25 : (DecisionActs_25_s.decides 3 4 (kR .rdOnce)) ∧ ((kR .rdOnce).kind = TKind.msg Op.rdOnce) ∧ ((kR .rdOnce).soft = false) ∧ ((DecisionActs_25_s.lookup 3 (lineOf (kR .rdOnce).addr)).anvil = false) ∧ (Op.rdOnce = Op.rdOnce) ∧ ((DecisionActs_25_s.lookup 3 (lineOf (kR .rdOnce).addr)).res = LRes.x ∨ (DecisionActs_25_s.lookup 3 (lineOf (kR .rdOnce).addr)).res = LRes.o) := by decide +kernel
theorem wit_DecisionActs_26 : ((dec12 .wrFull zM).decides 3 4 (kR .wrFull)) ∧ ((kR .wrFull).kind = TKind.msg Op.wrFull) ∧ ((kR .wrFull).soft = false) ∧ (((dec12 .wrFull zM).lookup 3 (lineOf (kR .wrFull).addr)).anvil = false) ∧ (Op.wrFull = Op.wrFull ∨ Op.wrFull = Op.wrPart ∨ Op.wrFull = Op.wrStash ∨ Op.wrFull = Op.atomOp) ∧ (Op.wrFull = Op.wrStash → (((dec12 .wrFull zM).lookup 3 (lineOf (kR .wrFull).addr)).way.isSome = true ∨ ((dec12 .wrFull zM).slice 3).mode = Mode.broadcast ∨ ∃ w, (dec12 .wrFull zM).freeWay 3 4 (kR .wrFull) w) ∨ ((dec12 .wrFull zM).lookup 3 (lineOf (kR .wrFull).addr)).res = LRes.p) := by decide +kernel
def DecisionActs_33_s : State := (decN (noM (kR .rdOwn)))
def DecisionActs_33_k : Tracker := (noM (kR .rdOwn))
theorem wit_DecisionActs_33 : (DecisionActs_33_s.decides 3 4 DecisionActs_33_k) ∧ (DecisionActs_33_k.kind = TKind.msg Op.rdOwn) ∧ (DecisionActs_33_k.soft = false) ∧ ((DecisionActs_33_s.lookup 3 (lineOf DecisionActs_33_k.addr)).anvil = false) ∧ (Op.rdOwn = Op.rdShare ∨ Op.rdOwn = Op.rdOwn ∨ Op.rdOwn = Op.upgrade) ∧ ((DecisionActs_33_s.lookup 3 (lineOf DecisionActs_33_k.addr)).res = LRes.i ∨ (Op.rdOwn = Op.rdOwn ∨ Op.rdOwn = Op.upgrade) ∧ (DecisionActs_33_s.lookup 3 (lineOf DecisionActs_33_k.addr)).res = LRes.coarseS) ∧ (∀ w < 16, DecisionActs_33_s.fineMask 3 4 DecisionActs_33_k.colour w = false) ∧ (DecisionActs_33_s.loafFind 3 (lineOf DecisionActs_33_k.addr) = none) ∧ (∀ w < 8, DecisionActs_33_s.loafMask 3 4 DecisionActs_33_k.colour w = false) := by decide +kernel
def DecisionActs_34_s : State := (dec12 .wbDirty (fineIn 3 a67 9 (fE.setX 5) zM))
theorem wit_DecisionActs_34 : (DecisionActs_34_s.decides 3 4 (kR .wbDirty)) ∧ ((kR .wbDirty).kind = TKind.msg Op.wbDirty) ∧ ((kR .wbDirty).soft = false) ∧ (Op.wbDirty.isWbk = true) := by decide +kernel
def DecisionActs_35_s : State := (dec12 .drop (fineIn 3 a67 9 (fE.setX 5) zM))
theorem wit_DecisionActs_35 : (DecisionActs_35_s.decides 3 4 (kR .drop)) ∧ ((kR .drop).kind = TKind.msg Op.drop) ∧ ((kR .drop).soft = false) ∧ (Op.drop.isWbk = true) := by decide +kernel
def DecisionActs_41_s : State := (decS .rdOwn false (fineIn 3 a67 9 (fE.setP [6] 0) zM))
theorem wit_DecisionActs_41 : (DecisionActs_41_s.decides 3 4 (kS .rdOwn false)) ∧ ((kS .rdOwn false).kind = TKind.msg Op.rdOwn) ∧ ((kS .rdOwn false).soft = true) ∧ ((DecisionActs_41_s.lookup 3 (lineOf (kS .rdOwn false).addr)).anvil = false) ∧ ((DecisionActs_41_s.lookup 3 (lineOf (kS .rdOwn false).addr)).res = LRes.p) ∧ (Op.rdOwn = Op.rdShare ∨ Op.rdOwn = Op.rdOwn ∨ Op.rdOwn = Op.rdOnce) := by decide +kernel
theorem wit_DecisionActs_42 : ((decS .rdShare true zM).decides 3 4 (kS .rdShare true)) ∧ ((kS .rdShare true).kind = TKind.msg Op.rdShare) ∧ ((kS .rdShare true).soft = true) ∧ (((decS .rdShare true zM).lookup 3 (lineOf (kS .rdShare true).addr)).anvil = false) ∧ (Op.rdShare = Op.rdShare ∧ (((decS .rdShare true zM).lookup 3 (lineOf (kS .rdShare true).addr)).res = LRes.coarseS ∨ ((decS .rdShare true zM).lookup 3 (lineOf (kS .rdShare true).addr)).res = LRes.i ∧ (kS .rdShare true).noSoft = true ∨ ((decS .rdShare true zM).lookup 3 (lineOf (kS .rdShare true).addr)).res = LRes.s ∧ ((kS .rdShare true).noSoft = true ∨ ((decS .rdShare true zM).lookup 3 (lineOf (kS .rdShare true).addr)).fine.sfmt = true ∨ 3 ≤ ((decS .rdShare true zM).lookup 3 (lineOf (kS .rdShare true).addr)).fine.slots.length)) ∨ Op.rdShare = Op.rdOnce ∧ (((decS .rdShare true zM).lookup 3 (lineOf (kS .rdShare true).addr)).res = LRes.i ∨ ((decS .rdShare true zM).lookup 3 (lineOf (kS .rdShare true).addr)).res = LRes.s ∨ ((decS .rdShare true zM).lookup 3 (lineOf (kS .rdShare true).addr)).res = LRes.coarseS)) := by decide +kernel
def DecisionActs_45_s : State := (decS .rdShare false (fineIn 3 a67 9 (fE.setS [6,7] 0) zM))
theorem wit_DecisionActs_45 : (DecisionActs_45_s.decides 3 4 (kS .rdShare false)) ∧ ((kS .rdShare false).kind = TKind.msg Op.rdShare) ∧ ((kS .rdShare false).soft = true) ∧ ((DecisionActs_45_s.lookup 3 (lineOf (kS .rdShare false).addr)).anvil = false) ∧ (Op.rdShare = Op.rdShare) ∧ ((DecisionActs_45_s.lookup 3 (lineOf (kS .rdShare false).addr)).res = LRes.s) ∧ ((kS .rdShare false).noSoft = false) ∧ ((DecisionActs_45_s.lookup 3 (lineOf (kS .rdShare false).addr)).fine.sfmt = false) ∧ ((DecisionActs_45_s.lookup 3 (lineOf (kS .rdShare false).addr)).fine.slots.length < 3) := by decide +kernel
theorem wit_DecisionActs_46 : ((decS .rdOwn false zM).decides 3 4 (kS .rdOwn false)) ∧ ((kS .rdOwn false).kind = TKind.msg Op.rdOwn) ∧ ((kS .rdOwn false).soft = true) ∧ (((decS .rdOwn false zM).lookup 3 (lineOf (kS .rdOwn false).addr)).anvil = false) ∧ (Op.rdOwn = Op.rdShare ∨ Op.rdOwn = Op.rdOwn) ∧ (((decS .rdOwn false zM).lookup 3 (lineOf (kS .rdOwn false).addr)).res = LRes.i) ∧ ((kS .rdOwn false).noSoft = false) ∧ ((decS .rdOwn false zM).freeWay 3 4 (kS .rdOwn false) 0) ∧ (∀ v < 0, ¬(decS .rdOwn false zM).freeWay 3 4 (kS .rdOwn false) v) := by decide +kernel
def DecisionActs_47_s : State := (decN (noM (kS .rdShare false)))
def DecisionActs_47_k : Tracker := (noM (kS .rdShare false))
theorem wit_DecisionActs_47 : (DecisionActs_47_s.decides 3 4 DecisionActs_47_k) ∧ (DecisionActs_47_k.kind = TKind.msg Op.rdShare) ∧ (DecisionActs_47_k.soft = true) ∧ ((DecisionActs_47_s.lookup 3 (lineOf DecisionActs_47_k.addr)).anvil = false) ∧ (∀ (w : ℕ), ¬DecisionActs_47_s.freeWay 3 4 DecisionActs_47_k w) ∧ (DecisionActs_47_s.loafFind 3 (lineOf DecisionActs_47_k.addr) = none) ∧ ((DecisionActs_47_s.lookup 3 (lineOf DecisionActs_47_k.addr)).res = LRes.i) ∧ (Op.rdShare = Op.rdShare) := by (repeat' apply And.intro) <;> first | decide +kernel | (intro w hw; have hl := hw.1; revert hw; revert hl; revert w; decide +kernel)
def DecisionActs_48_s : State := (decN (noM (kS .rdOwn false)))
def DecisionActs_48_k : Tracker := (noM (kS .rdOwn false))
theorem wit_DecisionActs_48 : (DecisionActs_48_s.decides 3 4 DecisionActs_48_k) ∧ (DecisionActs_48_k.kind = TKind.msg Op.rdOwn) ∧ (DecisionActs_48_k.soft = true) ∧ ((DecisionActs_48_s.lookup 3 (lineOf DecisionActs_48_k.addr)).anvil = false) ∧ (∀ (w : ℕ), ¬DecisionActs_48_s.freeWay 3 4 DecisionActs_48_k w) ∧ (DecisionActs_48_s.loafFind 3 (lineOf DecisionActs_48_k.addr) = none) ∧ ((DecisionActs_48_s.lookup 3 (lineOf DecisionActs_48_k.addr)).res = LRes.i) ∧ (Op.rdOwn = Op.rdOwn) := by (repeat' apply And.intro) <;> first | decide +kernel | (intro w hw; have hl := hw.1; revert hw; revert hl; revert w; decide +kernel)
def DecisionActs_49_s : State := (decS .rdOwn false (fineIn 3 a67 9 (fE.setS [6,7] 0) zM))
theorem wit_DecisionActs_49 : (DecisionActs_49_s.decides 3 4 (kS .rdOwn false)) ∧ ((kS .rdOwn false).kind = TKind.msg Op.rdOwn) ∧ ((kS .rdOwn false).soft = true) ∧ ((DecisionActs_49_s.lookup 3 (lineOf (kS .rdOwn false).addr)).anvil = false) ∧ (Op.rdOwn = Op.rdOwn ∧ (DecisionActs_49_s.lookup 3 (lineOf (kS .rdOwn false).addr)).res ≠ LRes.p ∧ ((DecisionActs_49_s.lookup 3 (lineOf (kS .rdOwn false).addr)).res ≠ LRes.i ∨ (kS .rdOwn false).noSoft = true) ∨ (Op.rdOwn = Op.rdShare ∨ Op.rdOwn = Op.rdOnce) ∧ ((DecisionActs_49_s.lookup 3 (lineOf (kS .rdOwn false).addr)).res = LRes.x ∨ (DecisionActs_49_s.lookup 3 (lineOf (kS .rdOwn false).addr)).res = LRes.o ∨ (DecisionActs_49_s.lookup 3 (lineOf (kS .rdOwn false).addr)).res = LRes.coarseO ∨ (DecisionActs_49_s.lookup 3 (lineOf (kS .rdOwn false).addr)).res = LRes.u)) := by decide +kernel
def DecisionActs_51_s : State := (dec12 .rdShare (zAv zM))
theorem wit_DecisionActs_51 : (DecisionActs_51_s.decides 3 4 (kR .rdShare)) ∧ ((kR .rdShare).kind = TKind.msg Op.rdShare) ∧ ((DecisionActs_51_s.lookup 3 (lineOf (kR .rdShare).addr)).anvil = true) ∧ (isAgent (kR .rdShare).src.toNat = true) ∧ (DecisionActs_51_s.agentRev (kR .rdShare).src.toNat = 3) ∧ ((kR .rdShare).noAnvil = false) ∧ (Op.rdShare = Op.rdShare ∨ Op.rdShare = Op.rdOnce) := by decide +kernel
def DecisionActs_53_s : State := (dec12 .wrPart (zAv zM))
theorem wit_DecisionActs_53 : (DecisionActs_53_s.decides 3 4 (kR .wrPart)) ∧ ((kR .wrPart).kind = TKind.msg Op.wrPart) ∧ ((DecisionActs_53_s.lookup 3 (lineOf (kR .wrPart).addr)).anvil = true) ∧ (isAgent (kR .wrPart).src.toNat = true) ∧ (DecisionActs_53_s.agentRev (kR .wrPart).src.toNat = 3) ∧ ((kR .wrPart).noAnvil = false) ∧ (Op.wrPart = Op.wrFull ∨ Op.wrPart = Op.wrPart) ∧ ((kR .wrPart).soft = false) := by decide +kernel
def DecisionActs_54_s : State := (trk 3 4 kAt (dec12 .atomOp (zAv zM)))
theorem wit_DecisionActs_54 : (DecisionActs_54_s.decides 3 4 kAt) ∧ (kAt.kind = TKind.msg Op.atomOp) ∧ ((DecisionActs_54_s.lookup 3 (lineOf kAt.addr)).anvil = true) ∧ (isAgent kAt.src.toNat = true) ∧ (DecisionActs_54_s.agentRev kAt.src.toNat = 3) ∧ (kAt.noAnvil = false) ∧ (Op.atomOp = Op.atomOp) ∧ (kAt.soft = false) ∧ (kAt.opPoison = false) ∧ (DecisionActs_54_s.unbuffered 3 kAt) ∧ (DecisionActs_54_s.cached 3 kAt (77 : Line)) := by decide +kernel
def DecisionActs_55_s : State := (decS .rdOwn false (zAv zM))
theorem wit_DecisionActs_55 : (DecisionActs_55_s.decides 3 4 (kS .rdOwn false)) ∧ ((kS .rdOwn false).kind = TKind.msg Op.rdOwn) ∧ ((DecisionActs_55_s.lookup 3 (lineOf (kS .rdOwn false).addr)).anvil = true) ∧ (Op.rdOwn = Op.rdOwn) ∧ ((kS .rdOwn false).soft = true) := by decide +kernel
def DecisionActs_56_s : State := (dec12 .rdOwn (zAv zM))
theorem wit_DecisionActs_56 : (DecisionActs_56_s.decides 3 4 (kR .rdOwn)) ∧ ((kR .rdOwn).kind = TKind.msg Op.rdOwn) ∧ ((DecisionActs_56_s.lookup 3 (lineOf (kR .rdOwn).addr)).anvil = true) ∧ (Op.rdOwn = Op.rdOwn) ∧ ((kR .rdOwn).soft = false) ∧ (∃ w, DecisionActs_56_s.freeWay 3 4 (kR .rdOwn) w) := by decide +kernel
def DecisionActs_58_s : State := (dec12 .upgrade (fineIn 3 a67 9 (fE.setX 5) zM))
theorem wit_DecisionActs_58 : (DecisionActs_58_s.decides 3 4 (kR .upgrade)) ∧ ((kR .upgrade).kind = TKind.msg Op.upgrade) ∧ ((kR .upgrade).soft = false) ∧ ((DecisionActs_58_s.lookup 3 (lineOf (kR .upgrade).addr)).anvil = false) ∧ ((DecisionActs_58_s.lookup 3 (lineOf (kR .upgrade).addr)).res = LRes.x) ∧ (Op.upgrade = Op.rdOwn ∨ Op.upgrade = Op.upgrade) ∧ (List.filter (fun h => (DecisionActs_58_s.slice 3).admitted h && h != (kR .upgrade).src.toNat) (DecisionActs_58_s.lookup 3 (lineOf (kR .upgrade).addr)).fine.owner.toList = []) := by decide +kernel
def DecisionActs_60_s : State := (dec12 .rdShare (fineIn 3 a67 9 (fE.setO 5 [6] 0) zM))
theorem wit_DecisionActs_60 : (DecisionActs_60_s.decides 3 4 (kR .rdShare)) ∧ ((kR .rdShare).kind = TKind.msg Op.rdShare) ∧ ((kR .rdShare).soft = false) ∧ ((DecisionActs_60_s.lookup 3 (lineOf (kR .rdShare).addr)).anvil = false) ∧ ((DecisionActs_60_s.lookup 3 (lineOf (kR .rdShare).addr)).res = LRes.x ∨ (DecisionActs_60_s.lookup 3 (lineOf (kR .rdShare).addr)).res = LRes.o) ∧ (Op.rdShare = Op.rdShare) ∧ (List.filter (fun h => (DecisionActs_60_s.slice 3).admitted h && h != (kR .rdShare).src.toNat) (DecisionActs_60_s.lookup 3 (lineOf (kR .rdShare).addr)).fine.owner.toList = []) := by decide +kernel
theorem wit_DecisionActs_63 : (zPf.decides 3 4 (kR .pfHint)) ∧ ((kR .pfHint).kind = TKind.msg Op.pfHint) ∧ ((kR .pfHint).soft = false) ∧ ((zPf.lookup 3 (lineOf (kR .pfHint).addr)).anvil = false) ∧ (Op.pfHint = Op.pfHint) ∧ ((zPf.lookup 3 (lineOf (kR .pfHint).addr)).res = LRes.i) ∧ (zPf.hlcFind 3 (lineOf (kR .pfHint).addr) = none) ∧ (zPf.hlcOk (lineOf (kR .pfHint).addr) = true) ∧ (zPf.memDest (lineOf (kR .pfHint).addr) = Dest.port 7) ∧ (zPf.hlcVictim 3 4 (lineOf (kR .pfHint).addr) (kR .pfHint).colour = some 0) ∧ (zPf.unbuffered 3 (kR .pfHint)) := by decide +kernel
def DecisionActs_64_s : State := (dec12 .pfHint (fineIn 3 a67 9 (fE.setS [6] 0) zM))
theorem wit_DecisionActs_64 : (DecisionActs_64_s.decides 3 4 (kR .pfHint)) ∧ ((kR .pfHint).kind = TKind.msg Op.pfHint) ∧ (Op.pfHint = Op.pfHint) ∧ ((kR .pfHint).soft = false) ∧ ((DecisionActs_64_s.lookup 3 (lineOf (kR .pfHint).addr)).anvil = true ∨ (DecisionActs_64_s.lookup 3 (lineOf (kR .pfHint).addr)).res ≠ LRes.i ∨ DecisionActs_64_s.hlcFind 3 (lineOf (kR .pfHint).addr) ≠ none ∨ DecisionActs_64_s.hlcOk (lineOf (kR .pfHint).addr) = false ∨ (DecisionActs_64_s.memDest (lineOf (kR .pfHint).addr)).node = none ∨ DecisionActs_64_s.hlcVictim 3 4 (lineOf (kR .pfHint).addr) (kR .pfHint).colour = none) ∧ (DecisionActs_64_s.calm 3) ∧ ((DecisionActs_64_s.slice 3).trk = [(4, (kR .pfHint))]) := by decide +kernel

/-! TrackingWrites -/
def TrackingWrites_1_s : State := (decM (kM .rdOwn 8 255) (loafIn13 3 bD 5 {lfC with pres := setBit 0 3 true} (fineIn 3 bD 3 (fE.setX 6) zM)))
theorem wit_TrackingWrites_1 : (TrackingWrites_1_s.decides 3 4 (kM .rdOwn 8 255)) ∧ ((kM .rdOwn 8 255).kind = TKind.msg Op.rdOwn) ∧ ((kM .rdOwn 8 255).soft = false) ∧ (Op.rdOwn = Op.rdShare ∨ Op.rdOwn = Op.rdOwn) ∧ ((TrackingWrites_1_s.lookup 3 (lineOf (kM .rdOwn 8 255).addr)).anvil = false) ∧ ((TrackingWrites_1_s.lookup 3 (lineOf (kM .rdOwn 8 255).addr)).res = LRes.i) ∧ (∀ (v : ℕ), ¬TrackingWrites_1_s.freeWay 3 4 (kM .rdOwn 8 255) v) ∧ (∃ v < 16, (fun v => TrackingWrites_1_s.fineMask 3 4 (kM .rdOwn 8 255).colour v && TrackingWrites_1_s.fineElig 3 (fineSet (lineOf (kM .rdOwn 8 255).addr)) v) v = true) ∧ (∀ i < 4, wordBad ((TrackingWrites_1_s.slice 3).fineE (fineSet (lineOf (kM .rdOwn 8 255).addr)) (treeWalk (mget 0 (TrackingWrites_1_s.slice 3).arr.fineTree (kM .rdOwn 8 255).colour.toNat) (fun v => TrackingWrites_1_s.fineMask 3 4 (kM .rdOwn 8 255).colour v && TrackingWrites_1_s.fineElig 3 (fineSet (lineOf (kM .rdOwn 8 255).addr)) v) 0 0 4)) i = false) ∧ (∀ (j i : ℕ), j < 8 → i < 4 → wordBad ((TrackingWrites_1_s.slice 3).loafE (loafSet ((TrackingWrites_1_s.fineAt 3 (fineSet (lineOf (kM .rdOwn 8 255).addr)) (treeWalk (mget 0 (TrackingWrites_1_s.slice 3).arr.fineTree (kM .rdOwn 8 255).colour.toNat) (fun v => TrackingWrites_1_s.fineMask 3 4 (kM .rdOwn 8 255).colour v && TrackingWrites_1_s.fineElig 3 (fineSet (lineOf (kM .rdOwn 8 255).addr)) v) 0 0 4)).line (fineSet (lineOf (kM .rdOwn 8 255).addr)))) j) i = false) := by (repeat' apply And.intro) <;> first | decide +kernel | (intro w hw; have hl := hw.1; revert hw; revert hl; revert w; decide +kernel) | (intro i j hi hj; revert hj; revert j; revert hi; revert i; decide +kernel)
def TrackingWrites_8_s : State := (decM (kM .rdShare 0 4) (loafIn13 3 cD 2 lfC zM))
theorem wit_TrackingWrites_8 : (TrackingWrites_8_s.decides 3 4 (kM .rdShare 0 4)) ∧ ((kM .rdShare 0 4).kind = TKind.msg Op.rdShare) ∧ ((kM .rdShare 0 4).soft = false) ∧ (Op.rdShare = Op.rdShare ∨ Op.rdShare = Op.rdOwn) ∧ ((TrackingWrites_8_s.lookup 3 (lineOf (kM .rdShare 0 4).addr)).anvil = false) ∧ ((TrackingWrites_8_s.lookup 3 (lineOf (kM .rdShare 0 4).addr)).res = LRes.i) ∧ (∀ (v : ℕ), ¬TrackingWrites_8_s.freeWay 3 4 (kM .rdShare 0 4) v) ∧ (∀ v < 16, TrackingWrites_8_s.fineMask 3 4 (kM .rdShare 0 4).colour v = false) ∧ (TrackingWrites_8_s.loafFind 3 (lineOf (kM .rdShare 0 4).addr) = none) ∧ (∃ i < 8, (fun j => TrackingWrites_8_s.loafMask 3 4 (kM .rdShare 0 4).colour j && TrackingWrites_8_s.loafElig 3 (loafSet (lineOf (kM .rdShare 0 4).addr)) j) i = true) ∧ (∀ i < 8, (fun j => TrackingWrites_8_s.loafMask 3 4 (kM .rdShare 0 4).colour j && TrackingWrites_8_s.loafElig 3 (loafSet (lineOf (kM .rdShare 0 4).addr)) j) i = true → (TrackingWrites_8_s.loafAt 3 (loafSet (lineOf (kM .rdShare 0 4).addr)) i).lstate ≠ 0) := by (repeat' apply And.intro) <;> first | decide +kernel | (intro w hw; have hl := hw.1; revert hw; revert hl; revert w; decide +kernel)
def TrackingWrites_10_s : State := (sl (kSc (.way 9) false) (loafIn13 3 a67 2 lfC zM))
def TrackingWrites_10_k : Tracker := (kSc (.way 9) false)
theorem wit_TrackingWrites_10 : (TrackingWrites_10_s.canon = true) ∧ (TrackingWrites_10_s.tablesRise = true) ∧ (TrackingWrites_10_s.receives 3 (encode mSl) mSl) ∧ (TrackingWrites_10_s.trk 3 mSl.htrk.toNat = some TrackingWrites_10_k) ∧ (TrackingWrites_10_k.stage = Stage.live) ∧ (TrackingWrites_10_k.quar = []) ∧ (TrackingWrites_10_k.bad = false) ∧ (TrackingWrites_10_k.evict = none) ∧ (TrackingWrites_10_k.pendWr = []) ∧ (TrackingWrites_10_k.silent = false) ∧ (TrackingWrites_10_k.toP = false) ∧ (TrackingWrites_10_k.unrouted = false) ∧ ((TrackingWrites_10_s.slice 3).serving = true) ∧ ((TrackingWrites_10_s.slice 3).mode ≠ Mode.broadcast) ∧ (mSl.op = Op.seal) ∧ (mfind (TrackingWrites_10_s.slice 3).fences mSl.htrk.toNat = none) ∧ (TrackingWrites_10_k.kind = TKind.msg Op.rdOwn) ∧ (TrackingWrites_10_k.soft = false) ∧ (TrackingWrites_10_k.look.res = LRes.coarseS ∨ TrackingWrites_10_k.look.res = LRes.i) ∧ (TrackingWrites_10_k.look.fine = { }) ∧ (TrackingWrites_10_k.look.anvil = false) ∧ (TrackingWrites_10_k.ans = some (Op.datX, lsE)) ∧ (TrackingWrites_10_k.waitSeal = true) ∧ (TrackingWrites_10_k.sealTimer = true) ∧ (mSl.src = TrackingWrites_10_k.src) ∧ (mSl.rqtx = TrackingWrites_10_k.rqtx) ∧ (isCaching TrackingWrites_10_k.src.toNat = true) ∧ (TrackingWrites_10_k.rdone = true) ∧ (TrackingWrites_10_k.round.ended = true) ∧ (TrackingWrites_10_k.early = false) ∧ (TrackingWrites_10_k.stashed = false) ∧ (TrackingWrites_10_k.heldLoaf = none) ∧ (TrackingWrites_10_s.fineFind 3 (lineOf TrackingWrites_10_k.addr) = none) ∧ (TrackingWrites_10_s.calm 3) := by decide +kernel
def TrackingWrites_15_s : State := (wf false (hlcIn 3 a67 5 99 false zM))
def TrackingWrites_15_f : Flits := (encode (mWf13 false))
theorem wit_TrackingWrites_15 : (TrackingWrites_15_s.canon = true) ∧ (TrackingWrites_15_s.tablesRise = true) ∧ (TrackingWrites_15_s.receives 3 TrackingWrites_15_f (mWf13 false)) ∧ (TrackingWrites_15_s.trk 3 (mWf13 false).htrk.toNat = some kWf) ∧ (kWf.stage = Stage.live) ∧ (kWf.quar = []) ∧ (kWf.bad = false) ∧ (kWf.evict = none) ∧ (kWf.pendWr = []) ∧ (kWf.silent = false) ∧ (kWf.toP = false) ∧ (kWf.unrouted = false) ∧ ((TrackingWrites_15_s.slice 3).serving = true) ∧ ((TrackingWrites_15_s.slice 3).mode ≠ Mode.broadcast) ∧ ((mWf13 false).op = Op.datWb) ∧ (kWf.kind = TKind.msg Op.wrFull) ∧ (kWf.waitDat = true) ∧ ((mWf13 false).src = kWf.src) ∧ ((mWf13 false).rqtx = kWf.rqtx) ∧ (kWf.ans.isSome = true) ∧ (kWf.look.res ≠ LRes.p) ∧ (TrackingWrites_15_s.memDest (lineOf kWf.addr) = Dest.port 7) ∧ ((TrackingWrites_15_s.slice 3).mbOf MbSt.opened (lineOf kWf.addr) = none) ∧ ((TrackingWrites_15_s.slice 3).mbFree = some 0) ∧ (kWf.bufBad = false) := by decide +kernel
def TrackingWrites_19_s : State := (trk 3 200 kPf (mesh mMD (adm [5,6] 3 zM)))
theorem wit_TrackingWrites_19 : (TrackingWrites_19_s.canon = true) ∧ (TrackingWrites_19_s.tablesRise = true) ∧ (TrackingWrites_19_s.receives 3 (encode mMD) mMD) ∧ (TrackingWrites_19_s.trk 3 mMD.htrk.toNat = some kPf) ∧ (kPf.stage = Stage.live) ∧ (kPf.quar = []) ∧ (kPf.bad = false) ∧ (kPf.evict = none) ∧ (kPf.pendWr = []) ∧ (kPf.silent = false) ∧ (kPf.toP = false) ∧ (kPf.unrouted = false) ∧ ((TrackingWrites_19_s.slice 3).serving = true) ∧ ((TrackingWrites_19_s.slice 3).mode ≠ Mode.broadcast) ∧ (mMD.op = Op.memDat) ∧ (kPf.kind = TKind.msg Op.pfHint) ∧ (kPf.memNode = some mMD.src) ∧ (kPf.pfWay = some 5) ∧ (mMD.poison = false) ∧ (kPf.merge = (0, 0, false)) ∧ (kPf.bufBad = false) ∧ ((TrackingWrites_19_s.slice 3).pin (hlcSet (lineOf kPf.addr)) 5 = false) ∧ (TrackingWrites_19_s.hlcOpen 3 5 = true) ∧ (TrackingWrites_19_s.calm 3) ∧ ((TrackingWrites_19_s.slice 3).trk = [(mMD.htrk.toNat, kPf)]) := by decide +kernel

/-! SummaryLevels -/
theorem wit_SummaryLevels_14 : ((zSr14 67 z).canon = true) ∧ (67 < (zSr14 67 z).par.nSlice) ∧ (67 < 68) ∧ ((sliceNode 67).toNat ∉ (zSr14 67 z).spine.episodes) ∧ (bit ((zSr14 67 z).rises (sliceNode 67).toNat) 5 = true) ∧ (bit ((zSr14 67 z).rises (sliceNode 67).toNat) 4 = false) ∧ ((zSr14 67 z).hall.fatalDue = 0) ∧ (∀ j ∈ (zSr14 67 z).spine.jobs, j.id < (zSr14 67 z).spine.nextJob) := by decide
def SummaryLevels_15_s : State := (zSr14 67 (phase 67 .hold z))
theorem wit_SummaryLevels_15 : (SummaryLevels_15_s.canon = true) ∧ (67 < SummaryLevels_15_s.par.nSlice) ∧ (67 < 68) ∧ ((sliceNode 67).toNat ∉ SummaryLevels_15_s.spine.episodes) ∧ (bit (SummaryLevels_15_s.rises (sliceNode 67).toNat) 5 = true) ∧ (bit (SummaryLevels_15_s.rises (sliceNode 67).toNat) 4 = false) ∧ (SummaryLevels_15_s.hall.fatalDue = 0) ∧ (∀ j ∈ SummaryLevels_15_s.spine.jobs, j.id < SummaryLevels_15_s.spine.nextJob) := by decide
def SummaryLevels_16_s : State := (zSr14 3 (phase 3 .hold z))
theorem wit_SummaryLevels_16 : (SummaryLevels_16_s.canon = true) ∧ (3 < SummaryLevels_16_s.par.nSlice) ∧ (3 < 68) ∧ ((sliceNode 3).toNat ∉ SummaryLevels_16_s.spine.episodes) ∧ (bit (SummaryLevels_16_s.rises (sliceNode 3).toNat) 5 = true) ∧ (bit (SummaryLevels_16_s.rises (sliceNode 3).toNat) 4 = false) ∧ (SummaryLevels_16_s.hall.fatalDue = 0) ∧ (∀ j ∈ SummaryLevels_16_s.spine.jobs, j.id < SummaryLevels_16_s.spine.nextJob) := by decide
def SummaryLevels_18_s : State := (zSr14 67 (phase 67 .off z))
theorem wit_SummaryLevels_18 : (SummaryLevels_18_s.canon = true) ∧ (67 < SummaryLevels_18_s.par.nSlice) ∧ (67 < 68) ∧ ((sliceNode 67).toNat ∉ SummaryLevels_18_s.spine.episodes) ∧ (bit (SummaryLevels_18_s.rises (sliceNode 67).toNat) 5 = true) ∧ (bit (SummaryLevels_18_s.rises (sliceNode 67).toNat) 4 = false) ∧ (SummaryLevels_18_s.hall.fatalDue = 0) ∧ (∀ j ∈ SummaryLevels_18_s.spine.jobs, j.id < SummaryLevels_18_s.spine.nextJob) := by decide
theorem wit_SummaryLevels_19 : ((zSr14 3 z).canon = true) ∧ (3 < (zSr14 3 z).par.nSlice) ∧ (3 < 68) ∧ ((sliceNode 3).toNat ∉ (zSr14 3 z).spine.episodes) ∧ (bit ((zSr14 3 z).rises (sliceNode 3).toNat) 5 = true) ∧ (bit ((zSr14 3 z).rises (sliceNode 3).toNat) 4 = false) ∧ ((zSr14 3 z).hall.fatalDue = 0) ∧ (∀ j ∈ (zSr14 3 z).spine.jobs, j.id < (zSr14 3 z).spine.nextJob) := by decide
def SummaryLevels_20_s : State := (zSr14 3 (z.updSpine fun sp => {sp with traySeg := [(3,{valid := true, slice := 3})]}))
theorem wit_SummaryLevels_20 : (SummaryLevels_20_s.canon = true) ∧ (3 < SummaryLevels_20_s.par.nSlice) ∧ (3 < 68) ∧ ((sliceNode 3).toNat ∉ SummaryLevels_20_s.spine.episodes) ∧ (bit (SummaryLevels_20_s.rises (sliceNode 3).toNat) 5 = true) ∧ (bit (SummaryLevels_20_s.rises (sliceNode 3).toNat) 4 = false) ∧ (SummaryLevels_20_s.hall.fatalDue = 0) ∧ (∀ j ∈ SummaryLevels_20_s.spine.jobs, j.id < SummaryLevels_20_s.spine.nextJob) := by decide

/-! HallmarkBuffer -/
def HallmarkBuffer_7_s : State := (zFeed14.updHall fun h => h.setBucket 0x300 {h.bucket 0x300 with burst := 0})
def HallmarkBuffer_7_l : List HRec := []
theorem wit_HallmarkBuffer_7 : (HallmarkBuffer_7_s.par.hasPart 323 = true) ∧ (HallmarkBuffer_7_s.hall.pwrFail = false) ∧ (HallmarkBuffer_7_s.hall.fatalDue = 0) ∧ (mget [] HallmarkBuffer_7_s.hall.feeds 323 = hrec0 :: HallmarkBuffer_7_l) ∧ (HallmarkBuffer_7_s.hall.nextFeed = some 323) ∧ (HallmarkBuffer_7_s.codeOff hrec0.code.toNat = true) ∧ (mget { } HallmarkBuffer_7_s.hall.feedLoss 323 = { }) ∧ (∀ (f : ℕ), (HallmarkBuffer_7_s.fn f).lostRecs = 0) := by (repeat' apply And.intro) <;> first | decide +kernel | exact fun _ => rfl | (intro b h; cases h) | (intro b h; exact absurd h (by decide +kernel))

/-! RegisterAccesses -/
theorem wit_RegisterAccesses_38 : (zUp.canon = true) ∧ (zUp.tablesRise = true) ∧ (2 < zUp.par.nFunc) := by decide

/-! Translations -/
theorem wit_Translations_13 : (2 < (rq z).par.nFunc) ∧ (((rq z).fn 2).ats = true) ∧ (Translation.timeout = Translation.unsupportedRequest ∨ Translation.timeout = Translation.completerAbort ∨ Translation.timeout = Translation.poisoned ∨ Translation.timeout = Translation.timeout) ∧ (((rq z).fn 2).requested (0x300234 : W64) false false = true) := by decide
theorem wit_Translations_14 : (2 < (rq z).par.nFunc) ∧ (((rq z).fn 2).ats = true) ∧ (Translation.completerAbort = Translation.unsupportedRequest ∨ Translation.completerAbort = Translation.completerAbort ∨ Translation.completerAbort = Translation.poisoned ∨ Translation.completerAbort = Translation.timeout) ∧ (((rq z).fn 2).requested (0x700234 : W64) false true = true) := by decide
def Translations_17_kv : (W64 × Bool) × Bool × BitVec 4 := (transKey rfAt false, (true, stUR))
theorem wit_Translations_17 : (2 < (zRf true stUR).par.nFunc) ∧ (((zRf true stUR).fn 2).ats = true) ∧ (((zRf true stUR).fn 2).canFetch = true) ∧ (((zRf true stUR).fn 2).retries = 0) ∧ ((zRf true stUR).hostAddr 2 (((zRf true stUR).fn 2).cmd.entryAddr ((zRf true stUR).fn 2).cmd.cidx 64) false = none) ∧ (List.find? (fun kv => kv.1 == transKey (((zRf true stUR).fn 2).cmd.entryAddr ((zRf true stUR).fn 2).cmd.cidx 64) false) ((zRf true stUR).fn 2).transFails = some Translations_17_kv) := by decide
def Translations_18_hr : HostRead := (.bytes [])
theorem wit_Translations_18 : (2 < (ats 2 zRings).par.nFunc) ∧ (((ats 2 zRings).fn 2).ats = true) ∧ (((ats 2 zRings).fn 2).canFetch = true) ∧ (((ats 2 zRings).fn 2).retries = 0) ∧ ((ats 2 zRings).hostAddr 2 (((ats 2 zRings).fn 2).cmd.entryAddr ((ats 2 zRings).fn 2).cmd.cidx 64) false = none) ∧ (List.find? (fun kv => kv.1 == transKey (((ats 2 zRings).fn 2).cmd.entryAddr ((ats 2 zRings).fn 2).cmd.cidx 64) false) ((ats 2 zRings).fn 2).transFails = none) ∧ (readFailure Translations_18_hr = none) := by decide
def Translations_19_hr : HostRead := (.translationFault 5 stUR)
def Translations_19_e : Bool × BitVec 4 := (false, 0)
theorem wit_Translations_19 : (2 < (ats 2 zRings).par.nFunc) ∧ (((ats 2 zRings).fn 2).ats = true) ∧ (((ats 2 zRings).fn 2).canFetch = true) ∧ (((ats 2 zRings).fn 2).retries = 0) ∧ ((ats 2 zRings).hostAddr 2 (((ats 2 zRings).fn 2).cmd.entryAddr ((ats 2 zRings).fn 2).cmd.cidx 64) false = none) ∧ (List.find? (fun kv => kv.1 == transKey (((ats 2 zRings).fn 2).cmd.entryAddr ((ats 2 zRings).fn 2).cmd.cidx 64) false) ((ats 2 zRings).fn 2).transFails = none) ∧ (readFailure Translations_19_hr = some Translations_19_e) := by decide
def Translations_20_s : State := (withAtc [atcE 2 (rfAt &&& ~~~ 0xFFF) false] (ats 2 zRings))
def Translations_20_hr : HostRead := (.translationFault 5 stUR)
theorem wit_Translations_20 : (2 < Translations_20_s.par.nFunc) ∧ ((Translations_20_s.fn 2).ats = true) ∧ ((Translations_20_s.fn 2).canFetch = true) ∧ ((Translations_20_s.fn 2).retries = 0) ∧ (Translations_20_s.hostAddr 2 ((Translations_20_s.fn 2).cmd.entryAddr (Translations_20_s.fn 2).cmd.cidx 64) false ≠ none) ∧ (readFailure Translations_20_hr ≠ none) := by decide
theorem wit_Translations_22 : (2 < (rq z).par.nFunc) ∧ (((rq z).fn 2).requested (0x500234 : W64) false true = false) ∧ (((rq z).fn 2).requested (0x500234 : W64) true true = false) := by decide
theorem wit_Translations_23 : (2 < (rq z).par.nFunc) := by decide
theorem wit_Translations_24 : (2 < (rq z).par.nFunc) ∧ ((rq z).canon = true) ∧ (((rq z).fn 2).requested (0x300234 : W64) false false = true ∨ ((rq z).fn 2).requested (0x300234 : W64) true false = true) := by decide

/-! Salvages -/
def Salvages_7_s : State := (zTk [] z)
def Salvages_7_l : List ℕ := ((List.range 63).map (· + 1))
theorem wit_Salvages_7 : (Salvages_7_s.canon = true) ∧ (Salvages_7_s.tablesRise = true) ∧ (67 < Salvages_7_s.par.nSlice) ∧ (0 < Salvages_7_s.par.nSlice) ∧ (67 < 4096) ∧ (Salvages_7_s.spine.salvage = some svT) ∧ (svT.slice = 67) ∧ (svT.ports = [15]) ∧ (svT.copyJob = none) ∧ (15 < Salvages_7_s.par.nMport) ∧ (67 ∈ (Salvages_7_s.port 15).notices) ∧ (∀ h ∈ (Salvages_7_s.port 15).halves, h.src ≠ sliceNode 67) ∧ (∀ w ∈ (Salvages_7_s.port 15).writes, w.src ≠ sliceNode 67) ∧ (Salvages_7_s.heldBuckets 67 = [67]) ∧ (Salvages_7_s.roomy 67 = 0 :: Salvages_7_l) ∧ (∀ k ∈ 0 :: Salvages_7_l, Salvages_7_s.paused k = false) ∧ ((Salvages_7_s.slice 0).recipe = none) ∧ (Salvages_7_s.scrubbing = []) := by decide +kernel
def Salvages_8_l : List ℕ := ((List.range 63).map (· + 1))
theorem wit_Salvages_8 : ((zTk1 kDat).canon = true) ∧ ((zTk1 kDat).tablesRise = true) ∧ (67 < (zTk1 kDat).par.nSlice) ∧ (0 < (zTk1 kDat).par.nSlice) ∧ (67 < 4096) ∧ ((zTk1 kDat).spine.salvage = some svT) ∧ (svT.slice = 67) ∧ (svT.ports = [15]) ∧ (svT.copyJob = none) ∧ (15 < (zTk1 kDat).par.nMport) ∧ (67 ∈ ((zTk1 kDat).port 15).notices) ∧ (∀ h ∈ ((zTk1 kDat).port 15).halves, h.src ≠ sliceNode 67) ∧ (∀ w ∈ ((zTk1 kDat).port 15).writes, w.src ≠ sliceNode 67) ∧ ((zTk1 kDat).heldBuckets 67 = [67]) ∧ ((zTk1 kDat).roomy 67 = 0 :: Salvages_8_l) ∧ (∀ k ∈ 0 :: Salvages_8_l, (zTk1 kDat).paused k = false) ∧ (((zTk1 kDat).slice 0).recipe = none) ∧ ((zTk1 kDat).scrubbing = []) := by decide +kernel
def Salvages_9_l : List ℕ := ((List.range 63).map (· + 1))
theorem wit_Salvages_9 : ((zTk1 kLive).canon = true) ∧ ((zTk1 kLive).tablesRise = true) ∧ (67 < (zTk1 kLive).par.nSlice) ∧ (0 < (zTk1 kLive).par.nSlice) ∧ (67 < 4096) ∧ ((zTk1 kLive).spine.salvage = some svT) ∧ (svT.slice = 67) ∧ (svT.ports = [15]) ∧ (svT.copyJob = none) ∧ (15 < (zTk1 kLive).par.nMport) ∧ (67 ∈ ((zTk1 kLive).port 15).notices) ∧ (∀ h ∈ ((zTk1 kLive).port 15).halves, h.src ≠ sliceNode 67) ∧ (∀ w ∈ ((zTk1 kLive).port 15).writes, w.src ≠ sliceNode 67) ∧ ((zTk1 kLive).heldBuckets 67 = [67]) ∧ ((zTk1 kLive).roomy 67 = 0 :: Salvages_9_l) ∧ (∀ k ∈ 0 :: Salvages_9_l, (zTk1 kLive).paused k = false) ∧ (((zTk1 kLive).slice 0).recipe = none) ∧ ((zTk1 kLive).scrubbing = []) := by decide +kernel
theorem wit_Salvages_10 : (svT.unreadable = false) ∧ ((zTk1 kDat).trk 67 4 = some kDat) ∧ (kDat.bad = false) ∧ (kDat.kind = TKind.msg Op.wbDirty) ∧ (kDat.waitDat = true) := by decide +kernel
theorem wit_Salvages_11 : (svT.unreadable = false) ∧ ((zTk1 kAtN).trk 67 4 = some kAtN) ∧ (kAtN.bad = false) ∧ (kAtN.kind = TKind.msg Op.atomOp) ∧ (Op.atomOp = Op.atomOp) ∧ (kAtN.atomDone = false) ∧ (kAtN.stage = Stage.chain ∨ kAtN.stage = Stage.ready ∨ kAtN.stage = Stage.live) := by decide +kernel
def Salvages_12_s : State := ((zTk1 kLive).updSlice 67 fun x => x.putMb 3 {st := .opened, line := inB 66})
def Salvages_12_e : MbEntry := {st := .opened, line := inB 66}
theorem wit_Salvages_12 : (svT.unreadable = false) ∧ (Salvages_12_s.trk 67 4 = some kLive) ∧ (kLive.bad = false) ∧ (kLive.kind = TKind.msg Op.rdOwn) ∧ ((3, Salvages_12_e) ∈ (Salvages_12_s.slice 67).mb) ∧ (Salvages_12_e.st = MbSt.opened) := by decide +kernel
theorem wit_Salvages_13 : (svT.unreadable = false) ∧ ((zTk1 kLive).trk 67 4 = some kLive) ∧ (kLive.bad = false) ∧ (kLive.kind = TKind.msg Op.rdOwn) ∧ (kLive.waitDat = false ∧ kLive.waitStash = false ∧ kLive.stashed = false ∧ kLive.round.data = none ∧ kLive.pendWr = [] ∧ kLive.evict = none) ∧ (kLive.stage = Stage.live) ∧ (Op.rdOwn ≠ Op.pfHint) ∧ (Op.rdOwn ≠ Op.drainW) ∧ (Op.rdOwn ≠ Op.atomOp) ∧ (lineOf kLive.addr ∉ ((zTk1 kLive).lostLines 67 svT).1) := by decide +kernel
theorem wit_Salvages_14 : (svT.unreadable = false) ∧ ((zTk1 kRdy).trk 67 4 = some kRdy) ∧ (kRdy.bad = false) ∧ (kRdy.kind = TKind.msg Op.rdOwn) ∧ (kRdy.waitDat = false ∧ kRdy.waitStash = false ∧ kRdy.stashed = false ∧ kRdy.round.data = none ∧ kRdy.pendWr = [] ∧ kRdy.evict = none) ∧ (Op.rdOwn = Op.pfHint ∨ Op.rdOwn ≠ Op.atomOp ∧ (kRdy.stage = Stage.chain ∨ kRdy.stage = Stage.ready)) ∧ (((zTk1 kRdy).slice 67).trk = [(4, kRdy)]) ∧ (((zTk1 kRdy).slice 67).mb = []) := by decide +kernel
def Salvages_15_v : Salvage := {svT with unreadable := true}
theorem wit_Salvages_15 : (Salvages_15_v.unreadable = true) := by decide

/-! EntriesCopied -/
def EntriesCopied_12_key : Bool × ℕ × ℕ := (false,s67,66)
def EntriesCopied_12_w : Wire := (.copyFine 3 5 s67 2 0 0 false true)
def EntriesCopied_12_r : List ((Bool × ℕ × ℕ) × Wire) := []
theorem wit_EntriesCopied_12 : (3 < zMq.par.nSlice) ∧ ((zMq.slice 3).inBuf = []) ∧ (zMq.findWire 0 (isAckTo 3) = some (Wire.copyAck 5 3 s67 false 67)) ∧ (zMq.canon = true) ∧ ((zMq.slice 3).mirrorQ = (EntriesCopied_12_key, EntriesCopied_12_w) :: EntriesCopied_12_r) ∧ ((((zMq.takeWire (Wire.copyAck 5 3 s67 false 67)).updSlice 3 fun sl => { conds := sl.conds, arr := sl.arr, mb := sl.mb, trk := sl.trk, fences := sl.fences, allocSeq := sl.allocSeq, wbkTurn := sl.wbkTurn, waiting := sl.waiting, inBuf := sl.inBuf, lastSlot := sl.lastSlot, engSlot := sl.engSlot, rrNext := sl.rrNext, bkt := sl.bkt, adm := sl.adm, susFine := sl.susFine, susLoaf := sl.susLoaf, holds := sl.holds, contention := sl.contention, cooldowns := sl.cooldowns, census := sl.census, steal := sl.steal, holdoffs := sl.holdoffs, idleFor := sl.idleFor, scans := sl.scans, mirrored := sl.mirrored.erase (false, s67, 67), mirrorQ := sl.mirrorQ, frontiers := sl.frontiers, salvList := sl.salvList, stealCfg := sl.stealCfg, temper := sl.temper, winClk := sl.winClk, slots := sl.slots, prevSlots := sl.prevSlots, cap := sl.cap, capNext := sl.capNext, hclk := sl.hclk, ledger := sl.ledger, assay := sl.assay, wayErr := sl.wayErr, fineDis := sl.fineDis, loafDis := sl.loafDis, hlcDis := sl.hlcDis, fineDising := sl.fineDising, loafDising := sl.loafDising, hlcDising := sl.hlcDising, fbFine := sl.fbFine, fbLoaf := sl.fbLoaf, fbHlc := sl.fbHlc, act := sl.act, shd := sl.shd, recipe := sl.recipe, trayHalves := sl.trayHalves, rdCredits := sl.rdCredits, wrCredits := sl.wrCredits, us := sl.us }).slice 3).mirrored.length < 32) := by decide
def EntriesCopied_13_s : State := (zMq.updSlice 3 fun x => {x with mirrored := List.replicate 33 (false,s67,67)})
theorem wit_EntriesCopied_13 : (3 < EntriesCopied_13_s.par.nSlice) ∧ ((EntriesCopied_13_s.slice 3).inBuf = []) ∧ (EntriesCopied_13_s.findWire 0 (isAckTo 3) = some (Wire.copyAck 5 3 s67 false 67)) ∧ ((EntriesCopied_13_s.slice 3).mirrorQ = [] ∨ 32 ≤ (((EntriesCopied_13_s.takeWire (Wire.copyAck 5 3 s67 false 67)).updSlice 3 fun sl => { conds := sl.conds, arr := sl.arr, mb := sl.mb, trk := sl.trk, fences := sl.fences, allocSeq := sl.allocSeq, wbkTurn := sl.wbkTurn, waiting := sl.waiting, inBuf := sl.inBuf, lastSlot := sl.lastSlot, engSlot := sl.engSlot, rrNext := sl.rrNext, bkt := sl.bkt, adm := sl.adm, susFine := sl.susFine, susLoaf := sl.susLoaf, holds := sl.holds, contention := sl.contention, cooldowns := sl.cooldowns, census := sl.census, steal := sl.steal, holdoffs := sl.holdoffs, idleFor := sl.idleFor, scans := sl.scans, mirrored := sl.mirrored.erase (false, s67, 67), mirrorQ := sl.mirrorQ, frontiers := sl.frontiers, salvList := sl.salvList, stealCfg := sl.stealCfg, temper := sl.temper, winClk := sl.winClk, slots := sl.slots, prevSlots := sl.prevSlots, cap := sl.cap, capNext := sl.capNext, hclk := sl.hclk, ledger := sl.ledger, assay := sl.assay, wayErr := sl.wayErr, fineDis := sl.fineDis, loafDis := sl.loafDis, hlcDis := sl.hlcDis, fineDising := sl.fineDising, loafDising := sl.loafDising, hlcDising := sl.hlcDising, fbFine := sl.fbFine, fbLoaf := sl.fbLoaf, fbHlc := sl.fbHlc, act := sl.act, shd := sl.shd, recipe := sl.recipe, trayHalves := sl.trayHalves, rdCredits := sl.rdCredits, wrCredits := sl.wrCredits, us := sl.us }).slice 3).mirrored.length) := by decide

/-! ScansEnd -/
def ScansEnd_9_s : State := (z.updSpine fun s => {s with dvfsTaken := true})
theorem wit_ScansEnd_9 : (ScansEnd_9_s.canon = true) ∧ (3 < ScansEnd_9_s.par.nSlice) ∧ (ScansEnd_9_s.paused 3 = true) := by decide

/-! TemperAndAutoEvacuation -/
def TemperAndAutoEvacuation_8_l : List ℕ := [1,2,5,9]
theorem wit_TemperAndAutoEvacuation_8 : (List.Pairwise (fun x1 x2 => x1 ≤ x2) TemperAndAutoEvacuation_8_l) ∧ (TemperAndAutoEvacuation_8_l ≠ []) := by decide
def TemperAndAutoEvacuation_9_l : List ℕ := [5,1,9]
def TemperAndAutoEvacuation_9_r : List ℕ := [9,5,1]
theorem wit_TemperAndAutoEvacuation_9 : (TemperAndAutoEvacuation_9_l.Perm TemperAndAutoEvacuation_9_r) := by decide
theorem wit_TemperAndAutoEvacuation_10 : (z.canon = true) ∧ (3 < z.par.nSlice) ∧ (¬((z.slice 3).temper.slow = true ∧ (z.slice 3).serving = true ∧ z.spine.temperNow.shedEn = true)) := by decide
def TemperAndAutoEvacuation_11_s : State := ((zSh14 z).updSlice 3 fun x => {x with temper := {x.temper with shed := true}})
theorem wit_TemperAndAutoEvacuation_11 : (TemperAndAutoEvacuation_11_s.canon = true) ∧ (3 < TemperAndAutoEvacuation_11_s.par.nSlice) ∧ ((TemperAndAutoEvacuation_11_s.slice 3).temper.slow = true ∧ (TemperAndAutoEvacuation_11_s.slice 3).serving = true ∧ TemperAndAutoEvacuation_11_s.spine.temperNow.shedEn = true) ∧ (¬((TemperAndAutoEvacuation_11_s.slice 3).temper.shed = false ∧ TemperAndAutoEvacuation_11_s.spine.temperNow.recheck ≤ (TemperAndAutoEvacuation_11_s.slice 3).temper.sinceShed ∧ (TemperAndAutoEvacuation_11_s.slice 3).temper.deferred = [])) ∧ ((TemperAndAutoEvacuation_11_s.slice 3).temper.deferred = []) := by decide
def TemperAndAutoEvacuation_12_s : State := ((zSh14 z).updSlice 3 fun x => {x with susFine := {recs := [(4, [5])]}})
theorem wit_TemperAndAutoEvacuation_12 : (TemperAndAutoEvacuation_12_s.canon = true) ∧ (3 < TemperAndAutoEvacuation_12_s.par.nSlice) ∧ ((TemperAndAutoEvacuation_12_s.slice 3).temper.slow = true ∧ (TemperAndAutoEvacuation_12_s.slice 3).serving = true ∧ TemperAndAutoEvacuation_12_s.spine.temperNow.shedEn = true) ∧ ((TemperAndAutoEvacuation_12_s.slice 3).temper.shed = false ∧ TemperAndAutoEvacuation_12_s.spine.temperNow.recheck ≤ (TemperAndAutoEvacuation_12_s.slice 3).temper.sinceShed ∧ (TemperAndAutoEvacuation_12_s.slice 3).temper.deferred = []) ∧ (0 < (TemperAndAutoEvacuation_12_s.slice 3).temper.lat) ∧ (∀ (b : ℕ), mget 0 (TemperAndAutoEvacuation_12_s.slice 3).temper.bktLast b < 2 ^ 32) ∧ (0 < (TemperAndAutoEvacuation_12_s.ownedBuckets 3).length - max TemperAndAutoEvacuation_12_s.spine.temperNow.floor ((TemperAndAutoEvacuation_12_s.ownedBuckets 3).length * 400 / (2 * (TemperAndAutoEvacuation_12_s.slice 3).temper.lat))) ∧ (¬((TemperAndAutoEvacuation_12_s.slice 3).susFine.isEmpty = true ∧ (TemperAndAutoEvacuation_12_s.slice 3).susLoaf.isEmpty = true ∧ TemperAndAutoEvacuation_12_s.inMove 3 = false ∧ TemperAndAutoEvacuation_12_s.inCopy 3 = false ∧ ∀ j ∈ TemperAndAutoEvacuation_12_s.spine.jobs, ∀ (tk : Bool) (mv : ℕ) (rs : Bool), j.kind ≠ JobKind.evacuate 3 tk mv rs)) := by (repeat' apply And.intro) <;> first | decide +kernel | exact fun b => mget_all (p := fun x : Nat => x < 2 ^ 32) (by decide) (by decide +kernel) b | exact fun h => absurd h.1 (by decide +kernel) | (intro b h; cases h)
theorem wit_TemperAndAutoEvacuation_13 : ((zSh14 z).canon = true) ∧ (3 < (zSh14 z).par.nSlice) ∧ (((zSh14 z).slice 3).temper.slow = true ∧ ((zSh14 z).slice 3).serving = true ∧ (zSh14 z).spine.temperNow.shedEn = true) ∧ (((zSh14 z).slice 3).temper.shed = false ∧ (zSh14 z).spine.temperNow.recheck ≤ ((zSh14 z).slice 3).temper.sinceShed ∧ ((zSh14 z).slice 3).temper.deferred = []) ∧ (0 < ((zSh14 z).slice 3).temper.lat) ∧ (∀ (b : ℕ), mget 0 ((zSh14 z).slice 3).temper.bktLast b < 2 ^ 32) ∧ (0 < ((zSh14 z).ownedBuckets 3).length - max (zSh14 z).spine.temperNow.floor (((zSh14 z).ownedBuckets 3).length * 1575 / (2 * ((zSh14 z).slice 3).temper.lat))) ∧ (((zSh14 z).slice 3).susFine.isEmpty = true ∧ ((zSh14 z).slice 3).susLoaf.isEmpty = true ∧ (zSh14 z).inMove 3 = false ∧ (zSh14 z).inCopy 3 = false ∧ ∀ j ∈ (zSh14 z).spine.jobs, ∀ (tk : Bool) (mv : ℕ) (rs : Bool), j.kind ≠ JobKind.evacuate 3 tk mv rs) ∧ (∀ b ∈ (zSh14 z).ownedBuckets 3, (zSh14 z).stubbed b = false ∧ (zSh14 z).censusOf b = false) ∧ (((zSh14 z).ownedBuckets 3).length - max (zSh14 z).spine.temperNow.floor (((zSh14 z).ownedBuckets 3).length * 1575 / (2 * ((zSh14 z).slice 3).temper.lat)) + ((zSh14 z).stubs 3).length ≤ 63) ∧ (((zSh14 z).ownedBuckets 3).length - max (zSh14 z).spine.temperNow.floor (((zSh14 z).ownedBuckets 3).length * 1575 / (2 * ((zSh14 z).slice 3).temper.lat)) ≤ 4 * ((zSh14 z).roomy 3).length) := by (repeat' apply And.intro) <;> first | decide +kernel | exact fun b => mget_all (p := fun x : Nat => x < 2 ^ 32) (by decide) (by decide +kernel) b | exact fun h => absurd h.1 (by decide +kernel) | (intro b h; cases h)
def TemperAndAutoEvacuation_14_s : State := (List.foldl (fun s n => if n = 3 then s else phase n .retain s) (zSh14 z) (List.range 64))
theorem wit_TemperAndAutoEvacuation_14 : (TemperAndAutoEvacuation_14_s.canon = true) ∧ (3 < TemperAndAutoEvacuation_14_s.par.nSlice) ∧ ((TemperAndAutoEvacuation_14_s.slice 3).temper.slow = true ∧ (TemperAndAutoEvacuation_14_s.slice 3).serving = true ∧ TemperAndAutoEvacuation_14_s.spine.temperNow.shedEn = true) ∧ ((TemperAndAutoEvacuation_14_s.slice 3).temper.shed = false ∧ TemperAndAutoEvacuation_14_s.spine.temperNow.recheck ≤ (TemperAndAutoEvacuation_14_s.slice 3).temper.sinceShed ∧ (TemperAndAutoEvacuation_14_s.slice 3).temper.deferred = []) ∧ (0 < (TemperAndAutoEvacuation_14_s.slice 3).temper.lat) ∧ (∀ (b : ℕ), mget 0 (TemperAndAutoEvacuation_14_s.slice 3).temper.bktLast b < 2 ^ 32) ∧ (0 < (TemperAndAutoEvacuation_14_s.ownedBuckets 3).length - max TemperAndAutoEvacuation_14_s.spine.temperNow.floor ((TemperAndAutoEvacuation_14_s.ownedBuckets 3).length * 1575 / (2 * (TemperAndAutoEvacuation_14_s.slice 3).temper.lat))) ∧ ((TemperAndAutoEvacuation_14_s.slice 3).susFine.isEmpty = true ∧ (TemperAndAutoEvacuation_14_s.slice 3).susLoaf.isEmpty = true ∧ TemperAndAutoEvacuation_14_s.inMove 3 = false ∧ TemperAndAutoEvacuation_14_s.inCopy 3 = false ∧ ∀ j ∈ TemperAndAutoEvacuation_14_s.spine.jobs, ∀ (tk : Bool) (mv : ℕ) (rs : Bool), j.kind ≠ JobKind.evacuate 3 tk mv rs) ∧ (∀ b ∈ TemperAndAutoEvacuation_14_s.ownedBuckets 3, TemperAndAutoEvacuation_14_s.stubbed b = false ∧ TemperAndAutoEvacuation_14_s.censusOf b = false) ∧ ((TemperAndAutoEvacuation_14_s.ownedBuckets 3).length - max TemperAndAutoEvacuation_14_s.spine.temperNow.floor ((TemperAndAutoEvacuation_14_s.ownedBuckets 3).length * 1575 / (2 * (TemperAndAutoEvacuation_14_s.slice 3).temper.lat)) + (TemperAndAutoEvacuation_14_s.stubs 3).length ≤ 63) ∧ (TemperAndAutoEvacuation_14_s.roomy 3 = []) := by (repeat' apply And.intro) <;> first | decide +kernel | exact fun b => mget_all (p := fun x : Nat => x < 2 ^ 32) (by decide) (by decide +kernel) b | exact fun h => absurd h.1 (by decide +kernel) | (intro b h; cases h)

/-! IdleStepIsTimeAlone -/
theorem wit_IdleStepIsTimeAlone_4 : (z.canon = true) ∧ (z.pending = []) ∧ (∀ n < z.par.nSlice, (z.slice n).winClk = 0 → (z.slice n).conds.phase ≠ Phase.off → z.paused n = false → (∀ kv ∈ (z.slice n).trk, kv.2.wantRead = false) ∧ (z.slice n).inBuf = []) ∧ (∀ n ∈ z.spine.salvageQ, (z.slice n).conds.phase = Phase.hold → z.heldBuckets n ≠ []) := by decide

/-! Well-formedness: an ill-formed term for every check, which the check refuses, and the terms of the last numbers,
which it lets pass. -/
def f0 : Flits := { vc := 0, hdr := 0, d0 := 0, d1 := 0 }
theorem test_wf_built_0 : ([.shimAgentMessage 208 f0, .drainCopiesSend 208, .shimInject 208, .shimMeshMessage 208 f0, .bucketMapUpdate 208 0, .lostSliceNotice 208 0, .agentReset 208, .autoRetireStart 208, .shimReset 208, .shimResetApply 208, .headerTake 68 0 f0, .lineChainStart 68 0, .transactionDecision 68 0, .censusWalkStart 68 0 0, .spineControlOrder 68 0 0, .snDone 68 f0, .cnsLine 68 0 f0, .datWb 68 f0, .seal 68 f0, .stashTake 68 f0, .stashRefuse 68 f0, .memDat 68 f0, .memAck 68 f0, .mbIssue 68 0, .trayAccess 68 f0, .trayScrub 68, .snoopResponseTimeout 68 0, .evictionSnoopTimeout 68 0, .censusWalkTimeout 68 0, .sealTimeout 68 0] : List Instr).all (fun c => c.built Params.reference == false && c.wf Params.reference == false) = true := by decide
theorem test_wf_built_1 : ([.memoryReadTimeout 68 0, .stashAnswerTimeout 68 0, .holdExpiry 68 0, .anvilIdleExit 68 0, .anvilCooldownEnd 68 0, .stealIdleStart 68 0, .stealFlip 68, .stealAbandon 68, .stealHoldoffEnd 68 0, .recipeBankSwap 68, .moveScanSlot 68 0 .move, .copyEntryReceive 68 0 0, .copyRefusalReceive 68 0 0, .copyAckReceive 68 0, .purgeScanEnd 68, .seedEnd 68, .slicePowerRemoved 68, .slicePowerRestored 68, .salvageStart 68, .portNoticeAnswer 16 0, .portNoticeAnswer 0 68, .portQuiesceTimeout 68, .autoEvacuate 68, .wayDisableWalkEnd 68, .memportMemRd 16 f0, .memportWriteHalf 16 f0, .memportReadReturn 16 0 0 0 false, .memportWriteDone 16 0 0, .bar4Request 16 false 0 0 [] [] false, .spineRequesterAnswer 16 f0] : List Instr).all (fun c => c.built Params.reference == false && c.wf Params.reference == false) = true := by decide
theorem test_wf_built_2 : ([.registerWrite 16 0 0 0 0, .sqDataRead 16 0 0, .setupLockSet 16 0 0 0, .traySegWrite 16 0 0 0, .firstErrorClear 16 0 0 0, .assayStatusClear 16 0 0 0, .faultInjectArm 16 0 0 0, .errOutWrite 16 0 0 0, .doorbellCmdPidx 16 0, .doorbellCplCidx 16 0, .doorbellEvtCidx 16 0, .cmdResume 16 0 0 0, .cplResume 16 0 0 0, .evtResume 16 0 0 0, .ringEnable 16 0 0 0, .ringDisable 16 0 0 0, .msixUnmask 16 0 false, .functionLevelReset 16, .powerStateChange 16 false, .busMasterEnableChange 16 false false false false, .atsInvalidationRequest 16 0 0, .atsTranslationCompletion 16 0 false false .poisoned, .nonPostedTimeout 16 .descriptor, .commandFetch 16 .poisoned, .descriptorRefetch 16 .poisoned, .completionWrite 16 .done, .nop 16 0, .flushRange 16 0, .cleanRange 16 0, .invalRange 16 0] : List Instr).all (fun c => c.built Params.reference == false && c.wf Params.reference == false) = true := by decide
theorem test_wf_built_3 : ([.censusRange 16 0, .lineRestore 16 0 0 .poisoned, .bucketMove 16 0, .sliceEvacuate 16 0, .sliceCopy 16 0, .sliceAdmit 16 0, .sliceReset 16 0, .recipeLoad 16 0 .poisoned, .trayConfigure 16 0, .trayConvertEnd 68, .anvilConfig 16 0, .timeoutSet 16 0, .modeSet 16 0, .hallmarkConfig 16 0, .windowSync 16 0, .agentAdmit 16 0 false, .admitHandshake 208 0, .admitOpen 208, .admitWaitTimeout 208, .agentRetire 16 0, .retireSilence 208, .retireScrubEnd 208, .calRead 16 0 .done, .calWrite 16 0 .poisoned, .calApplyEnd 68, .touchmark 16 0 .poisoned, .countermark 16 0, .recolourScanEnd 68, .atcLock 16 0 .poisoned, .atcUnlock 16 0] : List Instr).all (fun c => c.built Params.reference == false && c.wf Params.reference == false) = true := by decide
theorem test_wf_built_4 : ([.statsSnapshot 16 0 .done 0, .summaryEdge 0x184, .dualRailMismatch 0x184 0, .dualRailMaintRead 0x184, .engineWatchdog 68 0, .marginCheck 68 0 0, .ledgerLeakTick 68, .hallmarkCollect 0x184 0, .eventRingWrite 16 .done, .dualRailEpisodeEnd 0x184, .registerRead 16 0 0 0, .readyForConfigurationRequests 16] : List Instr).all (fun c => c.built Params.reference == false && c.wf Params.reference == false) = true := by decide
theorem test_wf_inRange_0 : ([.headerTake 0 256 f0, .lineChainStart 0 256, .transactionDecision 0 256, .censusWalkStart 0 256 0, .censusWalkStart 0 0 4096, .spineControlOrder 0 256 0, .cnsLine 0 256 f0, .mbIssue 0 32, .snoopResponseTimeout 0 256, .evictionSnoopTimeout 0 256, .censusWalkTimeout 0 256, .sealTimeout 0 256, .memoryReadTimeout 0 256, .stashAnswerTimeout 0 256, .stealIdleStart 0 4, .stealHoldoffEnd 0 4096, .moveScanSlot 0 256 .move, .copyEntryReceive 0 256 0, .copyRefusalReceive 0 256 0, .bucketFlip 4096, .memportReadReturn 0 0 256 0 false, .memportWriteDone 0 0 32, .relayTimeout 64, .registerWrite 0 0 0 0 4, .sqDataRead 0 0 6, .setupLockSet 0 0 6 0, .traySegWrite 0 0 6 0, .firstErrorClear 0 0 6 0, .assayStatusClear 0 0 6 0, .faultInjectArm 0 0 6 0] : List Instr).all (fun c => c.inRange == false && c.wf Params.reference == false) = true := by decide
theorem test_wf_inRange_1 : ([.errOutWrite 0 0 6 0, .cmdResume 0 0 6 0, .cplResume 0 0 6 0, .evtResume 0 0 6 0, .ringEnable 0 0 6 0, .ringDisable 0 0 6 0, .msixUnmask 0 64 false, .lineRestore 0 0 256 .poisoned, .engineWatchdog 0 4, .marginCheck 0 8 0, .tokenRefill 4096 0, .throttleChange 8, .registerRead 0 0 0 4] : List Instr).all (fun c => c.inRange == false && c.wf Params.reference == false) = true := by decide
theorem test_wf_passes : ([.seedEnd 67, .shimInject 207, .shimInject 287, .memportWriteDone 15 67 31, .nop 15 0, .summaryEdge 0x183, .summaryEdge 0x1F0, .mbIssue 67 31, .stealHoldoffEnd 0 4095, .registerRead 15 0 8 2, .throttleChange 7] : List Instr).all (·.wf Params.reference) = true := by decide

/-! Worked examples of the spec, their values as its tables print them. -/
/-- The line of 02 Table 02-2. -/
def exLine : PA := 0x6155505048C0
/-- 02 Table 02-2, 07 "HLC index" and 08 Table 08-1, Table 08-2. -/
theorem test_index : fineTag exLine = 0x00C2AAA0A ∧ fineSet exLine = 2687 ∧ ptagOf (fineTag exLine) = 0xAC1F ∧
    loafTag exLine = 0x030AAA82 ∧ loafSet exLine = 527 ∧ hlcSet exLine = 98 ∧ hlcTag exLine = 0x185554141 ∧
    bucketOf exLine = 1886 := by decide
/-- 08: bucket 1,886 is served by slice 30, engine 1, right after reset. -/
theorem test_reset_owner : z.master 1886 = { slice := 30, engine := 1, gen := 0 } ∧
    (z.bkt 30 1886).kind = .owned ∧ (z.bkt 29 1886).kind = .none := by decide
/-- 02 Table 02-4. -/
theorem test_fine_entry :
    let x := encFine ((({ colour := 5 } : FineEntry).setX 0x2A).withTag exLine)
    bits x 0 18 = 0x2AC1F ∧ bits x 18 18 = 0x20C2A ∧ bits x 36 18 = 0x09415 ∧ bits x 54 18 = 0x02A2A := by decide
/-- 02 "A line widening to groups and narrowing again". -/
theorem test_widening : (({} : FineEntry).setO 0x2A [0x31, 0xC7] 0).shr = 0x2A31C7 ∧
    (({} : FineEntry).setO 0x2A [0x31, 0xC7, 0x55] 0).shr = 0x2A1028 ∧ (({} : FineEntry).setX 0xB4).shr = 0xB4B4B4 := by decide
/-- 03 Table 03-17. -/
def exRdOwn : Msg := { op := .rdOwn, src := 0x02A, dst := 0x169, rqtx := 0x0B7, gen := 12, hold := true, tid := 0x2C1, addr := exLine }
def exWords : HdrFlit := BitVec.ofNat 144 ([0x0022A, 0x36900, 0x05B80, 0x20031, 0x05820, 0x01855, 0x2A828, 0x048C0].foldr
  (fun w v => w + 2 ^ 18 * v) 0)
theorem test_header : (encode exRdOwn).hdr = exWords := by decide +kernel
def exFlits : Flits := { vc := 0, hdr := exWords, d0 := 0, d1 := 0 }
theorem test_header_read : spells exFlits exRdOwn (rxDetail exFlits false) := by
  decide +kernel
/-- 03 "an 8-byte partial write": the second flit's PAR[7:0] is 0x05, its BE 0x00F0. -/
theorem test_parity :
    let f := encDat true true (BitVec.ofNat 256 (0x0123456789ABCDEF * 2 ^ 64)) 0x00F0 false
    (List.range 8).map (fun j => bit f (18 * (8 + j) + 17)) = [true, false, true, false, false, false, false, false] := by
  decide +kernel
/-- 06 "a compare-and-swap". -/
theorem test_cas : atomOp 2 8 7 8 7 = 8 ∧ atomOp 2 8 6 8 7 = 6 := by decide
/-- 07 Table 07-5. -/
def zTray : State := z.updSpine fun sp => { sp with trayEn := true, trayBase := 0x3C00, trayFt := 4, trayHt := 2 }
theorem test_tray : zTray.trayPlace 0xF001724A40 = some (.fine 13 2376) ∧ zTray.trayPlace 0xF001742100 = some (.hlc 7 132) ∧
    zTray.trayPlace 0xF001750000 = none ∧ traySegOf 0xF001724A40 = 23 ∧ zTray.inTray 0xF001724A40 = true := by decide
/-- 18 Table 18-7. -/
def zMrt : State := z.updSpine fun sp => { sp with
  setup := true, mrt := [(0, { valid := true, cntlog := 2, first := 8, base := 0x18554, limit := 0x18557 }),
    (1, { valid := true, cntlog := 4, first := 0, base := 0, limit := 0x3FFFFF })] }
theorem test_route : zMrt.routePort exLine = some 10 ∧
    (zMrt.updSpine fun sp => { sp with mrt := sp.mrt.drop 1 }).routePort exLine = some 13 := by decide +kernel
/-- 11 Table 11-7. -/
def exWindow : Fn := { (z.fn 2) with wtt := [(3, { valid := true, rd := true, wr := true, len := 71, tbase := 0x0F001700 })] }
theorem test_window : exWindow.hits true 0x624A48 = true ∧ exWindow.winAddr 0x624A48 = 0xF001724A48 ∧
    exWindow.hits false 0x64A000 = false ∧
    (exWindow.winOp true 0x624A48 [] [] false (0x624A48, 8)).mask = 0xFF00 ∧
    (exWindow.winOp true 0x624A48 [] [] false (0x624A48, 8)).line = 0xF001724A40 := by decide +kernel
/-- 12 Table 12-11. -/
def exMove : Taken := { idx := 63, ring := 63, desc := wordOf [(0, 0x10), (1, 1), (2, 0x51), (3, 0x0A), (8, 0x5E), (9, 7), (10, 0x29), (11, 2)] }
theorem test_descriptor : exMove.opc = 0x10 ∧ exMove.phase = true ∧ exMove.fence = false ∧ exMove.tag = 0x0A51 ∧
    exMove.num 8 2 = 1886 ∧ exMove.num 10 1 = 41 ∧ exMove.num 11 1 = 2 := by decide +kernel

/-- 17 Table 17-8: ten microseconds of a slice with the reference coefficients, in fJ. -/
theorem test_ledger :
    let k := z.calSet 41
    6000 * k.nodata.toNat + 3000 * k.data.toNat + 500 * k.atom.toNat + 2000 * k.lookup.toNat + 10 * k.leak.toNat = 650900000 := by
  decide

/-! Outcomes: a command to a part that is built runs, one to a part that is not faults, and hypotheses that no clause above needs
a state for. -/
theorem test_not_built : exec (.seedEnd 68) z = .fault .notBuilt := rfl
theorem test_empty_queue : ∃ t, step z = .next t := ⟨_, rfl⟩
theorem wit_MessageRoundTrip : exRdOwn.wf = true := by decide +kernel
theorem wit_RunsExactlyWhenBuilt : (Instr.seedEnd 67).built z.par = true ∧ (Instr.seedEnd 68).built z.par = false := by decide
theorem wit_AddressIndexing : fineSet 0x6155505048C0 = fineSet 0x6155505048FF ∧
    ptagOf (fineTag 0x6155505048C0) = ptagOf (fineTag 0x6155505048FF) ∧ loafSet 0x6155505048C0 = loafSet 0x6155505048FF := by decide
theorem wit_StoredFormsRoundTrip : bits exLine 47 5 = 0 := by decide
theorem wit_OneWrongBitIsSeen : 71 < 72 ∧ wordBad (encFine {}) 3 = false ∧ hdrBad exWords = 0 ∧ datBad (encDat true true 0 0 false) = false ∧
    hlcTpBad (encHlc 0 true 0) = false ∧ hlcDpBad (encHlc 0 true 0) 0 = false := by decide +kernel


end Sys2Proof.Tests
end

section
/-! SUPPORT. When a command runs (01 R11, R13): each kind of part that a command may name has one outcome lemma, and every command
is sorted under the kind it names. -/

namespace Sys2Proof.Machine

/-- Outcome r is a next state when b holds, and otherwise the one fault of the model. -/
def RunsWhen (b : Bool) (r : Res) : Prop := (b = true → ∃ t, r = .next t) ∧ (b = false → r = .fault .notBuilt)

theorem runsWhen_next (t : State) : RunsWhen true (.next t) := ⟨fun _ => ⟨t, rfl⟩, nofun⟩

/-- What the five outcomes at a part have in common. -/
theorem runsWhen_ite (b : Bool) (t : State) : RunsWhen b (if b then .next t else .fault .notBuilt) := by
  cases b
  · exact ⟨nofun, fun _ => rfl⟩
  · exact runsWhen_next t

theorem runsWhen_atShim (sh : Nat) (s : State) (f : State → State) : RunsWhen (s.par.hasShim sh) (atShim sh s f) :=
  runsWhen_ite (s.hasShim sh) (f s)

theorem runsWhen_atSlice (n : Nat) (s : State) (f : State → State) : RunsWhen (n < s.par.nSlice) (atSlice n s f) := by
  simpa [atSlice] using runsWhen_ite (n < s.par.nSlice) (f s)

theorem runsWhen_atPort (p : Nat) (s : State) (f : State → State) : RunsWhen (p < s.par.nMport) (atPort p s f) := by
  simpa [atPort] using runsWhen_ite (p < s.par.nMport) (f s)

theorem runsWhen_atFn (fn : Nat) (s : State) (f : State → State) : RunsWhen (fn < s.par.nFunc) (atFn fn s f) := by
  simpa [atFn] using runsWhen_ite (fn < s.par.nFunc) (f s)

/-- The slice of a node number that fits its nine bits (03 Table 03-5). -/
theorem nodeSlice_ofNat {part : Nat} (h : part < 512) :
    nodeSlice (BitVec.ofNat 9 part) = if 0x140 ≤ part ∧ part < 0x140 + 68 then some (part - 0x140) else none := by
  simp [nodeSlice, BitVec.toNat_ofNat, Nat.mod_eq_of_lt h]

/-- The parts that the machine finds built are those of the integration (15 R376). -/
theorem hasPart_eq_par (s : State) (part : Nat) : s.hasPart part = s.par.hasPart part := by
  by_cases h : part < 512
  · by_cases hs : 0x140 ≤ part ∧ part < 0x140 + 68
    · simp [State.hasPart, Params.hasPart, nodeSlice_ofNat h, hs, h]
    · simp only [State.hasPart, Params.hasPart, nodeSlice_ofNat h, hs, if_false, isAgent, decide_eq_true_eq, ← Bool.decide_and]
      rfl
  · have hp : s.par.hasPart part = false := by
      simp [Params.hasPart, show ¬ part < 0x140 + 68 by omega, show ¬ part < 0x120 by omega, show part ≠ 0x1F0 by omega]
    rw [hp, State.hasPart]
    split
    · simp [h]
    · simp [isAgent, show ¬ part < 0x120 by omega, show part ≠ 0x1F0 by omega]

theorem runsWhen_atPart (part : Nat) (s : State) (f : State → State) :
    RunsWhen (s.par.hasPart part) (atPart part false s f) := by
  simpa [atPart, hasPart_eq_par] using runsWhen_ite (s.par.hasPart part) (f s)

theorem runsWhen_atWiredPart (part : Nat) (s : State) (f : State → State) :
    RunsWhen (s.par.wiredPart part) (atPart part true s f) := by
  simpa [atPart, hasPart_eq_par, Params.wiredPart] using runsWhen_ite (s.par.wiredPart part) (f s)

/-- A port's answer to a salvage notice names two parts, the port and the slice. -/
theorem runsWhen_portNoticeAnswer (p n : Nat) (s : State) :
    RunsWhen (p < s.par.nMport && n < s.par.nSlice) (execPortNoticeAnswer p n s) := by
  unfold execPortNoticeAnswer
  by_cases hn : n < s.par.nSlice
  · simpa [hn] using runsWhen_atPort p s (portNoticeAnswer p n)
  · simpa [hn] using runsWhen_ite false s

/-- Every command, under the kind of part that it names. -/
theorem runsWhen_built (c : Instr) (s : State) : RunsWhen (c.built s.par) (exec c s) := by
  cases c with
  | shimAgentMessage | drainCopiesSend | shimInject | shimMeshMessage | bucketMapUpdate | lostSliceNotice | agentReset
      | autoRetireStart | shimReset | shimResetApply | admitHandshake | admitOpen | admitWaitTimeout | retireSilence
      | retireScrubEnd => exact runsWhen_atShim ..
  | headerTake | lineChainStart | transactionDecision | censusWalkStart | spineControlOrder | snDone | cnsLine | datWb
      | stashTake | stashRefuse | memDat | memAck | mbIssue | trayAccess | trayScrub | snoopResponseTimeout
      | evictionSnoopTimeout | censusWalkTimeout | sealTimeout | memoryReadTimeout | stashAnswerTimeout | holdExpiry
      | anvilIdleExit | anvilCooldownEnd | stealIdleStart | stealFlip | stealAbandon | stealHoldoffEnd | recipeBankSwap
      | moveScanSlot | copyEntryReceive | copyRefusalReceive | copyAckReceive | purgeScanEnd | seedEnd | slicePowerRemoved
      | slicePowerRestored | salvageStart | portQuiesceTimeout | autoEvacuate | wayDisableWalkEnd | trayConvertEnd | calApplyEnd
      | recolourScanEnd | engineWatchdog | marginCheck | ledgerLeakTick => exact runsWhen_atSlice ..
  | bucketFlip | spineMapAck | temperWindowEnd | tlbInv | tlbAck | tlbSync | relayTimeout | nmiAck | wardenWindowLapse
      | chipResetRequest | errOutPulseEnd | tokenRefill | powerFailWarning | lastGaspWrite | coldReset | chipReset | dvfsRequest
      | dvfsReady | dvfsRelease | throttleChange => exact runsWhen_next ..
  | portNoticeAnswer => exact runsWhen_portNoticeAnswer ..
  | memportMemRd | memportWriteHalf | memportReadReturn | memportWriteDone => exact runsWhen_atPort ..
  | bar4Request | spineRequesterAnswer | sqDataRead | setupLockSet | traySegWrite | firstErrorClear
      | assayStatusClear | faultInjectArm | errOutWrite | doorbellCmdPidx | doorbellCplCidx | doorbellEvtCidx | cmdResume
      | cplResume | evtResume | ringDisable | msixUnmask | functionLevelReset | powerStateChange
      | busMasterEnableChange | atsInvalidationRequest | atsTranslationCompletion | nonPostedTimeout | commandFetch
      | descriptorRefetch | completionWrite | nop | flushRange | cleanRange | invalRange | censusRange | lineRestore | bucketMove
      | sliceEvacuate | sliceCopy | sliceAdmit | sliceReset | recipeLoad | trayConfigure | anvilConfig | timeoutSet | modeSet
      | hallmarkConfig | windowSync | agentAdmit | agentRetire | calRead | calWrite | touchmark | countermark | atcLock
      | atcUnlock | statsSnapshot | eventRingWrite | registerRead | readyForConfigurationRequests => exact runsWhen_atFn ..
  | registerWrite fn off size v bar ts =>
    exact runsWhen_atFn fn s fun s => registerWrite fn bar off size v (tellTime ts s)
  | ringEnable fn off size v ts => exact runsWhen_atFn fn s fun s => ringEn fn off size v true (tellTime ts s)
  | summaryEdge | hallmarkCollect => exact runsWhen_atPart ..
  | dualRailMismatch | dualRailMaintRead | dualRailEpisodeEnd => exact runsWhen_atWiredPart ..
  -- What is left is SEAL at a slice; its constructor's name is a keyword and cannot stand here.
  | _ => exact runsWhen_atSlice ..

/-- Settles O3: `Instr.built` is the condition under which `exec` runs the command, for each kind of part in turn. -/
theorem runsExactlyWhenBuilt : Obligations.RunsExactlyWhenBuilt := runsWhen_built

end Sys2Proof.Machine
end

section
/-! SUPPORT. What arrives at a memory port (03 R100), what a port hands to its controller (01 R18), and the four commands of a
port. -/

namespace Sys2Proof.Machine

/-! ### Masks -/

/-- Bits set one by one: each bit of a number below k is the one given for it. -/
theorem bit_foldl_setBit {n : Nat} (b : Nat → Bool) (k j : Nat) (hj : j < n) :
    bit ((List.range k).foldl (fun v i => setBit v i (b i)) (0 : BitVec n)) j = (decide (j < k) && b j) := by
  induction k with
  | zero => simp [bit]
  | succ k ih =>
    rw [List.range_succ, List.foldl_append, List.foldl_cons, List.foldl_nil, bit_setBit _ _ _ _ hj, ih]
    rcases Nat.lt_trichotomy j k with h | h | h
    · simp [show j ≠ k by omega, h, show j < k + 1 by omega]
    · simp [h]
    · simp [show j ≠ k by omega, show ¬ j < k by omega, show ¬ j < k + 1 by omega]

theorem bit_beOf (mask : Mask) {j : Nat} (hj : j < 32) :
    bit (beOf mask) j = (bit mask (2 * j) || bit mask (2 * j + 1)) := by
  rw [beOf, bit_foldl_setBit (fun i => bit mask (2 * i) || bit mask (2 * i + 1)) 32 j hj, decide_eq_true hj, Bool.true_and]

theorem bit_maskBoth (mask : Mask) (be : BitVec 32) {j : Nat} (hj : j < 64) :
    bit (maskBoth mask be) j = (bit mask j && bit be (j / 2)) := by
  rw [maskBoth, bit_foldl_setBit (fun i => bit mask i && bit be (i / 2)) 64 j hj, decide_eq_true hj, Bool.true_and]

/-- The BE bits that a mask implies leave every byte of it enabled (03 R91). -/
theorem maskBoth_beOf (mask : Mask) : maskBoth mask (beOf mask) = mask := by
  refine BitVec.eq_of_getLsbD_eq fun j hj => ?_
  have e : bit (maskBoth mask (beOf mask)) j = (bit mask j && (bit mask (2 * (j / 2)) || bit mask (2 * (j / 2) + 1))) := by
    rw [bit_maskBoth mask _ hj, bit_beOf mask (by omega)]
  refine e.trans ?_
  change _ = bit mask j
  rcases Nat.mod_two_eq_zero_or_one j with h | h
  · rw [show 2 * (j / 2) = j by omega]; cases bit mask j <;> rfl
  · rw [show 2 * (j / 2) + 1 = j by omega]; cases bit mask j <;> simp

/-! ### A good message received -/

@[simp] theorem withData_op (m : Msg) (f : Flits) (bad : Bool) : (withData m f bad).op = m.op := by
  simp only [withData]
  split
  · rfl
  · split <;> rfl

@[simp] theorem decHdr_op (op : Op) (h : HdrFlit) : (decHdr op h).op = op := by
  simp only [decHdr]
  split <;> rfl

/-- The opcode that flits show is that of the message they decode to. -/
theorem flitOp_of_decode {f : Flits} {hinj dinj : Bool} {rx : Rx} (h : decode f hinj dinj = .ok rx) :
    flitOp f = some rx.m.op := by
  simp only [decode] at h
  split at h
  · cases h
  · split at h
    · cases h
    · split at h
      · cases h
      · next op e => cases h; simpa [flitOp] using e

/-- With nothing armed a check is not inverted, and the spine stays as it is (15 R399). -/
theorem injSpine_idle {s : State} (src : Nat) (h : s.spine.assay.inj.count = 0) : injSpine src s = (false, s) := by
  simp [injSpine, Inj.check, h]

theorem injEach_idle {inj : State → Bool × State} {s : State} (h : inj s = (false, s)) (k : Nat) :
    injEach inj k s = (false, s) := by
  induction k with
  | zero => rfl
  | succ k ih => simp [injEach, h, ih]

/-- A good message that is not refused is handled as it was sent. -/
theorem receive_good {src : RxSrc} {inj : Nat → State → Bool × State} {raise : Nat → Detail → State → State}
    {reject : Msg → Bool} {f : Flits} {m : Msg} {det : Detail} {s : State} (go : Rx → State → State)
    (hi : ∀ k, inj k s = (false, s)) (hf : spells f m det) (hr : reject m = false) :
    receive src inj raise reject f go s = go { m, datBad := false, det } s := by
  have hd : ∀ (c : Bool) (k : Nat), (if c then injEach (inj src.data) k s else (false, s)) = (false, s) := by
    intro c k
    cases c
    · rfl
    · exact injEach_idle (hi _) k
  simp only [receive, hi, hd, hf, hr, Bool.false_eq_true, if_false]

/-- A good message of a port's classes that arrives at it, with nothing armed at the spine. -/
theorem rxPort_good {p : Nat} {want : Op → Bool} {f : Flits} {m : Msg} {s : State} (go : Rx → State → State)
    (hi : s.spine.assay.inj.count = 0) (hf : arrives f (portNode p) m) (hw : want m.op = true)
    (ho : m.op = .memRd ∨ m.op = .memWr ∨ m.op = .memWd) :
    rxPort p want f go s = go { m, datBad := false, det := rxDetail f false } (s.takeMesh m) := by
  obtain ⟨hd, hs⟩ := hf
  have hop : flitOp f = some m.op := flitOp_of_decode hs
  simp only [rxPort, hd, hop, hw, hs, bne_self_eq_false, Bool.true_or, Bool.not_true, Bool.or_self, Bool.false_eq_true, if_false]
  exact receive_good go (fun k => injSpine_idle k hi) hs (by rcases ho with h | h | h <;> simp [h])

/-! ### What a port hands to its controller -/

/-- Reads of a list that equal r marked as handed over. -/
abbrev issueRead (r : PortRead) (l : List PortRead) : List PortRead := l.map fun y => if y = r then { r with issued := true } else y

/-- Writes of a list that equal w marked as handed over. -/
abbrev issueWrite (w : PortWrite) (l : List PortWrite) : List PortWrite :=
  l.map fun y => if y = w then { w with issued := true } else y

/-- All that a port's turn can do: the first held read of a line that is not being written goes to the controller; with none, the
first such held write goes; with neither, nothing. -/
theorem portIssue_cases (p : Nat) (s : State) :
    (∃ r, (s.port p).reads.find? (fun r => !r.issued && !(s.port p).writing r.line) = some r ∧
      portIssue p s = (s.updPort p fun x => { x with reads := issueRead r x.reads }).emit
        (.ctrlRead p r.line ((nodeSlice r.src).getD 0) r.htrk.toNat)) ∨
    (s.port p).reads.find? (fun r => !r.issued && !(s.port p).writing r.line) = none ∧
      ((∃ w, (s.port p).writes.find? (fun w => !w.issued && !(s.port p).writing w.line) = some w ∧
        portIssue p s = (s.updPort p fun x => { x with writes := issueWrite w x.writes }).emit
          (.ctrlWrite p w.line w.data w.mask w.poison)) ∨
       portIssue p s = s) := by
  simp only [portIssue]
  split
  · next r h => exact .inl ⟨r, h, rfl⟩
  · next h =>
    refine .inr ⟨h, ?_⟩
    split
    · next w hw => exact .inl ⟨w, hw, rfl⟩
    · exact .inr rfl

/-- What a port's turns leave: mesh, slices, halves and every other port, and what was handed over before. -/
structure PortTurn (p : Nat) (s t : State) : Prop where
  keeps : Keeps s t
  mesh : t.mesh = s.mesh
  slices : t.slices = s.slices
  out : s.out <+: t.out
  others : s.canon = true → ∀ q, q ≠ p → t.port q = s.port q

theorem PortTurn.refl (p : Nat) (s : State) : PortTurn p s s := ⟨.refl s, rfl, rfl, List.prefix_rfl, fun _ _ _ => rfl⟩

theorem PortTurn.trans {p : Nat} {s t u : State} (h : PortTurn p s t) (g : PortTurn p t u) : PortTurn p s u where
  keeps := h.keeps.trans g.keeps
  mesh := g.mesh.trans h.mesh
  slices := g.slices.trans h.slices
  out := h.out.trans g.out
  others c q hq := (g.others (h.keeps.canon c) q hq).trans (h.others c q hq)

theorem portTurn_updPort_emit (p : Nat) (s : State) (f : Port → Port) (o : Out) : PortTurn p s ((s.updPort p f).emit o) where
  keeps := (keeps_updPort ..).trans (keeps_emit ..)
  mesh := rfl
  slices := rfl
  out := List.prefix_append ..
  others c _ hq := State.port_updPort_ne f c hq

theorem portTurn_portIssue (p : Nat) (s : State) : PortTurn p s (portIssue p s) := by
  rcases portIssue_cases p s with ⟨r, _, e⟩ | ⟨_, ⟨w, _, e⟩ | e⟩ <;> rw [e]
  · exact portTurn_updPort_emit ..
  · exact portTurn_updPort_emit ..
  · exact .refl p s

/-- What every turn of a port keeps, all its turns keep. -/
theorem portIssues_inv {p : Nat} (P : State → Prop) (h : ∀ s, P s → P (portIssue p s)) (k : Nat) (s : State) (hs : P s) :
    P (portIssues p k s) := by
  induction k generalizing s with
  | zero => exact hs
  | succ k ih => exact ih _ (h s hs)

theorem portTurn_portIssues (p k : Nat) (s : State) : PortTurn p s (portIssues p k s) :=
  portIssues_inv (PortTurn p s) (fun t h => h.trans (portTurn_portIssue p t)) k s (.refl p s)

theorem portTurn_portPump (p : Nat) (s : State) : PortTurn p s (portPump p s) := portTurn_portIssues ..

/-- The first held read of a line that is not being written is handed over. -/
theorem portPump_hands_read {p : Nat} {s : State} {r : PortRead}
    (h : (s.port p).reads.find? (fun r => !r.issued && !(s.port p).writing r.line) = some r) :
    Out.ctrlRead p r.line ((nodeSlice r.src).getD 0) r.htrk.toNat ∈ (portPump p s).out := by
  obtain ⟨k, hk⟩ : ∃ k, (s.port p).reads.length + (s.port p).writes.length = k + 1 :=
    ⟨(s.port p).reads.length + (s.port p).writes.length - 1, by
      have := List.length_pos_of_mem (List.mem_of_find?_eq_some h); omega⟩
  rw [portPump, hk]
  refine (portTurn_portIssues p k (portIssue p s)).out.subset ?_
  rcases portIssue_cases p s with ⟨r', h', e⟩ | ⟨h', _⟩
  · obtain rfl : r = r' := Option.some.inj (h.symm.trans h')
    rw [e]; simp
  · rw [h] at h'; cases h'

/-- A port whose only request is one held read hands it over. -/
theorem portPump_read {p : Nat} {s : State} {r : PortRead} (hr : (s.port p).reads = [r]) (hw : (s.port p).writes = [])
    (hi : r.issued = false) :
    portPump p s = (s.updPort p fun x => { x with reads := issueRead r x.reads }).emit
      (.ctrlRead p r.line ((nodeSlice r.src).getD 0) r.htrk.toNat) := by
  simp [portPump, portIssues, portIssue, Port.writing, hr, hw, hi]

/-- A port whose only request is one held write hands it over. -/
theorem portPump_write {p : Nat} {s : State} {w : PortWrite} (hr : (s.port p).reads = []) (hw : (s.port p).writes = [w])
    (hi : w.issued = false) :
    portPump p s = (s.updPort p fun x => { x with writes := issueWrite w x.writes }).emit
      (.ctrlWrite p w.line w.data w.mask w.poison) := by
  simp [portPump, portIssues, portIssue, Port.writing, hr, hw, hi]

/-! ### Reads held behind a write (01 R18) -/

/-- Read r is held at a port behind an outstanding write of its line. -/
def Port.holdsRead (x : Port) (r : PortRead) : Prop := r ∈ x.reads ∧ r.issued = false ∧ x.writing r.line = true

/-- Handing a write over ends none that is outstanding. -/
theorem Port.writing_issueWrite {x : Port} {a : PA} (w : PortWrite) (h : x.writing a = true) :
    Port.writing { x with writes := issueWrite w x.writes } a = true := by
  simp only [Port.writing, List.any_eq_true, Bool.and_eq_true, decide_eq_true_eq] at *
  obtain ⟨v, hv, hi, hl⟩ := h
  refine ⟨_, List.mem_map_of_mem hv, ?_⟩
  split
  · next e => exact ⟨rfl, e ▸ hl⟩
  · exact ⟨hi, hl⟩

/-- A read that is not the one handed over stays as it is. -/
theorem mem_issueRead {r r' : PortRead} {l : List PortRead} (h : r ∈ l) (hne : r ≠ r') : r ∈ issueRead r' l :=
  List.mem_map.2 ⟨r, h, if_neg hne⟩

theorem holdsRead_portIssue {p : Nat} {s : State} {r : PortRead} (c : s.canon = true) (h : (s.port p).holdsRead r) :
    ((portIssue p s).port p).holdsRead r := by
  obtain ⟨hm, hi, hw⟩ := h
  rcases portIssue_cases p s with ⟨r', hr, e⟩ | ⟨_, ⟨w, _, e⟩ | e⟩ <;> rw [e]
  · have hne : r ≠ r' := by
      rintro rfl
      simpa [hw] using List.find?_some hr
    rw [State.emit_port, State.port_updPort_same p _ c]
    exact ⟨mem_issueRead hm hne, hi, hw⟩
  · rw [State.emit_port, State.port_updPort_same p _ c]
    exact ⟨hm, hi, Port.writing_issueWrite w hw⟩
  · exact ⟨hm, hi, hw⟩

/-- A read held behind a write is held after all the port's turns. -/
theorem holdsRead_portPump {p : Nat} {s : State} {r : PortRead} (c : s.canon = true) (h : (s.port p).holdsRead r) :
    ((portPump p s).port p).holdsRead r :=
  (portIssues_inv (fun t => t.canon = true ∧ (t.port p).holdsRead r)
    (fun t ht => ⟨(portTurn_portIssue p t).keeps.canon ht.1, holdsRead_portIssue ht.1 ht.2⟩) _ s ⟨c, h⟩).2

/-! ### The four commands -/

/-- The read that a MemRd asks for. -/
abbrev readOf (m : Msg) : PortRead := { src := m.src, htrk := m.htrk, line := lineOf m.addr }

/-- A MemRd taken from the mesh, its read added to the port's. -/
def State.readAdded (s : State) (p : Nat) (m : Msg) : State :=
  (s.takeMesh m).updPort p fun x => { x with reads := x.reads ++ [readOf m] }

theorem port_readAdded {s : State} {p : Nat} {m : Msg} (c : s.canon = true) :
    (s.readAdded p m).port p = { s.port p with reads := (s.port p).reads ++ [readOf m] } :=
  State.port_updPort_same p _ ((keeps_takeMesh s m).canon c)

theorem canon_readAdded {s : State} (p : Nat) (m : Msg) (c : s.canon = true) : (s.readAdded p m).canon = true :=
  State.canon_updPort p _ ((keeps_takeMesh s m).canon c)

theorem exec_memportMemRd {s : State} {p : Nat} {f : Flits} {m : Msg} (hp : p < s.par.nMport)
    (hi : s.spine.assay.inj.count = 0) (hf : arrives f (portNode p) m) (ho : m.op = .memRd) :
    exec (.memportMemRd p f) s = .next (portPump p (s.readAdded p m)) := by
  refine (atPort_built _ hp).trans (congrArg _ ?_)
  rw [memportMemRd, rxPort_good _ hi hf (by simp [ho]) (.inl ho)]
  rfl

/-- MEMPORT_MEM_RD of a line that is not being written, with no other read held: the read goes to the controller (R18). -/
theorem memportMemRd_hands_over {s : State} {p : Nat} {f : Flits} {m : Msg} (c : s.canon = true) (hp : p < s.par.nMport)
    (hi : s.spine.assay.inj.count = 0) (hf : arrives f (portNode p) m) (ho : m.op = .memRd)
    (hw : (s.port p).writing (lineOf m.addr) = false) (hr : ∀ r ∈ (s.port p).reads, r.issued = true) :
    ∃ u, exec (.memportMemRd p f) s = .next u ∧
      Out.ctrlRead p (lineOf m.addr) ((nodeSlice m.src).getD 0) m.htrk.toNat ∈ u.out ∧ u.mesh = s.mesh.erase m ∧
      u.slices = s.slices ∧ ∀ q, q ≠ p → u.port q = s.port q := by
  have hfirst : ((s.readAdded p m).port p).reads.find?
      (fun r => !r.issued && !((s.readAdded p m).port p).writing r.line) = some (readOf m) := by
    have hold : (s.port p).reads.find? (fun r => !r.issued && !(s.port p).writing r.line) = none := by
      simp +contextual [hr]
    have hnew : [readOf m].find? (fun r => !r.issued && !(s.port p).writing r.line) = some (readOf m) := by simp [hw]
    rw [port_readAdded c]
    exact List.find?_append.trans ((congrArg (Option.or · _) hold).trans hnew)
  have turn := portTurn_portPump p (s.readAdded p m)
  exact ⟨_, exec_memportMemRd hp hi hf ho, portPump_hands_read hfirst, turn.mesh, turn.slices, fun q hq =>
    (turn.others (canon_readAdded p m c) q hq).trans (State.port_updPort_ne _ ((keeps_takeMesh s m).canon c) hq)⟩

/-- MEMPORT_MEM_RD of a line that is being written: the read is held (R18). -/
theorem memportMemRd_holds {s : State} {p : Nat} {f : Flits} {m : Msg} (c : s.canon = true) (hp : p < s.par.nMport)
    (hi : s.spine.assay.inj.count = 0) (hf : arrives f (portNode p) m) (ho : m.op = .memRd)
    (hw : (s.port p).writing (lineOf m.addr) = true) :
    ∃ u, exec (.memportMemRd p f) s = .next u ∧ readOf m ∈ (u.port p).reads := by
  have hheld : ((s.readAdded p m).port p).holdsRead (readOf m) := by
    rw [port_readAdded c]
    exact ⟨List.mem_append_right _ List.mem_cons_self, rfl, hw⟩
  exact ⟨_, exec_memportMemRd hp hi hf ho, (holdsRead_portPump (canon_readAdded p m c) hheld).1⟩

/-- The half of a write that a message brings with address a. -/
abbrev halfOf (m : Msg) (a : PA) : PortHalf := { src := m.src, slot := m.htrk, addr := some a, body := none }

/-- MEMPORT_WRITE_HALF of the first half, the MemWr: it waits for the other (03 R88). -/
theorem memportWriteHalf_waits {s : State} {p : Nat} {f : Flits} {m : Msg} (c : s.canon = true) (hp : p < s.par.nMport)
    (hi : s.spine.assay.inj.count = 0) (hf : arrives f (portNode p) m) (ho : m.op = .memWr) (hh : (s.port p).halves = []) :
    ∃ u, exec (.memportWriteHalf p f) s = .next u ∧ u.out = s.out ∧ u.mesh = s.mesh.erase m ∧
      (u.port p).halves = [halfOf m m.addr] := by
  refine ⟨(s.takeMesh m).updPort p fun x => { x with halves := x.halves ++ [halfOf m m.addr] }, ?_, rfl, rfl, ?_⟩
  · refine (atPort_built _ hp).trans (congrArg _ ?_)
    rw [memportWriteHalf, rxPort_good _ hi hf (by simp [ho]) (.inr (.inl ho))]
    simp [ho, hh]
  · rw [State.port_updPort_same p _ ((keeps_takeMesh s m).canon c), State.takeMesh_port, hh, List.nil_append]

/-- The write of which half h has the address and m the data. -/
abbrev writeOf (a : PA) (m : Msg) : PortWrite :=
  { src := m.src, slot := m.htrk, line := lineOf a, data := m.data, mask := maskBoth m.bmask m.be, poison := m.poison }

/-- A MemWd taken from the mesh, and its write in the place of the half h that waited for it. -/
def State.halvesJoined (s : State) (p : Nat) (h : PortHalf) (a : PA) (m : Msg) : State :=
  ((s.takeMesh m).updPort p fun x => { x with halves := x.halves.erase h }).updPort p fun x =>
    { x with writes := x.writes ++ [writeOf a m] }

theorem canon_halvesJoined {s : State} (p : Nat) (h : PortHalf) (a : PA) (m : Msg) (c : s.canon = true) :
    (s.halvesJoined p h a m).canon = true :=
  State.canon_updPort p _ (State.canon_updPort p _ ((keeps_takeMesh s m).canon c))

theorem port_halvesJoined {s : State} {p : Nat} {h : PortHalf} {a : PA} {m : Msg} (c : s.canon = true) :
    (s.halvesJoined p h a m).port p =
      { s.port p with halves := (s.port p).halves.erase h, writes := (s.port p).writes ++ [writeOf a m] } := by
  have hc : (s.takeMesh m).canon = true := (keeps_takeMesh s m).canon c
  rw [State.halvesJoined, State.port_updPort_same p _ (State.canon_updPort p _ hc), State.port_updPort_same p _ hc,
    State.takeMesh_port]

theorem exec_memportWriteHalf_joins {s : State} {p : Nat} {f : Flits} {m : Msg} {a : PA} (hp : p < s.par.nMport)
    (hi : s.spine.assay.inj.count = 0) (hf : arrives f (portNode p) m) (ho : m.op = .memWd) (hb : m.be = beOf m.bmask)
    (hh : (s.port p).halves = [halfOf m a]) :
    exec (.memportWriteHalf p f) s = .next (portPump p (s.halvesJoined p (halfOf m a) a m)) := by
  refine (atPort_built _ hp).trans (congrArg _ ?_)
  rw [memportWriteHalf, rxPort_good _ hi hf (by simp [ho]) (.inr (.inr ho))]
  simp [ho, ← hb, hh, portWrite, State.halvesJoined]

/-- MEMPORT_WRITE_HALF of the second half, the MemWd, at a port with no other request: the write goes to the controller with the
bytes that its mask names (03 R88, R91). -/
theorem memportWriteHalf_hands_over {s : State} {p : Nat} {f : Flits} {m : Msg} {a : PA} (c : s.canon = true)
    (hp : p < s.par.nMport) (hi : s.spine.assay.inj.count = 0) (hf : arrives f (portNode p) m) (ho : m.op = .memWd)
    (hb : m.be = beOf m.bmask)
    (hh : (s.port p).halves = [halfOf m a])
    (hr : (s.port p).reads = []) (hw : (s.port p).writes = []) :
    ∃ u, exec (.memportWriteHalf p f) s = .next u ∧ (u.port p).halves = [] ∧
      u.out = s.out ++ [.ctrlWrite p (lineOf a) m.data m.bmask m.poison] ∧ u.mesh = s.mesh.erase m := by
  have hport := port_halvesJoined (p := p) (h := halfOf m a) (a := a) (m := m) c
  have hpump := portPump_write (w := writeOf a m) (by rw [hport]; exact hr) (by rw [hport, hw]; rfl) rfl
  refine ⟨_, (exec_memportWriteHalf_joins hp hi hf ho hb hh).trans (congrArg _ hpump), ?_, ?_, rfl⟩
  · rw [State.emit_port, State.port_updPort_same p _ (canon_halvesJoined p _ a m c), hport, hh]
    exact List.erase_cons_head ..
  · have hmask : maskBoth m.bmask m.be = m.bmask := by rw [hb, maskBoth_beOf]
    exact congrArg (fun v => s.out ++ [Out.ctrlWrite p (lineOf a) m.data v m.poison]) hmask

/-- MEMPORT_READ_RETURN: the data goes to the slice and tracker that asked (R17). -/
theorem memportReadReturn_answers {s : State} {p n t : Nat} {data : Line} {poison : Bool} {r : PortRead}
    (hp : p < s.par.nMport)
    (h : (s.port p).reads.find? (fun r => r.issued && r.src = sliceNode n && r.htrk.toNat = t) = some r) :
    exec (.memportReadReturn p n t data poison) s =
      .next ((s.updPort p fun x => { x with reads := x.reads.erase r }).send
        { op := .memDat, src := portNode p, dst := sliceNode n, htrk := r.htrk, data, poison, be := BitVec.allOnes 32 }) := by
  have hsrc : r.src = sliceNode n := by
    have hr := List.find?_some h
    simp only [Bool.and_eq_true, decide_eq_true_eq] at hr
    exact hr.1.2
  refine (atPort_built _ hp).trans (congrArg _ ?_)
  simp only [memportReadReturn, h, hsrc, Msg.full]

/-- A write that the controller has completed taken from the port, and its slice acknowledged. -/
def State.writeEnded (s : State) (p : Nat) (w : PortWrite) : State :=
  (s.updPort p fun x => { x with writes := x.writes.erase w }).send
    { op := .memAck, src := portNode p, dst := w.src, htrk := w.slot }

theorem canon_writeEnded {s : State} (p : Nat) (w : PortWrite) (c : s.canon = true) : (s.writeEnded p w).canon = true :=
  (keeps_send ..).canon (State.canon_updPort p _ c)

theorem port_writeEnded {s : State} {p : Nat} {w : PortWrite} (c : s.canon = true) :
    (s.writeEnded p w).port p = { s.port p with writes := (s.port p).writes.erase w } := by
  rw [State.writeEnded, State.send_port, State.port_updPort_same p _ c]

theorem exec_memportWriteDone {s : State} {p n e : Nat} {w : PortWrite} (hp : p < s.par.nMport)
    (h : (s.port p).writes.find? (fun w => w.issued && w.src = sliceNode n && w.slot.toNat = e) = some w) :
    exec (.memportWriteDone p n e) s = .next (portPump p (s.writeEnded p w)) := by
  refine (atPort_built _ hp).trans (congrArg _ ?_)
  simp only [memportWriteDone, h, State.writeEnded]

/-- MEMPORT_WRITE_DONE of the port's one write: the slice is acknowledged, and the read held behind the write goes to the
controller (R18). -/
theorem memportWriteDone_hands_read {s : State} {p n e : Nat} {w : PortWrite} {r : PortRead} (c : s.canon = true)
    (hp : p < s.par.nMport) (hw : (s.port p).writes = [w]) (hwi : w.issued = true) (hsrc : w.src = sliceNode n)
    (hslot : w.slot.toNat = e) (hr : (s.port p).reads = [r]) (hri : r.issued = false) :
    ∃ u, exec (.memportWriteDone p n e) s = .next u ∧ (u.port p).writes = [] ∧
      (u.port p).reads = [{ r with issued := true }] ∧
      u.mesh = s.mesh ++ [{ op := .memAck, src := portNode p, dst := sliceNode n, htrk := w.slot }] ∧
      u.out = s.out ++ [.ctrlRead p r.line ((nodeSlice r.src).getD 0) r.htrk.toNat] := by
  have hport : (s.writeEnded p w).port p = { s.port p with writes := [] } := by
    rw [port_writeEnded c, hw, List.erase_cons_head]
  have hdone : (s.port p).writes.find? (fun w => w.issued && w.src = sliceNode n && w.slot.toNat = e) = some w := by
    simp [hw, hwi, hsrc, hslot]
  have hpump := portPump_read (r := r) (by rw [hport]; exact hr) (by rw [hport]) hri
  refine ⟨_, (exec_memportWriteDone hp hdone).trans (congrArg _ hpump), ?_, ?_, ?_, rfl⟩
  · rw [State.emit_port, State.port_updPort_same p _ (canon_writeEnded p w c), hport]
  · rw [State.emit_port, State.port_updPort_same p _ (canon_writeEnded p w c), hport, hr]
    simp
  · rw [← hsrc]; rfl

/-- Settles O50: one lemma for each thing that a memory port does. -/
theorem memoryPorts : Obligations.MemoryPorts := by
  refine ⟨fun s p f m c hp hi hf => ⟨?_, ?_, ?_, ?_⟩, ?_, ?_⟩
  · exact memportMemRd_hands_over c hp hi hf
  · exact memportMemRd_holds c hp hi hf
  · exact memportWriteHalf_waits c hp hi hf
  · exact fun a => memportWriteHalf_hands_over c hp hi hf
  · exact fun s p n t data poison r => memportReadReturn_answers
  · exact fun s p n e w r c hp hw hwi hsrc hslot hr hri _ => memportWriteDone_hands_read c hp hw hwi hsrc hslot hr hri

end Sys2Proof.Machine
end

section
/-! SUPPORT. Bit fields: of joined words, of fields, and of words combined bit by bit. -/

namespace Sys2Proof.Machine

theorem eq_of_bit_eq {n : Nat} {x y : BitVec n} (h : ∀ j, j < n → bit x j = bit y j) : x = y := BitVec.eq_of_getLsbD_eq h

theorem bit_append {v w : Nat} (x : BitVec v) (y : BitVec w) (j : Nat) :
    bit (x ++ y) j = if j < w then bit y j else bit x (j - w) := BitVec.getLsbD_append

theorem bit_xor {n : Nat} (x y : BitVec n) (j : Nat) : bit (x ^^^ y) j = (bit x j != bit y j) := BitVec.getLsbD_xor

theorem bit_of_ge {n : Nat} (x : BitVec n) {j : Nat} (h : n ≤ j) : bit x j = false := BitVec.getLsbD_of_ge x j h

theorem bit_setWidth {n : Nat} (x : BitVec n) (m j : Nat) : bit (x.setWidth m) j = (decide (j < m) && bit x j) :=
  BitVec.getLsbD_setWidth m x j

theorem bits_xor {n : Nat} (x y : BitVec n) (lo w : Nat) : bits (x ^^^ y) lo w = bits x lo w ^^^ bits y lo w :=
  BitVec.extractLsb'_xor

/-- A field inside the low part of a joined word. -/
theorem bits_append_low {v w : Nat} (x : BitVec v) (y : BitVec w) {lo k : Nat} (h : lo + k ≤ w) :
    bits (x ++ y) lo k = bits y lo k := BitVec.extractLsb'_append_eq_of_add_le h

/-- A field above the low part of a joined word. -/
theorem bits_append_high {v w : Nat} (x : BitVec v) (y : BitVec w) {lo k : Nat} (h : w ≤ lo) :
    bits (x ++ y) lo k = bits x (lo - w) k := BitVec.extractLsb'_append_eq_of_le h

@[simp] theorem bits_self {n : Nat} (x : BitVec n) : bits x 0 n = x := BitVec.extractLsb'_eq_self

theorem bit_or {n : Nat} (x y : BitVec n) (j : Nat) : bit (x ||| y) j = (bit x j || bit y j) := BitVec.getLsbD_or

theorem bit_shiftLeft {n : Nat} (x : BitVec n) (k j : Nat) :
    bit (x <<< k) j = (decide (j < n) && !decide (j < k) && bit x (j - k)) :=
  BitVec.getLsbD_shiftLeft ..

theorem bit_and {n : Nat} (x y : BitVec n) (j : Nat) : bit (x &&& y) j = (bit x j && bit y j) := BitVec.getLsbD_and

theorem bit_append_low {v w : Nat} (x : BitVec v) (y : BitVec w) {j : Nat} (h : j < w) : bit (x ++ y) j = bit y j :=
  (bit_append x y j).trans (if_pos h)

theorem bit_append_high {v w : Nat} (x : BitVec v) (y : BitVec w) {j : Nat} (h : w ≤ j) : bit (x ++ y) j = bit x (j - w) :=
  (bit_append x y j).trans (if_neg (Nat.not_lt.2 h))

@[simp] theorem bit_b1_zero (b : Bool) : bit (b1 b) 0 = b := by cases b <;> rfl

/-- Two neighbouring fields of a value are one field. -/
theorem bits_append_bits {n : Nat} (x : BitVec n) (lo v w : Nat) : bits x (lo + w) v ++ bits x lo w = bits x lo (v + w) :=
  BitVec.extractLsb'_append_extractLsb'_eq_extractLsb' rfl

/-- A field of a field. -/
theorem bits_bits {n : Nat} (x : BitVec n) {lo w lo' w' : Nat} (h : lo' + w' ≤ w) :
    bits (bits x lo w) lo' w' = bits x (lo + lo') w' :=
  eq_of_bit_eq fun j hj => by
    rw [bit_bits, bit_bits, bit_bits, decide_eq_true (show lo' + j < w by omega), Bool.true_and, Nat.add_assoc]

end Sys2Proof.Machine
end

section
/-! SUPPORT. Parity as a sum over bits, and what one wrong stored bit does to a check (02 R24, 03 R66, Table 03-14, 07 Table 07-1). -/

namespace Sys2Proof.Machine

/-! ### Parity -/

/-- The sum of two numbers of ones has the parity of the number of places that differ. -/
theorem onesUpTo_xor {n : Nat} (x y : BitVec n) (k : Nat) :
    onesUpTo (x ^^^ y) k % 2 = (onesUpTo x k + onesUpTo y k) % 2 := by
  induction k with
  | zero => rfl
  | succ k ih =>
    simp only [onesUpTo, BitVec.getLsbD_xor]
    cases x.getLsbD k <;> cases y.getLsbD k <;> simp <;> omega

theorem odd_eq_of_mod {a b c : Nat} (h : a % 2 = (b + c) % 2) :
    decide (a % 2 = 1) = (decide (b % 2 = 1) != decide (c % 2 = 1)) := by
  rcases Nat.mod_two_eq_zero_or_one b with hb | hb <;> rcases Nat.mod_two_eq_zero_or_one c with hc | hc <;>
    rw [h, Nat.add_mod, hb, hc] <;> rfl

theorem odd_xor {n : Nat} (x y : BitVec n) : odd (x ^^^ y) = (odd x != odd y) := odd_eq_of_mod (onesUpTo_xor x y n)

theorem onesUpTo_append {v w : Nat} (x : BitVec v) (y : BitVec w) (k : Nat) :
    onesUpTo (x ++ y) (w + k) = onesUpTo x k + onesUpTo y w := by
  induction k with
  | zero =>
    suffices h : ∀ j, j ≤ w → onesUpTo (x ++ y) j = onesUpTo y j by simpa [onesUpTo] using h w (Nat.le_refl w)
    intro j hj
    induction j with
    | zero => rfl
    | succ j ih =>
      have hlow : (x ++ y).getLsbD j = y.getLsbD j := BitVec.getLsbD_append.trans (if_pos (by omega))
      simp only [onesUpTo, hlow, ih (by omega)]
  | succ k ih =>
    have hhigh : (x ++ y).getLsbD (w + k) = x.getLsbD k := by
      rw [BitVec.getLsbD_append, if_neg (by omega), Nat.add_sub_cancel_left]
    rw [← Nat.add_assoc, onesUpTo, ih, hhigh, onesUpTo, Nat.add_assoc]

theorem odd_join {v w : Nat} (x : BitVec v) (y : BitVec w) : odd (x ++ y) = (odd x != odd y) :=
  odd_eq_of_mod <| by
    have hsplit : ones (x ++ y) = ones x + ones y := by simpa only [ones, Nat.add_comm v w] using onesUpTo_append x y v
    rw [hsplit]

@[simp] theorem odd_b1 (b : Bool) : odd (b1 b) = b := by cases b <;> rfl

/-- A value with the one bit i. -/
def oneBit (n i : Nat) : BitVec n := BitVec.ofNat n (2 ^ i)

theorem bit_oneBit (n i j : Nat) : bit (oneBit n i) j = (decide (j < n) && decide (i = j)) :=
  (BitVec.getLsbD_ofNat ..).trans (congrArg _ Nat.testBit_two_pow)

theorem onesUpTo_zero (n k : Nat) : onesUpTo (0 : BitVec n) k = 0 := by
  induction k with
  | zero => rfl
  | succ k ih => rw [onesUpTo, ih]; simp

theorem onesUpTo_oneBit {n i : Nat} (hi : i < n) (k : Nat) : onesUpTo (oneBit n i) k = if i < k then 1 else 0 := by
  induction k with
  | zero => rfl
  | succ k ih =>
    have hbit : (oneBit n i).getLsbD k = (decide (k < n) && decide (i = k)) := bit_oneBit n i k
    rw [onesUpTo, ih, hbit]
    rcases Nat.lt_trichotomy i k with h | h | h
    · simp [h, Nat.ne_of_lt h, Nat.lt_succ_of_lt h]
    · subst h; simp [hi]
    · simp [Nat.not_lt_of_gt h, Nat.ne_of_gt h, show ¬ i < k + 1 by omega]

/-- A single one makes the parity of the fields that hold it odd, and of no others. -/
theorem odd_bits_oneBit {n : Nat} (i lo w : Nat) (hi : i < n) :
    odd (bits (oneBit n i) lo w) = decide (lo ≤ i ∧ i < lo + w) := by
  by_cases h : lo ≤ i ∧ i < lo + w
  · have hfield : bits (oneBit n i) lo w = oneBit w (i - lo) := eq_of_bit_eq fun j hj => by
      rw [bit_bits, bit_oneBit, bit_oneBit, Bool.eq_iff_iff]; simp; omega
    rw [hfield, odd, ones, onesUpTo_oneBit (by omega), if_pos (by omega)]
    simp [h]
  · have hfield : bits (oneBit n i) lo w = 0 := eq_of_bit_eq fun j hj => by
      rw [bit_bits, bit_oneBit, show bit (0 : BitVec w) j = false by simp [bit], Bool.eq_false_iff]; simp; omega
    rw [hfield, odd, ones, onesUpTo_zero]
    simp [h]

/-- A wrong bit turns the parity of the fields that hold it. -/
theorem odd_bits_wrong {n : Nat} (x : BitVec n) {i : Nat} (lo w : Nat) (hi : i < n) :
    odd (bits (x ^^^ oneBit n i) lo w) = (odd (bits x lo w) != decide (lo ≤ i ∧ i < lo + w)) := by
  rw [bits_xor, odd_xor, odd_bits_oneBit i lo w hi]

theorem odd_wrong {n : Nat} (x : BitVec n) {i : Nat} (hi : i < n) : odd (x ^^^ oneBit n i) = !odd x := by
  have h := odd_bits_wrong x 0 n hi
  simpa [hi] using h

/-! ### The checks -/

/-- A wrong bit turns the parity of its own word. -/
theorem wordBad_wrong {n : Nat} (x : BitVec n) {i : Nat} (hi : i < n) :
    wordBad (x ^^^ oneBit n i) (i / 18) = !wordBad x (i / 18) := by
  rw [wordBad, wordOf, odd_bits_wrong x _ _ hi, decide_eq_true (by omega), Bool.bne_true]; rfl

theorem bit_hdrBad (h : HdrFlit) {w : Nat} (hw : w < 8) : bit (hdrBad h) w = wordBad h w := by
  rw [hdrBad, bit_foldl_setBit (wordBad h) 8 w hw, decide_eq_true hw, Bool.true_and]

theorem parCover_xor (d e : DatFlit) (j : Nat) : parCover (d ^^^ e) j = parCover d j ^^^ parCover e j := by
  rw [parCover, parCover, parCover, bits_xor, bits_xor, bits_xor, BitVec.xor_append, BitVec.xor_append]

theorem bne_bne_bne_comm : ∀ a b c d : Bool, ((a != b) != (c != d)) = ((a != c) != (b != d)) := by decide

theorem parBad_xor (d e : DatFlit) (j : Nat) : parBad (d ^^^ e) j = (parBad d j != parBad e j) := by
  rw [parBad, parBad, parBad, parCover_xor, odd_xor, bit_xor, bne_bne_bne_comm]

/-- A single one fails PAR[j] when it stands in one of the three fields that PAR[j] covers, or is PAR[j] itself (03 Table 03-14). -/
theorem parBad_oneBit {i j : Nat} (hi : i < 288)
    (h : 36 * j ≤ i ∧ i < 36 * j + 17 ∨ 36 * j + 18 ≤ i ∧ i < 36 * j + 18 + 17 ∨ i = 18 * j + 17 ∧ j < 8 ∨
      i = 18 * (8 + j) + 17) :
    parBad (oneBit 288 i) j = true := by
  simp only [parBad, parCover, odd_join, odd_bits_oneBit _ _ _ hi, bit_oneBit]
  grind

/-- The PAR that covers bit i of a data flit, or is that bit. -/
def parOf (i : Nat) : Nat := if i % 18 < 17 then i / 36 else i / 18 % 8

theorem parBad_parOf {i : Nat} (hi : i < 288) : parBad (oneBit 288 i) (parOf i) = true :=
  parBad_oneBit hi <| by unfold parOf; split <;> omega

theorem parOf_lt {i : Nat} (hi : i < 288) : parOf i < 8 := by unfold parOf; split <;> omega

theorem datBad_wrong {d : DatFlit} {i : Nat} (hi : i < 288) (h : datBad d = false) : datBad (d ^^^ oneBit 288 i) = true := by
  have hgood : parBad d (parOf i) = false := by
    simp only [datBad, List.any_eq_false, List.mem_range] at h
    simpa using h _ (parOf_lt hi)
  refine List.any_eq_true.2 ⟨parOf i, List.mem_range.2 (parOf_lt hi), ?_⟩
  rw [parBad_xor, hgood, parBad_parOf hi]; rfl

theorem hdrBad_wrong {h : HdrFlit} {i : Nat} (hi : i < 144) (hg : hdrBad h = 0) : hdrBad (h ^^^ oneBit 144 i) ≠ 0 := by
  intro hz
  have hw : i / 18 < 8 := by omega
  have hbefore : wordBad h (i / 18) = false := by rw [← bit_hdrBad h hw, hg]; simp [bit]
  have hafter : wordBad (h ^^^ oneBit 144 i) (i / 18) = false := by rw [← bit_hdrBad _ hw, hz]; simp [bit]
  rw [wordBad_wrong h hi, hbefore] at hafter
  cases hafter

/-- Settles O56: a check is a parity over fields, and a wrong bit turns the parity of the fields that hold it. -/
theorem oneWrongBitIsSeen : Obligations.OneWrongBitIsSeen := by
  refine ⟨?_, ?_, ?_, ?_, ?_, ?_⟩
  · intro x i hi hg
    exact (wordBad_wrong x hi).trans (by rw [hg]; rfl)
  · exact fun h i hi => hdrBad_wrong hi
  · exact fun d i hi => datBad_wrong hi
  · intro x i hi hg
    refine (odd_bits_wrong x 0 35 (by omega)).trans ?_
    rw [show odd (bits x 0 35) = false from hg, decide_eq_true (by omega)]; rfl
  · intro x d hg
    have hbit : bit (x ^^^ oneBit 36 35) 35 = !bit x 35 := by rw [bit_xor, bit_oneBit]; simp
    refine (congrArg (· != odd d) hbit).trans ?_
    simpa [hlcDpBad] using hg
  · intro x d i hi hg
    refine (congrArg (bit x 35 != ·) (odd_wrong d hi)).trans ?_
    simpa [hlcDpBad] using hg

end Sys2Proof.Machine
end

section
/-! SUPPORT. The stored forms of 02 R24 to R28 and R34 and 07 R190 and R192, and the address of an entry from its set and its
tags. -/

namespace Sys2Proof.Machine

/-! ### Stored words -/

/-- The stored words of four fields, the highest first (02 R24). -/
abbrev words4 (p3 p2 p1 p0 : BitVec 17) : Entry := word18 p3 ++ word18 p2 ++ word18 p1 ++ word18 p0

theorem wordBad_words4 (p3 p2 p1 p0 : BitVec 17) {w : Nat} (hw : w < 4) : wordBad (words4 p3 p2 p1 p0) w = false := by
  have hword : wordOf (words4 p3 p2 p1 p0) w = word18 (match w with | 0 => p0 | 1 => p1 | 2 => p2 | _ => p3) := by
    match w, hw with
    | 0, _ => exact (bits_append_low _ _ (by omega)).trans (bits_self _)
    | 1, _ => exact (bits_append_high _ _ (by omega)).trans ((bits_append_low _ _ (by omega)).trans (bits_self _))
    | 2, _ =>
      exact (bits_append_high _ _ (by omega)).trans ((bits_append_high _ _ (by omega)).trans
        ((bits_append_low _ _ (by omega)).trans (bits_self _)))
    | 3, _ =>
      exact (bits_append_high _ _ (by omega)).trans ((bits_append_high _ _ (by omega)).trans
        ((bits_append_high _ _ (by omega)).trans (bits_self _)))
  rw [wordBad, hword, odd_word18]

theorem decFine_encFine (e : FineEntry) : decFine (encFine e) = e := by
  obtain ⟨ptag, taghi, sfmt, hstate, colour, stash, anvil, hpf, shr⟩ := e
  have hshr : bits shr 17 7 ++ bits shr 0 17 = shr := (bits_append_bits shr 0 7 17).trans (bits_self shr)
  simp (disch := omega) only [decFine, encFine, word18, bits_append_low, bits_append_high, bit_append_low, bit_append_high]
  simp only [Nat.reduceAdd, Nat.reduceSub, bits_self, bit_b1_zero, hshr]

theorem decLoaf_encLoaf (e : LoafEntry) : decLoaf (encLoaf e) = e := by
  obtain ⟨ltag, lstate, pres, colour, gvec⟩ := e
  have hltag : bits ltag 17 14 ++ bits ltag 0 17 = ltag := (bits_append_bits ltag 0 14 17).trans (bits_self ltag)
  simp (disch := omega) only [decLoaf, encLoaf, word18, bits_append_low, bits_append_high]
  simp only [Nat.reduceAdd, Nat.reduceSub, bits_self, hltag]

theorem wordBad_encFine (e : FineEntry) {w : Nat} (hw : w < 4) : wordBad (encFine e) w = false := wordBad_words4 _ _ _ _ hw

theorem wordBad_encLoaf (e : LoafEntry) {w : Nat} (hw : w < 4) : wordBad (encLoaf e) w = false := wordBad_words4 _ _ _ _ hw

theorem hlcTagOf_encHlc (tag : BitVec 33) (v : Bool) (d : Line) : hlcTagOf (encHlc tag v d) = tag :=
  (bits_append_low _ _ (by decide)).trans ((bits_append_low _ _ (by decide)).trans (bits_self tag))

theorem hlcV_encHlc (tag : BitVec 33) (v : Bool) (d : Line) : hlcV (encHlc tag v d) = v :=
  (bit_append_low _ _ (by decide)).trans ((bit_append_high _ _ (by decide)).trans (bit_b1_zero v))

theorem hlcTpBad_encHlc (tag : BitVec 33) (v : Bool) (d : Line) : hlcTpBad (encHlc tag v d) = false := by
  have hlow : bits (encHlc tag v d) 0 35 = b1 (odd (b1 v ++ tag)) ++ (b1 v ++ tag) :=
    (congrArg (bits · 0 35) (BitVec.append_assoc ..)).trans ((bits_append_low _ _ (by decide)).trans (bits_self _))
  rw [hlcTpBad, hlow, odd_join, odd_b1, bne_self_eq_false]

theorem hlcDpBad_encHlc (tag : BitVec 33) (v : Bool) (d : Line) : hlcDpBad (encHlc tag v d) d = false := by
  have hdp : bit (encHlc tag v d) 35 = odd d :=
    (bit_append_high _ _ (by decide)).trans ((bit_append_high _ _ (by decide)).trans (bit_b1_zero _))
  rw [hlcDpBad, hdp, bne_self_eq_false]

/-! ### Parts of an address put back in their places -/

/-- The bits of an address whose k low bits are cleared. -/
theorem bit_clearLow (a : PA) {m : PA} (k j : Nat) (hm : m = BitVec.ofNat 52 (2 ^ k - 1)) :
    bit (a &&& ~~~ m) j = (decide (k ≤ j) && bit a j) := by
  have hmask : bit (~~~ m) j = (decide (j < 52) && !decide (j < k)) := by
    rw [hm, bit, BitVec.getLsbD_not, BitVec.getLsbD_ofNat, Nat.testBit_two_pow_sub_one]
    by_cases h : j < 52 <;> simp [h]
  rw [bit_and, hmask]
  by_cases h : j < 52
  · by_cases hk : j < k
    · simp [hk]
    · simp [h, hk, Nat.not_lt.1 hk]
  · simp [bit_of_ge a (Nat.not_lt.1 h)]

theorem bit_lineOf (a : PA) (j : Nat) : bit (lineOf a) j = (decide (6 ≤ j) && bit a j) := bit_clearLow a 6 j rfl

theorem bit_regionOf (a : PA) (j : Nat) : bit (regionOf a) j = (decide (9 ≤ j) && bit a j) := bit_clearLow a 9 j rfl

/-- The bits of a field put back in its place. -/
theorem bit_fieldInPlace (a : PA) (lo w j : Nat) (h : lo + w ≤ 52) :
    bit ((bits a lo w).setWidth 52 <<< lo) j = (decide (lo ≤ j ∧ j < lo + w) && bit a j) := by
  by_cases hj : lo ≤ j ∧ j < lo + w
  · rw [bit_shiftLeft, bit_setWidth, bit_bits, Nat.add_sub_cancel' hj.1, decide_eq_true hj,
      decide_eq_true (show j < 52 by omega), decide_eq_false (show ¬ j < lo by omega),
      decide_eq_true (show j - lo < 52 by omega), decide_eq_true (show j - lo < w by omega)]
    simp
  · rw [bit_shiftLeft, bit_setWidth, bit_bits, decide_eq_false hj, Bool.false_and, Bool.eq_false_iff]
    simp; omega

/-- The bits of a tag put back in its place. -/
theorem bit_bits_append_zero (a : PA) {k v j : Nat} (hj : j < k + v) :
    bit (bits a k v ++ 0#k) j = (decide (k ≤ j) && bit a j) := by
  by_cases h : k ≤ j
  · rw [bit_append_high _ _ h, bit_bits, Nat.add_sub_cancel' h]; simp [h]; omega
  · rw [bit_append_low _ _ (Nat.not_le.1 h)]; simp [h, bit]

/-- A tag and the field below it make up the address above the field's lowest bit. -/
theorem bit_rejoin (a : PA) {k v lo w j : Nat} (hk : lo + w = k) (hv : k + v = 52) (hj : j < 52) :
    (bit (bits a k v ++ 0#k) j || bit ((bits a lo w).setWidth 52 <<< lo) j) = (decide (lo ≤ j) && bit a j) := by
  rw [bit_bits_append_zero a (by omega), bit_fieldInPlace a lo w j (by omega), ← Bool.and_or_distrib_right, ← Bool.decide_or]
  congr 2
  simp; omega

/-- A fold reads nothing below a tag (02 R25, R26). -/
theorem bits_tagInPlace (a : PA) {k v lo w : Nat} (h : k ≤ lo) (h' : lo + w ≤ k + v) :
    bits (bits a k v ++ 0#k) lo w = bits a lo w := by
  rw [bits_append_high _ _ h, bits_bits a (by omega), Nat.add_sub_cancel' h]

/-! ### The address of an entry (02 R25, R26, 07 R190) -/

theorem fineTag_recovered (a : PA) :
    bits (fineTag a) 17 16 ++ (ptagOf (fineTag a) ^^^ (bits (fineTag a) 17 16).setWidth 17) = fineTag a := by
  rw [ptagOf, BitVec.xor_assoc, BitVec.xor_self, BitVec.xor_zero]
  exact (bits_append_bits _ 0 16 17).trans (bits_self _)

theorem fineFold_tag (a : PA) : fineFold (fineTag a ++ 0#19) = fineFold a := by
  have hf {lo w : Nat} (h : 19 ≤ lo) (h' : lo + w ≤ 52) : bits (fineTag a ++ 0#19 : PA) lo w = bits a lo w :=
    bits_tagInPlace a h h'
  rw [fineFold, hf, hf, hf, fineFold] <;> decide

theorem loafFold_tag (a : PA) : loafFold (loafTag a ++ 0#21) = loafFold a := by
  have hf {lo w : Nat} (h : 21 ≤ lo) (h' : lo + w ≤ 52) : bits (loafTag a ++ 0#21 : PA) lo w = bits a lo w :=
    bits_tagInPlace a h h'
  rw [loafFold, hf, hf, hf, loafFold] <;> decide

/-- What was added to an index is removed from it again. -/
theorem index_unfolded {n : Nat} (x fold : BitVec n) : BitVec.ofNat n (x ^^^ fold).toNat ^^^ fold = x := by
  rw [BitVec.ofNat_toNat, BitVec.setWidth_eq, BitVec.xor_assoc, BitVec.xor_self, BitVec.xor_zero]

theorem fineSet_lt (a : PA) : fineSet a < 8192 := BitVec.isLt _
theorem loafSet_lt (a : PA) : loafSet a < 4096 := BitVec.isLt _
theorem hlcSet_lt (a : PA) : hlcSet a < 256 := BitVec.isLt _

theorem ofNat_fineSet_xor (a : PA) : BitVec.ofNat 13 (fineSet a) ^^^ fineFold a = bits a 6 13 := index_unfolded _ _
theorem ofNat_loafSet_xor (a : PA) : BitVec.ofNat 12 (loafSet a) ^^^ loafFold a = bits a 9 12 := index_unfolded _ _

theorem fineAddr_fineSet (a : PA) : fineAddr (fineSet a) (ptagOf (fineTag a)) (bits (fineTag a) 17 16) = lineOf a := by
  simp only [fineAddr, fineTag_recovered, fineFold_tag, ofNat_fineSet_xor]
  refine eq_of_bit_eq fun j hj => ?_
  rw [bit_or, bit_lineOf]
  exact bit_rejoin a rfl rfl hj

theorem loafAddr_loafSet (a : PA) : loafAddr (loafSet a) (loafTag a) = regionOf a := by
  simp only [loafAddr, loafFold_tag, ofNat_loafSet_xor]
  refine eq_of_bit_eq fun j hj => ?_
  rw [bit_or, bit_regionOf]
  exact bit_rejoin a rfl rfl hj

theorem hlcAddr_hlcSet (a : PA) (h : bits a 47 5 = 0) : hlcAddr (hlcSet a) (hlcTag a) = lineOf a := by
  have hindex : BitVec.ofNat 8 (hlcSet a) ^^^ bits (hlcTag a) 0 8 = bits a 6 8 := by
    rw [hlcTag, bits_bits a (by decide)]; exact index_unfolded (bits a 6 8) (bits a 14 8)
  have hjoin : 0#5 ++ hlcTag a ++ bits a 6 8 = bits a 6 46 := by
    have htop : 0#5 ++ hlcTag a = bits a 14 38 := by
      rw [show 0#5 = bits a 47 5 from h.symm]; exact bits_append_bits a 14 5 33
    rw [htop]; exact bits_append_bits a 6 38 8
  simp only [hlcAddr, hindex, hjoin]
  exact eq_of_bit_eq fun j hj => (bit_bits_append_zero a (k := 6) (v := 46) hj).trans (bit_lineOf a j).symm

/-- Settles O54: the fields are read where they were written, and what a set index adds to an address its tags take off again. -/
theorem storedFormsRoundTrip : Obligations.StoredFormsRoundTrip :=
  ⟨fun e => ⟨decFine_encFine e, fun _ => wordBad_encFine e⟩,
   fun e => ⟨decLoaf_encLoaf e, fun _ => wordBad_encLoaf e⟩,
   fun tag v d => ⟨hlcTagOf_encHlc tag v d, hlcV_encHlc tag v d, hlcTpBad_encHlc tag v d, hlcDpBad_encHlc tag v d⟩,
   fun a => ⟨fineSet_lt a, fineAddr_fineSet a⟩,
   fun a => ⟨loafSet_lt a, loafAddr_loafSet a⟩,
   fun a h => ⟨hlcSet_lt a, hlcAddr_hlcSet a h⟩⟩

/-! ### The lines of a region (02 R26) -/

theorem bit_regionLine (a : PA) (i j : Nat) (hj : j < 52) :
    bit (regionLine a i) j = ((decide (9 ≤ j) && bit a j) || (decide (6 ≤ j) && i.testBit (j - 6))) := by
  have hplace : bit (BitVec.ofNat 52 (64 * i)) j = (decide (6 ≤ j) && i.testBit (j - 6)) := by
    rw [bit, BitVec.getLsbD_ofNat, decide_eq_true hj, Bool.true_and]
    exact Nat.testBit_two_pow_mul (i := 6)
  rw [regionLine, bit_or, bit_regionOf, hplace]

theorem bits_regionLine (a : PA) (i : Nat) : bits (regionLine a i) 6 3 = BitVec.ofNat 3 i := by
  refine eq_of_bit_eq fun j hj => ?_
  have hbit : bit (BitVec.ofNat 3 i) j = (decide (j < 3) && i.testBit j) := BitVec.getLsbD_ofNat ..
  rw [bit_bits, bit_regionLine a i _ (by omega), hbit, Nat.add_sub_cancel_left]
  simp [show ¬ 9 ≤ 6 + j by omega]

theorem regionOf_regionLine (a : PA) {i : Nat} (hi : i < 8) : regionOf (regionLine a i) = regionOf a := by
  refine eq_of_bit_eq fun j hj => ?_
  rw [bit_regionOf, bit_regionOf, bit_regionLine a i j hj]
  by_cases h : 9 ≤ j
  · have hi' : i.testBit (j - 6) = false :=
      Nat.testBit_lt_two_pow (Nat.lt_of_lt_of_le hi (Nat.pow_le_pow_right (n := 2) (i := 3) (by decide) (by omega)))
    simp [h, hi']
  · simp [h]

/-- Settles O55: the definitions are the rules' fields, and equal sets and tags give back equal addresses. -/
theorem addressIndexing : Obligations.AddressIndexing := by
  refine ⟨fun a => ⟨rfl, rfl, fineSet_lt a, rfl, ?_, (ofNat_fineSet_xor a).symm, fun b hset hptag htag => ?_⟩,
    fun a => ⟨rfl, rfl, loafSet_lt a, fun i hi => ⟨bits_regionLine a i, regionOf_regionLine a hi⟩, fun b hset htag => ?_⟩⟩
  · rw [ptagOf, BitVec.xor_assoc, BitVec.xor_self, BitVec.xor_zero]
  · calc lineOf a = fineAddr (fineSet a) (ptagOf (fineTag a)) (bits (fineTag a) 17 16) := (fineAddr_fineSet a).symm
      _ = fineAddr (fineSet b) (ptagOf (fineTag b)) (bits (fineTag b) 17 16) :=
        congr (congr (congrArg fineAddr hset) hptag) htag
      _ = lineOf b := fineAddr_fineSet b
  · rw [← loafAddr_loafSet a, ← loafAddr_loafSet b, hset, htag]

end Sys2Proof.Machine
end

section
/-! SUPPORT. A census that completes while its slice is the target of a bucket on its way (02 R61, 08 R225): what the suspect
records keep. -/

namespace Sys2Proof.Machine

/-- The SnDone with which agent 6 ends its part of the walk of tracker 0 at slice 0. -/
def lastDone : Msg := { op := .snDone, src := 6, dst := sliceNode 0 }

/-- The walk of bucket 0, which only agent 6 has not ended. -/
def lastWalk : Tracker :=
  { kind := .walk 0, pool := .own, age := 0, src := sliceNode 0, stage := .live, round := { sent := [6] }, snoopTimer := true }

/-- The census that the walk serves. -/
def lastCensus : Census := { bucket := 0, started := true, waiting := [6] }

/-- Slice 0 before the SnDone: bucket 1 is incoming, and fine set 0 is suspect until the census of bucket 1. -/
def incomingSuspect : State :=
  { State.reset with mesh := [lastDone] }.updSlice 0 fun x => { x with
    adm := [(6, 3)], trk := [(0, lastWalk)], census := [lastCensus], bkt := [(1, { incoming := true })]
    susFine := { recs := [(0, [1])] } }

/-- The suspect fine sets of slice 0 after a step. -/
def susFineAfter : Res → Option Suspects
  | .next u => some (u.slice 0).susFine
  | _ => none

theorem receives_lastDone : incomingSuspect.receives 0 (encode lastDone) lastDone := by decide +kernel

/-- The model keeps the record of the incoming bucket. -/
theorem susFineAfter_lastDone :
    susFineAfter (exec (.snDone 0 (encode lastDone)) incomingSuspect) = some { recs := [(0, [1])] } := by decide +kernel

/-- Refutes O48: the last SnDone of a census completes it, and a suspect record that names a bucket still incoming at the slice
stays, where the statement keeps only records of buckets that the slice owns or holds frozen. -/
theorem not_censusSteps : ¬ Obligations.CensusSteps := by
  intro ⟨_, hdone, _⟩
  have hlast := (hdone incomingSuspect 0 0 (encode lastDone) lastDone lastWalk lastCensus (by decide +kernel) (by decide +kernel)
    receives_lastDone rfl rfl rfl rfl rfl rfl rfl rfl rfl rfl rfl rfl rfl rfl rfl rfl rfl).2
  obtain ⟨u, hu, -, -, ⟨hfine, -⟩, -⟩ := hlast rfl rfl rfl (by decide +kernel) (by decide +kernel) (by decide +kernel) rfl
  have hkept : susFineAfter (.next u) = some { recs := [(0, [1])] } := (congrArg susFineAfter hu).symm.trans susFineAfter_lastDone
  have hcleared : susFineAfter (.next u) = some {} := congrArg some (hfine.trans (by decide +kernel))
  exact absurd (hkept.symm.trans hcleared) (by decide)

end Sys2Proof.Machine
end

section
/-! SUPPORT. The data of a WrFull whose round still hangs on a retired target (05 Table 05-11): what becomes of the line's HLC
copy. -/

namespace Sys2Proof.Machine

/-- A WrFull of agent 5 to line 0 that waits for its data: the Grant was sent, and the round hangs on agent 7, which retired. -/
def goneWrite : Tracker :=
  { kind := .msg .wrFull, pool := .shared, age := 0, src := 5, rqtx := 9, stage := .live, waitDat := true
    ans := some (.grant, lsI), round := { gone := [7] } }

/-- Its data. -/
def goneData : Msg :=
  { op := .datWb, src := 5, dst := sliceNode 0, rqtx := 9, sub := lsM, data := 77, be := BitVec.allOnes 32 }

/-- Way 0 of the HLC holding line 0. -/
def oldCopy : HlcWay := { tagw := encHlc 0 true 99, data := 99 }

/-- Slice 0 before the data arrives, every address routed to port 0. -/
def goneRound : State :=
  ({ State.reset with mesh := [goneData] }.updSpine fun x => { x with
    setup := true, mrt := [(0, { valid := true, limit := 0x3FFFFF })] }).updSlice 0 fun x => { x with
    adm := [(5, 3)], trk := [(0, goneWrite)], arr := { x.arr with hlc := [(0, oldCopy)] } }

/-- V of way 0 of the first HLC set of slice 0 after a step. -/
def copyAfter : Res → Option Bool
  | .next u => some (hlcV ((u.slice 0).hlcW 0 0).tagw)
  | _ => none

theorem receives_goneData : goneRound.receives 0 (encode goneData) goneData := by decide +kernel

/-- The round ends as by its timer, the line enters P, and its copy is dropped. -/
theorem copyAfter_goneData : copyAfter (exec (.datWb 0 (encode goneData)) goneRound) = some false := by decide +kernel

theorem memDest_goneRound : goneRound.memDest 0 = .port 0 := by decide +kernel
theorem hlcFind_goneRound : goneRound.hlcFind 0 0 = some 0 := by decide +kernel

/-- Refutes O60: the data of a WrFull does not overwrite the line's HLC way when the transaction's round hangs on a retired target;
the round then ends as by its timer (05 Table 05-11), the line enters P and loses its copy (04 R136). -/
theorem not_trackingWrites : ¬ Obligations.TrackingWrites := by
  intro ⟨_, hmsg⟩
  obtain ⟨-, hdata, -⟩ := hmsg goneRound 0 (encode goneData) goneData goneWrite (by decide +kernel) (by decide +kernel)
    receives_goneData (by decide +kernel) rfl rfl rfl rfl rfl rfl rfl rfl (by decide +kernel) (by decide +kernel)
  obtain ⟨u, hu, hway, -⟩ := hdata 0 0 rfl rfl rfl rfl rfl rfl (by decide) memDest_goneRound (by decide +kernel)
    (by decide +kernel) rfl
  have hdropped : copyAfter (.next u) = some false := (congrArg copyAfter hu).symm.trans copyAfter_goneData
  have hfilled : (u.slice 0).hlcW 0 0 = { tagw := encHlc 0 true 77, data := 77 } := hway 0 hlcFind_goneRound rfl
  have hkept : copyAfter (.next u) = some true := by rw [copyAfter, hfilled, hlcV_encHlc]
  exact absurd (hdropped.symm.trans hkept) (by decide)

end Sys2Proof.Machine
end

section
/-! SUPPORT. A RSP or DAT message that no tracker waits for (03 R101): what a slice does with a good message of its own, and what
becomes of a stray one. -/

namespace Sys2Proof.Machine

/-- With nothing armed a check is not inverted, and the slice stays as it is (15 R399). -/
theorem injSlice_idle {n : Nat} {s : State} (src : Nat) (h : (s.slice n).assay.inj.count = 0) : injSlice n src s = (false, s) := by
  simp [injSlice, Inj.check, h]

/-- A good message that a slice may be sent is handled as it was sent. -/
theorem readSlice_good {n : Nat} {f : Flits} {m : Msg} {det : Detail} {s : State} (go : Rx → State → State)
    (hi : (s.slice n).assay.inj.count = 0) (hf : spells f m det) (ho : m.op.notAtSlice = false) :
    readSlice n f go s = go { m, datBad := false, det } s := by
  have hd (c : Bool) (k : Nat) : (if c then injEach (injSlice n 0x0D) k s else (false, s)) = (false, s) := by
    cases c
    · rfl
    · exact injEach_idle (injSlice_idle _ hi) k
  simp only [readSlice, injSlice_idle _ hi, hd, hf, ho, Bool.false_eq_true, if_false]

/-- A message received whose flits pass every check. -/
abbrev goodRx (f : Flits) (m : Msg) : Rx := { m, datBad := false, det := rxDetail f false }

/-- A good RSP or DAT message that arrives at a slice is taken from the mesh and handled. -/
theorem rxSlice_good {n : Nat} {want : Op → Bool} {f : Flits} {m : Msg} {s : State} (go : Rx → State → State)
    (h : s.receives n f m) (hw : want m.op = true) (ho : m.op.notAtSlice = false) :
    rxSlice n want f go s = go (goodRx f m) (s.takeMesh m) := by
  obtain ⟨⟨-, hoff, -, hpaused, hinj⟩, ⟨hdst, hspells⟩, hsrc, -, -⟩ := h
  have hop : flitOp f = some m.op := flitOp_of_decode hspells
  have halien : s.alien f = false := by simp [State.alien, hspells, hsrc]
  have htake : takeFlits f s = s.takeMesh m := by simp [takeFlits, hspells]
  simp only [rxSlice, hdst, hop, hw, hoff, halien, hpaused, htake, bne_self_eq_false, Bool.true_or, Bool.not_true, Bool.or_self,
    decide_false, Bool.false_and, Bool.false_eq_true, if_false]
  exact readSlice_good go hinj hspells ho

theorem phase_ne_hold_of_receives {n : Nat} {f : Flits} {m : Msg} {s : State} (h : s.receives n f m) :
    ((s.takeMesh m).slice n).conds.phase ≠ .hold := by
  obtain ⟨⟨-, -, hold, -⟩, -⟩ := h
  exact hold

/-- A value other than the default is read where it was written, whatever the table holds. -/
theorem mget_mput_of_ne {α : Type} [DecidableEq α] {d v : α} (m : Map α) (k : Nat) (h : v ≠ d) : mget d (mput d m k v) k = v := by
  induction m with
  | nil => simp [mput, mget, h]
  | cons x r ih =>
    obtain ⟨j, w⟩ := x
    rcases mput_cons d w v j k r with ⟨_, e⟩ | ⟨_, e⟩ | ⟨hlt, e⟩ <;> rw [e]
    · rw [if_neg h, mget_cons_eq]
    · rw [if_neg h, mget_cons_eq]
    · rw [mget_cons_lt _ _ _ hlt, ih]

/-- A slice whose fault status is not clear is not as it was at reset. -/
theorem ne_initial_of_status {x : Slice} {src : Nat} (p : Params) (n : Nat) (h : bit x.assay.status src = true) :
    x ≠ Slice.initial p n := by
  rintro rfl
  simp [Slice.initial, bit] at h

theorem status_capture (a : Assay) (now base src : Nat) (sev : BitVec 2) (d : Detail) (h : src - base < 64) :
    bit (a.capture now base src sev d).status (src - base) = true := by
  rw [Assay.capture, bit_setBit _ _ _ _ h, if_pos rfl]

theorem slice_trigger (s : State) (src n : Nat) : (s.trigger src).slice n = s.slice n := by
  rw [State.trigger]; split <;> rfl

theorem slice_endSequence (s : State) (n : Nat) : (endSequence s).slice n = s.slice n := by
  rw [endSequence]; split <;> rfl

/-- A change of a slice that has a fault then is read back, whatever the table of slices holds. -/
theorem slice_updSlice_of_status {n src : Nat} {s : State} {f : Slice → Slice}
    (h : bit (f (s.slice n)).assay.status src = true) : (s.updSlice n f).slice n = f (s.slice n) :=
  mget_mput_of_ne s.slices n (ne_initial_of_status s.par n h)

/-- The conditions of a slice that has a fault changed: its other fields stay. -/
theorem slice_setConds_of_status {n src : Nat} {s : State} (f : Conds → Conds) (h : bit (s.slice n).assay.status src = true) :
    (s.setConds n f).slice n = { s.slice n with conds := f (s.slice n).conds } := by
  simp only [State.setConds]
  split
  · exact slice_updSlice_of_status (f := fun x => { x with conds := f (s.slice n).conds }) h
  · rw [slice_feed]; exact slice_updSlice_of_status (f := fun x => { x with conds := f (s.slice n).conds }) h

/-- HOLD entered by a slice with a fault leaves its input buffer as it is. -/
theorem inBuf_holdSlice {n src : Nat} {s : State} (h : bit (s.slice n).assay.status src = true) :
    ((holdSlice n s).slice n).inBuf = (s.slice n).inBuf := by
  have hconds (f : Conds → Conds) : ((s.setConds n f).slice n).inBuf = (s.slice n).inBuf := by
    rw [slice_setConds_of_status f h]
  simp only [holdSlice]
  split
  · rfl
  · split
    · rw [slice_endSequence]; exact hconds _
    · exact hconds _

/-- A fault raised at a slice leaves its input buffer as it is. -/
theorem inBuf_raiseSlice (n : Nat) {src : Nat} (hsrc : src < 64) (d : Detail) (s : State) :
    ((raiseSlice n src d s).slice n).inBuf = (s.slice n).inBuf := by
  rw [← slice_trigger s src n, raiseSlice]
  generalize s.trigger src = s
  have hstatus := status_capture (s.slice n).assay (s.slice n).hclk 0 src (s.sevOf src) d (by omega)
  have hslice := slice_updSlice_of_status (n := n) (f := fun x => { x with
    assay := x.assay.capture x.hclk 0 src (s.sevOf src) d }) hstatus
  have hbuf := congrArg Slice.inBuf hslice
  split
  · refine (inBuf_holdSlice (src := src - 0) ?_).trans ?_
    · rw [slice_feed, hslice]; exact hstatus
    · rw [slice_feed]; exact hbuf
  · rw [slice_feed]; exact hbuf

/-- A command with which slice n answers a good message by a stray response does that and nothing more. -/
theorem onMessage_stray {n : Nat} {want : Op → Bool} {f : Flits} {m : Msg} {op : Op} {go : Rx → State → State} {s u : State}
    (h : s.receives n f m) (hop : m.op = op) (hw : want op = true) (ho : op.notAtSlice = false) (hu : u.slice n = s.slice n)
    (hgo : go (goodRx f m) (s.takeMesh m) = stray n (goodRx f m) u) :
    onMessage n want f go s = .next (raiseSlice n 0x0F (rxDetail f false) u) := by
  have hrx : rxSlice n want f go s = raiseSlice n 0x0F (rxDetail f false) u :=
    (rxSlice_good go h (hop ▸ hw) (hop ▸ ho)).trans hgo
  obtain ⟨⟨hn, -⟩, -, -, hbuf, hmirrored⟩ := h
  have hnow (t : State) : s.mirrorOver n t = false := by simp [State.mirrorOver, hmirrored]
  have hempty : ((raiseSlice n 0x0F (rxDetail f false) u).slice n).inBuf = [] := by
    rw [inBuf_raiseSlice n (by decide), hu, hbuf]
  rw [onMessage, atSlice_built _ hn]
  simp [thenDrain, orBuffer, hnow, hrx, drainIn, hempty]

section
variable {n : Nat} {rx : Rx} {s : State}

theorem unlessHold_eq (f : Rx → State → State) (hold : (s.slice n).conds.phase ≠ .hold) : unlessHold n f rx s = f rx s :=
  if_neg hold

theorem onTracker_stray (f : Nat → Rx → Tracker → State → State) (hold : (s.slice n).conds.phase ≠ .hold)
    (ht : s.trk n rx.m.trkNo = none) : onTracker n f rx s = stray n rx s := by simp [onTracker, hold, ht]

theorem takeReport_stray (t : Nat) (f : Flits) (hold : (s.slice n).conds.phase ≠ .hold) (ht : s.trk n rx.m.trkNo = none) :
    takeReport n t f rx s = stray n rx s := by simp [takeReport, hold, ht]

theorem takeSeal_stray (ht : s.trk n rx.m.trkNo = none) (hf : mfind (s.slice n).fences rx.m.trkNo = none) :
    takeSeal n rx s = stray n rx s := by simp [takeSeal, ht, hf]

theorem takeStash_stray (take : Bool) (ht : s.trk n rx.m.trkNo = none) :
    takeStash n take rx s = stray n rx (stashVoid n rx s) := by simp [takeStash, ht]

theorem takeMemDat_stray (ht : s.trk n rx.m.trkNo = none) : takeMemDat n rx s = stray n rx s := by simp [takeMemDat, ht]

/-- What becomes of the shim's note of a stash (log 87). -/
theorem stashVoid_eq :
    stashVoid n rx s =
      if isAgent rx.m.src.toNat = true ∧ (n, rx.m.htrk) ∈ (s.shim rx.m.src.toNat).stashes then
        s.updShim rx.m.src.toNat fun x => { x with stashes := x.stashes.erase (n, rx.m.htrk) }
      else s := by simp [stashVoid]

theorem stashVoid_slice (i : Nat) : (stashVoid n rx s).slice i = s.slice i := by rw [stashVoid_eq]; split <;> rfl

end

/-- A stray StashTake or StashRefuse: the target's shim strikes its note of the stash. -/
theorem onMessage_strayStash {n : Nat} {want : Op → Bool} {f : Flits} {m : Msg} {op : Op} {s : State} (take : Bool)
    (h : s.receives n f m) (ht : s.trk n m.trkNo = none) (hop : m.op = op) (hw : want op = true)
    (hstash : op = .stashTake ∨ op = .stashRefuse) :
    onMessage n want f (unlessHold n (takeStash n take)) s =
      .next (raiseSlice n 0x0F (rxDetail f false) (stashVoid n (goodRx f m) (s.takeMesh m))) := by
  have hold := phase_ne_hold_of_receives h
  have hslice : (stashVoid n (goodRx f m) (s.takeMesh m)).slice n = s.slice n := stashVoid_slice n
  refine onMessage_stray h hop hw ?_ hslice ?_
  · rcases hstash with rfl | rfl <;> rfl
  · rw [unlessHold_eq _ hold, takeStash_stray take ht]

/-- Settles O45: each command hands its message to a handler that finds no tracker. -/
theorem strayMessages : Obligations.StrayMessages := by
  unfold Obligations.StrayMessages
  intro s n t f m c h ht hf hc
  have hold := phase_ne_hold_of_receives h
  refine ⟨rxDetail f false, ?_⟩
  rcases hc with ⟨hop, rfl⟩ | ⟨hop, rfl⟩ | ⟨hop, rfl⟩ | ⟨hop, rfl⟩ | ⟨hop, rfl⟩ | ⟨hop, rfl⟩ | ⟨hop, rfl⟩ <;>
    simp only [hop, reduceCtorEq, or_self, or_true, true_or, true_and, false_and, if_false]
  · exact onMessage_stray h hop rfl rfl rfl (onTracker_stray _ hold ht)
  · exact onMessage_stray h hop rfl rfl rfl (takeReport_stray t f hold ht)
  · exact onMessage_stray h hop rfl rfl rfl (onTracker_stray _ hold ht)
  · exact onMessage_stray h hop rfl rfl rfl ((unlessHold_eq _ hold).trans (takeSeal_stray ht hf))
  · exact (onMessage_strayStash true h ht hop rfl (.inl rfl)).trans (by rw [stashVoid_eq]; rfl)
  · exact (onMessage_strayStash false h ht hop rfl (.inr rfl)).trans (by rw [stashVoid_eq]; rfl)
  · exact onMessage_stray h hop rfl rfl rfl ((unlessHold_eq _ hold).trans (takeMemDat_stray ht))

end Sys2Proof.Machine
end

section
/-! SUPPORT. What a shim does with a whole message of its agent (03 R70, R71, R73, R79, R94, 05 R151, 09 R246). -/

namespace Sys2Proof.Machine

/-! ### A shim written and read -/

/-- A write below all the keys listed. -/
theorem mput_below {α : Type} [DecidableEq α] (d : α) {lo k : Nat} {m : Map α} (v : α) (hm : mrising lo m = true) (h : k < lo) :
    mput d m k v = if v = d then m else (k, v) :: m := by
  cases m with
  | nil => rfl
  | cons x r =>
    obtain ⟨hx, -⟩ := (mrising_cons ..).1 hm
    exact if_pos (Nat.lt_of_lt_of_le h hx)

/-- Of two writes at one key the later stands. -/
theorem mput_mput {α : Type} [DecidableEq α] (d : α) {lo : Nat} {m : Map α} (k : Nat) (v w : α) (hm : mrising lo m = true) :
    mput d (mput d m k v) k w = mput d m k w := by
  induction m generalizing lo with
  | nil => by_cases h : v = d <;> simp [mput, h]
  | cons x r ih =>
    obtain ⟨j, u⟩ := x
    obtain ⟨hj, hr⟩ := (mrising_cons ..).1 hm
    rcases Nat.lt_trichotomy k j with h | rfl | h
    · by_cases hv : v = d <;> simp [mput, h, hv]
    · by_cases hv : v = d
      · simp [mput, hv, mput_below d w hr (Nat.lt_succ_self k)]
      · simp [mput, hv]
    · simp only [mput, Nat.lt_asymm h, Nat.ne_of_lt h, if_false]
      rw [ih hr]

theorem setShim_setShim {s : State} (sh : Nat) (x y : Shim) (c : s.canon = true) :
    (s.setShim sh x).setShim sh y = s.setShim sh y := by
  obtain ⟨-, hshims, -⟩ := (State.canon_iff s).1 c
  simp only [State.setShim, mput_mput _ sh x y (mwf_rising hshims)]

theorem shim_setShim {s : State} (sh : Nat) (x : Shim) (c : s.canon = true) : (s.setShim sh x).shim sh = x :=
  State.shim_updShim_same sh (fun _ => x) c

/-- A shim written and then changed. -/
theorem updShim_setShim {s : State} (sh : Nat) (x : Shim) (f : Shim → Shim) (c : s.canon = true) :
    (s.setShim sh x).updShim sh f = s.setShim sh (f x) := by
  rw [State.updShim, shim_setShim sh x c, setShim_setShim sh _ _ c]

theorem updShim_updShim {s : State} (sh : Nat) (f g : Shim → Shim) (c : s.canon = true) :
    (s.updShim sh f).updShim sh g = s.updShim sh fun x => g (f x) := updShim_setShim sh (f (s.shim sh)) g c

/-! ### Tables that pass their checks -/

/-- A shim with no injection armed whose bucket map passes its checks. -/
structure State.ShimGood (s : State) (sh : Nat) : Prop where
  inj : (s.shim sh).assay.inj.count = 0
  bmap : ∀ b, (s.bmap sh b).bad = false

/-- With nothing armed a check is not inverted, and the shim stays as it is (15 R399). -/
theorem injShim_idle {sh : Nat} {s : State} (src : Nat) (h : (s.shim sh).assay.inj.count = 0) : injShim sh src s = (false, s) := by
  simp [injShim, Inj.check, h]

theorem readBmap_good {sh : Nat} {s : State} (b : Nat) (h : s.ShimGood sh) : readBmap sh b s = (s.bmap sh b, s) := by
  simp [readBmap, injShim_idle _ h.inj, h.bmap b]

theorem eachOf_fixed {α : Type} {l : List α} {f : α → State → State} {s : State} (h : ∀ x ∈ l, f x s = s) : eachOf l f s = s := by
  induction l with
  | nil => rfl
  | cons x r ih =>
    rw [eachOf_cons, h x List.mem_cons_self]
    exact ih fun y hy => h y (List.mem_cons_of_mem x hy)

theorem mem_of_mfind {α : Type} {m : Map α} {k : Nat} {v : α} (h : mfind m k = some v) : (k, v) ∈ m := by
  induction m with
  | nil => cases h
  | cons x r ih =>
    simp only [mfind] at h
    split at h
    · next hk => cases h; exact hk ▸ List.mem_cons_self
    · split at h
      · cases h
      · exact List.mem_cons_of_mem _ (ih h)

/-- Streams that all pass their checks stay as they are. -/
theorem checkStreams_good {sh : Nat} {s : State} (h : s.ShimGood sh) (hs : ∀ kv ∈ (s.shim sh).streams, kv.2.bad = false) :
    checkStreams sh s = s :=
  eachOf_fixed fun i _ => by
    dsimp only
    rw [injShim_idle _ h.inj]
    split
    · next e he => rw [hs _ (mem_of_mfind he)]; rfl
    · rfl

/-- A change of other fields of the shim leaves its bucket map as it is. -/
theorem bmap_setShim {s : State} {sh : Nat} {x : Shim} (b : Nat) (c : s.canon = true) (h : x.bmap = (s.shim sh).bmap) :
    (s.setShim sh x).bmap sh b = s.bmap sh b := by
  rw [State.bmap, shim_setShim sh x c, h]; rfl

theorem State.ShimGood.setShim {s : State} {sh : Nat} {x : Shim} (h : s.ShimGood sh) (c : s.canon = true)
    (ha : x.assay = (s.shim sh).assay) (hb : x.bmap = (s.shim sh).bmap) : (s.setShim sh x).ShimGood sh where
  inj := by rw [shim_setShim sh x c, ha]; exact h.inj
  bmap b := by rw [bmap_setShim b c hb]; exact h.bmap b

/-! ### Prefetch hints (07 R204, R205) -/

section
variable {s : State} {sh : Nat} {x : Shim}

/-- A hint goes behind the REQ messages that wait, or is not made. -/
theorem sendHint_setShim (i : Nat) (tid : BitVec 12) (line : Int) (h : s.ShimGood sh) (c : s.canon = true)
    (ha : x.assay = (s.shim sh).assay) (hb : x.bmap = (s.shim sh).bmap) :
    ∃ hints : List QMsg, (∀ q ∈ hints, q.m.op = .pfHint) ∧
      sendHint sh i tid line (s.setShim sh x) = s.setShim sh { x with reqQ := x.reqQ ++ hints } := by
  simp only [sendHint, readBmap_good _ (h.setShim c ha hb)]
  split
  · exact ⟨[], List.forall_mem_nil _, by rw [List.append_nil]⟩
  · refine ⟨_, ?_, updShim_setShim sh x _ c⟩
    simp

/-- Hints for several lines. -/
theorem sendHints_setShim (i : Nat) (tid : BitVec 12) (l : List Int) (h : s.ShimGood sh) (c : s.canon = true)
    (ha : x.assay = (s.shim sh).assay) (hb : x.bmap = (s.shim sh).bmap) :
    ∃ hints : List QMsg, (∀ q ∈ hints, q.m.op = .pfHint) ∧
      eachOf l (sendHint sh i tid) (s.setShim sh x) = s.setShim sh { x with reqQ := x.reqQ ++ hints } := by
  induction l generalizing x with
  | nil => exact ⟨[], List.forall_mem_nil _, by rw [List.append_nil]; rfl⟩
  | cons line l ih =>
    obtain ⟨hints, hop, he⟩ := sendHint_setShim i tid line h c ha hb
    obtain ⟨more, hop', he'⟩ := ih (x := { x with reqQ := x.reqQ ++ hints }) ha hb
    refine ⟨hints ++ more, ?_, ?_⟩
    · intro q hq
      exact (List.mem_append.1 hq).elim (hop q) (hop' q)
    · rw [eachOf_cons, he, he', List.append_assoc]

/-- Training writes the streams and may send hints, and does nothing else. -/
theorem trainStream_setShim (tid : BitVec 12) (a : BitVec 46) (h : s.ShimGood sh) (c : s.canon = true)
    (ha : x.assay = (s.shim sh).assay) (hb : x.bmap = (s.shim sh).bmap) (hs : ∀ kv ∈ x.streams, kv.2.bad = false) :
    ∃ (hints : List QMsg) (streams : Map Stream) (lru : List Nat), (∀ q ∈ hints, q.m.op = .pfHint) ∧
      trainStream sh tid a (s.setShim sh x) =
        s.setShim sh { x with reqQ := x.reqQ ++ hints, streams, streamLru := lru } := by
  have hshim := shim_setShim sh x c
  have hcheck := checkStreams_good (h.setShim c ha hb) (by rw [hshim]; exact hs)
  simp only [trainStream, hcheck, hshim, updShim_setShim sh x _ c]
  split
  · exact ⟨[], x.streams, x.streamLru, List.forall_mem_nil _, by rw [List.append_nil]⟩
  · have hall (streams : Map Stream) (lru : List Nat) (i : Nat) (l : List Int) :=
      sendHints_setShim (x := { x with streams, streamLru := lru }) i tid l h c ha hb
    choose hints hop he using hall
    exact ⟨_, _, _, hop _ _ _ _, he _ _ _ _⟩

end

/-! ### Headers (03 R70, R71, R73) -/

section
variable {s : State} {sh : Nat} {m : Msg}

/-- A line request or a report as the shim sends it. -/
def State.headerSent (s : State) (sh : Nat) (m : Msg) : Msg :=
  { m with
    src := agentNode sh, tid := if (s.shim sh).tidForce then (s.shim sh).tidValue else m.tid
    dst := sliceNode (s.bmap sh (bucketOf m.addr)).slice, gen := (s.bmap sh (bucketOf m.addr)).gen }

/-- The other REQ messages of an agent (03 Table 03-8) are no line requests and no reports. -/
theorem ne_of_header {o : Op} (h : (o.isLineReq || o.isWbk) = true) : o ≠ .drainW ∧ o ≠ .tlbInvReq ∧ o ≠ .tlbSync := by
  refine ⟨?_, ?_, ?_⟩ <;> rintro rfl <;> cases h

theorem stamp_header (h : s.ShimGood sh) (hop : (m.op.isLineReq || m.op.isWbk) = true) :
    stamp sh m s = (s.headerSent sh m, s) := by
  obtain ⟨-, hinv, hsync⟩ := ne_of_header hop
  simp [stamp, hsync, hinv, readBmap_good _ h, State.headerSent]

/-- A shim that has built and queued a line request or a report. -/
def State.headerQueued (s : State) (sh : Nat) (m : Msg) : Shim :=
  let x := s.shim sh
  { x with
    seq := x.seq + 1
    outst := x.outst ++ [{ rqtx := m.rqtx, op := m.op, bucket := bucketOf m.addr, seq := x.seq, built := some x.seq }]
    wbkQ := x.wbkQ ++ if m.op.isWbk then [{ m := s.headerSent sh m }] else []
    reqQ := x.reqQ ++ if m.op.isWbk then [] else [{ m := s.headerSent sh m }] }

theorem sendHeader_eq (h : s.ShimGood sh) (c : s.canon = true) (hop : (m.op.isLineReq || m.op.isWbk) = true) :
    sendHeader sh m (s.shim sh).seq s = s.setShim sh (s.headerQueued sh m) := by
  simp only [sendHeader, stamp_header h hop, queueReq]
  rw [updShim_updShim sh _ _ c, updShim_updShim sh _ _ c, State.updShim, State.updShim, State.headerQueued]
  cases m.op.isWbk <;> simp only [Bool.false_eq_true, if_true, if_false, List.append_nil]

/-- A line request or a report that waits for no drain is built at once; a read trains the streams. -/
theorem takeReq_header (s : State) (hop : (m.op.isLineReq || m.op.isWbk) = true) (hord : m.ord = 0) :
    takeReq sh m s =
      let t := sendHeader sh m (s.shim sh).seq s
      if (m.op = .rdShare || m.op = .rdOwn || m.op = .rdOnce) && !m.soft then
        trainStream sh (if (t.shim sh).tidForce then (t.shim sh).tidValue else m.tid) (lineNo m.addr) t
      else t := by
  have hord' : m.ord ≠ 1 := by rw [hord]; decide
  obtain ⟨hdrain, hinv, hsync⟩ := ne_of_header hop
  unfold takeReq
  split
  · next h => exact absurd h hdrain
  · next h => exact absurd h hinv
  · next h => exact absurd h hsync
  · simp only [hord', if_false]

/-- A line request or a report is queued and counted; of the requests a read may lead to hints. -/
theorem takeReq_queues (h : s.ShimGood sh) (c : s.canon = true) (hs : ∀ kv ∈ (s.shim sh).streams, kv.2.bad = false)
    (hop : (m.op.isLineReq || m.op.isWbk) = true) (hord : m.ord = 0) :
    ∃ (hints : List QMsg) (streams : Map Stream) (lru : List Nat),
      (∀ q ∈ hints, q.m.op = .pfHint) ∧ (m.op.isWbk = true → hints = []) ∧
      takeReq sh m s = s.setShim sh { s.headerQueued sh m with
        reqQ := (s.headerQueued sh m).reqQ ++ hints, streams, streamLru := lru } := by
  simp only [takeReq_header s hop hord, sendHeader_eq h c hop]
  split
  · next hread =>
    obtain ⟨hints, streams, lru, hpf, he⟩ := trainStream_setShim (x := s.headerQueued sh m) _ (lineNo m.addr) h c rfl rfl hs
    refine ⟨hints, streams, lru, hpf, fun hw => absurd hw ?_, he⟩
    simp only [Bool.and_eq_true, Bool.or_eq_true, decide_eq_true_eq] at hread
    rcases hread.1 with (e | e) | e <;> rw [e] <;> decide
  · exact ⟨[], (s.shim sh).streams, (s.shim sh).streamLru, List.forall_mem_nil _, fun _ => rfl, by rw [List.append_nil]; rfl⟩

end

/-! ### A fault at a shim (15 R382, R385) -/

/-- What a step of a shim leaves: slices, mesh and outputs, and every other shim. -/
structure ShimFrame (sh : Nat) (s t : State) : Prop where
  keeps : Keeps s t
  slices : t.slices = s.slices
  mesh : t.mesh = s.mesh
  out : t.out = s.out
  others : s.canon = true → ∀ a, a ≠ sh → t.shim a = s.shim a

theorem ShimFrame.trans {sh : Nat} {s t u : State} (h : ShimFrame sh s t) (g : ShimFrame sh t u) : ShimFrame sh s u where
  keeps := h.keeps.trans g.keeps
  slices := g.slices.trans h.slices
  mesh := g.mesh.trans h.mesh
  out := g.out.trans h.out
  others c a ha := (g.others (h.keeps.canon c) a ha).trans (h.others c a ha)

theorem shimFrame_updShim (sh : Nat) (s : State) (f : Shim → Shim) : ShimFrame sh s (s.updShim sh f) :=
  ⟨keeps_updShim .., rfl, rfl, rfl, fun c _ ha => State.shim_updShim_ne f c ha⟩

theorem shimFrame_setShim (sh : Nat) (s : State) (x : Shim) : ShimFrame sh s (s.setShim sh x) := shimFrame_updShim sh s fun _ => x

/-- A step that writes no shim. -/
theorem ShimFrame.of_shims (sh : Nat) {s t : State} (hk : Keeps s t) (hs : t.slices = s.slices) (hm : t.mesh = s.mesh)
    (ho : t.out = s.out) (hx : t.shims = s.shims) : ShimFrame sh s t :=
  ⟨hk, hs, hm, ho, fun _ a _ => congrArg (mget ({} : Shim) · a) hx⟩

theorem shimFrame_trigger (sh src : Nat) (s : State) : ShimFrame sh s (s.trigger src) := by
  refine .of_shims sh (keeps_trigger src s) ?_ ?_ ?_ ?_ <;> (rw [State.trigger]; split <;> rfl)

theorem shimFrame_feed (sh node : Nat) (s : State) (r : HRec) : ShimFrame sh s (s.feed node r) := by
  obtain ⟨hslices, hshims, -, -, -, hmesh, -, hout, -⟩ := feed_frame s node r
  exact .of_shims sh (keeps_feed s node r) hslices hmesh hout hshims

theorem shim_feed (s : State) (node sh : Nat) (r : HRec) : (s.feed node r).shim sh = s.shim sh := by
  simp only [State.shim, feed_frame]

/-- Acknowledgments sent: only internal messages are added. -/
theorem shimFrame_mapAcks (sh : Nat) (l : List MapUpd) (s : State) :
    ShimFrame sh s (eachOf l (fun u s => s.wire (.mapAck sh u.bucket u.gen)) s) ∧
      (eachOf l (fun u s => s.wire (.mapAck sh u.bucket u.gen)) s).shims = s.shims :=
  eachOf_inv (fun t => ShimFrame sh s t ∧ t.shims = s.shims) l _
    (fun _ _ h => ⟨h.1.trans (.of_shims sh (keeps_wire ..) rfl rfl rfl rfl), h.2⟩) s
    ⟨.of_shims sh (.refl s) rfl rfl rfl rfl, rfl⟩

theorem shimFrame_ackUpds (sh : Nat) (s : State) : ShimFrame sh s (ackUpds sh s) := by
  simp only [ackUpds]
  exact (shimFrame_mapAcks sh _ s).1.trans (shimFrame_updShim ..)

theorem assay_ackUpds (sh : Nat) {s : State} (c : s.canon = true) : ((ackUpds sh s).shim sh).assay = (s.shim sh).assay := by
  simp only [ackUpds]
  obtain ⟨hframe, hshims⟩ := shimFrame_mapAcks sh
    ((s.shim sh).upds.filter fun u => !((s.shim sh).acks && (s.shim sh).outst.any fun o => o.bucket = u.bucket &&
      o.built.any (· < u.seq))) s
  rw [State.shim_updShim_same sh _ (hframe.keeps.canon c)]
  exact congrArg (fun m => (mget ({} : Shim) m sh).assay) hshims

/-- A fault of a shim noted in its status and its first-error record, and in its record for the recorder (15 R382). -/
def shimDetected (sh src : Nat) (d : Detail) (s : State) : State :=
  let t := s.updShim sh fun x => { x with assay := x.assay.capture s.spine.clk 0x40 src (s.sevOf src) d }
  t.feed sh (assayRec t (BitVec.ofNat 9 sh) (some sh) src d)

theorem shimFrame_shimDetected (sh src : Nat) (d : Detail) (s : State) : ShimFrame sh s (shimDetected sh src d s) :=
  (shimFrame_updShim ..).trans (shimFrame_feed ..)

theorem status_shimDetected (sh : Nat) {src : Nat} (d : Detail) {s : State} (c : s.canon = true) (h : src - 0x40 < 64) :
    bit ((shimDetected sh src d s).shim sh).assay.status (src - 0x40) = true := by
  rw [shimDetected, shim_feed, State.shim_updShim_same sh _ c]
  exact status_capture _ _ _ _ _ _ h

theorem raiseShim_eq (sh src : Nat) (d : Detail) (s : State) :
    raiseShim sh src d s =
      let t := shimDetected sh src d (s.trigger src)
      if t.sevOf src = 3 && (t.shim sh).st != .idle then
        ackUpds sh (t.updShim sh fun x => { x.cutOff with retireDue := true })
      else t := rfl

/-- All that a fault at a shim can do: it is noted; at severity 3 the agent is cut off too (09 R251). -/
theorem raiseShim_cases (sh src : Nat) (d : Detail) (s : State) :
    raiseShim sh src d s = shimDetected sh src d (s.trigger src) ∨
      raiseShim sh src d s =
        ackUpds sh ((shimDetected sh src d (s.trigger src)).updShim sh fun x => { x.cutOff with retireDue := true }) := by
  rw [raiseShim_eq]
  dsimp only
  split
  · exact .inr rfl
  · exact .inl rfl

theorem shimFrame_raiseShim (sh src : Nat) (d : Detail) (s : State) : ShimFrame sh s (raiseShim sh src d s) := by
  have hdetected := (shimFrame_trigger sh src s).trans (shimFrame_shimDetected sh src d (s.trigger src))
  rcases raiseShim_cases sh src d s with e | e <;> rw [e]
  · exact hdetected
  · exact hdetected.trans ((shimFrame_updShim ..).trans (shimFrame_ackUpds ..))

/-- The fault's status bit is set (15 R382). -/
theorem status_raiseShim (sh : Nat) {src : Nat} (d : Detail) {s : State} (c : s.canon = true) (h : src - 0x40 < 64) :
    bit ((raiseShim sh src d s).shim sh).assay.status (src - 0x40) = true := by
  have ct := (keeps_trigger src s).canon c
  have hstatus := status_shimDetected sh d ct h
  rcases raiseShim_cases sh src d s with e | e <;> rw [e]
  · exact hstatus
  · have cd := (shimFrame_shimDetected sh src d (s.trigger src)).keeps.canon ct
    rw [assay_ackUpds sh (State.canon_updShim sh _ cd), State.shim_updShim_same sh _ cd]
    exact hstatus

/-! ### The command -/

section
variable {s : State} {sh : Nat} {f : Flits} {m : Msg} {det : Detail}

/-- SHIM_AGENT_MESSAGE with a good message: it stays with the agent, or the shim takes it. -/
theorem exec_shimAgentMessage (hsh : s.hasShim sh = true) (hi : (s.shim sh).assay.inj.count = 0) (hf : spells f m det) :
    exec (.shimAgentMessage sh f) s =
      .next (if (s.shim sh).room m then fromAgent sh { m, datBad := false, det } s else s) := by
  refine (atShim_built (shimAgentMessage sh f) hsh).trans (congrArg _ ?_)
  simp only [shimAgentMessage, hf]
  rw [receive_good _ (fun k => injShim_idle k hi) hf rfl]
  cases (s.shim sh).room m <;> rfl

/-- A silenced shim, or one whose agent was reset, discards every message (09 R246, R251). -/
theorem fromAgent_silent (h : (s.shim sh).silenced = true ∨ (s.shim sh).cut = true) :
    fromAgent sh { m, datBad := false, det } s = s := if_pos (by simpa using h)

/-- A shim that is not silenced and whose agent was not reset. -/
structure State.Hears (s : State) (sh : Nat) : Prop where
  silenced : (s.shim sh).silenced = false
  cut : (s.shim sh).cut = false

theorem fromAgent_fenced (hears : s.Hears sh) (hst : (s.shim sh).st = .fenced) (hreq : (m.op.isReq || m.op.isWbk) = true) :
    fromAgent sh { m, datBad := false, det } s = s := by
  simp [fromAgent, hears.silenced, hears.cut, hst, hreq]

/-- A header that may be sent is taken. -/
theorem fromAgent_header (hears : s.Hears sh) (hst : (s.shim sh).st = .admitted)
    (hlegal : m.legal (s.shim sh).neg (isCaching sh) = true) (hreq : (m.op.isReq || m.op.isWbk) = true) :
    fromAgent sh { m, datBad := false, det } s = takeReq sh m s := by
  simp [fromAgent, hears.silenced, hears.cut, hst, hlegal, hreq]

/-- A RSP or DAT message as the shim queues it. -/
abbrev answerSent (sh : Nat) (m : Msg) : QMsg := { m := { m with src := agentNode sh } }

/-- A RSP message that may be sent goes to the queue of its class. -/
theorem fromAgent_rsp (hears : s.Hears sh) (hst : (s.shim sh).st = .admitted)
    (hlegal : m.legal (s.shim sh).neg (isCaching sh) = true) (hcls : m.op.cls = 3) (hop : m.op ≠ .stashTake) :
    fromAgent sh { m, datBad := false, det } s = s.updShim sh fun x => { x with rspQ := x.rspQ ++ [answerSent sh m] } := by
  have hreq : (m.op.isReq || m.op.isWbk) = false := by simp [Op.isReq, Op.isWbk, hcls]
  simp only [fromAgent, hreq, hears.silenced, hears.cut, hst, hlegal, hcls, hop, reduceCtorEq, decide_false, Bool.or_self,
    Bool.and_false, Bool.not_true, Bool.false_eq_true, if_false, if_true]
  cases nodeSlice m.dst <;> rfl

/-- A DAT message that may be sent goes to the queue of its class. -/
theorem fromAgent_dat (hears : s.Hears sh) (hst : (s.shim sh).st = .admitted)
    (hlegal : m.legal (s.shim sh).neg (isCaching sh) = true) (hcls : m.op.cls = 4) :
    fromAgent sh { m, datBad := false, det } s = s.updShim sh fun x => { x with datQ := x.datQ ++ [answerSent sh m] } := by
  have hop : m.op ≠ .stashTake := by intro e; rw [e] at hcls; cases hcls
  have hreq : (m.op.isReq || m.op.isWbk) = false := by simp [Op.isReq, Op.isWbk, hcls]
  simp only [fromAgent, hreq, hears.silenced, hears.cut, hst, hlegal, hcls, hop, reduceCtorEq, decide_false, Bool.or_self,
    Bool.and_false, Bool.not_true, Bool.false_eq_true, if_false, Nat.reduceEqDiff]
  cases nodeSlice m.dst <;> rfl

/-- A StashTake that may be sent is queued and noted (log 87). -/
theorem fromAgent_stashTake {n : Nat} (c : s.canon = true) (hears : s.Hears sh) (hst : (s.shim sh).st = .admitted)
    (hlegal : m.legal (s.shim sh).neg (isCaching sh) = true) (hop : m.op = .stashTake) (hn : nodeSlice m.dst = some n) :
    fromAgent sh { m, datBad := false, det } s = s.updShim sh fun x =>
      { x with stashes := addNew x.stashes (n, m.htrk), rspQ := x.rspQ ++ [answerSent sh m] } := by
  have hcls : m.op.cls = 3 := by rw [hop]; rfl
  have hreq : (m.op.isReq || m.op.isWbk) = false := by rw [hop]; rfl
  simp only [fromAgent, hreq, hears.silenced, hears.cut, hst, hlegal, hcls, hn, if_pos hop, reduceCtorEq, decide_false,
    Bool.or_self, Bool.and_false, Bool.not_true, Bool.false_eq_true, if_false, if_true]
  exact updShim_updShim sh _ _ c

/-- A header that may not be sent, or not yet, is answered Rest with its fault raised (03 R79, 09 R246). -/
theorem fromAgent_refused {reason : BitVec 4} {src : Nat} (hears : s.Hears sh) (hreq : (m.op.isReq || m.op.isWbk) = true)
    (h : ((s.shim sh).st = .admitted ∧ m.legal (s.shim sh).neg (isCaching sh) = false ∧ reason = rsIllegal ∧ src = 3) ∨
      (((s.shim sh).st = .idle ∨ (s.shim sh).st = .admitting) ∧ reason = rsNotAdm ∧ src = 4)) :
    fromAgent sh { m, datBad := false, det } s =
      answerAgent sh { op := .rest, rqtx := m.rqtx, aux := reason } (raiseShim sh (0x40 + src) det s) := by
  rcases h with ⟨hst, hlegal, rfl, rfl⟩ | ⟨hst, rfl, rfl⟩
  · simp [fromAgent, hears.silenced, hears.cut, hst, hlegal, hreq]
  · simp [fromAgent, hears.silenced, hears.cut, hst, hreq]

end

/-- Line requests and reports are headers: they belong to the classes REQ and WBK. -/
theorem isReq_of_header {o : Op} (h : (o.isLineReq || o.isWbk) = true) : (o.isReq || o.isWbk) = true := by
  cases o with
  | spineCtl k => rfl
  | _ => revert h; decide

/-- Settles O39: the shim's three outcomes for a header, and the queues of the other classes. -/
theorem shimTakesMessages : Obligations.ShimTakesMessages := by
  unfold Obligations.ShimTakesMessages
  intro s sh f m det c hsh _ hi hbmap hstreams hf
  have hexec := exec_shimAgentMessage hsh hi hf
  have hgood : s.ShimGood sh := ⟨hi, hbmap⟩
  refine ⟨fun hroom => ?_, fun hroom hsilent => ?_, fun hroom hsil hcut => ?_⟩
  · rw [hexec, hroom]; rfl
  · rw [hexec, hroom, fromAgent_silent hsilent]; rfl
  rw [hexec, hroom, if_pos rfl]
  have hears : s.Hears sh := ⟨hsil, hcut⟩
  refine ⟨fun hst hlegal hop hord => ?_, fun hst hreq => ?_, fun hst hlegal hcls hop => ?_, fun n hst hlegal hop hn => ?_,
    fun hst hlegal hcls => ?_, fun reason src hreq h => ?_⟩
  · obtain ⟨hints, streams, lru, hpf, hwbk, he⟩ := takeReq_queues hgood c hstreams hop hord
    have hshim := shim_setShim sh { s.headerQueued sh m with
      reqQ := (s.headerQueued sh m).reqQ ++ hints, streams, streamLru := lru } c
    refine ⟨_, hints, congrArg _ ((fromAgent_header hears hst hlegal (isReq_of_header hop)).trans he), ?_, hpf, ?_, ?_, ?_, ?_,
      (shimFrame_setShim ..).others c, rfl, rfl, rfl, rfl⟩ <;> rw [hshim]
    · rw [State.headerQueued, List.append_assoc]
      cases hw : m.op.isWbk
      · rfl
      · rw [hwbk hw]; rfl
    · rfl
    · rfl
    · exact hst
    · rfl
  · rw [fromAgent_fenced hears hst hreq]
  · rw [fromAgent_rsp hears hst hlegal hcls hop]
  · rw [fromAgent_stashTake c hears hst hlegal hop hn]
  · rw [fromAgent_dat hears hst hlegal hcls]
  · have hframe := shimFrame_raiseShim sh (0x40 + src) det s
    have hbit := status_raiseShim sh (src := 0x40 + src) det c (by omega)
    refine ⟨_, congrArg _ (fromAgent_refused hears hreq h), ?_, congrArg (· ++ _) hframe.out, hframe.slices, hframe.mesh,
      hframe.others c⟩
    rw [Nat.add_sub_cancel_left] at hbit
    exact hbit

end Sys2Proof.Machine
end

section
/-! SUPPORT. What a receiver reads from the flits of a message (03 R64 to R66, R88 to R91, Tables 03-2 to 03-4, 03-14). -/

namespace Sys2Proof.Machine

/-! ### Words of 18 bits -/

/-- A number from its 18-bit words, word 0 lowest. -/
def packWords : List (BitVec 18) → Nat
  | [] => 0
  | w :: r => w.toNat + 2 ^ 18 * packWords r

theorem testBit_packWords (l : List (BitVec 18)) (i : Nat) {j : Nat} (hj : j < 18) :
    (packWords l).testBit (18 * i + j) = bit (l.getD i 0) j := by
  induction l generalizing i with
  | nil => simp [packWords, bit]
  | cons w r ih =>
    rw [packWords, Nat.add_comm w.toNat, Nat.testBit_two_pow_mul_add _ w.isLt]
    cases i with
    | zero => simp [hj, bit, BitVec.getLsbD]
    | succ i =>
      rw [if_neg (by omega), show 18 * (i + 1) + j - 18 = 18 * i + j by omega, ih i]
      rfl

/-- A bit of a value of 18-bit words is a bit of the word that holds it. -/
theorem bit_ofNat_packWords {n : Nat} (l : List (BitVec 18)) {i : Nat} (hi : i < n) :
    bit (BitVec.ofNat n (packWords l)) i = bit (l.getD (i / 18) 0) (i % 18) := by
  rw [bit, BitVec.getLsbD_ofNat, decide_eq_true hi, Bool.true_and, ← testBit_packWords l (i / 18) (Nat.mod_lt i (by decide)),
    Nat.div_add_mod]

/-! ### The header -/

/-- Payload words 0 to 7 of a header (03 Tables 03-2 to 03-4). -/
def hdrWords (m : Msg) : List (BitVec 17) :=
  (BitVec.ofNat 3 m.op.code.1 ++ BitVec.ofNat 5 m.op.code.2 ++ m.src) :: (m.dst ++ m.htrk) :: (m.rqtx ++ m.sub ++ m.aux) ::
    if m.op.formA then hdrA m else hdrC m

theorem packHdr_eq (l : List (BitVec 17)) : packHdr l = packWords (l.map word18) := by
  induction l with
  | nil => rfl
  | cons w r ih => rw [packHdr, ih]; rfl

theorem encHdr_eq (m : Msg) : encHdr m = BitVec.ofNat 144 (packWords ((hdrWords m).map word18)) :=
  congrArg (BitVec.ofNat 144) (packHdr_eq (hdrWords m))

theorem length_hdrWords (m : Msg) : (hdrWords m).length = 8 := by rw [hdrWords]; split <;> rfl

/-- Word w of a header. -/
theorem wordOf_encHdr (m : Msg) {w : Nat} (hw : w < 8) : wordOf (encHdr m) w = word18 ((hdrWords m).getD w 0) := by
  have hword : ((hdrWords m).map word18).getD w 0 = word18 ((hdrWords m).getD w 0) := by
    simp [List.getD, length_hdrWords, hw]
  refine eq_of_bit_eq fun j hj => ?_
  rw [wordOf, bit_bits, decide_eq_true hj, Bool.true_and, encHdr_eq, bit_ofNat_packWords _ (by omega),
    show (18 * w + j) / 18 = w by omega, show (18 * w + j) % 18 = j by omega, hword]

/-- A field of a header that lies in the payload of one word. -/
theorem bits_encHdr (m : Msg) {lo w : Nat} (hlo : lo < 144) (h : lo % 18 + w ≤ 17) :
    bits (encHdr m) lo w = bits ((hdrWords m).getD (lo / 18) 0) (lo % 18) w := by
  have hword : bits (encHdr m) lo w = bits (wordOf (encHdr m) (lo / 18)) (lo % 18) w := by
    rw [wordOf, bits_bits _ (by omega), Nat.div_add_mod]
  rw [hword, wordOf_encHdr m (by omega), word18, bits_append_low _ _ h]

/-- A payload bit of a header. -/
theorem bit_encHdr (m : Msg) {i : Nat} (hi : i < 144) (h : i % 18 < 17) :
    bit (encHdr m) i = bit ((hdrWords m).getD (i / 18) 0) (i % 18) := by
  have hfield := congrArg (bit · 0) (bits_encHdr m (w := 1) hi (by omega))
  simpa using hfield

/-- Every word of a header has good parity (03 R66). -/
theorem hdrBad_encHdr (m : Msg) : hdrBad (encHdr m) = 0 :=
  eq_of_bit_eq fun w hw => by
    rw [bit_hdrBad _ hw, wordBad, wordOf_encHdr m hw, odd_word18]
    simp [bit]

theorem code_lt (o : Op) : o.code.1 < 8 ∧ o.code.2 < 32 := by
  cases o with
  | spineCtl k => exact ⟨by simp [Op.code], by simp [Op.code]; omega⟩
  | _ => decide

theorem opOf_code (o : Op) : opOf o.code.1 o.code.2 = some o := by
  cases o with
  | spineCtl k => revert k; decide
  | _ => rfl

/-- CLASS and OPC of a header, as it was written. -/
theorem cls_encHdr (m : Msg) : bits (encHdr m) 14 3 = BitVec.ofNat 3 m.op.code.1 :=
  (bits_encHdr m (by decide) (by decide)).trans
    ((bits_append_high _ _ (by decide)).trans ((bits_append_high _ _ (by decide)).trans (bits_self _)))

theorem opc_encHdr (m : Msg) : bits (encHdr m) 9 5 = BitVec.ofNat 5 m.op.code.2 :=
  (bits_encHdr m (by decide) (by decide)).trans
    ((bits_append_high _ _ (by decide)).trans ((bits_append_low _ _ (by decide)).trans (bits_self _)))

/-- CLASS and OPC name the opcode (03 Tables 03-8 to 03-12). -/
theorem opOf_encHdr (m : Msg) : opOf (bits (encHdr m) 14 3).toNat (bits (encHdr m) 9 5).toNat = some m.op := by
  obtain ⟨hc, ho⟩ := code_lt m.op
  rw [cls_encHdr, opc_encHdr, BitVec.toNat_ofNat, BitVec.toNat_ofNat, Nat.mod_eq_of_lt hc, Nat.mod_eq_of_lt ho, opOf_code]

theorem dst_encHdr (m : Msg) : bits (encHdr m) 26 9 = m.dst :=
  (bits_encHdr m (by decide) (by decide)).trans ((bits_append_high _ _ (by decide)).trans (bits_self _))

/-- The fields of a header are read where they were written; a form has the fields that it lists (03 Tables 03-2 to 03-4). -/
theorem decHdr_encHdr (m : Msg) :
    decHdr m.op (encHdr m) =
      if m.op.formA then { m with bmask := 0, data := 0, be := 0, poison := false }
      else { m with gen := 0, soft := false, hold := false, tid := 0, ord := 0, fwd := false, addr := 0, data := 0, be := 0
                    poison := false } := by
  have haddr : bits m.addr 51 1 ++ bits m.addr 34 17 ++ bits m.addr 17 17 ++ bits m.addr 0 17 = m.addr := by
    rw [bits_append_bits m.addr 34 1 17, bits_append_bits m.addr 17 18 17, bits_append_bits m.addr 0 35 17, bits_self]
  have hmask : bits m.bmask 51 13 ++ bits m.bmask 34 17 ++ bits m.bmask 17 17 ++ bits m.bmask 0 17 = m.bmask := by
    rw [bits_append_bits m.bmask 34 13 17, bits_append_bits m.bmask 17 30 17, bits_append_bits m.bmask 0 47 17, bits_self]
  cases hform : m.op.formA <;>
    simp (disch := decide) only [decHdr, bits_encHdr, bit_encHdr, hform, if_true, Bool.false_eq_true, if_false] <;>
    simp (disch := decide) only [hdrWords, hform, hdrA, hdrC, if_true, Bool.false_eq_true, if_false, Nat.reduceDiv, Nat.reduceMod,
      List.getD_cons_zero, List.getD_cons_succ, bits_append_low, bits_append_high, bit_append_low, bit_append_high,
      Nat.reduceSub, bits_self, bit_b1_zero, haddr, hmask]

/-! ### Data flits -/

/-- Word w of a data flit without PAR (03 Table 03-14). -/
def datWord (d : BitVec 256) (be ctl : BitVec 16) (w : Nat) : BitVec 18 := b1 (bit ctl w) ++ b1 (bit be w) ++ bits d (16 * w) 16

theorem packDat_eq (d : BitVec 256) (be ctl : BitVec 16) (w fuel : Nat) :
    packDat d be ctl w fuel = packWords ((List.range' w fuel).map (datWord d be ctl)) := by
  induction fuel generalizing w with
  | zero => rfl
  | succ fuel ih => rw [packDat, ih]; rfl

/-- A data flit before its PAR bits are set. -/
def datPlain (d : BitVec 256) (be ctl : BitVec 16) : DatFlit := BitVec.ofNat 288 (packDat d be ctl 0 16)

theorem bit_datPlain (d : BitVec 256) (be ctl : BitVec 16) {w j : Nat} (hw : w < 16) (hj : j < 18) :
    bit (datPlain d be ctl) (18 * w + j) = bit (datWord d be ctl w) j := by
  have hword : ((List.range' 0 16).map (datWord d be ctl)).getD w 0 = datWord d be ctl w := by
    simp [List.getD, hw]
  rw [datPlain, packDat_eq, bit_ofNat_packWords _ (by omega), show (18 * w + j) / 18 = w by omega,
    show (18 * w + j) % 18 = j by omega, hword]

/-- The CTL field of a data flit (03 Table 03-14). -/
def datCtl (fidx last poison : Bool) : BitVec 16 := 0#13 ++ b1 last ++ b1 poison ++ b1 fidx

/-- Bit i holds a PAR. -/
abbrev holdsPar (i : Nat) : Prop := i % 18 = 17 ∧ 8 ≤ i / 18

/-- PAR bits set one by one: each is the one given for it, and no other bit changes. -/
theorem bit_foldl_setPar (b : Nat → Bool) (f : DatFlit) (k : Nat) {i : Nat} (hi : i < 288) :
    bit ((List.range k).foldl (fun f j => setBit f (18 * (8 + j) + 17) (b j)) f) i =
      if holdsPar i ∧ i / 18 < 8 + k then b (i / 18 - 8) else bit f i := by
  induction k with
  | zero => rw [if_neg (by omega)]; rfl
  | succ k ih =>
    rw [List.range_succ, List.foldl_append, List.foldl_cons, List.foldl_nil, bit_setBit _ _ _ _ hi, ih]
    by_cases hk : i = 18 * (8 + k) + 17
    · rw [if_pos hk, if_pos (by omega), show i / 18 - 8 = k by omega]
    · rw [if_neg hk]
      exact if_congr (by omega) rfl rfl

section
variable {fidx last : Bool} {d : BitVec 256} {be : BitVec 16} {poison : Bool}

theorem bit_encDat {i : Nat} (hi : i < 288) :
    bit (encDat fidx last d be poison) i =
      if holdsPar i then odd (parCover (datPlain d be (datCtl fidx last poison)) (i / 18 - 8))
      else bit (datPlain d be (datCtl fidx last poison)) i := by
  have hpars : encDat fidx last d be poison = (List.range 8).foldl (fun f j =>
      setBit f (18 * (8 + j) + 17) (odd (parCover (datPlain d be (datCtl fidx last poison)) j)))
      (datPlain d be (datCtl fidx last poison)) := by rw [encDat]; rfl
  rw [hpars, bit_foldl_setPar _ _ 8 hi]
  exact if_congr (by omega) rfl rfl

/-- A field without PAR bits is the one that the words give. -/
theorem bits_encDat {lo w : Nat} (hw : lo + w ≤ 288) (h : ∀ j, j < w → ¬ holdsPar (lo + j)) :
    bits (encDat fidx last d be poison) lo w = bits (datPlain d be (datCtl fidx last poison)) lo w :=
  eq_of_bit_eq fun j hj => by rw [bit_bits, bit_bits, bit_encDat (by omega), if_neg (h j hj)]

/-- Every PAR of a data flit is that of what it covers (03 R90). -/
theorem datBad_encDat : datBad (encDat fidx last d be poison) = false := by
  refine List.any_eq_false.2 fun j hj => ?_
  have hj : j < 8 := List.mem_range.1 hj
  have hcover : parCover (encDat fidx last d be poison) j = parCover (datPlain d be (datCtl fidx last poison)) j := by
    rw [parCover, bits_encDat (by omega) (by omega), bits_encDat (by omega) (by omega),
      bits_encDat (by omega) (by omega)]
    rfl
  have hpar : bit (encDat fidx last d be poison) (18 * (8 + j) + 17) =
      odd (parCover (datPlain d be (datCtl fidx last poison)) j) := by
    rw [bit_encDat (by omega), if_pos (by omega), show (18 * (8 + j) + 17) / 18 - 8 = j by omega]
  rw [parBad, hcover, hpar, bne_self_eq_false]
  decide

/-- The data bytes of word w. -/
theorem bits_encDat_data {w : Nat} (hw : w < 16) : bits (encDat fidx last d be poison) (18 * w) 16 = bits d (16 * w) 16 := by
  rw [bits_encDat (by omega) (by omega)]
  refine eq_of_bit_eq fun j hj => ?_
  rw [bit_bits, decide_eq_true hj, Bool.true_and, bit_datPlain _ _ _ hw (by omega), datWord, bit_append_low _ _ hj]

theorem bit_encDat_be {w : Nat} (hw : w < 16) : bit (encDat fidx last d be poison) (18 * w + 16) = bit be w := by
  rw [bit_encDat (by omega), if_neg (by omega), bit_datPlain _ _ _ hw (by omega), datWord,
    bit_append_high _ _ (by decide), bit_append_low _ _ (by decide), bit_b1_zero]

theorem datPoison_encDat : datPoison (encDat fidx last d be poison) = poison := by
  rw [datPoison, bit_encDat (by decide), if_neg (by decide), bit_datPlain _ _ _ (by decide) (by decide), datWord,
    bit_append_high _ _ (by decide), bit_append_high _ _ (by decide), bit_b1_zero, datCtl, bit_append_high _ _ (by decide),
    bit_append_low _ _ (by decide), bit_b1_zero]

theorem datBe_encDat : datBe (encDat fidx last d be poison) = be :=
  eq_of_bit_eq fun j hj => by
    rw [datBe, bit_foldl_setBit (fun w => bit (encDat fidx last d be poison) (18 * w + 16)) 16 j hj, decide_eq_true hj,
      Bool.true_and, bit_encDat_be hj]

end

/-- Words whose data are the 16-bit fields of a value, read from word w on. -/
theorem datBytes_eq {f : DatFlit} {d : BitVec 256} (h : ∀ w, w < 16 → bits f (18 * w) 16 = bits d (16 * w) 16) (w fuel : Nat)
    (hw : w + fuel ≤ 16) : datBytes f w fuel = (bits d (16 * w) (16 * fuel)).toNat := by
  induction fuel generalizing w with
  | zero => simp [datBytes, bits]
  | succ fuel ih =>
    have hjoin : bits d (16 * w + 16) (16 * fuel) ++ bits d (16 * w) 16 = bits d (16 * w) (16 * fuel + 16) :=
      bits_append_bits d (16 * w) (16 * fuel) 16
    rw [datBytes, h w (by omega), ih (w + 1) (by omega), Nat.mul_succ, Nat.mul_succ, ← hjoin, BitVec.toNat_append,
      ← Nat.shiftLeft_add_eq_or_of_lt (BitVec.isLt _), Nat.shiftLeft_eq]
    omega

theorem datBytes_encDat (fidx last : Bool) (d : BitVec 256) (be : BitVec 16) (poison : Bool) :
    datBytes (encDat fidx last d be poison) 0 16 = d.toNat := by
  rw [datBytes_eq (d := d) (fun w hw => bits_encDat_data hw) 0 16 (by decide)]
  exact congrArg BitVec.toNat (bits_self d)

/-! ### The message -/

theorem dataFlits_cases (o : Op) : o.dataFlits = 0 ∨ o.dataFlits = 1 ∨ o.dataFlits = 2 := by cases o <;> simp [Op.dataFlits]

/-- A line whose high half is 0 is its low half. -/
theorem low_of_high_zero {d : Line} (h : bits d 256 256 = 0) : BitVec.ofNat 512 (bits d 0 256).toNat = d := by
  rw [BitVec.ofNat_toNat]
  refine eq_of_bit_eq fun j hj => ?_
  rw [bit_setWidth, bit_bits, decide_eq_true hj, Bool.true_and, Nat.zero_add]
  by_cases hlow : j < 256
  · simp [hlow]
  · have hbit : bit (bits d 256 256) (j - 256) = bit d j := by
      rw [bit_bits, decide_eq_true (by omega), Bool.true_and, Nat.add_sub_cancel' (by omega)]
    rw [decide_eq_false hlow, Bool.false_and, ← hbit, h]
    simp [bit]

section
variable {m : Msg}

theorem encode_d0 (hn : m.op.dataFlits ≠ 0) :
    (encode m).d0 = encDat false (m.op.dataFlits = 1) (bits m.data 0 256) (bits m.be 0 16) m.poison := if_neg hn

theorem encode_d1 (hn : m.op.dataFlits = 2) :
    (encode m).d1 = encDat true true (bits m.data 256 256) (bits m.be 16 16) m.poison := if_pos hn

theorem datBad_encode : (1 ≤ m.op.dataFlits && datBad (encode m).d0 || 2 ≤ m.op.dataFlits && datBad (encode m).d1 ||
    1 ≤ m.op.dataFlits && false) = false := by
  rcases dataFlits_cases m.op with hn | hn | hn
  · simp [hn]
  · simp [hn, encode_d0, datBad_encDat]
  · simp [hn, encode_d0, encode_d1, datBad_encDat]

/-- The data of a message, its BE bits and its POISON are read from its flits. -/
theorem withData_encode (h : m.wf = true) :
    withData { m with data := 0, be := 0, poison := false } (encode m) false = m := by
  simp only [Msg.wf, Bool.and_eq_true] at h
  obtain ⟨-, h⟩ := h
  rcases dataFlits_cases m.op with hn | hn | hn
  · simp only [hn, if_true, Bool.and_eq_true, decide_eq_true_eq, Bool.not_eq_true'] at h
    obtain ⟨⟨hdata, hbe⟩, hpoison⟩ := h
    rw [withData, if_pos hn, ← hdata, ← hbe, ← hpoison]
  · simp only [hn, one_ne_zero, if_false, Nat.reduceEqDiff, decide_false, Bool.false_or, Bool.and_eq_true, decide_eq_true_eq] at h
    obtain ⟨hdata, hbe⟩ := h
    have hbytes : 0#16 ++ bits m.be 0 16 = m.be :=
      (congrArg (· ++ bits m.be 0 16) hbe.symm).trans ((bits_append_bits m.be 0 16 16).trans (bits_self m.be))
    rw [withData, if_neg (by simp [hn]), if_pos hn, encode_d0 (by simp [hn]), datBytes_encDat, datBe_encDat, datPoison_encDat,
      low_of_high_zero hdata, hbytes, Bool.or_false]
  · have hbytes : bits m.be 16 16 ++ bits m.be 0 16 = m.be := (bits_append_bits m.be 0 16 16).trans (bits_self m.be)
    have hdata : bits m.data 256 256 ++ bits m.data 0 256 = m.data :=
      (bits_append_bits m.data 0 256 256).trans (bits_self m.data)
    rw [withData, if_neg (by simp [hn]), if_neg (by simp [hn]), encode_d0 (by simp [hn]), encode_d1 hn]
    simp only [datBytes_encDat, datBe_encDat, datPoison_encDat, BitVec.ofNat_toNat, BitVec.setWidth_eq, hbytes, hdata,
      Bool.or_self, Bool.or_false]

/-- The header of a message holds all but its data. -/
theorem decHdr_encode (h : m.wf = true) : decHdr m.op (encHdr m) = { m with data := 0, be := 0, poison := false } := by
  simp only [Msg.wf, Bool.and_eq_true] at h
  obtain ⟨h, -⟩ := h
  rw [decHdr_encHdr]
  split
  · next hform =>
    simp only [hform, if_true, decide_eq_true_eq] at h
    rw [h]
  · next hform =>
    simp only [hform, Bool.false_eq_true, if_false, Bool.and_eq_true, decide_eq_true_eq, Bool.not_eq_true'] at h
    obtain ⟨⟨⟨⟨⟨⟨hgen, hsoft⟩, hhold⟩, htid⟩, hord⟩, hfwd⟩, haddr⟩ := h
    rw [hgen, hsoft, hhold, htid, hord, hfwd, haddr]

end

/-- Settles O53: the fields of the header and the words of the data flits are read where they were written. -/
theorem messageRoundTrip : Obligations.MessageRoundTrip := by
  unfold Obligations.MessageRoundTrip
  intro m h
  refine ⟨rxDetail (encode m) false, ?_, dst_encHdr m, opOf_encHdr m⟩
  have hparity : hdrFails (encode m).hdr false = 0 := hdrBad_encHdr m
  have hclass : bits (encode m).hdr 14 3 = (encode m).vc := cls_encHdr m
  have hop : opOf (bits (encode m).hdr 14 3).toNat (bits (encode m).hdr 9 5).toNat = some m.op := opOf_encHdr m
  have hhdr : decHdr m.op (encode m).hdr = { m with data := 0, be := 0, poison := false } := decHdr_encode h
  simp only [spells, decode, hparity, hop, hhdr, ne_eq, not_true_eq_false, if_false, datBad_encode, withData_encode h]
  rw [if_neg (not_not.2 hclass)]

end Sys2Proof.Machine
end

section
/-! SUPPORT. The data of a WrFull that stands in a line buffer whose parity fails (15 source 0x08): with what POISON it enters the
merging buffer. -/

namespace Sys2Proof.Machine

/-- A WrFull of agent 5 to line 0 that waits for its data, in a line buffer with a parity error. -/
def badBufWrite : Tracker := { goneWrite with round := {}, bufBad := true }

/-- Slice 0 before the data arrives, every address routed to port 0. -/
def badBufWaits : State := goneRound.updSlice 0 fun x => { x with trk := [(0, badBufWrite)], arr := {} }

/-- POISON of merging-buffer entry 0 of slice 0 after a step. -/
def poisonAfter : Res → Option Bool
  | .next u => some ((u.slice 0).mbE 0).poison
  | _ => none

theorem receives_goneData_badBuf : badBufWaits.receives 0 (encode goneData) goneData := by decide +kernel

/-- The check of the line buffer fails, and the data enters the merging buffer with POISON (07 Table 07-4). -/
theorem poisonAfter_goneData : poisonAfter (exec (.datWb 0 (encode goneData)) badBufWaits) = some true := by decide +kernel

/-- Refutes O46: the statement has the POISON of a WrFull's data kept, and nowhere asks that the parity of its tracker's line buffer
is good; data sent without POISON that fails that check enters the merging buffer with POISON (07 Table 07-4). -/
theorem not_sliceAnswers : ¬ Obligations.SliceAnswers := by
  intro h
  obtain ⟨-, hdata, -⟩ := h badBufWaits 0 (encode goneData) goneData badBufWrite (by decide +kernel) (by decide +kernel)
    receives_goneData_badBuf (by decide +kernel) rfl rfl rfl rfl
  obtain ⟨u, hu, -, -, -, -, -, hpoison⟩ := hdata 0 0 rfl rfl rfl rfl rfl rfl (by decide) rfl rfl (by decide +kernel)
    (by decide +kernel) (by decide +kernel)
  have hpoisoned : poisonAfter (.next u) = some true := (congrArg poisonAfter hu).symm.trans poisonAfter_goneData
  have hkept : poisonAfter (.next u) = some false := congrArg some hpoison
  exact absurd (hpoisoned.symm.trans hkept) (by decide)

end Sys2Proof.Machine
end

section
/-! SUPPORT. A soft request for a line whose entry names a retiring agent (09 R248, 14 R369): what its Rest leaves. -/

namespace Sys2Proof.Machine

/-- A soft RdOwn of agent 5 for line 0, ready to be decided. -/
def softRead : Tracker :=
  { kind := .msg .rdOwn, pool := .shared, age := 0, src := 5, rqtx := 9, addr := 0, soft := true, stage := .ready }

/-- Line 0 shared by agents 6 and 7. -/
def sharedEntry : FineEntry := (({} : FineEntry).setS [6, 7] 0).withTag 0

/-- Slice 0 before the decision; the retire of agent 7 runs. -/
def retiringSharer : State :=
  (State.reset.updSpine fun x => { x with
    jobs := [{ id := 4, cmd := none, kind := .agentRetire 7 0 false }] }).updSlice 0 fun x => { x with
    adm := [(5, 3), (6, 3), (7, 3)], trk := [(0, softRead)]
    arr := { x.arr with fine := [(0, encFine sharedEntry)] } }

/-- The fine filter of slice 0 after a step. -/
def fineAfter : Res → Option (Map Entry)
  | .next u => some (u.slice 0).arr.fine
  | _ => none

theorem lookup_retiringSharer : (retiringSharer.lookup 0 0).res = .s := by decide +kernel
theorem decides_retiringSharer : retiringSharer.decides 0 0 softRead := by decide +kernel

theorem fineAfter_softRead :
    fineAfter (exec (.transactionDecision 0 0) retiringSharer) = some [(0, encFine ((({} : FineEntry).setS [6] 0).withTag 0))] := by
  decide +kernel

/-- Refutes O44: a Rest SOFT does not leave every entry. The end of the transaction passes its line through Table 09-4 (09 R248), and
an entry in S that names a retiring agent is written without it. -/
theorem not_decisionActs : ¬ Obligations.DecisionActs := by
  intro h
  obtain ⟨-, -, -, hsoft, -⟩ := h retiringSharer 0 0 softRead .rdOwn decides_retiringSharer rfl
  obtain ⟨-, -, -, -, -, hrest⟩ := hsoft rfl (by decide +kernel)
  obtain ⟨u, hu, -, -, hleft⟩ := hrest (.inl ⟨rfl, by decide +kernel, .inl (by decide +kernel)⟩)
  obtain ⟨hfine, -⟩ := hleft (by decide +kernel)
  have hwritten := (congrArg fineAfter hu).symm.trans fineAfter_softRead
  have hkept : fineAfter (.next u) = some [(0, encFine sharedEntry)] := congrArg some (hfine.trans (by decide +kernel))
  exact absurd (hwritten.symm.trans hkept) (by decide +kernel)

end Sys2Proof.Machine
end

section
/-! SUPPORT. The work of a slice that writes no tracker (arrays, faults, records, credits, jobs): what it leaves of every slice, one
lemma for each operation. -/

namespace Sys2Proof.Machine

/-- What work that writes no tracker leaves of a slice: trackers, holds, fences and input buffer, and every fault noted. -/
structure Slice.Quiet (x y : Slice) : Prop where
  trk : y.trk = x.trk
  holds : y.holds = x.holds
  fences : y.fences = x.fences
  inBuf : y.inBuf = x.inBuf
  status : ∀ i, bit x.assay.status i = true → bit y.assay.status i = true

theorem Slice.Quiet.refl (x : Slice) : x.Quiet x := ⟨rfl, rfl, rfl, rfl, fun _ => id⟩

theorem Slice.Quiet.trans {x y z : Slice} (h : x.Quiet y) (g : y.Quiet z) : x.Quiet z :=
  ⟨g.trk.trans h.trk, g.holds.trans h.holds, g.fences.trans h.fences, g.inBuf.trans h.inBuf, fun i b => g.status i (h.status i b)⟩

/-- The table of slices stays canonical, no slice's trackers change, and no message leaves the mesh. -/
structure Quiet (s u : State) : Prop where
  canon : s.canon = true → u.canon = true
  mesh : ∀ m ∈ s.mesh, m ∈ u.mesh
  slices : s.canon = true → ∀ i, (s.slice i).Quiet (u.slice i)

theorem Quiet.refl (s : State) : Quiet s s := ⟨id, fun _ => id, fun _ i => .refl (s.slice i)⟩

theorem Quiet.trans {s t u : State} (h : Quiet s t) (g : Quiet t u) : Quiet s u :=
  ⟨fun c => g.canon (h.canon c), fun m hm => g.mesh m (h.mesh m hm), fun c i => (h.slices c i).trans (g.slices (h.canon c) i)⟩

/-- Work that writes no slice and takes nothing from the mesh. -/
theorem Quiet.of_slices {s u : State} (k : Keeps s u) (hs : u.slices = s.slices) (hm : ∀ m ∈ s.mesh, m ∈ u.mesh) : Quiet s u :=
  ⟨k.canon, hm, fun _ i => by rw [State.slice, State.slice, hs, k.par]; exact .refl _⟩

theorem quiet_updSlice (n : Nat) (f : Slice → Slice) (s : State) (hf : (s.slice n).Quiet (f (s.slice n))) : Quiet s (s.updSlice n f) := by
  refine ⟨State.canon_updSlice n f, fun _ => id, fun c i => ?_⟩
  by_cases h : i = n
  · rw [h, State.slice_updSlice_same n f c]; exact hf
  · rw [State.slice_updSlice_ne f c h]; exact .refl _

theorem quiet_setSlice (n : Nat) (x : Slice) (s : State) (hx : (s.slice n).Quiet x) : Quiet s (s.setSlice n x) :=
  quiet_updSlice n (fun _ => x) s hx

theorem Quiet.ite {s t u : State} {c : Prop} [Decidable c] (ht : Quiet s t) (hu : Quiet s u) : Quiet s (if c then t else u) := by
  split
  · exact ht
  · exact hu

theorem quiet_eachOf {α : Type} (l : List α) (f : α → State → State) (h : ∀ x s, Quiet s (f x s)) (s : State) : Quiet s (eachOf l f s) := by
  induction l generalizing s with
  | nil => exact .refl s
  | cons x r ih => exact (h x s).trans (ih (f x s))

theorem quiet_send (m : Msg) (s : State) : Quiet s (s.send m) :=
  .of_slices (keeps_send ..) rfl fun _ => List.mem_append_left _

theorem quiet_wire (w : Wire) (s : State) : Quiet s (s.wire w) := .of_slices (keeps_wire ..) rfl fun _ => id

theorem quiet_updSpine (f : Spine → Spine) (s : State) : Quiet s (s.updSpine f) := .of_slices (keeps_updSpine ..) rfl fun _ => id

theorem quiet_updFn (f : Nat) (g : Fn → Fn) (s : State) : Quiet s (s.updFn f g) := .of_slices (keeps_updFn ..) rfl fun _ => id

/-! ### Records, modes and faults -/

theorem quiet_feed (node : Nat) (r : HRec) (s : State) : Quiet s (s.feed node r) := by
  have hframe := feed_frame s node r
  exact .of_slices (keeps_feed ..) hframe.1 fun m hm => hframe.2.2.2.2.2.1 ▸ hm

theorem quiet_setConds (n : Nat) (f : Conds → Conds) (s : State) : Quiet s (s.setConds n f) := by
  have hconds (c : Conds) : Quiet s (s.updSlice n fun sl => { sl with conds := c }) :=
    quiet_updSlice _ _ _ ⟨rfl, rfl, rfl, rfl, fun _ => id⟩
  simp only [State.setConds]
  split
  · exact hconds _
  · exact (hconds _).trans (quiet_feed ..)

theorem quiet_trigger (src : Nat) (s : State) : Quiet s (s.trigger src) := by
  rw [State.trigger]
  exact .ite (.of_slices (keeps_updHall s fun h => { h with fatalDue := h.fatalDue + 1 }) rfl fun _ => id) (.refl s)

theorem quiet_endSequence (s : State) : Quiet s (endSequence s) := by
  rw [endSequence]; exact .ite (.refl s) (quiet_updSpine ..)

theorem quiet_holdSlice (n : Nat) (s : State) : Quiet s (holdSlice n s) := by
  have hhold (f : Conds → Conds) (g : Spine → Spine) : Quiet s ((s.setConds n f).updSpine g) :=
    (quiet_setConds ..).trans (quiet_updSpine ..)
  simp only [holdSlice]
  exact .ite (.refl s) (.ite ((hhold _ _).trans (quiet_endSequence _)) (hhold _ _))

/-- A fault noted leaves those noted before. -/
theorem bit_status_capture (a : Assay) (now base src : Nat) (sev : BitVec 2) (d : Detail) (i : Nat) (h : bit a.status i = true) :
    bit (a.capture now base src sev d).status i = true := by
  have hi : i < 64 := by
    rcases Nat.lt_or_ge i 64 with hlt | hge
    · exact hlt
    · rw [bit, BitVec.getLsbD_of_ge _ _ hge] at h; cases h
  rw [Assay.capture, bit_setBit _ _ _ _ hi]
  split
  · rfl
  · exact h

theorem quiet_raiseSlice (n src : Nat) (d : Detail) (s : State) : Quiet s (raiseSlice n src d s) := by
  unfold raiseSlice
  refine (quiet_trigger src s).trans ?_
  generalize s.trigger src = s
  have hnote (sev : BitVec 2) : Quiet s (s.updSlice n fun sl => { sl with assay := sl.assay.capture sl.hclk 0 src sev d }) :=
    quiet_updSlice _ _ _ ⟨rfl, rfl, rfl, rfl, fun i => bit_status_capture _ _ _ _ _ _ i⟩
  dsimp only
  split
  · exact ((hnote _).trans (quiet_feed ..)).trans (quiet_holdSlice ..)
  · exact (hnote _).trans (quiet_feed ..)

theorem quiet_injSlice (n src : Nat) (s : State) : Quiet s (injSlice n src s).2 := by
  rw [injSlice]; exact .ite (quiet_updSlice _ _ _ ⟨rfl, rfl, rfl, rfl, fun _ => id⟩) (.refl s)

theorem quiet_startDisable (n array way : Nat) (s : State) : Quiet s (startDisable n array way s) := by
  refine quiet_updSlice _ _ _ ?_
  split <;> exact ⟨rfl, rfl, rfl, rfl, fun _ => id⟩

theorem quiet_countWay (n array way : Nat) (d : Detail) (s : State) : Quiet s (countWay n array way d s) := by
  have hcount (f : Slice → Map WayCount) : Quiet s (s.updSlice n fun sl => { sl with wayErr := f sl }) :=
    quiet_updSlice _ _ _ ⟨rfl, rfl, rfl, rfl, fun _ => id⟩
  simp only [countWay]
  exact .ite (((hcount _).trans (quiet_raiseSlice ..)).trans (quiet_startDisable ..)) (hcount _)

theorem quiet_arrayError (n src array way : Nat) (d : Detail) (s : State) : Quiet s (arrayError n src array way d s) :=
  (quiet_raiseSlice ..).trans (quiet_countWay ..)

/-! ### Energy, slots and times -/

theorem quiet_bill (n : Nat) (c : Bill) (s : State) : Quiet s (bill n c s) := by
  simp only [bill]; exact quiet_updSlice _ _ _ ⟨rfl, rfl, rfl, rfl, fun _ => id⟩

theorem quiet_useSlot (n : Nat) (s : State) : Quiet s (useSlot n s) := quiet_updSlice _ _ _ ⟨rfl, rfl, rfl, rfl, fun _ => id⟩

theorem quiet_ownSlot (n : Nat) (s : State) : Quiet s (ownSlot n s) := (quiet_useSlot ..).trans (quiet_bill ..)

theorem quiet_useTray (n : Nat) (s : State) : Quiet s (useTray n s) := (quiet_useSlot ..).trans (quiet_useSlot ..)

theorem quiet_addLat (n : Nat) (k : Tracker) (s : State) : Quiet s (addLat n k s) := by
  rw [addLat]
  split
  · exact .ite (quiet_updSlice _ _ _ ⟨rfl, rfl, rfl, rfl, fun _ => id⟩) (.refl s)
  · exact .refl s

/-- A change made to a slice and to the target of its copy. -/
theorem quiet_withPeer (n : Nat) (f : Slice → Slice) (s : State) (hf : ∀ x : Slice, x.Quiet (f x)) : Quiet s (withPeer n f s) := by
  rw [withPeer]
  split
  · exact (quiet_updSlice _ _ _ (hf _)).trans (quiet_updSlice _ _ _ (hf _))
  · exact quiet_updSlice _ _ _ (hf _)

theorem quiet_touchFine (n : Nat) (c : Option (BitVec 4)) (way : Nat) (s : State) : Quiet s (touchFine n c way s) := by
  cases c with
  | none => exact .refl s
  | some c => exact quiet_withPeer _ _ _ fun _ => ⟨rfl, rfl, rfl, rfl, fun _ => id⟩

theorem quiet_touchLoaf (n : Nat) (c : Option (BitVec 4)) (way : Nat) (s : State) : Quiet s (touchLoaf n c way s) := by
  cases c with
  | none => exact .refl s
  | some c => exact quiet_withPeer _ _ _ fun _ => ⟨rfl, rfl, rfl, rfl, fun _ => id⟩

theorem quiet_touchHlc (n : Nat) (c : Option (BitVec 4)) (way : Nat) (s : State) : Quiet s (touchHlc n c way s) := by
  cases c with
  | none => exact .refl s
  | some c => exact quiet_withPeer _ _ _ fun _ => ⟨rfl, rfl, rfl, rfl, fun _ => id⟩

theorem quiet_countLine (n : Nat) (a : PA) (s : State) : Quiet s (countLine n a s) := by
  refine quiet_withPeer _ _ _ fun x => ?_
  dsimp only
  split <;> exact ⟨rfl, rfl, rfl, rfl, fun _ => id⟩

theorem quiet_countEvents (n : Nat) (k : Tracker) (f : Fin) (s : State) : Quiet s (countEvents n k f s) := by
  simp only [countEvents]
  exact .ite (.refl s) (.ite (quiet_countLine ..) (.refl s))

/-! ### Array writes -/

theorem quiet_mirrorSend (n : Nat) (key : Bool × Nat × Nat) (w : Wire) (s : State) : Quiet s (mirrorSend n key w s) := by
  rcases mirrorSend_cases n key w s with ⟨_, _, e⟩ | ⟨_, e⟩ <;> rw [e]
  · refine (quiet_setSlice _ _ _ ?_).trans (quiet_wire ..)
    exact ⟨rfl, rfl, rfl, rfl, fun _ => id⟩
  · exact quiet_setSlice _ _ _ ⟨rfl, rfl, rfl, rfl, fun _ => id⟩

theorem quiet_writeFineW (n set way : Nat) (x : Entry) (s : State) : Quiet s (writeFineW n set way x s) := by
  have hput : Quiet s (s.setSlice n ((s.slice n).putFine set way x)) := quiet_setSlice _ _ _ ⟨rfl, rfl, rfl, rfl, fun _ => id⟩
  simp only [writeFineW]
  split
  · exact hput.trans (quiet_mirrorSend ..)
  · exact hput

theorem quiet_writeLoafW (n set way : Nat) (x : Entry) (s : State) : Quiet s (writeLoafW n set way x s) := by
  have hput : Quiet s (s.setSlice n ((s.slice n).putLoaf set way x)) := quiet_setSlice _ _ _ ⟨rfl, rfl, rfl, rfl, fun _ => id⟩
  simp only [writeLoafW]
  split
  · exact hput.trans (quiet_mirrorSend ..)
  · exact hput

theorem quiet_freeFine (n set way : Nat) (s : State) : Quiet s (freeFine n set way s) := quiet_writeFineW ..

theorem quiet_writeLoaf (n set way : Nat) (e : LoafEntry) (s : State) : Quiet s (writeLoaf n set way e s) := quiet_writeLoafW ..

theorem quiet_dropHlc (n set way : Nat) (s : State) : Quiet s (s.updSlice n (·.dropHlc set way)) :=
  quiet_updSlice _ _ _ ⟨rfl, rfl, rfl, rfl, fun _ => id⟩

theorem quiet_dropCopy (n : Nat) (a : PA) (s : State) : Quiet s (dropCopy n a s) := by
  rw [dropCopy]
  split
  · exact quiet_dropHlc ..
  · exact .refl s

theorem quiet_notePoison (a : PA) (s : State) : Quiet s (notePoison a s) := quiet_updSpine ..

theorem quiet_countScrub (e : FineEntry) (s : State) : Quiet s (countScrub e s) := quiet_updSpine ..

theorem quiet_writeFine (n : Nat) (a : PA) (way : Nat) (e : FineEntry) (s : State) : Quiet s (writeFine n a way e s) := by
  simp only [writeFine]
  generalize (if (scrubAll s.scrubbing (e.withTag a)).1.free then 0 else encFine (scrubAll s.scrubbing (e.withTag a)).1) = x
  have hwrite : Quiet s (writeFineW n (fineSet a) way x s) := quiet_writeFineW ..
  have hnote (c : Bool) : Quiet s (if c = true then notePoison a (writeFineW n (fineSet a) way x s)
      else writeFineW n (fineSet a) way x s) := .ite (hwrite.trans (quiet_notePoison ..)) hwrite
  exact .ite (((hnote _).trans (quiet_dropCopy ..)).trans (quiet_countScrub ..)) (hnote _)

theorem quiet_clearPres (n : Nat) (a : PA) (s : State) : Quiet s (clearPres n a s) := by
  simp only [clearPres]
  split
  · exact .ite (quiet_writeLoaf ..) (.refl s)
  · exact .refl s

end Sys2Proof.Machine
end

section
/-! SUPPORT. Suspect sets, censuses, abandoned moves and parity errors write no tracker (02 R56 to R59, 08 R226). -/

namespace Sys2Proof.Machine

theorem quiet_requestCensus (n : Nat) (bs : List Nat) (s : State) : Quiet s (requestCensus n bs s) := by
  have hcensus (f : Slice → List Census) : Quiet s (s.updSlice n fun sl => { sl with census := f sl }) :=
    quiet_updSlice _ _ _ ⟨rfl, rfl, rfl, rfl, fun _ => id⟩
  simp only [requestCensus]
  exact .ite ((hcensus _).trans (quiet_setConds ..)) (hcensus _)

theorem quiet_startPurge (n : Nat) (l : List Mv) (s : State) : Quiet s (startPurge n l s) := by
  simp only [startPurge]; exact quiet_updSlice _ _ _ ⟨rfl, rfl, rfl, rfl, fun _ => id⟩

theorem quiet_endMoves (n : Nat) (s : State) : Quiet s (endMoves n s) := by
  simp only [endMoves]
  split
  · exact .refl s
  · refine (quiet_updSlice _ _ _ ?_).trans (quiet_startPurge ..)
    exact ⟨rfl, rfl, rfl, rfl, fun _ => id⟩

theorem quiet_setBkt (n b : Nat) (e : BktEntry) (s : State) : Quiet s (s.setBkt n b e) :=
  quiet_updSlice _ _ _ ⟨rfl, rfl, rfl, rfl, fun _ => id⟩

theorem quiet_setMaster (b : Nat) (e : MasterEntry) (s : State) : Quiet s (s.setMaster b e) := quiet_updSpine ..

theorem quiet_abandonMove (n b : Nat) (s : State) : Quiet s (abandonMove n b s) := by
  simp only [abandonMove]
  split
  · exact .refl s
  · refine Quiet.trans ?_ (quiet_endMoves ..)
    refine Quiet.trans ?_ (quiet_startPurge ..)
    refine Quiet.trans ?_ (quiet_updSpine ..)
    refine Quiet.trans ?_ (quiet_setMaster ..)
    refine Quiet.trans ?_ (quiet_setBkt ..)
    exact quiet_updSlice _ _ _ ⟨rfl, rfl, rfl, rfl, fun _ => id⟩

theorem quiet_abandonAll (n : Nat) (s : State) : Quiet s (abandonAll n s) := by
  simp only [abandonAll]
  split
  · exact .refl s
  · exact quiet_eachOf _ _ (fun _ _ => quiet_abandonMove ..) s

theorem quiet_noteFine (n set : Nat) (bs : List Nat) (s : State) : Quiet s (noteFine n set bs s) := by
  have hnote (x : Suspects) : Quiet s (s.updSlice n fun sl => { sl with susFine := x }) :=
    quiet_updSlice _ _ _ ⟨rfl, rfl, rfl, rfl, fun _ => id⟩
  simp only [noteFine]
  exact .ite ((hnote _).trans (quiet_raiseSlice ..)) (hnote _)

theorem quiet_noteLoaf (n set : Nat) (bs : List Nat) (s : State) : Quiet s (noteLoaf n set bs s) := by
  have hnote (x : Suspects) : Quiet s (s.updSlice n fun sl => { sl with susLoaf := x }) :=
    quiet_updSlice _ _ _ ⟨rfl, rfl, rfl, rfl, fun _ => id⟩
  simp only [noteLoaf]
  exact .ite ((hnote _).trans (quiet_raiseSlice ..)) (hnote _)

theorem quiet_suspectFine (n set : Nat) (s : State) : Quiet s (suspectFine n set s) := by
  simp only [suspectFine]
  refine Quiet.trans ?_ ((quiet_requestCensus ..).trans (quiet_abandonAll ..))
  split
  · exact (quiet_noteFine ..).trans (quiet_noteFine ..)
  · exact quiet_noteFine ..

theorem quiet_suspectLoaf (n set : Nat) (s : State) : Quiet s (suspectLoaf n set s) := by
  simp only [suspectLoaf]
  refine Quiet.trans ?_ ((quiet_requestCensus ..).trans (quiet_abandonAll ..))
  split
  · exact (quiet_noteLoaf ..).trans (quiet_noteLoaf ..)
  · exact quiet_noteLoaf ..

theorem quiet_unpin (n : Nat) (a : PA) (s : State) : Quiet s (unpin n a s) := by
  rw [unpin]
  split
  · exact quiet_updSlice _ _ _ ⟨rfl, rfl, rfl, rfl, fun _ => id⟩
  · exact .refl s

theorem quiet_unpinLost (n set : Nat) (s : State) : Quiet s (unpinLost n set s) := quiet_eachOf _ _ (fun _ _ => quiet_unpin ..) s

theorem quiet_enterU (n : Nat) (a : PA) (way : Nat) (s : State) : Quiet s (enterU n a way s) := by
  simp only [enterU]
  refine Quiet.trans ?_ ((quiet_requestCensus ..).trans (quiet_abandonMove ..))
  refine Quiet.trans ?_ (quiet_updSlice _ _ _ ⟨rfl, rfl, rfl, rfl, fun _ => id⟩)
  exact Quiet.trans (.ite (quiet_unpin ..) (.refl s)) (quiet_writeFine ..)

theorem quiet_fineTagError (n set way w : Nat) (inj : Bool) (s : State) : Quiet s (fineTagError n set way w inj s) := by
  simp only [fineTagError]
  refine Quiet.trans ?_ (quiet_suspectFine ..)
  refine Quiet.trans ?_ (quiet_unpinLost ..)
  refine Quiet.trans ?_ (quiet_freeFine ..)
  exact quiet_arrayError ..

theorem quiet_fineDataError (n set way w : Nat) (inj : Bool) (s : State) : Quiet s (fineDataError n set way w inj s) := by
  simp only [fineDataError]
  refine Quiet.trans ?_ (quiet_enterU ..)
  exact quiet_arrayError ..

theorem quiet_checkFine (n set way w : Nat) (s : State) : Quiet s (checkFine n set way w s).2 := quiet_injSlice ..

theorem quiet_readFine (n set way : Nat) (s : State) : Quiet s (readFine n set way s) := by
  simp only [readFine]
  refine (quiet_checkFine n set way 1 s).trans ?_
  generalize checkFine n set way 1 s = r1
  refine (quiet_checkFine n set way 2 r1.2).trans ?_
  generalize checkFine n set way 2 r1.2 = r2
  refine (quiet_checkFine n set way 3 r2.2).trans ?_
  generalize checkFine n set way 3 r2.2 = r3
  refine .ite (Quiet.trans (.ite (quiet_arrayError ..) (.refl _)) (quiet_fineTagError ..)) ?_
  exact .ite (quiet_fineDataError ..) (.ite (quiet_fineDataError ..) (.refl _))

theorem quiet_checkLoaf (n set way w : Nat) (s : State) : Quiet s (checkLoaf n set way w s).2 := quiet_injSlice ..

theorem quiet_loafDataError (n set way w : Nat) (inj : Bool) (s : State) : Quiet s (loafDataError n set way w inj s) := by
  simp only [loafDataError]
  exact (quiet_arrayError ..).trans (.ite (quiet_writeLoafW ..) ((quiet_writeLoaf ..).trans (quiet_requestCensus ..)))

theorem quiet_probeLoaf (n set way : Nat) (s : State) : Quiet s (probeLoaf n set way s) := by
  simp only [probeLoaf]
  refine (quiet_checkLoaf n set way 0 s).trans ?_
  generalize checkLoaf n set way 0 s = r0
  refine (quiet_checkLoaf n set way 1 r0.2).trans ?_
  generalize checkLoaf n set way 1 r0.2 = r1
  refine (quiet_checkLoaf n set way 2 r1.2).trans ?_
  generalize checkLoaf n set way 2 r1.2 = r2
  refine (quiet_checkLoaf n set way 3 r2.2).trans ?_
  generalize checkLoaf n set way 3 r2.2 = r3
  refine .ite ?_ (.ite (quiet_loafDataError ..) (.ite (quiet_loafDataError ..) (.refl _)))
  refine Quiet.trans ?_ ((quiet_writeLoafW ..).trans (quiet_suspectLoaf ..))
  refine Quiet.trans ?_ (quiet_arrayError ..)
  exact .ite (quiet_arrayError ..) (.refl _)

/-! ### Loaves, the merging buffer's marks, the HLC and the trays -/

theorem quiet_noteReport (n : Nat) (a : PA) (groups : BitVec 16) (owner : Bool) (s : State) : Quiet s (noteReport n a groups owner s) :=
  quiet_updSlice _ _ _ ⟨rfl, rfl, rfl, rfl, fun _ => id⟩

theorem quiet_addToLoaf (n : Nat) (a : PA) (way : Nat) (groups : BitVec 16) (owner : Bool) (s : State) :
    Quiet s (addToLoaf n a way groups owner s) :=
  (quiet_noteReport ..).trans (quiet_writeLoafW ..)

theorem quiet_homeLoaf (n : Nat) (a : PA) (w : Nat) (c : BitVec 4) (s : State) : Quiet s (homeLoaf n a w c s).1 := by
  rw [homeLoaf]
  split
  · exact .refl s
  · exact quiet_writeLoafW ..

theorem quiet_holdInLoaf (n : Nat) (a : PA) (w : Nat) (c : BitVec 4) (groups : BitVec 16) (owner : Bool) (s : State) :
    Quiet s (holdInLoaf n a w c groups owner s) := by
  simp only [holdInLoaf]
  exact (quiet_homeLoaf ..).trans (.ite ((quiet_noteReport ..).trans (quiet_writeLoafW ..)) (quiet_addToLoaf ..))

theorem Slice.Quiet.urge (x : Slice) (l : List (Nat × MbEntry)) : x.Quiet (urge.eachMb x l) := by
  rw [urge.eachMb]
  induction l generalizing x with
  | nil => exact .refl x
  | cons kv r ih => exact Slice.Quiet.trans (y := x.putMb kv.1 _) ⟨rfl, rfl, rfl, rfl, fun _ => id⟩ (ih _)

theorem quiet_urge (n : Nat) (a : PA) (s : State) : Quiet s (urge n a s) := quiet_updSlice _ _ _ (.urge ..)

theorem quiet_fillHlc (n : Nat) (a : PA) (way : Nat) (d : Line) (pfu : Bool) (req : Option (BitVec 4)) (s : State) :
    Quiet s (fillHlc n a way d pfu req s) := by
  simp only [fillHlc]
  refine (quiet_updSlice _ _ _ ?_).trans (quiet_touchHlc ..)
  split <;> split <;> exact ⟨rfl, rfl, rfl, rfl, fun _ => id⟩

theorem quiet_updateHlc (n t : Nat) (a : PA) (w : WriteData) (c : BitVec 4) (req : Option (BitVec 4)) (s : State) :
    Quiet s (updateHlc n t a w c req s) := by
  simp only [updateHlc]
  refine .ite (.refl s) (.ite (quiet_dropCopy ..) ?_)
  split
  · refine (quiet_updSlice _ _ _ ?_).trans (quiet_touchHlc ..)
    exact ⟨rfl, rfl, rfl, rfl, fun _ => id⟩
  · refine .ite ?_ (.refl s)
    split
    · exact quiet_fillHlc ..
    · exact .refl s

theorem quiet_writeTray (n : Nat) (p : TrayPlace) (x : TrayLine) (s : State) : Quiet s (writeTray n p x s) := by
  rw [writeTray]
  exact .ite (quiet_withPeer _ _ _ fun _ => ⟨rfl, rfl, rfl, rfl, fun _ => id⟩) (quiet_updSlice _ _ _ ⟨rfl, rfl, rfl, rfl, fun _ => id⟩)

theorem quiet_readCw (n : Nat) (p : TrayPlace) (a : PA) (i : Nat) (s : State) : Quiet s (readCw n p a i s).1 := by
  simp only [readCw]
  refine (quiet_injSlice n 0x09 s).trans ?_
  generalize injSlice n 0x09 s = r9
  refine (quiet_injSlice n 0x0A r9.2).trans ?_
  generalize injSlice n 0x0A r9.2 = rA
  split
  · dsimp only; exact quiet_raiseSlice ..
  · split
    · dsimp only; exact (quiet_raiseSlice ..).trans (quiet_writeTray ..)
    · exact .refl _

theorem quiet_readCws (n : Nat) (p : TrayPlace) (a : PA) (l : List Nat) (s : State) : Quiet s (readCws n p a l s).1 := by
  induction l generalizing s with
  | nil => exact .refl s
  | cons i r ih => exact (quiet_readCw ..).trans (ih _)

theorem quiet_trayRead (n : Nat) (p : TrayPlace) (a : PA) (s : State) : Quiet s (trayRead n p a s).1 := quiet_readCws ..

/-! ### Jobs and censuses -/

theorem quiet_completeCmd (fn idx : Nat) (code : BitVec 8) (result : Nat) (s : State) : Quiet s (completeCmd fn idx code result s) := by
  simp only [completeCmd]
  split
  · exact .refl s
  · exact .ite ((quiet_updFn ..).trans (quiet_updFn ..)) ((quiet_updFn ..).trans (quiet_feed ..))

theorem quiet_updJob (id : Nat) (f : JobKind → JobKind) (s : State) : Quiet s (s.updJob id f) := quiet_updSpine ..

theorem quiet_finishJob (id : Nat) (code : BitVec 8) (result : Nat) (s : State) : Quiet s (finishJob id code result s) := by
  simp only [finishJob]
  split
  · exact .refl s
  · have hdrop : Quiet s (s.dropJob id) := quiet_updSpine ..
    split
    · exact hdrop.trans (quiet_completeCmd ..)
    · exact hdrop

theorem quiet_modeSetEnded (n t : Nat) (s : State) : Quiet s (modeSetEnded n t s) := by
  refine quiet_eachOf _ _ (fun j s => ?_) s
  dsimp only
  split
  · exact .ite (.refl s) (.ite (quiet_finishJob ..) (quiet_updJob ..))
  · exact .refl s

theorem quiet_rangeLine (job : Nat) (f : JobKind → JobKind) (s : State) : Quiet s (rangeLine job f s) := by
  simp only [rangeLine]
  split
  · exact .ite ((quiet_updJob ..).trans (quiet_finishJob ..)) (quiet_updJob ..)
  · exact quiet_updJob ..

theorem quiet_endOrder (k : Tracker) (toP : Bool) (s : State) : Quiet s (endOrder k toP s) := by
  simp only [endOrder]
  split
  · exact quiet_rangeLine ..
  · exact quiet_finishJob ..
  · exact .refl s

theorem quiet_completeFine (n : Nat) (a : PA) (s : State) : Quiet s (completeFine n a s) := by
  simp only [completeFine]
  split
  · exact .refl s
  · exact .ite (.refl s) (.ite (.ite (quiet_writeFine ..) (quiet_writeFine ..)) (.ite (quiet_freeFine ..) (quiet_writeFine ..)))

theorem quiet_completeLoaf (n : Nat) (c : Census) (kept : List PA) (p : Nat × Nat) (s : State) : Quiet s (completeLoaf n c kept p s) := by
  simp only [completeLoaf]
  exact .ite (quiet_writeLoaf ..) (quiet_writeLoaf ..)

theorem quiet_completeLine (n : Nat) (a : PA) (c : Census) (s : State) : Quiet s (completeLine n a c s) := by
  simp only [completeLine]
  refine (quiet_completeFine n a s).trans ?_
  split
  · exact .ite (quiet_completeLoaf ..) (.refl _)
  · exact .refl _

theorem quiet_censusLeft (n : Nat) (a : PA) (s : State) : Quiet s (censusLeft n a s) := by
  simp only [censusLeft]
  split
  · refine (quiet_completeLine ..).trans (quiet_updSlice _ _ _ ?_)
    exact ⟨rfl, rfl, rfl, rfl, fun _ => id⟩
  · exact .refl s

theorem quiet_scrubLeft (n : Nat) (a : PA) (s : State) : Quiet s (scrubLeft n a s) := by
  simp only [scrubLeft]
  split
  · exact .ite (quiet_writeFine ..) (.refl s)
  · exact .refl s


end Sys2Proof.Machine
end

section
/-! SUPPORT. Trackers that an event cannot free: what becomes of a tracker in quarantine (04 R135) while the slice works on, and
of one whose transaction is still open while no transaction ends. -/

namespace Sys2Proof.Machine

/-! ### The tracker tables -/

theorem mfind_mins_ne {α : Type} {m : Map α} {i k : Nat} (v : α) (h : i ≠ k) : mfind (mins m k v) i = mfind m i := by
  induction m with
  | nil => simp only [mins, mfind]; rw [if_neg (Ne.symm h)]; split <;> rfl
  | cons x r ih =>
    obtain ⟨j, w⟩ := x
    simp only [mins]
    split
    · next hk =>
      simp only [mfind]
      by_cases hi : i < k
      · rw [if_neg (Ne.symm h), if_pos hi, if_neg (by omega), if_pos (by omega)]
      · rw [if_neg (Ne.symm h), if_neg hi]
    · split
      · next hj => subst hj; simp only [mfind]; rw [if_neg (Ne.symm h), if_neg (Ne.symm h)]
      · simp only [mfind]; rw [ih]

theorem mfind_mdel_ne {α : Type} {lo : Nat} {m : Map α} {i k : Nat} (hm : mrising lo m = true) (h : i ≠ k) :
    mfind (mdel m k) i = mfind m i := by
  induction m generalizing lo with
  | nil => rfl
  | cons x r ih =>
    obtain ⟨j, w⟩ := x
    obtain ⟨-, hr⟩ := (mrising_cons ..).1 hm
    simp only [mdel]
    split
    · next hj =>
      subst hj
      simp only [mfind]
      rw [if_neg (Ne.symm h)]
      split
      · next hi =>
        cases r with
        | nil => rfl
        | cons y r' =>
          obtain ⟨l, _⟩ := y
          obtain ⟨hl, -⟩ := (mrising_cons ..).1 hr
          simp only [mfind]; rw [if_neg (by omega), if_pos (by omega)]
      · rfl
    · simp only [mfind]; rw [ih hr]

theorem mfind_below {α : Type} {lo k : Nat} {m : Map α} (hm : mrising lo m = true) (h : k < lo) : mfind m k = none := by
  cases m with
  | nil => rfl
  | cons x r =>
    obtain ⟨hj, -⟩ := (mrising_cons lo x.1 x.2 r).1 hm
    simp only [mfind]; rw [if_neg (by omega), if_pos (by omega)]

theorem mfind_mdel_same {α : Type} {lo : Nat} {m : Map α} (k : Nat) (hm : mrising lo m = true) : mfind (mdel m k) k = none := by
  induction m generalizing lo with
  | nil => rfl
  | cons x r ih =>
    obtain ⟨j, w⟩ := x
    obtain ⟨-, hr⟩ := (mrising_cons ..).1 hm
    simp only [mdel]
    split
    · next hj => exact mfind_below hr (by omega)
    · next hj =>
      simp only [mfind]; rw [if_neg hj]
      split
      · rfl
      · exact ih hr

theorem mfind_of_mem {α : Type} {lo : Nat} {m : Map α} {k : Nat} {v : α} (hm : mrising lo m = true) (h : (k, v) ∈ m) : mfind m k = some v := by
  induction m generalizing lo with
  | nil => cases h
  | cons x r ih =>
    obtain ⟨j, w⟩ := x
    obtain ⟨-, hr⟩ := (mrising_cons ..).1 hm
    rcases List.mem_cons.1 h with he | hin
    · cases he; simp [mfind]
    · have hk := ih hr hin
      have hjk : j < k := Nat.lt_of_not_le fun hle => by
        rw [mfind_below hr (by omega)] at hk; cases hk
      simp only [mfind]; rw [if_neg (by omega), if_neg (by omega)]; exact hk

theorem mfind_mins_self {α : Type} (m : Map α) (k : Nat) (v : α) : mfind (mins m k v) k = some v := by
  induction m with
  | nil => simp [mins, mfind]
  | cons y r ih =>
    obtain ⟨j, w⟩ := y
    simp only [mins]
    split
    · simp [mfind]
    · split
      · simp [mfind]
      · simp only [mfind]; rw [if_neg (by omega), if_neg (by omega)]; exact ih

theorem Slice.tracker_putTrk_same (x : Slice) (t : Nat) (k : Tracker) : (x.putTrk t k).tracker t = some k := mfind_mins_self ..

theorem Slice.tracker_putTrk_ne (x : Slice) {i t : Nat} (k : Tracker) (h : i ≠ t) : (x.putTrk t k).tracker i = x.tracker i :=
  mfind_mins_ne k h

theorem Slice.tracker_dropTrk_ne {x : Slice} {i t : Nat} (hx : mrising 0 x.trk = true) (h : i ≠ t) :
    (x.dropTrk t).tracker i = x.tracker i := mfind_mdel_ne hx h

theorem Slice.tracker_updTrk_same (x : Slice) (t : Nat) (f : Tracker → Tracker) : (x.updTrk t f).tracker t = (x.tracker t).map f := by
  rw [Slice.updTrk]
  split
  · next k hk => rw [hk, Slice.tracker_putTrk_same]; rfl
  · next hk => rw [hk]; rfl

theorem Slice.tracker_updTrk_ne (x : Slice) {i t : Nat} (f : Tracker → Tracker) (h : i ≠ t) :
    (x.updTrk t f).tracker i = x.tracker i := by
  rw [Slice.updTrk]
  split
  · exact Slice.tracker_putTrk_ne x _ h
  · rfl

theorem Slice.rising_updTrk (x : Slice) (t : Nat) (f : Tracker → Tracker) (hx : mrising 0 x.trk = true) :
    mrising 0 (x.updTrk t f).trk = true := by
  rw [Slice.updTrk]
  split
  · exact mrising_mins _ (Nat.zero_le _) hx
  · exact hx

/-- A tracker's update writes nothing of the slice but the trackers. -/
theorem Slice.updTrk_eq (x : Slice) (t : Nat) (f : Tracker → Tracker) : x.updTrk t f = { x with trk := (x.updTrk t f).trk } := by
  rw [Slice.updTrk]; split <;> rfl

theorem State.trk_updTrk {s : State} (n t : Nat) (f : Tracker → Tracker) (h : s.canon = true) :
    (s.updTrk n t f).trk n t = (s.trk n t).map f := by
  rw [State.trk, State.updTrk, State.slice_updSlice_same n _ h]; exact Slice.tracker_updTrk_same ..

/-- An invariant that what is done for each member of a list keeps. -/
theorem eachOf_inv_mem {α : Type} {P : State → Prop} {l : List α} {f : α → State → State} {s : State}
    (h : ∀ x ∈ l, ∀ u, P u → P (f x u)) (hs : P s) : P (eachOf l f s) := by
  induction l generalizing s with
  | nil => exact hs
  | cons x r ih => exact ih (fun y hy => h y (List.mem_cons_of_mem _ hy)) (h x List.mem_cons_self s hs)

/-! ### Trackers that stay -/

/-- The tracker serves no drain and is in quarantine or, where no transaction ends (`live`), its transaction is open. -/
def Tracker.held (live : Bool) (k : Tracker) : Prop := k.kind ≠ .msg .drainW ∧ (k.quar ≠ [] ∨ live = true ∧ k.stage ≠ .ended)

/-- What the slice's work makes of a tracker that stays: it goes on to wait for what it waited for, an ended transaction
does not open again, a stash answer given up is not awaited again, and its eviction slot neither enters nor leaves quarantine. -/
structure Tracker.Leads (live : Bool) (k x : Tracker) : Prop where
  kind : x.kind = k.kind
  quar : ∀ q ∈ k.quar, q ∈ x.quar
  ended : k.stage = .ended → x.stage = .ended
  stage : live = true → x.stage = k.stage
  stash : k.waitStash = false → x.waitStash = false
  slot : x.evict.any (·.quarantined) = k.evict.any (·.quarantined)

theorem Tracker.Leads.refl (live : Bool) (k : Tracker) : k.Leads live k := ⟨rfl, fun _ => id, id, fun _ => rfl, id, rfl⟩

theorem Tracker.Leads.of_eq {live : Bool} {k x : Tracker} (kind : x.kind = k.kind) (quar : x.quar = k.quar) (stage : x.stage = k.stage)
    (stash : x.waitStash = k.waitStash) (evict : x.evict = k.evict) : k.Leads live x :=
  ⟨kind, fun _ h => quar ▸ h, fun h => stage.trans h, fun _ => stage, fun h => stash.trans h, by rw [evict]⟩

theorem Tracker.Leads.trans {live : Bool} {k x y : Tracker} (h : k.Leads live x) (g : x.Leads live y) : k.Leads live y :=
  ⟨g.kind.trans h.kind, fun q hq => g.quar q (h.quar q hq), fun e => g.ended (h.ended e), fun l => (g.stage l).trans (h.stage l),
    fun w => g.stash (h.stash w), g.slot.trans h.slot⟩

theorem Tracker.Leads.held {live : Bool} {k x : Tracker} (h : k.Leads live x) (hk : k.held live) : x.held live := by
  refine ⟨h.kind ▸ hk.1, ?_⟩
  rcases hk.2 with hq | ⟨hl, hs⟩
  · obtain ⟨q, hin⟩ := List.exists_mem_of_ne_nil _ hq
    exact .inl (List.ne_nil_of_mem (h.quar q hin))
  · exact .inr ⟨hl, h.stage hl ▸ hs⟩

/-- What a slice's own work leaves: every tracker that stays, its fences and input buffer, and every fault noted. -/
structure Slice.Frame (live : Bool) (x y : Slice) : Prop where
  inBuf : y.inBuf = x.inBuf
  fences : y.fences = x.fences
  status : ∀ i, bit x.assay.status i = true → bit y.assay.status i = true
  rising : mrising 0 x.trk = true → mrising 0 y.trk = true
  trk : mrising 0 x.trk = true → ∀ t k, x.tracker t = some k → k.held live → ∃ k', y.tracker t = some k' ∧ k.Leads live k'

theorem Slice.Frame.refl (live : Bool) (x : Slice) : x.Frame live x :=
  ⟨rfl, rfl, fun _ => id, id, fun _ _ k hk _ => ⟨k, hk, .refl live k⟩⟩

theorem Slice.Frame.trans {live : Bool} {x y z : Slice} (h : x.Frame live y) (g : y.Frame live z) : x.Frame live z := by
  refine ⟨g.inBuf.trans h.inBuf, g.fences.trans h.fences, fun i b => g.status i (h.status i b), fun r => g.rising (h.rising r),
    fun r t k hk held => ?_⟩
  obtain ⟨k', hk', hlead⟩ := h.trk r t k hk held
  obtain ⟨k'', hk'', hlead'⟩ := g.trk (h.rising r) t k' hk' (hlead.held held)
  exact ⟨k'', hk'', hlead.trans hlead'⟩

theorem Slice.Quiet.frame {x y : Slice} (live : Bool) (h : x.Quiet y) : x.Frame live y :=
  ⟨h.inBuf, h.fences, h.status, fun r => h.trk ▸ r, fun _ t k hk _ => ⟨k, by rw [Slice.tracker, h.trk]; exact hk, .refl live k⟩⟩

/-- A tracker rewritten: one that stays must lead to what is written. -/
theorem Slice.Frame.updTrk {live : Bool} {x y : Slice} (h : x.Frame live y) (t : Nat) (f : Tracker → Tracker)
    (hf : ∀ k k', x.tracker t = some k → k.held live → y.tracker t = some k' → k.Leads live k' → k.Leads live (f k')) :
    x.Frame live (y.updTrk t f) := by
  rw [Slice.updTrk_eq]
  refine ⟨h.inBuf, h.fences, h.status, fun r => Slice.rising_updTrk y t f (h.rising r), fun r i k hk held => ?_⟩
  obtain ⟨k', hk', hlead⟩ := h.trk r i k hk held
  by_cases hi : i = t
  · subst hi
    exact ⟨f k', (Slice.tracker_updTrk_same y i f).trans (congrArg (Option.map f) hk'), hf k k' hk held hk' hlead⟩
  · exact ⟨k', (Slice.tracker_updTrk_ne y f hi).trans hk', hlead⟩

/-- A tracker allocated where none is. -/
theorem Slice.Frame.putTrk (live : Bool) {x : Slice} {t : Nat} (k : Tracker) (h : x.tracker t = none) : x.Frame live (x.putTrk t k) := by
  refine ⟨rfl, rfl, fun _ => id, fun r => mrising_mins _ (Nat.zero_le _) r, fun _ i k' hk' _ => ⟨k', ?_, .refl live k'⟩⟩
  have hi : i ≠ t := by rintro rfl; rw [h] at hk'; cases hk'
  rw [Slice.tracker_putTrk_ne x k hi]; exact hk'

/-- A tracker that need not stay freed. -/
theorem Slice.Frame.dropTrk {live : Bool} {x y : Slice} (h : x.Frame live y) (t : Nat)
    (ht : mrising 0 x.trk = true → ∀ k, x.tracker t = some k → ¬ k.held live) : x.Frame live (y.dropTrk t) := by
  refine ⟨h.inBuf, h.fences, h.status, fun r => mrising_mdel (h.rising r), fun r i k hk held => ?_⟩
  obtain ⟨k', hk', hlead⟩ := h.trk r i k hk held
  have hi : i ≠ t := by rintro rfl; exact ht r k hk held
  exact ⟨k', (Slice.tracker_dropTrk_ne (h.rising r) hi).trans hk', hlead⟩

/-- The frame of a slice's own work: of every slice, and nothing is taken from the mesh. -/
structure Frame (live : Bool) (s u : State) : Prop where
  canon : s.canon = true → u.canon = true
  mesh : ∀ m ∈ s.mesh, m ∈ u.mesh
  slices : s.canon = true → ∀ i, (s.slice i).Frame live (u.slice i)

section
variable {live : Bool}

theorem Frame.refl (s : State) : Frame live s s := ⟨id, fun _ => id, fun _ i => .refl live (s.slice i)⟩

theorem Frame.trans {s t u : State} (h : Frame live s t) (g : Frame live t u) : Frame live s u :=
  ⟨fun c => g.canon (h.canon c), fun m hm => g.mesh m (h.mesh m hm), fun c i => (h.slices c i).trans (g.slices (h.canon c) i)⟩

theorem Quiet.frame {s u : State} (h : Quiet s u) : Frame live s u := ⟨h.canon, h.mesh, fun c i => (h.slices c i).frame live⟩

theorem Frame.quiet {s t u : State} (h : Frame live s t) (g : Quiet t u) : Frame live s u := h.trans g.frame

theorem Frame.ite {s t u : State} {c : Prop} [Decidable c] (ht : Frame live s t) (hu : Frame live s u) :
    Frame live s (if c then t else u) := by
  split
  · exact ht
  · exact hu

theorem frame_eachOf {α : Type} (l : List α) (f : α → State → State) (h : ∀ x s, Frame live s (f x s)) (s : State) :
    Frame live s (eachOf l f s) := by
  induction l generalizing s with
  | nil => exact .refl s
  | cons x r ih => exact (h x s).trans (ih (f x s))

/-- A slice changed after other work: the change needs the frame from before that work only. -/
theorem Frame.updSlice {s u : State} (h : Frame live s u) (n : Nat) (f : Slice → Slice)
    (hf : (s.slice n).Frame live (u.slice n) → (s.slice n).Frame live (f (u.slice n))) : Frame live s (u.updSlice n f) := by
  refine ⟨fun c => State.canon_updSlice n f (h.canon c), h.mesh, fun c i => ?_⟩
  by_cases hi : i = n
  · rw [hi, State.slice_updSlice_same n f (h.canon c)]; exact hf (h.slices c n)
  · rw [State.slice_updSlice_ne f (h.canon c) hi]; exact h.slices c i

theorem Frame.updTrk {s u : State} (h : Frame live s u) (n t : Nat) (f : Tracker → Tracker)
    (hf : ∀ k x, s.trk n t = some k → k.held live → u.trk n t = some x → k.Leads live x → k.Leads live (f x)) :
    Frame live s (u.updTrk n t f) :=
  h.updSlice n _ fun g => g.updTrk t f hf

theorem frame_updTrk (n t : Nat) (f : Tracker → Tracker) (s : State) (hf : ∀ k, s.trk n t = some k → k.held live → k.Leads live (f k)) :
    Frame live s (s.updTrk n t f) :=
  (Frame.refl s).updTrk n t f fun k x hk held hx _ => by
    obtain rfl := Option.some.inj (hk.symm.trans hx); exact hf k hk held

/-- An update that every tracker that stays leads to, whatever came before. -/
theorem Frame.upd {s u : State} (h : Frame live s u) (n t : Nat) (f : Tracker → Tracker) (hf : ∀ k : Tracker, k.Leads live (f k)) :
    Frame live s (u.updTrk n t f) := h.trans (frame_updTrk n t f u fun k _ _ => hf k)

theorem Frame.dropTrk {s u : State} (h : Frame live s u) (n t : Nat)
    (ht : mrising 0 (s.slice n).trk = true → ∀ k, s.trk n t = some k → ¬ k.held live) : Frame live s (u.updSlice n (·.dropTrk t)) :=
  h.updSlice n _ fun g => g.dropTrk t ht

end

end Sys2Proof.Machine
end

section
/-! SUPPORT. Allocation, eviction and placement (02 R43 to R52, 04 R136) keep the trackers that stay: an eviction takes only a slot
that is empty. -/

namespace Sys2Proof.Machine

variable {live : Bool}

/-! ### Victims -/

/-- The walk ends at an eligible way when there is one. -/
theorem elig_treeWalk {m : Nat} (tree : BitVec m) (elig : Nat → Bool) (node lo k : Nat)
    (h : ∃ i, i < 2 ^ k ∧ elig (lo + i) = true) : elig (treeWalk tree elig node lo k) = true := by
  induction k generalizing node lo with
  | zero =>
    obtain ⟨i, hi, he⟩ := h
    obtain rfl : i = 0 := by simpa using hi
    exact he
  | succ k ih =>
    obtain ⟨i, hi, he⟩ := h
    have any_iff (f : Nat → Nat) : ((List.range (2 ^ k)).any fun i => elig (f i)) = true ↔ ∃ i, i < 2 ^ k ∧ elig (f i) = true := by
      simp [List.any_eq_true]
    simp only [treeWalk]
    split
    · next hlow =>
      refine ih _ _ ?_
      rw [← any_iff]
      rw [Bool.or_eq_true, Bool.not_eq_true', Bool.and_eq_true] at hlow
      rcases hlow with hhigh | ⟨hlow, -⟩
      · rw [any_iff]
        by_cases hk : i < 2 ^ k
        · exact ⟨i, hk, he⟩
        · refine absurd ((any_iff fun i => lo + 2 ^ k + i).2 ⟨i - 2 ^ k, by omega, ?_⟩) (by simp [hhigh])
          rw [show lo + 2 ^ k + (i - 2 ^ k) = lo + i by omega]; exact he
      · exact hlow
    · next hhigh =>
      refine ih _ _ ?_
      rw [← any_iff]
      simp only [Bool.or_eq_true, Bool.not_eq_true', not_or, Bool.not_eq_false] at hhigh
      exact hhigh.1

/-- The way picked among 2^k is eligible. -/
theorem elig_pickWay {m ways k w : Nat} {tree : BitVec m} {elig free : Nat → Bool} (hk : ways = 2 ^ k)
    (h : pickWay ways k tree elig free = some w) : elig w = true := by
  simp only [pickWay] at h
  split at h
  · next v hv =>
    obtain rfl := Option.some.inj h
    exact (Bool.and_eq_true _ _ ▸ List.find?_some hv : elig _ = true ∧ free _ = true).1
  · split at h
    · next hany =>
      obtain rfl := Option.some.inj h
      obtain ⟨i, hi, he⟩ := List.any_eq_true.1 hany
      exact elig_treeWalk _ _ _ _ _ ⟨i, hk ▸ List.mem_range.1 hi, by rw [Nat.zero_add]; exact he⟩
    · cases h

/-! ### Eviction slots -/

/-- A tracker whose slot is empty. -/
theorem evict_of_slotFree {s : State} {n t : Nat} {k : Tracker} (h : s.slotFree n t = true) (hk : s.trk n t = some k) : k.evict = none := by
  rw [State.slotFree, hk] at h; exact Option.isNone_iff_eq_none.1 h

/-- A slot that is empty, or not in quarantine, is given a victim. -/
theorem Tracker.Leads.setEvict {k x : Tracker} (e : Option Evict) (h : k.Leads live x) (hx : x.evict.any (·.quarantined) = false)
    (he : e.any (·.quarantined) = false) : k.Leads live { x with evict := e } :=
  ⟨h.kind, h.quar, h.ended, h.stage, h.stash, he.trans (hx.symm.trans h.slot)⟩

/-- A victim put into the empty slot of tracker t by work that wrote no tracker before. -/
theorem Quiet.fillSlot {s u : State} {n t : Nat} (e : Evict) (h : Quiet s u) (hs : s.slotFree n t = true) (he : e.quarantined = false) :
    Frame live s (u.updTrk n t fun k => { k with evict := some e }) := by
  refine ⟨fun c => State.canon_updSlice n _ (h.canon c), h.mesh, fun c i => ?_⟩
  have hi := h.slices c i
  by_cases hn : i = n
  · subst hn
    rw [State.updTrk, State.slice_updSlice_same i _ (h.canon c)]
    refine (hi.frame live).updTrk t _ fun k x hk _ hx hlead => hlead.setEvict _ ?_ he
    have hxs : s.trk i t = some x := (congrArg (mfind · t) hi.trk).symm.trans hx
    rw [evict_of_slotFree hs hxs]; rfl
  · rw [State.updTrk, State.slice_updSlice_ne _ (h.canon c) hn]; exact hi.frame live

theorem frame_evictLoaf (n t set way : Nat) (s : State) (h : s.slotFree n t = true) : Frame live s (evictLoaf n t set way s) :=
  (quiet_writeLoafW ..).fillSlot _ h rfl

theorem frame_evictFine (n t set way : Nat) (s : State) (h : s.slotFree n t = true) : Frame live s (evictFine n t set way s) :=
  (quiet_freeFine ..).fillSlot _ h rfl

/-- A new loaf evicts only into an empty slot. -/
theorem frame_newLoaf (n t : Nat) (a : PA) (c : BitVec 4) (req : Option (BitVec 4)) (s : State) : Frame live s (newLoaf n t a c req s).1 := by
  simp only [newLoaf]
  split
  · exact .refl s
  · next w hw =>
    have helig := elig_pickWay (k := 3) rfl hw
    refine Frame.quiet ?_ ((quiet_touchLoaf ..).trans (quiet_writeLoafW ..))
    split
    · exact .refl s
    · next hfull =>
      refine frame_evictLoaf _ _ _ _ _ ?_
      simp only [hfull, decide_false, Bool.false_or, Bool.and_eq_true] at helig
      exact helig.2

theorem frame_demote (n t set way : Nat) (req : Option (BitVec 4)) (s : State) : Frame live s (demote n t set way req s).1 := by
  simp only [demote]
  have hprobe : Quiet s (eachOf ((List.range 8).filter (s.loafLive n)) (probeLoaf n (loafSet ((s.fineAt n set way).line set))) s) :=
    quiet_eachOf _ _ (fun _ _ => quiet_probeLoaf ..) s
  refine hprobe.frame.trans ?_
  generalize eachOf ((List.range 8).filter (s.loafLive n)) (probeLoaf n (loafSet ((s.fineAt n set way).line set))) s = u
  have hmove (a : PA) (lw : Nat) (g : BitVec 16) (o : Bool) (v : State) : Quiet v (ownSlot n (freeFine n set way (addToLoaf n a lw g o v))) :=
    (quiet_addToLoaf ..).trans ((quiet_freeFine ..).trans (quiet_ownSlot ..))
  split
  · exact (hmove _ _ _ _ u).frame
  · have hloaf := frame_newLoaf (live := live) n t ((s.fineAt n set way).line set) (s.fineAt n set way).colour req u
    split
    · next v lw hv => rw [hv] at hloaf; exact hloaf.quiet (hmove _ _ _ _ v)
    · next v hv =>
      rw [hv] at hloaf
      split
      · next hfree => exact hloaf.trans (frame_evictFine _ _ _ _ v hfree)
      · exact hloaf

theorem frame_allocFine (n t : Nat) (a : PA) (mask : Nat → Bool) (tree : BitVec 4) (req : Option (BitVec 4)) (fuel : Nat) (s : State) :
    Frame live s (allocFine n t a mask tree req fuel s).1 := by
  induction fuel generalizing mask s with
  | zero => exact .refl s
  | succ fuel ih =>
    simp only [allocFine]
    split
    · exact .refl s
    · next w hw =>
      split
      · exact (quiet_touchFine ..).frame
      · refine (quiet_readFine n (fineSet a) w s).frame.trans ?_
        split
        · exact ih _ _
        · have hdemote := frame_demote (live := live) n t (fineSet a) w req (readFine n (fineSet a) w s)
          split
          · next v hv => rw [hv] at hdemote; exact hdemote.quiet (quiet_touchFine ..)
          · next v hv => rw [hv] at hdemote; exact hdemote.trans (ih _ _)

/-! ### Sending snoops -/

theorem frame_pump (n t : Nat) (s : State) : Frame live s (pump n t s) := by
  have hsend (l : List Msg) (u : State) : Quiet u (u.sendAll l) := .of_slices (keeps_sendAll ..) rfl fun _ => List.mem_append_left _
  simp only [pump]
  split
  · exact .refl s
  · next k hk =>
    split
    · next he =>
      refine Frame.quiet (frame_updTrk _ _ _ _ fun k' hk' _ => ?_) (hsend ..)
      obtain rfl := Option.some.inj (hk.symm.trans hk')
      exact .of_eq rfl rfl rfl rfl rfl
    · next e he =>
      refine Frame.quiet (frame_updTrk _ _ _ _ fun k' hk' _ => ?_) (hsend ..)
      obtain rfl := Option.some.inj (hk.symm.trans hk')
      exact ⟨rfl, fun _ => id, id, fun _ => rfl, id, by rw [he]; rfl⟩

/-! ### Placing a line in P -/

/-- A tracker allocated for the slice's own work had none before. -/
theorem allocPool_some {n t : Nat} {pool : Option Pool} {kind : TKind} {a : PA} {stage : Stage} {s u : State}
    (h : allocPool n t pool kind a stage s = some u) : s.trk n t = none ∧ Frame live s u := by
  simp only [allocPool] at h
  split at h
  · split at h
    · next hfree =>
      obtain rfl := Option.some.inj h
      have hnone : (s.slice n).tracker t = none := by
        simp only [Bool.and_eq_true, Option.isNone_iff_eq_none] at hfree; exact hfree.2
      refine ⟨hnone, (Frame.refl s).updSlice n _ fun _ => ?_⟩
      refine (Slice.Frame.putTrk live _ hnone).trans ⟨rfl, rfl, fun _ => id, id, fun _ i k hk _ => ⟨k, hk, .refl live k⟩⟩
    · cases h
  · cases h

theorem slotFor_spec (n t : Nat) (a : PA) (s : State) :
    Frame live s (slotFor n t a s).1 ∧ ((slotFor n t a s).2 ≠ t → s.trk n (slotFor n t a s).2 = none) := by
  rw [slotFor]
  split
  · exact ⟨.refl s, fun h => absurd rfl h⟩
  · split
    · next u hu => exact ⟨(allocPool_some hu).2, fun _ => (allocPool_some (live := live) hu).1⟩
    · exact ⟨.refl s, fun h => absurd rfl h⟩

theorem frame_placeIn (n t : Nat) (a : PA) (c : BitVec 4) (g : FineEntry → FineEntry) (s : State) : Frame live s (placeIn n t a c g s) := by
  simp only [placeIn]
  refine ((quiet_dropCopy n a s).trans (quiet_urge n a _)).frame.trans ?_
  generalize urge n a (dropCopy n a s) = s
  split
  · split
    · exact (quiet_writeFine ..).frame
    · exact .refl s
  · split
    · exact (quiet_writeFine ..).frame
    · refine (quiet_clearPres n a s).frame.trans ?_
      generalize clearPres n a s = s
      split
      · exact (quiet_writeFine ..).frame
      · obtain ⟨hslot, hnew⟩ := slotFor_spec (live := live) n t a s
        have hway : Frame live s (allocFine n (slotFor n t a s).2 a (s.fineOpen n) c none 17 (slotFor n t a s).1).1 :=
          hslot.trans (frame_allocFine ..)
        generalize allocFine n (slotFor n t a s).2 a (s.fineOpen n) c none 17 (slotFor n t a s).1 = r at hway
        generalize (slotFor n t a s).2 = t' at hnew
        have hput {u : State} (hu : Quiet r.1 u) :
            Frame live s (if (t' != t && (pump n t' u).slotFree n t') = true then (pump n t' u).updSlice n (·.dropTrk t')
              else pump n t' u) := by
          have hpump : Frame live s (pump n t' u) := (hway.quiet hu).trans (frame_pump ..)
          split
          · next hdrop =>
            refine hpump.dropTrk n _ fun _ k hk => ?_
            simp only [Bool.and_eq_true, bne_iff_ne] at hdrop
            rw [hnew hdrop.1] at hk; cases hk
          · exact hpump
        split
        · exact hput (quiet_writeFine ..)
        · exact hput (quiet_suspectFine ..)

theorem frame_poisonLine (n : Nat) (a : PA) (s : State) : Frame live s (poisonLine n a s) := by
  simp only [poisonLine]
  split
  · exact frame_updTrk _ _ _ _ fun k _ _ => .of_eq rfl rfl rfl rfl rfl
  · split
    · refine frame_updTrk _ _ _ _ fun k _ _ => ⟨rfl, fun _ => id, id, fun _ => rfl, id, ?_⟩
      cases k.evict <;> rfl
    · refine Frame.trans (Quiet.frame ?_) (frame_placeIn ..)
      exact .ite (quiet_unpin ..) (.refl s)

theorem frame_evictedP (n t : Nat) (c : BitVec 4) (l : List EvLine) (s : State) : Frame live s (evictedP n t c l s) :=
  frame_eachOf _ _ (fun _ _ => frame_placeIn ..) s

end Sys2Proof.Machine
end

section
/-! SUPPORT. Writes, reads and answers of a tracker (07 R198 to R202, 04 R109, R112 to R124) keep the trackers that stay. -/

namespace Sys2Proof.Machine

variable {live : Bool}

/-! ### The merging buffer -/

theorem quiet_putMb (n e : Nat) (x : MbEntry) (s : State) : Quiet s (s.updSlice n fun sl => sl.putMb e x) :=
  quiet_updSlice _ _ _ ⟨rfl, rfl, rfl, rfl, fun _ => id⟩

theorem frame_checkMb (n e : Nat) (s : State) : Frame live s (checkMb n e s) := by
  simp only [checkMb]
  refine (quiet_injSlice n 0x07 s).frame.trans ?_
  generalize injSlice n 0x07 s = r
  have hfail (d : Detail) (x : MbEntry) (a : PA) : Frame live r.2
      (poisonLine n a (dropCopy n a ((raiseSlice n 0x07 d r.2).updSlice n fun sl => sl.putMb e x))) :=
    ((quiet_raiseSlice ..).trans ((quiet_putMb ..).trans (quiet_dropCopy ..))).frame.trans (frame_poisonLine ..)
  generalize (if r.1 = true then _ else _ : BitVec 8) = groups
  split
  · exact hfail _ _ _
  · exact .refl _

theorem frame_mbWrite (n t : Nat) (a : PA) (w : WriteData) (c : BitVec 4) (req : Option (BitVec 4)) (who : BitVec 9) (s : State) :
    Frame live s (mbWrite n t a w c req who s).1 := by
  simp only [mbWrite]
  split
  · dsimp only; exact (quiet_raiseSlice ..).frame
  · dsimp only; exact (quiet_raiseSlice ..).frame
  · split
    · dsimp only; exact (frame_checkMb ..).quiet ((quiet_putMb ..).trans (quiet_updateHlc ..))
    · split
      · dsimp only; exact ((quiet_putMb ..).trans (quiet_updateHlc ..)).frame
      · exact .refl s

theorem frame_checkData (n t : Nat) (a : PA) (w : WriteData) (s : State) : Frame live s (checkData n t a w s).1 := by
  simp only [checkData]
  split
  · exact .refl s
  · refine (quiet_injSlice n 0x08 s).frame.trans ?_
    generalize injSlice n 0x08 s = r
    split
    · have hnote (d : Detail) (b : Bool) : Frame live r.2 ((raiseSlice n 0x08 d r.2).updTrk n t fun k => { k with
          bufBad := false, toP := k.toP || (b && k.look.res != .p) }) :=
        (quiet_raiseSlice ..).frame.upd _ _ _ fun _ => .of_eq rfl rfl rfl rfl rfl
      dsimp only
      split
      · exact hnote _ _
      · exact (hnote _ _).trans (frame_poisonLine ..)
    · exact .refl _

theorem frame_writeLine (n t : Nat) (a : PA) (w : WriteData) (s : State) : Frame live s (writeLine n t a w s) := by
  simp only [writeLine]
  split
  · exact .refl s
  · next k hk =>
    have hwrite : Frame live s (if (s.slice n).mayWrite (k.pendWr.map (·.1)) a = true then
        mbWrite n t a (checkData n t a w s).2 k.colour k.req k.src (checkData n t a w s).1 else ((checkData n t a w s).1, false)).1 := by
      split
      · exact (frame_checkData ..).trans (frame_mbWrite ..)
      · exact frame_checkData ..
    split
    · next u hu =>
      rw [hu] at hwrite
      split
      · exact hwrite.upd _ _ _ fun _ => .of_eq rfl rfl rfl rfl rfl
      · exact hwrite
    · next u hu =>
      rw [hu] at hwrite
      exact hwrite.upd _ _ _ fun _ => .of_eq rfl rfl rfl rfl rfl

/-! ### Line data -/

theorem frame_overlay (n : Nat) (a : PA) (base : Line) (s : State) : Frame live s (overlay n a base s).1 := by
  have hadd (st : MbSt) (r : State × (Line × Mask × Bool)) : Frame live r.1
      (match (r.1.slice n).mbOf st a with
        | some e => (checkMb n e r.1, mergeBytes r.2.1 (((checkMb n e r.1).slice n).mbE e).data (((checkMb n e r.1).slice n).mbE e).mask,
            r.2.2.1 ||| (((checkMb n e r.1).slice n).mbE e).mask, r.2.2.2 || (((checkMb n e r.1).slice n).mbE e).poison)
        | none => r).1 := by
    split
    · exact frame_checkMb ..
    · exact .refl _
  exact (hadd .sent (s, base, 0, false)).trans (hadd .opened _)

theorem frame_sendRead (n t : Nat) (a : PA) (node : BitVec 9) (s : State) : Frame live s (sendRead n t a node s) := by
  simp only [sendRead]
  refine Frame.quiet ?_ (quiet_send ..)
  refine Frame.upd (Quiet.frame ?_) n t _ fun _ => .of_eq rfl rfl rfl rfl rfl
  exact quiet_updSlice _ _ _ ⟨rfl, rfl, rfl, rfl, fun _ => id⟩

theorem frame_fillBuf (n t : Nat) (d : Line) (poison : Bool) (s : State) : Frame live s (fillBuf n t d poison s) :=
  (Frame.refl s).upd _ _ _ fun _ => .of_eq rfl rfl rfl rfl rfl

/-- A read whose address has no route, or meets a tray hole (01 R16, 07 R210). -/
theorem frame_unrouted (n t src : Nat) (d : Detail) (s : State) :
    Frame live s ((raiseSlice n src d s).updTrk n t fun k => { k with unrouted := true }) :=
  (quiet_raiseSlice ..).frame.upd n t _ fun _ => .of_eq rfl rfl rfl rfl rfl

/-- A read that waits for a credit or a slot. -/
theorem frame_wantRead (n t : Nat) (s : State) : Frame live s (s.updTrk n t fun k => { k with wantRead := true }) :=
  (Frame.refl s).upd n t _ fun _ => .of_eq rfl rfl rfl rfl rfl

theorem frame_readMemory (n t : Nat) (a : PA) (s : State) : Frame live s (readMemory n t a s) := by
  simp only [readMemory]
  split
  · exact frame_unrouted ..
  · exact frame_unrouted ..
  · split
    · split
      · exact frame_wantRead ..
      · split
        · refine Frame.trans (Quiet.frame ?_) (frame_fillBuf ..)
          refine Quiet.trans ?_ (quiet_trayRead ..)
          exact quiet_useTray ..
        · exact .refl s
    · exact .ite (frame_sendRead ..) (frame_wantRead ..)
  · exact .ite (frame_sendRead ..) (frame_wantRead ..)

theorem frame_fetchLine (n t : Nat) (useHlc : Bool) (s : State) : Frame live s (fetchLine n t useHlc s) := by
  simp only [fetchLine]
  split
  · exact .refl s
  · next k hk =>
    have hmerge (m : Line × Mask × Bool) : Frame live s ((overlay n (lineOf k.addr) 0 s).1.updTrk n t fun k => { k with merge := m }) :=
      (frame_overlay ..).upd _ _ _ fun _ => .of_eq rfl rfl rfl rfl rfl
    split
    · exact (hmerge _).upd _ _ _ fun _ => .of_eq rfl rfl rfl rfl rfl
    · refine (hmerge (overlay n (lineOf k.addr) 0 s).2).trans ?_
      generalize (overlay n (lineOf k.addr) 0 s).1.updTrk n t _ = s
      split
      · exact frame_readMemory ..
      · next w hw =>
        refine (quiet_injSlice n 0x06 s).frame.trans ?_
        generalize (injSlice n 0x06 s).2 = s
        split
        · refine Frame.trans (Quiet.frame ?_) (frame_readMemory ..)
          split
          · exact quiet_arrayError ..
          · exact (quiet_arrayError ..).trans (quiet_dropHlc ..)
        · refine Frame.upd (Frame.trans (Quiet.frame (Quiet.trans ?_ (quiet_touchHlc ..))) (frame_fillBuf ..)) _ _ _ fun _ => ?_
          · split
            · exact quiet_updSlice _ _ _ ⟨rfl, rfl, rfl, rfl, fun _ => id⟩
            · exact .refl _
          · exact .of_eq rfl rfl rfl rfl rfl

theorem frame_takeData (n t : Nat) (s : State) : Frame live s (takeData n t s) := by
  simp only [takeData]
  split
  · exact .refl s
  · split
    · exact (Frame.refl s).upd _ _ _ fun _ => .of_eq rfl rfl rfl rfl rfl
    · exact .ite (.refl s) (frame_fetchLine ..)

/-! ### Rounds and eviction slots -/

theorem frame_afterRound (n t : Nat) (s : State) : Frame live s (afterRound n t s) := by
  simp only [afterRound]
  split
  · exact .refl s
  · split
    · split
      · refine .ite (.refl s) (Frame.trans (Frame.upd (.refl s) _ _ _ fun _ => ?_) (frame_takeData ..))
        exact .of_eq rfl rfl rfl rfl rfl
      · split
        · exact frame_takeData ..
        · exact frame_takeData ..
        · exact frame_takeData ..
        · exact .ite ((Frame.refl s).upd _ _ _ fun _ => .of_eq rfl rfl rfl rfl rfl) (.refl s)
        · exact .refl s
    · exact .refl s
    · split
      · refine Frame.quiet (Frame.trans (Frame.upd (.refl s) _ _ _ fun _ => ?_) (frame_writeLine ..)) (quiet_urge ..)
        exact .of_eq rfl rfl rfl rfl rfl
      · exact .refl s
    · split
      · exact (quiet_freeFine ..).frame.trans (frame_writeLine ..)
      · exact .refl s
    · exact .refl s

theorem frame_endRound (n t : Nat) (s : State) : Frame live s (endRound n t s) := by
  simp only [endRound]
  split
  · exact .refl s
  · refine .ite (Frame.trans (Frame.upd (.refl s) _ _ _ fun _ => ?_) (frame_afterRound ..)) (.refl s)
    exact .of_eq rfl rfl rfl rfl rfl

theorem frame_closeEvict (n t : Nat) (s : State) : Frame live s (closeEvict n t s) := by
  simp only [closeEvict]
  split
  · exact .refl s
  · next k hk =>
    split
    · exact .refl s
    · next e he =>
      split
      · exact .refl s
      · next hquar =>
        have hslot (k' : Tracker) (hk' : s.trk n t = some k') : k'.evict.any (·.quarantined) = false := by
          obtain rfl := Option.some.inj (hk.symm.trans hk'); rw [he]; simpa using hquar
        have hdone (f : EvLine → EvLine) (b : Bool) : Frame live s (s.updTrk n t fun k => { k with
            usedData := k.usedData || b, evict := some { e with lines := e.lines.map f } }) :=
          frame_updTrk _ _ _ _ fun k' hk' _ => ⟨rfl, fun _ => id, id, fun _ => rfl, id, (by simpa using hquar :
            (some { e with lines := e.lines.map f }).any (·.quarantined) = false).trans (hslot k' hk').symm⟩
        have hwrites (l : List EvLine) (u : State) : Frame live u (eachOf l (fun l s => match l.round.data with
            | some d => writeLine n t l.line (wholeLine d.1 d.2 true false) s
            | none => s) u) := frame_eachOf _ _ (fun l u => by
          split
          · exact frame_writeLine ..
          · exact .refl u) u
        split
        · refine .ite ((hdone _ _).trans (hwrites _ _)) ?_
          refine Frame.trans ?_ (frame_evictedP ..)
          refine ((hdone _ _).trans (hwrites _ _)).updTrk n t _ fun k' x hk' _ _ hlead => ?_
          exact hlead.setEvict none (hlead.slot.trans (hslot k' hk')) rfl
        · exact (hdone _ _).trans (hwrites _ _)

/-! ### Answers -/

theorem frame_checkBuf (n t : Nat) (s : State) : Frame live s (checkBuf n t s) := by
  simp only [checkBuf]
  split
  · exact .refl s
  · split
    · exact .refl s
    · refine (quiet_injSlice n 0x08 s).frame.trans ?_
      generalize injSlice n 0x08 s = r
      exact .ite ((quiet_raiseSlice ..).frame.upd _ _ _ fun _ => .of_eq rfl rfl rfl rfl rfl) (.refl _)

theorem frame_performAtom (n t : Nat) (s : State) : Frame live s (performAtom n t s).1 := by
  simp only [performAtom]
  split
  · exact .refl s
  · split
    · exact .refl s
    · split
      · exact (Frame.refl s).upd _ _ _ fun _ => .of_eq rfl rfl rfl rfl rfl
      · split
        · split
          · exact frame_writeLine ..
          · exact .refl s
        · exact (frame_writeLine ..).upd _ _ _ fun _ => .of_eq rfl rfl rfl rfl rfl

theorem frame_giveAnswer (n t : Nat) (m : Msg) (wantSeal wantDat : Bool) (s : State) :
    Frame live s (giveAnswer n t m wantSeal wantDat s) := by
  have hans (o : Option (Op × BitVec 3)) : Frame live s (s.updTrk n t fun k => { k with
      ans := o, waitSeal := wantSeal, waitDat := wantDat, sealTimer := wantSeal || wantDat,
      early := k.early || (!k.rdone && !k.report) }) :=
    (Frame.refl s).upd _ _ _ fun _ => .of_eq rfl rfl rfl rfl rfl
  simp only [giveAnswer]
  refine (hans (some (m.op, m.sub))).trans ?_
  generalize s.updTrk n t _ = s
  split
  · next k hk =>
    refine Frame.trans (t := if k.silent then s else s.send m) (.ite (.refl s) (quiet_send ..).frame) ?_
    exact .ite (quiet_modeSetEnded ..).frame (.refl _)
  · exact .refl s

theorem frame_giveLine (n t : Nat) (k : Tracker) (op : Op) (st : BitVec 3) (s : State) : Frame live s (giveLine n t k op st s) := by
  have huse (b : Bool) : Frame live s (s.updTrk n t fun k => { k with
      usedData := true, toP := k.toP || (b && k.round.data.isNone && k.look.res != .p) }) :=
    (Frame.refl s).upd _ _ _ fun _ => .of_eq rfl rfl rfl rfl rfl
  simp only [giveLine]
  exact .ite (frame_giveAnswer ..) (((huse _).trans (frame_checkBuf ..)).trans (frame_giveAnswer ..))

theorem frame_answer (n t : Nat) (s : State) : Frame live s (answer n t s) := by
  simp only [answer]
  split
  · exact .refl s
  · refine .ite (.refl s) ?_
    split
    · split
      · exact .refl s
      · exact .ite (frame_giveLine ..) (.refl s)
      · refine .ite (frame_giveLine ..) (.ite ?_ (.refl s))
        refine Frame.trans (Frame.upd (.refl s) _ _ _ fun _ => ?_) (frame_giveLine ..)
        exact .of_eq rfl rfl rfl rfl rfl
      · exact .ite (frame_giveAnswer ..) (.ite (.ite (frame_giveAnswer ..) (.refl s)) (.ite (frame_giveAnswer ..) (.refl s)))
      · exact .ite ((frame_checkBuf ..).trans ((frame_performAtom ..).trans (frame_giveAnswer ..))) (.refl s)
    · exact .refl s

end Sys2Proof.Machine
end

section
/-! SUPPORT. The end of a transaction (04 R127, R131, Table 04-8) keeps the trackers in quarantine. -/

namespace Sys2Proof.Machine

variable {live : Bool}

/-! ### The entry left -/

theorem frame_writePoison (n t : Nat) (k : Tracker) (f : Fin) (s : State) : Frame live s (writePoison n t k f s) := by
  simp only [writePoison]
  refine (quiet_unpin n (lineOf k.addr) s).frame.trans ?_
  split <;> exact frame_placeIn ..

theorem frame_writeHold (n t : Nat) (k : Tracker) (f : Fin) (toP : Bool) (s : State) : Frame live s (writeHold n t k f toP s) := by
  simp only [writeHold]
  split
  · exact frame_writePoison ..
  · refine Quiet.frame ?_
    split
    · split
      · split
        · exact quiet_freeFine ..
        · exact quiet_clearPres ..
      · split
        · exact quiet_writeFine ..
        · exact (quiet_clearPres ..).trans (quiet_writeFine ..)
        · exact quiet_holdInLoaf ..
        · exact .refl s
    · split
      · exact quiet_addToLoaf ..
      · exact .refl s
    · exact .refl s

theorem frame_writeFin (n t : Nat) (k : Tracker) (f : Fin) (toP : Bool) (s : State) : Frame live s (writeFin n t k f toP s) := by
  rw [writeFin]; exact .ite (.refl s) (frame_writeHold ..)

theorem frame_endSettle (n t : Nat) (k : Tracker) (s : State) : Frame live s (endSettle n t k s) := by
  simp only [endSettle]
  split
  · exact ((quiet_clearPres ..).trans (quiet_ownSlot ..)).frame
  · split
    · exact ((quiet_raiseSlice ..).frame.trans (frame_placeIn ..)).quiet (quiet_ownSlot ..)
    · refine Quiet.frame ?_
      split
      · split
        · exact (quiet_clearPres ..).trans ((quiet_writeFine ..).trans ((quiet_ownSlot ..).trans (quiet_touchFine ..)))
        · exact .refl s
      · exact .refl s

theorem quiet_putFlags (n set way : Nat) (pin pfu : Bool) (s : State) : Quiet s (s.updSlice n fun sl => sl.putFlags set way pin pfu) :=
  quiet_updSlice _ _ _ ⟨rfl, rfl, rfl, rfl, fun _ => id⟩

/-- The way of an Anvil line: the one that holds it, or one filled with it. -/
theorem quiet_pinWay (n : Nat) (a : PA) (hw : Nat) (d : Line) (req : Option (BitVec 4)) (s : State) :
    Quiet s (match s.hlcFind n a with
      | some w => if w = hw then touchHlc n req w s else fillHlc n a hw d false req (dropCopy n a s)
      | none => fillHlc n a hw d false req s) := by
  split
  · exact .ite (quiet_touchHlc ..) ((quiet_dropCopy ..).trans (quiet_fillHlc ..))
  · exact quiet_fillHlc ..

theorem frame_enterAnvil {n t : Nat} {k : Tracker} {s u : State} (h : enterAnvil n t k s = some u) : Frame live s u := by
  unfold enterAnvil at h
  dsimp only at h
  split at h
  · cases h
  · split at h
    · cases h
    · split at h
      · next v w e hr =>
        have hway : Frame live s v := by
          split at hr
          · obtain ⟨rfl, -⟩ := Prod.mk.inj hr; exact .refl _
          · obtain ⟨rfl, -⟩ := Prod.mk.inj hr; exact (quiet_clearPres ..).frame.trans (frame_allocFine ..)
        refine hway.trans (Quiet.frame ?_)
        rw [Option.some.injEq] at h
        rw [← h]
        refine Quiet.trans ?_ (quiet_putFlags ..)
        refine Quiet.trans ?_ (quiet_pinWay ..)
        exact quiet_writeFine ..
      · cases h

/-- The line's record is left in Anvil mode, or written as a holder set or in P. -/
theorem leaveEntry_cases (n t : Nat) (k : Tracker) (f : Fin) (toP : Bool) (s : State) :
    (∃ u, enterAnvil n t { k with toP } s = some u ∧ leaveEntry n t k f toP s = u) ∨ leaveEntry n t k f toP s = writeFin n t k f toP s := by
  unfold leaveEntry
  generalize enterAnvil n t { k with toP } s = r
  cases r with
  | none => exact .inr rfl
  | some u => exact .inl ⟨u, rfl, rfl⟩

theorem frame_leaveEntry (n t : Nat) (k : Tracker) (f : Fin) (toP : Bool) (s : State) : Frame live s (leaveEntry n t k f toP s) := by
  rcases leaveEntry_cases n t k f toP s with ⟨u, hu, he⟩ | he <;> rw [he]
  · exact frame_enterAnvil hu
  · exact frame_writeFin ..

theorem frame_recordHold (n : Nat) (k : Tracker) (s : State) : Frame live s (recordHold n k s) := by
  simp only [recordHold]
  refine .ite ((Frame.refl s).updSlice n _ fun _ => ?_) (.refl s)
  split
  · exact ⟨rfl, rfl, fun _ => id, id, fun _ i k hk _ => ⟨k, hk, .refl live k⟩⟩
  · exact .refl live _

theorem frame_endScrub (n t agent : Nat) (k : Tracker) (s : State) : Frame live s (endScrub n t agent k s) := by
  simp only [endScrub]
  exact .ite (.refl s) ((frame_placeIn ..).quiet (quiet_updSpine ..))

/-! ### Freeing -/

/-- A tracker freed is in no quarantine, and its transaction has ended. -/
theorem frame_freeIfDone (n t : Nat) (s : State) : Frame live s (freeIfDone n t s) := by
  simp only [freeIfDone]
  split
  · exact .refl s
  · next k hk =>
    split
    · next hdone =>
      refine (Frame.refl s).dropTrk n t fun _ k' hk' held => ?_
      obtain rfl := Option.some.inj (hk.symm.trans hk')
      simp only [Bool.and_eq_true, decide_eq_true_eq, List.isEmpty_iff] at hdone
      obtain ⟨⟨⟨hended, -⟩, hquar⟩, -⟩ := hdone
      rcases held.2 with h | ⟨-, h⟩
      · exact h hquar
      · exact h hended
    · exact .refl s

/-- A drain answered is freed; a tracker that stays serves none. -/
theorem frame_drainCheck (n : Nat) (s : State) : Frame live s (drainCheck n s) := by
  refine eachOf_inv_mem (P := Frame live s) (fun kv hkv u hu => ?_) (.refl s)
  simp only [List.mem_filter, Bool.and_eq_true, decide_eq_true_eq] at hkv
  obtain ⟨hmem, hdrain, -⟩ := hkv
  split
  · refine Frame.quiet ?_ ((quiet_bill ..).trans (quiet_addLat ..))
    refine (hu.quiet (quiet_send ..)).dropTrk n _ fun hrise k hk held => held.1 ?_
    obtain rfl := Option.some.inj (hk.symm.trans (mfind_of_mem hrise hmem))
    exact hdrain
  · exact hu

/-- A tracker whose transaction has ended: it reserves and awaits nothing more but what holds it. -/
def Tracker.closed (k : Tracker) : Tracker :=
  { k with
    stage := .ended, resv := .none, heldLoaf := none, pfWay := none, snoopTimer := false, sealTimer := false,
    memTimer := false, stashTimer := false, waitSeal := false, waitDat := false, waitStash := false, wantRead := false }

theorem Tracker.leads_closed (k : Tracker) : k.Leads false k.closed :=
  ⟨rfl, fun _ => id, fun _ => rfl, fun h => (Bool.false_ne_true h).elim, fun _ => rfl, rfl⟩

/-- The loaf that a tracker holds, written invalid if nothing is present (02 R454). -/
def dropLoaf (n : Nat) (k : Tracker) (s : State) : State :=
  match k.heldLoaf with
  | some x => if (s.loafAt n (x / 8) (x % 8)).lstate != 0 && (s.loafAt n (x / 8) (x % 8)).pres = 0 then writeLoafW n (x / 8) (x % 8) 0 s else s
  | none => s

/-- The early grant of a tracker that served its partition in LOCAL mode, no longer awaited (06 R166). -/
def endGrant (n t : Nat) (k : Tracker) (s : State) : State := if k.lcl then modeSetEnded n t s else s

/-- The retire scrub that passed over a tracker's line while it was blocked. -/
def leaveScrub (n : Nat) (k : Tracker) (s : State) : State :=
  if k.lineUser && k.stage != .chain then scrubLeft n (lineOf k.addr) s else s

/-- The census steps that waited for a tracker's line. -/
def leaveCensus (n : Nat) (k : Tracker) (s : State) : State :=
  if (s.slice n).holds.any fun h => h.line = lineOf k.addr then s else censusLeft n (lineOf k.addr) s

/-- Closing a transaction: the tracker closed, then what waited for it, then the tracker freed if nothing holds it. -/
theorem closeTrk_eq {n t : Nat} {k : Tracker} {s : State} (hk : s.trk n t = some k) :
    closeTrk n t s = freeIfDone n t (leaveCensus n k (leaveScrub n k (endGrant n t k (dropLoaf n k (s.updTrk n t Tracker.closed))))) := by
  simp only [closeTrk, hk]; rfl

theorem quiet_dropLoaf (n : Nat) (k : Tracker) (s : State) : Quiet s (dropLoaf n k s) := by
  rw [dropLoaf]
  split
  · exact .ite (quiet_writeLoafW ..) (.refl s)
  · exact .refl s

theorem quiet_endGrant (n t : Nat) (k : Tracker) (s : State) : Quiet s (endGrant n t k s) := .ite (quiet_modeSetEnded ..) (.refl s)

theorem quiet_leaveScrub (n : Nat) (k : Tracker) (s : State) : Quiet s (leaveScrub n k s) := .ite (quiet_scrubLeft ..) (.refl s)

theorem quiet_leaveCensus (n : Nat) (k : Tracker) (s : State) : Quiet s (leaveCensus n k s) := .ite (.refl s) (quiet_censusLeft ..)

/-- Before the tracker is freed no other tracker is written. -/
theorem closeTrk_quiet {n t : Nat} {k : Tracker} {s : State} (hk : s.trk n t = some k) :
    ∃ u, Quiet (s.updTrk n t Tracker.closed) u ∧ closeTrk n t s = freeIfDone n t u :=
  ⟨_, (quiet_dropLoaf ..).trans ((quiet_endGrant ..).trans ((quiet_leaveScrub ..).trans (quiet_leaveCensus ..))), closeTrk_eq hk⟩

theorem frame_closeTrk (n t : Nat) (s : State) : Frame false s (closeTrk n t s) := by
  cases hk : s.trk n t with
  | none => simp only [closeTrk, hk]; exact .refl s
  | some k =>
    obtain ⟨u, hu, he⟩ := closeTrk_quiet hk
    rw [he]
    exact (((Frame.refl s).upd n t _ Tracker.leads_closed).quiet hu).trans (frame_freeIfDone ..)

end Sys2Proof.Machine
end

section
/-! SUPPORT. What a tracker can do at once (04 R131, R132, R455, Tables 04-8 and 05-11) keeps the trackers in quarantine. -/

namespace Sys2Proof.Machine

variable {live : Bool}

/-- What the work of each kind does to its line once its record is left. -/
theorem frame_endKind (n t : Nat) (k : Tracker) (s : State) : Frame live s (match k.kind with
    | .scrubLine agent => endScrub n t agent k s
    | .range .clean _ => s
    | .range _ _ => if k.look.res = .p then s else dropCopy n (lineOf k.addr) s
    | _ => s) := by
  split
  · exact frame_endScrub ..
  · exact .refl s
  · exact .ite (.refl s) (quiet_dropCopy ..).frame
  · exact .refl s

theorem frame_endTx (n t : Nat) (s : State) : Frame false s (endTx n t s) := by
  unfold endTx
  cases s.trk n t with
  | none => exact .refl s
  | some k =>
    dsimp only
    refine Frame.trans ?_ (frame_closeTrk ..)
    refine Frame.quiet ?_ (quiet_addLat ..)
    refine Frame.quiet ?_ (quiet_bill ..)
    refine Frame.quiet ?_ (quiet_endOrder ..)
    refine Frame.trans ?_ (frame_recordHold ..)
    refine Frame.trans ?_ (frame_endKind ..)
    have hleave (k : Tracker) (f g : Fin) (c : Bool) (u : State) : Frame false u
        (if c = true then endSettle n t k (countEvents n k g u) else leaveEntry n t k f k.toP (countEvents n k g u)) :=
      (quiet_countEvents n k g u).frame.trans (.ite (frame_endSettle ..) (frame_leaveEntry ..))
    refine Frame.trans ?_ (hleave _ _ _ _ _)
    exact .ite (quiet_raiseSlice ..).frame (.refl s)

theorem frame_endTrk (n t : Nat) (s : State) : Frame false s (endTrk n t s) := (frame_closeTrk ..).trans (frame_drainCheck ..)

theorem quiet_answerP (n t : Nat) (s : State) : Quiet s (answerP n t s).1 := by
  simp only [answerP]
  split
  · exact .refl s
  · split
    · split
      · split
        · exact .refl s
        · split
          · exact .refl s
          · split
            · exact .refl s
            · exact quiet_send ..
      · split
        · split
          · exact .refl s
          · split
            · exact .refl s
            · exact quiet_send ..
        · exact .refl s
    · exact .refl s

/-- A quarantine waits for more. -/
theorem Tracker.Leads.owe (k : Tracker) (l : List (Nat × Owed)) : k.Leads live { k with quar := k.quar ++ l } :=
  ⟨rfl, fun _ => List.mem_append_left l, id, fun _ => rfl, id, rfl⟩

theorem frame_endInP (n t : Nat) (k : Tracker) (f : Fin) (owed : List (Nat × Owed)) (s : State) :
    Frame false s (endInP n t k f owed s) := by
  have howe (u : State) : Frame false u (u.updTrk n t fun k => { k with
      toP := true, round := {}, memNode := none, quar := k.quar ++ owed }) :=
    (Frame.refl u).upd n t _ fun k => (Tracker.Leads.owe k owed).trans (.of_eq rfl rfl rfl rfl rfl)
  simp only [endInP]
  refine Frame.trans ?_ (frame_endTrk ..)
  refine Frame.quiet ?_ (quiet_endOrder ..)
  refine Frame.trans ?_ (howe _)
  refine Frame.quiet ?_ ((quiet_bill ..).trans (quiet_addLat ..))
  exact (quiet_countEvents ..).frame.trans (frame_writeFin ..)

theorem frame_roundTimedOut (n t : Nat) (who : List Nat) (f : Fin) (s : State) : Frame false s (roundTimedOut n t who f s) := by
  simp only [roundTimedOut]
  split
  · exact .refl s
  · refine Frame.trans (Quiet.frame ?_) (frame_endInP ..)
    exact (quiet_raiseSlice ..).trans (quiet_answerP ..)

theorem frame_linesTimedOut (n t : Nat) (k : Tracker) (who : List Nat) (l : List EvLine) (names : Round → List Nat) (s : State) :
    Frame live s (linesTimedOut n t k who l names s) := by
  simp only [linesTimedOut]
  refine (quiet_raiseSlice ..).frame.trans (frame_eachOf _ _ (fun l u => ?_) _)
  rw [placeP]; exact frame_placeIn ..

theorem frame_settleRound (n t : Nat) (s : State) : Frame false s (settleRound n t s) := by
  simp only [settleRound]
  split
  · exact .refl s
  · refine .ite (.ite ((Frame.refl s).upd _ _ _ fun _ => ?_) (frame_roundTimedOut ..)) (.refl s)
    exact .of_eq rfl rfl rfl rfl rfl

theorem frame_settleGone (n t : Nat) (s : State) : Frame false s (settleGone n t s) := by
  simp only [settleGone]
  refine (frame_settleRound n t s).trans ?_
  generalize settleRound n t s = s
  split
  · exact .refl s
  · next k hk =>
    split
    · exact .refl s
    · next e he =>
      split
      · exact .refl s
      · next hquar =>
        have hslot (l : List EvLine) : Frame false s (s.updTrk n t fun k => { k with evict := some { e with lines := l } }) :=
          frame_updTrk _ _ _ _ fun k' hk' _ => by
            obtain rfl := Option.some.inj (hk.symm.trans hk')
            exact ⟨rfl, fun _ => id, id, fun _ => rfl, id, by rw [he]; rfl⟩
        exact .ite (hslot _) ((hslot _).trans (frame_linesTimedOut ..))

/-- Whatever a tracker does now, the trackers in quarantine stay. -/
theorem frame_advance (n t : Nat) (s : State) : Frame false s (advance n t s) := by
  simp only [advance]
  refine Frame.trans ?_ (frame_drainCheck ..)
  have hwork : Frame false s (answer n t (endRound n t (closeEvict n t (settleGone n t (pump n t s))))) :=
    (frame_pump ..).trans ((frame_settleGone ..).trans ((frame_closeEvict ..).trans ((frame_endRound ..).trans (frame_answer ..))))
  refine hwork.trans ?_
  generalize answer n t (endRound n t (closeEvict n t (settleGone n t (pump n t s)))) = u
  split
  · exact .ite (frame_endTx ..) (frame_freeIfDone ..)
  · exact .refl u

/-! ### The line buffer written -/

theorem frame_checkWrite (n t : Nat) (s : State) : Frame live s (checkWrite n t s) := by
  simp only [checkWrite]
  refine .ite (frame_checkBuf ..) ((frame_checkBuf ..).upd _ _ _ fun _ => ?_)
  exact .of_eq rfl rfl rfl rfl rfl

theorem frame_writeBuf (n t : Nat) (s : State) : Frame live s (writeBuf n t s) := by
  simp only [writeBuf]
  refine (frame_checkWrite n t s).trans ?_
  generalize checkWrite n t s = s
  split
  · exact .refl s
  · split
    · refine Frame.trans (Frame.upd (.refl s) _ _ _ fun _ => ?_) (frame_writeLine ..)
      exact .of_eq rfl rfl rfl rfl rfl
    · exact .refl s

end Sys2Proof.Machine
end

section
/-! SUPPORT. The timers of a slice (04 R131 to R135, R455): what each leaves to quarantine. -/

namespace Sys2Proof.Machine

/-! ### A timer that runs -/

/-- The slice's tracker table rises, and the table of slices is canonical. -/
def State.Rises (s : State) (n : Nat) : Prop := s.canon = true ∧ mrising 0 (s.slice n).trk = true

theorem rises_of_tablesRise {s : State} (n : Nat) (hc : s.canon = true) (ht : s.tablesRise = true) : s.Rises n := by
  refine ⟨hc, mget_all (p := fun x : Slice => mrising 0 x.trk = true) rfl (fun kv hkv => ?_) n⟩
  simp only [State.tablesRise, Bool.and_eq_true, List.all_eq_true] at ht
  have hslice := ht.1.1.1.1 kv hkv
  simp only [Slice.rising, Bool.and_eq_true] at hslice
  tauto

section
variable {live : Bool} {s u : State} {n : Nat}

theorem Frame.rises (h : Frame live s u) (hs : s.Rises n) : u.Rises n := ⟨h.canon hs.1, (h.slices hs.1 n).rising hs.2⟩

/-- A tracker that stays is there after the work. -/
theorem Frame.stays {t : Nat} {k : Tracker} (h : Frame live s u) (hs : s.Rises n) (hk : s.trk n t = some k) (held : k.held live) :
    ∃ x, u.trk n t = some x ∧ k.Leads live x := (h.slices hs.1 n).trk hs.2 t k hk held

theorem Frame.noted (h : Frame live s u) (hs : s.Rises n) {i : Nat} (hi : bit (s.slice n).assay.status i = true) :
    bit (u.slice n).assay.status i = true := (h.slices hs.1 n).status i hi

theorem Quiet.trk_eq (h : Quiet s u) (hs : s.Rises n) (t : Nat) : u.trk n t = s.trk n t := congrArg (mfind · t) (h.slices hs.1 n).trk

theorem rises_updTrk (t : Nat) (f : Tracker → Tracker) (hs : s.Rises n) : (s.updTrk n t f).Rises n := by
  refine ⟨State.canon_updSlice n _ hs.1, ?_⟩
  rw [State.updTrk, State.slice_updSlice_same n _ hs.1]; exact Slice.rising_updTrk _ t f hs.2

end

/-- A fault raised is noted. -/
theorem noted_raiseSlice (n : Nat) {src : Nat} (hsrc : src < 64) (d : Detail) {s : State} (hc : s.canon = true) :
    bit ((raiseSlice n src d s).slice n).assay.status src = true := by
  unfold raiseSlice
  have hc := (quiet_trigger src s).canon hc
  generalize s.trigger src = s at hc
  dsimp only
  have hnote (r : HRec) : bit (((s.updSlice n fun sl => { sl with assay := sl.assay.capture sl.hclk 0 src (s.sevOf src) d }).feed
      (sliceFeed n) r).slice n).assay.status src = true := by
    rw [slice_feed, State.slice_updSlice_same n _ hc]; exact status_capture _ _ 0 _ _ _ hsrc
  split
  · refine ((quiet_holdSlice n _).slices ?_ n).status src (hnote _)
    exact (quiet_feed ..).canon (State.canon_updSlice n _ hc)
  · exact hnote _

/-- A timer whose slice has no mirrored writes under way, an empty input buffer and no pause does what it does, and no more. -/
theorem onTimer_eq {n : Nat} {f : State → State} {s : State} (hn : n < s.par.nSlice) (hm : (s.slice n).mirrored = [])
    (hp : s.paused n = false) (hb : ((f s).slice n).inBuf = []) : onTimer n f s = .next (f s) := by
  have hbound : mirrorBound n (fun s => if s.paused n then s else f s) s = f s := by
    simp [mirrorBound, State.mirrorOver, hm, hp]
  rw [onTimer, atSlice_built _ hn, thenDrain, hbound]
  simp [drainIn, hb]

/-- In a pause a timer does nothing. -/
theorem onTimer_paused {n : Nat} (f : State → State) {s : State} (hn : n < s.par.nSlice) (hp : s.paused n = true) :
    onTimer n f s = .next s := by
  have hbound : mirrorBound n (fun s => if s.paused n then s else f s) s = s := by simp [mirrorBound, State.mirrorOver, hp]
  rw [onTimer, atSlice_built _ hn, thenDrain, hbound]
  simp [drainIn, hp]

/-! ### The tracker that a transaction leaves -/

/-- No transaction of tracker t is open. -/
def State.ClosedAt (s : State) (n t : Nat) : Prop := s.Rises n ∧ ∀ x, s.trk n t = some x → x.stage = .ended

theorem State.ClosedAt.quiet {s u : State} {n t : Nat} (h : s.ClosedAt n t) (g : Quiet s u) : u.ClosedAt n t :=
  ⟨(g.frame (live := false)).rises h.1, fun x hx => h.2 x ((g.trk_eq h.1 t).symm.trans hx)⟩

theorem State.ClosedAt.dropTrk {s : State} {n t : Nat} (h : s.ClosedAt n t) (i : Nat) : (s.updSlice n (·.dropTrk i)).ClosedAt n t := by
  have hslice := State.slice_updSlice_same n (·.dropTrk i) h.1.1
  refine ⟨⟨State.canon_updSlice n _ h.1.1, by rw [hslice]; exact mrising_mdel h.1.2⟩, fun x hx => ?_⟩
  rw [State.trk, hslice] at hx
  by_cases ht : t = i
  · subst ht; rw [Slice.tracker, Slice.dropTrk, mfind_mdel_same t h.1.2] at hx; cases hx
  · rw [Slice.tracker_dropTrk_ne h.1.2 ht] at hx; exact h.2 x hx

theorem closedAt_freeIfDone {s : State} {n t : Nat} (h : s.ClosedAt n t) : (freeIfDone n t s).ClosedAt n t := by
  simp only [freeIfDone]
  split
  · exact h
  · split
    · exact h.dropTrk t
    · exact h

theorem closedAt_drainCheck {s : State} {n t : Nat} (h : s.ClosedAt n t) : (drainCheck n s).ClosedAt n t := by
  refine eachOf_inv (·.ClosedAt n t) _ _ (fun kv u hu => ?_) s h
  split
  · exact ((hu.quiet (quiet_send ..)).dropTrk kv.1).quiet ((quiet_bill ..).trans (quiet_addLat ..))
  · exact hu

theorem closedAt_closeTrk {s : State} {n : Nat} (t : Nat) (hs : s.Rises n) : (closeTrk n t s).ClosedAt n t := by
  cases hk : s.trk n t with
  | none =>
    rw [show closeTrk n t s = s by simp only [closeTrk, hk]]
    exact ⟨hs, fun x hx => by rw [hk] at hx; cases hx⟩
  | some k =>
    obtain ⟨u, hu, he⟩ := closeTrk_quiet hk
    rw [he]
    refine closedAt_freeIfDone (State.ClosedAt.quiet ⟨rises_updTrk t _ hs, fun x hx => ?_⟩ hu)
    rw [State.trk_updTrk n t _ hs.1, hk] at hx
    obtain rfl := Option.some.inj hx; rfl

theorem closedAt_endTrk {s : State} {n : Nat} (t : Nat) (hs : s.Rises n) : (endTrk n t s).ClosedAt n t :=
  closedAt_drainCheck (closedAt_closeTrk t hs)

/-- A transaction closed while its tracker is in quarantine. -/
theorem stays_endTrk {s : State} {n t : Nat} {k : Tracker} (hs : s.Rises n) (hk : s.trk n t = some k) (held : k.held false) :
    ∃ x, (endTrk n t s).trk n t = some x ∧ k.Leads false x ∧ x.stage = .ended := by
  obtain ⟨x, hx, hlead⟩ := (frame_endTrk n t s).stays hs hk held
  exact ⟨x, hx, hlead, (closedAt_endTrk t hs).2 x hx⟩

/-- A transaction ended with its line in P: its tracker is left in quarantine, for everything that is owed. -/
theorem stays_endInP {s : State} {n t : Nat} {k : Tracker} (k' : Tracker) (f : Fin) {owed : List (Nat × Owed)} (hs : s.Rises n)
    (hk : s.trk n t = some k) (hkind : k.kind ≠ .msg .drainW) (hopen : k.stage ≠ .ended) (howed : owed ≠ []) :
    ∃ x, (endInP n t k' f owed s).trk n t = some x ∧ x.held false ∧ x.stage = .ended ∧ ∀ q ∈ owed, q ∈ x.quar := by
  simp only [endInP]
  generalize hu : addLat n k' (bill n k'.class (writeFin n t k' f true (countEvents n k' .keep s))) = u
  have hframe : Frame true s u := by
    rw [← hu]; exact ((quiet_countEvents ..).frame.trans (frame_writeFin ..)).quiet ((quiet_bill ..).trans (quiet_addLat ..))
  obtain ⟨x, hx, hlead⟩ := hframe.stays hs hk ⟨hkind, .inr ⟨rfl, hopen⟩⟩
  have hus := hframe.rises hs
  have howe := State.trk_updTrk (s := u) n t (fun k => { k with toP := true, round := {}, memNode := none, quar := k.quar ++ owed }) hus.1
  rw [hx, Option.map_some] at howe
  have hus' := rises_updTrk (n := n) t (fun k => { k with toP := true, round := {}, memNode := none, quar := k.quar ++ owed }) hus
  generalize u.updTrk n t _ = v at howe hus'
  have hend := quiet_endOrder k' true v
  obtain ⟨y, hy, hlead', hended⟩ := stays_endTrk ((hend.frame (live := false)).rises hus') ((hend.trk_eq hus' t).trans howe)
    ⟨hlead.kind ▸ hkind, .inl (by simp [howed])⟩
  have hquar (q : Nat × Owed) (hq : q ∈ owed) : q ∈ y.quar := hlead'.quar q (List.mem_append_right _ hq)
  exact ⟨y, hy, hlead'.held ⟨hlead.kind ▸ hkind, .inl (by simp [howed])⟩, hended, hquar⟩

end Sys2Proof.Machine
end

section
/-! SUPPORT. The timers of eviction snoops, Seals, memory reads and stash answers (04 R132 to R134, R455, 05 R153). -/

namespace Sys2Proof.Machine

section
variable {s : State} {n t : Nat} {k : Tracker}

/-! ### The Seal timer -/

/-- A transaction ended by its Seal timer is closed after work that keeps the frame. -/
theorem sealEnd_eq (n t : Nat) (k : Tracker) (f : Fin × Bool) (s : State) : ∃ v, Frame false s v ∧ sealEnd n t k f s = endTrk n t v := by
  have howe (u : State) : Frame false u (u.updTrk n t fun k => { k with
      round := {}, memNode := none, quar := k.quar ++ k.round.owes ++ k.owesMem }) :=
    (Frame.refl u).upd n t _ fun k =>
      ((Tracker.Leads.owe k k.round.owes).trans (.owe _ k.owesMem)).trans (.of_eq rfl rfl rfl rfl rfl)
  have hleave : Frame false s (leaveEntry n t k f.1 f.2 (countEvents n k (if f.2 then .keep else f.1) s)) :=
    (quiet_countEvents ..).frame.trans (frame_leaveEntry ..)
  exact ⟨_, (hleave.quiet ((quiet_bill ..).trans (quiet_addLat ..))).trans (howe _), rfl⟩

/-- Tracker t fenced for its transaction's requester and RQTX (05 R153). -/
def Slice.fenced (x : Slice) (t : Nat) (k : Tracker) : Slice := { x with fences := mins x.fences t (k.src, k.rqtx) }

/-- The state as the Seal timer's fault and fence leave it. -/
def State.sealNoted (s : State) (n t : Nat) (k : Tracker) : State :=
  (raiseSlice n 0x12 { syn := BitVec.ofNat 16 t, node := k.sealer.1, addr := lineOf k.addr } s).updSlice n (·.fenced t k)

theorem sealNoted_spec (n t : Nat) (k : Tracker) (hc : s.canon = true) :
    ∃ r, Quiet s r ∧ bit (r.slice n).assay.status 0x12 = true ∧ (s.sealNoted n t k).canon = true ∧
      (s.sealNoted n t k).slice n = (r.slice n).fenced t k :=
  have hr := quiet_raiseSlice n 0x12 { syn := BitVec.ofNat 16 t, node := k.sealer.1, addr := lineOf k.addr } s
  ⟨_, hr, noted_raiseSlice n (by decide) _ hc, State.canon_updSlice n _ (hr.canon hc), State.slice_updSlice_same n _ (hr.canon hc)⟩

theorem sealTimeout_eq (hk : s.trk n t = some k) (hlive : k.stage = .live) (ht : (s.slice n).timers = true) (hseal : k.sealTimer = true) :
    ∃ v, Frame false (s.sealNoted n t k) v ∧ sealTimeout n t s = endTrk n t v := by
  obtain ⟨v, hv, he⟩ := sealEnd_eq n t k (sealFin (s.sealNoted n t k) n k) (s.sealNoted n t k)
  refine ⟨v, hv, ?_⟩
  rw [← he]
  simp [sealTimeout, sealTimedOut, hk, hlive, ht, hseal, State.sealNoted, Slice.fenced]

theorem sealTimeout_leaves (hs : s.Rises n) (hk : s.trk n t = some k) (hlive : k.stage = .live) (ht : (s.slice n).timers = true)
    (hseal : k.sealTimer = true) :
    ((sealTimeout n t s).slice n).inBuf = (s.slice n).inBuf ∧ bit ((sealTimeout n t s).slice n).assay.status 0x12 = true ∧
    mfind ((sealTimeout n t s).slice n).fences t = some (k.src, k.rqtx) ∧
    ∀ x, (sealTimeout n t s).trk n t = some x → x.stage = .ended := by
  obtain ⟨v, hv, he⟩ := sealTimeout_eq hk hlive ht hseal
  rw [he]
  obtain ⟨r, hr, hnoted, hcanon, hslice⟩ := sealNoted_spec n t k hs.1
  have hquiet := hr.slices hs.1 n
  have hns : (s.sealNoted n t k).Rises n := ⟨hcanon, by rw [hslice]; exact (congrArg (mrising 0) hquiet.trk).trans hs.2⟩
  have hn := (hv.trans (frame_endTrk n t v)).slices hcanon n
  refine ⟨?_, ?_, ?_, (closedAt_endTrk t (hv.rises hns)).2⟩
  · rw [hn.inBuf, hslice]; exact hquiet.inBuf
  · exact hn.status _ (by rw [hslice]; exact hnoted)
  · rw [hn.fences, hslice]; exact mfind_mins_self ..

/-! ### The memory-read timer -/

theorem memoryReadTimeout_leaves {node : BitVec 9} (hs : s.Rises n) (hk : s.trk n t = some k) (hkind : k.kind ≠ .msg .drainW)
    (hlive : k.stage = .live) (ht : (s.slice n).timers = true) (hnode : k.memNode = some node) (hmem : k.memTimer = true)
    (hhint : k.kind ≠ .msg .pfHint) :
    Frame false s (memoryReadTimeout n t s) ∧ bit ((memoryReadTimeout n t s).slice n).assay.status 0x13 = true ∧
    ∃ x, (memoryReadTimeout n t s).trk n t = some x ∧ x.stage = .ended ∧ (node.toNat, Owed.memDat) ∈ x.quar := by
  obtain ⟨r, hraise⟩ : ∃ r, r = raiseSlice n 0x13 { syn := BitVec.ofNat 16 t, node, addr := lineOf k.addr } s := ⟨_, rfl⟩
  obtain ⟨owed, howed⟩ : ∃ l, l = k.round.owes ++ k.owesMem ++ (answerP n t r).2 := ⟨_, rfl⟩
  have he : memoryReadTimeout n t s = advance n t (endInP n t k (memoryFin k) owed (answerP n t r).1) := by
    simp [memoryReadTimeout, hk, hnode, hmem, hlive, ht, hhint, hraise, howed]
  have hr : Quiet s r := hraise ▸ quiet_raiseSlice ..
  have hanswer := quiet_answerP n t r
  have hin : (node.toNat, Owed.memDat) ∈ owed := by simp [howed, Tracker.owesMem, hnode]
  have hframe : Frame false s (answerP n t r).1 := (hr.trans hanswer).frame
  have hpoison := frame_endInP n t k (memoryFin k) owed (answerP n t r).1
  have hadvance := frame_advance n t (endInP n t k (memoryFin k) owed (answerP n t r).1)
  rw [he]
  obtain ⟨x, hx, held, hended, hquar⟩ := stays_endInP k (memoryFin k) (hframe.rises hs)
    (((hr.trans hanswer).trk_eq hs t).trans hk) hkind (by simp [hlive]) (List.ne_nil_of_mem hin)
  obtain ⟨y, hy, hlead⟩ := hadvance.stays ((hframe.trans hpoison).rises hs) hx held
  have hnoted : bit (r.slice n).assay.status 0x13 = true := hraise ▸ noted_raiseSlice n (by decide) _ hs.1
  refine ⟨hframe.trans (hpoison.trans hadvance), ?_, y, hy, hlead.ended hended, hlead.quar _ (hquar _ hin)⟩
  exact (((hanswer.frame.trans hpoison)).trans hadvance).noted ((hr.frame (live := false)).rises hs) hnoted

/-! ### The stash-answer timer -/

/-- A tracker that no longer awaits a stash answer, and in quarantine for it. -/
def Tracker.stashGivenUp (k : Tracker) (peer : BitVec 9) : Tracker :=
  { k with
    waitStash := false, stashTimer := false, round := { k.round with todo := [], sent := [] }
    quar := k.quar ++ [(peer.toNat, Owed.stash)] }

theorem stashAnswerTimeout_leaves (hs : s.Rises n) (hk : s.trk n t = some k) (hkind : k.kind ≠ .msg .drainW)
    (ht : (s.slice n).timers = true) (hwait : k.waitStash = true) (htimer : k.stashTimer = true) :
    Frame false s (stashAnswerTimeout n t s) ∧ bit ((stashAnswerTimeout n t s).slice n).assay.status 0x11 = true ∧
    ∃ x, (stashAnswerTimeout n t s).trk n t = some x ∧ x.waitStash = false ∧ (k.peer.toNat, Owed.stash) ∈ x.quar := by
  obtain ⟨r, hraise⟩ : ∃ r, r = raiseSlice n 0x11 { syn := BitVec.ofNat 16 t, node := k.peer, addr := lineOf k.addr } s := ⟨_, rfl⟩
  have he : stashAnswerTimeout n t s = advance n t (writeBuf n t (r.updTrk n t (·.stashGivenUp k.peer))) := by
    simp [stashAnswerTimeout, stashRefused, hk, hwait, htimer, ht, hraise, Tracker.stashGivenUp]
  have hr : Quiet s r := hraise ▸ quiet_raiseSlice ..
  have hrs := (hr.frame (live := false)).rises hs
  have hgiven : Frame false r (r.updTrk n t (·.stashGivenUp k.peer)) := (Frame.refl r).upd n t _ fun x =>
    ⟨rfl, fun _ => List.mem_append_left _, id, fun _ => rfl, fun _ => rfl, rfl⟩
  have hwork := (frame_writeBuf (live := false) n t (r.updTrk n t (·.stashGivenUp k.peer))).trans (frame_advance n t _)
  have htrk : (r.updTrk n t (·.stashGivenUp k.peer)).trk n t = some (k.stashGivenUp k.peer) := by
    rw [State.trk_updTrk n t _ hrs.1, hr.trk_eq hs, hk]; rfl
  have hin : (k.peer.toNat, Owed.stash) ∈ (k.stashGivenUp k.peer).quar := List.mem_append_right _ (List.mem_singleton.2 rfl)
  have hnoted : bit (r.slice n).assay.status 0x11 = true := hraise ▸ noted_raiseSlice n (by decide) _ hs.1
  rw [he]
  obtain ⟨x, hx, hlead⟩ := hwork.stays (hgiven.rises hrs) htrk ⟨hkind, .inl (List.ne_nil_of_mem hin)⟩
  exact ⟨hr.frame.trans (hgiven.trans hwork), (hgiven.trans hwork).noted hrs hnoted, x, hx, hlead.stash rfl, hlead.quar _ hin⟩

/-! ### The timer of an eviction slot -/

/-- An eviction with one victim whose snoop is out does nothing before its answer comes. -/
theorem closeEvict_waits {e : Evict} {l : EvLine} (hk : s.trk n t = some k) (he : k.evict = some e) (hq : e.quarantined = false)
    (hl : e.lines = [l]) (hopen : l.round.ended = false) : closeEvict n t s = s.updTrk n t fun k => { k with evict := some e } := by
  obtain ⟨isLoaf, loaf, fine, lines, timer, quarantined⟩ := e
  obtain rfl : lines = [l] := hl
  obtain rfl : quarantined = false := hq
  simp [closeEvict, hk, he, hopen]

theorem slice_updTrk (f : Tracker → Tracker) (hc : s.canon = true) :
    (s.updTrk n t f).slice n = { s.slice n with trk := ((s.slice n).updTrk t f).trk } := by
  rw [State.updTrk, State.slice_updSlice_same n _ hc]; exact Slice.updTrk_eq ..

theorem noted_linesTimedOut (n t : Nat) (k : Tracker) (who : List Nat) (l : List EvLine) (names : Round → List Nat) {u : State}
    (hu : u.Rises n) : bit ((linesTimedOut n t k who l names u).slice n).assay.status 0x11 = true := by
  have hr := quiet_raiseSlice n 0x11
    { syn := BitVec.ofNat 16 t, node := BitVec.ofNat 9 (who.headD 0), addr := (l.map (·.line)).headD 0 } u
  have hplace : Frame false _ (linesTimedOut n t k who l names u) := frame_eachOf l _ (fun l u => by rw [placeP]; exact frame_placeIn ..) _
  exact hplace.noted ((hr.frame (live := false)).rises hu) (noted_raiseSlice n (by decide) _ hu.1)

/-- An eviction slot in quarantine, for the snoops of its one victim. -/
def Tracker.evictGivenUp (k : Tracker) (e : Evict) (l : EvLine) : Tracker :=
  { k with quar := k.quar ++ l.round.owes, evict := some { e with timer := false, quarantined := true, lines := [] } }

theorem evictTimedOut_eq {e : Evict} {l : EvLine} (hl : e.lines = [l]) (hopen : l.round.ended = false) (howes : l.round.owes ≠ []) :
    evictTimedOut n t k e s =
      (linesTimedOut n t k l.round.late [l] Round.late (s.updTrk n t (·.evictGivenUp e l))).updTrk n t fun k => k := by
  have hempty : l.round.owes.isEmpty = false := by simp [howes]
  simp [evictTimedOut, hl, hopen, hempty, Tracker.evictGivenUp]

theorem evictionSnoopTimeout_eq {e : Evict} {l : EvLine} (hs : s.Rises n) (hk : s.trk n t = some k) (ht : (s.slice n).timers = true)
    (he : k.evict = some e) (htimer : e.timer = true) (hq : e.quarantined = false) (hl : e.lines = [l]) (hopen : l.round.ended = false)
    (howes : l.round.owes ≠ []) :
    ∃ u, u.Rises n ∧ u.trk n t = some (k.evictGivenUp e l) ∧ (u.slice n).inBuf = (s.slice n).inBuf ∧
      evictionSnoopTimeout n t s = advance n t ((linesTimedOut n t k l.round.late [l] Round.late u).updTrk n t fun k => k) := by
  have hwaits := closeEvict_waits (s := s) (n := n) (t := t) hk he hq hl hopen
  have hv : (closeEvict n t s).Rises n := by rw [hwaits]; exact rises_updTrk t _ hs
  have hkv : (closeEvict n t s).trk n t = some k := by rw [hwaits, State.trk_updTrk n t _ hs.1, hk, Option.map_some, ← he]
  have hslice : (closeEvict n t s).slice n = { s.slice n with trk := ((closeEvict n t s).slice n).trk } := by
    rw [hwaits, slice_updTrk _ hs.1]
  generalize hcv : closeEvict n t s = v at hv hkv hslice
  refine ⟨v.updTrk n t (·.evictGivenUp e l), rises_updTrk t _ hv, ?_, ?_, ?_⟩
  · rw [State.trk_updTrk n t _ hv.1, hkv]; rfl
  · have hbuf : (v.slice n).inBuf = (s.slice n).inBuf := by rw [hslice]
    rw [slice_updTrk _ hv.1]; exact hbuf
  · have htv : (v.slice n).timers = true := by rw [hslice]; exact ht
    rw [← evictTimedOut_eq hl hopen howes]
    simp [evictionSnoopTimeout, hcv, hkv, he, htimer, hq, hl, hopen, htv]

theorem evictionSnoopTimeout_leaves {e : Evict} {l : EvLine} (hs : s.Rises n) (hk : s.trk n t = some k) (hkind : k.kind ≠ .msg .drainW)
    (ht : (s.slice n).timers = true) (he : k.evict = some e) (htimer : e.timer = true) (hq : e.quarantined = false) (hl : e.lines = [l])
    (hopen : l.round.ended = false) (howes : l.round.owes ≠ []) :
    ((evictionSnoopTimeout n t s).slice n).inBuf = (s.slice n).inBuf ∧
    bit ((evictionSnoopTimeout n t s).slice n).assay.status 0x11 = true ∧
    ∃ x e', (evictionSnoopTimeout n t s).trk n t = some x ∧ (∀ q ∈ l.round.owes, q ∈ x.quar) ∧ x.evict = some e' ∧
      e'.quarantined = true := by
  obtain ⟨u, hu, hku, hbuf, heq⟩ := evictionSnoopTimeout_eq hs hk ht he htimer hq hl hopen howes
  rw [heq]
  have hlines := frame_linesTimedOut (live := false) n t k l.round.late [l] Round.late u
  have hrest := ((Frame.refl (linesTimedOut n t k l.round.late [l] Round.late u)).upd n t (fun k => k) fun x => .refl false x).trans
    (frame_advance n t _)
  obtain ⟨x, hx, hlead⟩ := (hlines.trans hrest).stays hu hku ⟨hkind, .inl (by simp [Tracker.evictGivenUp, howes])⟩
  have hslot : x.evict.any (·.quarantined) = true := hlead.slot
  refine ⟨(((hlines.trans hrest).slices hu.1 n).inBuf).trans hbuf,
    hrest.noted (hlines.rises hu) (noted_linesTimedOut n t k _ _ _ hu), x, ?_⟩
  cases hxe : x.evict with
  | none => rw [hxe] at hslot; cases hslot
  | some e' =>
    rw [hxe] at hslot
    exact ⟨e', hx, fun q hq => hlead.quar q (List.mem_append_right _ hq), rfl, hslot⟩

end

end Sys2Proof.Machine
end

section
/-! SUPPORT. The work of a slice that scans nothing and has no job or census under way leaves its fine filter as it is, but for the
entry that a timed-out round writes in P (04 R131). -/

namespace Sys2Proof.Machine

/-- What leaves a slice's fine filter as it is. -/
structure Slice.Still (x y : Slice) : Prop where
  fine : y.arr.fine = x.arr.fine
  dis : y.fineDis = x.fineDis
  scans : y.scans = x.scans
  census : y.census = x.census
  mode : x.mode ≠ .broadcast → y.mode ≠ .broadcast

theorem Slice.Still.refl (x : Slice) : x.Still x := ⟨rfl, rfl, rfl, rfl, id⟩

theorem Slice.Still.trans {x y z : Slice} (h : x.Still y) (g : y.Still z) : x.Still z :=
  ⟨g.fine.trans h.fine, g.dis.trans h.dis, g.scans.trans h.scans, g.census.trans h.census, fun m => g.mode (h.mode m)⟩

/-- The fine filter of slice n, its ways, scans and censuses, and the jobs stay as they are. -/
structure Still (n : Nat) (s u : State) : Prop where
  canon : s.canon = true → u.canon = true
  jobs : u.spine.jobs = s.spine.jobs
  tray : u.spine.trayFt = s.spine.trayFt
  slice : s.canon = true → (s.slice n).Still (u.slice n)

section
variable {n : Nat} {s t u : State}

theorem Still.refl (s : State) : Still n s s := ⟨id, rfl, rfl, fun _ => .refl _⟩

theorem Still.trans (h : Still n s t) (g : Still n t u) : Still n s u :=
  ⟨fun c => g.canon (h.canon c), g.jobs.trans h.jobs, g.tray.trans h.tray, fun c => (h.slice c).trans (g.slice (h.canon c))⟩

theorem Still.ite {c : Prop} [Decidable c] (ht : Still n s t) (hu : Still n s u) : Still n s (if c then t else u) := by
  split
  · exact ht
  · exact hu

/-- Work that writes no slice and neither the jobs nor the tray ways. -/
theorem Still.of_slices (k : Keeps s u) (hs : u.slices = s.slices) (hj : u.spine.jobs = s.spine.jobs) (ht : u.spine.trayFt = s.spine.trayFt) :
    Still n s u :=
  ⟨k.canon, hj, ht, fun _ => by rw [State.slice, State.slice, hs, k.par]; exact .refl _⟩

theorem still_updSlice (f : Slice → Slice) (s : State) (hf : (s.slice n).Still (f (s.slice n))) : Still n s (s.updSlice n f) :=
  ⟨State.canon_updSlice n f, rfl, rfl, fun c => by rw [State.slice_updSlice_same n f c]; exact hf⟩

/-- A calm slice stays calm, and the entries of its fine filter stay as they are. -/
theorem Still.calm (h : Still n s u) (hc : s.canon = true) (hs : s.calm n) : u.calm n :=
  ⟨(h.slice hc).scans.trans hs.1, h.jobs.trans hs.2.1, (h.slice hc).census.trans hs.2.2⟩

theorem Still.fineAt (h : Still n s u) (hc : s.canon = true) (set w : Nat) : u.fineAt n set w = s.fineAt n set w := by
  simp only [State.fineAt, Slice.fineE, (h.slice hc).fine]

theorem Still.fineFind (h : Still n s u) (hc : s.canon = true) (a : PA) : u.fineFind n a = s.fineFind n a := by
  have hlive (w : Nat) : u.fineLive n w = s.fineLive n w := by simp only [State.fineLive, h.tray, (h.slice hc).dis]
  simp only [State.fineFind, hlive, h.fineAt hc]

end

/-! ### Faults and records -/

theorem still_feed (n node : Nat) (r : HRec) (s : State) : Still n s (s.feed node r) := by
  obtain ⟨hslices, -, -, -, hspine, -⟩ := feed_frame s node r
  exact .of_slices (keeps_feed ..) hslices (congrArg Spine.jobs hspine) (congrArg Spine.trayFt hspine)

theorem still_trigger (n src : Nat) (s : State) : Still n s (s.trigger src) := by
  rw [State.trigger]; exact .ite (.of_slices (keeps_updHall s fun h => { h with fatalDue := h.fatalDue + 1 }) rfl rfl rfl) (.refl s)

/-- A slice that enters HOLD is in no broadcast. -/
theorem still_setConds_hold (n : Nat) (s : State) : Still n s (s.setConds n fun c => { c with phase := .hold }) := by
  have hconds : Still n s (s.updSlice n fun sl => { sl with conds := { (s.slice n).conds with phase := .hold } }) :=
    still_updSlice _ _ ⟨rfl, rfl, rfl, rfl, fun _ h => by cases h⟩
  simp only [State.setConds]
  split
  · exact hconds
  · exact hconds.trans (still_feed ..)

theorem still_endSequence (n : Nat) (s : State) : Still n s (endSequence s) := by
  rw [endSequence]; exact .ite (.refl s) (.of_slices (keeps_updSpine ..) rfl rfl rfl)

theorem still_holdSlice (n : Nat) (s : State) : Still n s (holdSlice n s) := by
  have hqueue (u : State) : Still n u (u.updSpine fun sp => { sp with salvageQ := addNew sp.salvageQ n }) :=
    .of_slices (keeps_updSpine ..) rfl rfl rfl
  have hhold := (still_setConds_hold n s).trans (hqueue _)
  simp only [holdSlice]
  exact .ite (.refl s) (.ite (hhold.trans (still_endSequence ..)) hhold)

theorem still_raiseSlice (n src : Nat) (d : Detail) (s : State) : Still n s (raiseSlice n src d s) := by
  unfold raiseSlice
  refine (still_trigger n src s).trans ?_
  generalize s.trigger src = s
  have hnote (sev : BitVec 2) : Still n s (s.updSlice n fun sl => { sl with assay := sl.assay.capture sl.hclk 0 src sev d }) :=
    still_updSlice _ _ ⟨rfl, rfl, rfl, rfl, id⟩
  dsimp only
  split
  · exact ((hnote _).trans (still_feed ..)).trans (still_holdSlice ..)
  · exact (hnote _).trans (still_feed ..)

theorem still_send (n : Nat) (m : Msg) (s : State) : Still n s (s.send m) := .of_slices (keeps_send ..) rfl rfl rfl

theorem still_sendAll (n : Nat) (l : List Msg) (s : State) : Still n s (s.sendAll l) := .of_slices (keeps_sendAll ..) rfl rfl rfl

/-! ### Energy, times, trackers and the other arrays -/

theorem still_bill (n : Nat) (c : Bill) (s : State) : Still n s (bill n c s) := by
  simp only [bill]; exact still_updSlice _ _ ⟨rfl, rfl, rfl, rfl, id⟩

theorem still_addLat (n : Nat) (k : Tracker) (s : State) : Still n s (addLat n k s) := by
  rw [addLat]
  split
  · exact .ite (still_updSlice _ _ ⟨rfl, rfl, rfl, rfl, id⟩) (.refl s)
  · exact .refl s

theorem still_updTrk (n t : Nat) (f : Tracker → Tracker) (s : State) : Still n s (s.updTrk n t f) :=
  still_updSlice _ _ (by rw [Slice.updTrk_eq]; exact ⟨rfl, rfl, rfl, rfl, id⟩)

theorem still_dropTrk (n t : Nat) (s : State) : Still n s (s.updSlice n (·.dropTrk t)) := still_updSlice _ _ ⟨rfl, rfl, rfl, rfl, id⟩

theorem still_unpin (n : Nat) (a : PA) (s : State) : Still n s (unpin n a s) := by
  rw [unpin]
  split
  · exact still_updSlice _ _ ⟨rfl, rfl, rfl, rfl, id⟩
  · exact .refl s

theorem still_dropCopy (n : Nat) (a : PA) (s : State) : Still n s (dropCopy n a s) := by
  rw [dropCopy]
  split
  · exact still_updSlice _ _ ⟨rfl, rfl, rfl, rfl, id⟩
  · exact .refl s

theorem Slice.Still.urge (x : Slice) (l : List (Nat × MbEntry)) : x.Still (urge.eachMb x l) := by
  rw [urge.eachMb]
  induction l generalizing x with
  | nil => exact .refl x
  | cons kv r ih => exact Slice.Still.trans (y := x.putMb kv.1 _) ⟨rfl, rfl, rfl, rfl, id⟩ (ih _)

theorem still_urge (n : Nat) (a : PA) (s : State) : Still n s (urge n a s) := still_updSlice _ _ (.urge ..)

/-! ### The entry written in P -/

theorem hstate_inP (e : FineEntry) : e.inP.hstate = hsP := by
  rw [FineEntry.inP]; split <;> rfl

theorem hstate_setP (e : FineEntry) (l : List Nat) (v : BitVec 16) : (e.setP l v).hstate = hsP := hstate_inP _

theorem encFine_ne_zero {e : FineEntry} (h : e.free = false) : encFine e ≠ 0 := by
  intro h0
  have he : e = decFine 0 := by rw [← h0, decFine_encFine]
  rw [he] at h; exact absurd h (by decide)

theorem still_notePoison (a : PA) {n : Nat} {s : State} (hj : s.spine.jobs = []) : Still n s (notePoison a s) :=
  ⟨(keeps_updSpine ..).canon, by simp [notePoison, State.updSpine, hj], rfl, fun _ => .refl _⟩

/-- In a calm slice the entry written is the one given, with the line's tag; the slice stays calm. -/
theorem writeFine_calm {n : Nat} {a : PA} {w : Nat} {e : FineEntry} {s : State} (hc : s.canon = true) (hs : s.calm n)
    (he : e.free = false) :
    (writeFine n a w e s).fineAt n (fineSet a) w = e.withTag a ∧ (writeFine n a w e s).calm n := by
  let u := s.updSlice n (·.putFine (fineSet a) w (encFine (e.withTag a)))
  have hscrub : scrubAll s.scrubbing (e.withTag a) = (e.withTag a, false) := by simp [State.scrubbing, hs.2.1, scrubAll]
  have hput : writeFineW n (fineSet a) w (encFine (e.withTag a)) s = u := by simp [writeFineW, mirrorTo, hs.1, u, State.updSlice]
  have hfree : (e.withTag a).free = false := he
  have hslice : u.slice n = (s.slice n).putFine (fineSet a) w (encFine (e.withTag a)) := State.slice_updSlice_same n _ hc
  have hcanon : u.canon = true := State.canon_updSlice n _ hc
  have hcalm : u.calm n := ⟨by rw [hslice]; exact hs.1, hs.2.1, by rw [hslice]; exact hs.2.2⟩
  have hwritten : u.fineAt n (fineSet a) w = e.withTag a := by
    rw [State.fineAt, hslice, Slice.fineE, Slice.putFine, mget_mput_of_ne _ _ (encFine_ne_zero hfree), decFine_encFine]
  have hnote : Still n u (writeFine n a w e s) := by
    simp only [writeFine, hscrub, hfree, Bool.false_eq_true, if_false, hput]
    exact .ite (still_notePoison a hs.2.1) (.refl u)
  exact ⟨(hnote.fineAt hcanon ..).trans hwritten, hnote.calm hcanon hcalm⟩

/-- A line with an entry that is placed in P keeps its way: the entry is in P, and names the line. -/
theorem placeIn_calm {n t : Nat} {a : PA} {c : BitVec 4} {g : FineEntry → FineEntry} {s : State} {w : Nat} (hg : ∀ e, (g e).hstate = hsP)
    (hc : s.canon = true) (hs : s.calm n) (hm : (s.slice n).mode ≠ .broadcast) (hw : s.fineFind n a = some w) :
    ((placeIn n t a c g s).fineAt n (fineSet a) w).hstate = hsP ∧ ((placeIn n t a c g s).fineAt n (fineSet a) w).isFor a = true ∧
    (placeIn n t a c g s).calm n ∧ Quiet s (placeIn n t a c g s) := by
  have hstill : Still n s (urge n a (dropCopy n a s)) := (still_dropCopy ..).trans (still_urge ..)
  have hquiet : Quiet s (urge n a (dropCopy n a s)) := (quiet_dropCopy ..).trans (quiet_urge ..)
  have hplace : placeIn n t a c g s =
      writeFine n a w (g ((urge n a (dropCopy n a s)).fineAt n (fineSet a) w)) (urge n a (dropCopy n a s)) := by
    simp only [placeIn, (hstill.fineFind hc a).trans hw, (hstill.slice hc).mode hm, if_false]
  rw [hplace]
  generalize urge n a (dropCopy n a s) = u at *
  have hfree (e : FineEntry) : (g e).free = false := by simp [FineEntry.free, hg, hsP, hsI]
  obtain ⟨hat, hcalm⟩ := writeFine_calm (hstill.canon hc) (hstill.calm hc hs) (hfree (u.fineAt n (fineSet a) w)) (a := a) (w := w)
  refine ⟨by rw [hat]; exact hg _, by rw [hat]; simp [FineEntry.isFor, FineEntry.withTag], hcalm, hquiet.trans (quiet_writeFine ..)⟩

/-- The same for what a timed-out transaction leaves. -/
theorem writeFin_calm {n t : Nat} {k : Tracker} {f : Fin} {s : State} {w : Nat} (hc : s.canon = true) (hs : s.calm n)
    (hm : (s.slice n).mode ≠ .broadcast) (hw : s.fineFind n (lineOf k.addr) = some w) :
    let u := writeFin n t k f true s
    (u.fineAt n (fineSet (lineOf k.addr)) w).hstate = hsP ∧ (u.fineAt n (fineSet (lineOf k.addr)) w).isFor (lineOf k.addr) = true ∧
    u.calm n ∧ Quiet s u := by
  have hstill := still_unpin n (lineOf k.addr) s
  have hplace (g : FineEntry → FineEntry) (hg : ∀ e, (g e).hstate = hsP) :=
    placeIn_calm (t := t) (c := k.colour) hg (hstill.canon hc) (hstill.calm hc hs) ((hstill.slice hc).mode hm)
      ((hstill.fineFind hc (lineOf k.addr)).trans hw)
  have hunpin := quiet_unpin n (lineOf k.addr) s
  have hmode : writeFin n t k f true s = writePoison n t k f s := by simp [writeFin, hm, writeHold]
  rw [hmode]
  simp only [writePoison]
  split
  · obtain ⟨h1, h2, h3, h4⟩ := hplace _ fun _ => hstate_inP _
    exact ⟨h1, h2, h3, hunpin.trans h4⟩
  · obtain ⟨h1, h2, h3, h4⟩ := hplace _ fun _ => hstate_setP _ _ _
    exact ⟨h1, h2, h3, hunpin.trans h4⟩
  · refine (fun ⟨h1, h2, h3, h4⟩ => ⟨h1, h2, h3, hunpin.trans h4⟩) (hplace _ fun e => ?_)
    split
    · exact hstate_setP _ _ _
    · exact hstate_inP _

end Sys2Proof.Machine
end

section
/-! SUPPORT. The snoop-response timer (04 R131): in a calm slice the requester is answered, the line is left in P, and the tracker in
quarantine. -/

namespace Sys2Proof.Machine

variable {n t : Nat} {k : Tracker} {s : State}

/-! ### The end of the transaction -/

theorem still_freeIfDone (n t : Nat) (s : State) : Still n s (freeIfDone n t s) := by
  simp only [freeIfDone]
  split
  · exact .refl s
  · exact .ite (still_dropTrk ..) (.refl s)

theorem still_drainCheck (n : Nat) (s : State) : Still n s (drainCheck n s) := by
  refine eachOf_inv_mem (P := Still n s) (fun kv _ u hu => hu.trans ?_) (.refl s)
  refine .ite ?_ (.refl u)
  exact (still_send ..).trans ((still_dropTrk ..).trans ((still_bill ..).trans (still_addLat ..)))

theorem still_dropLoaf (k : Tracker) (hs : s.calm n) : Still n s (dropLoaf n k s) := by
  rw [dropLoaf]
  split
  · refine .ite ?_ (.refl s)
    simp only [writeLoafW, mirrorTo, hs.1, List.find?_nil]
    refine still_updSlice (fun _ => _) _ ?_
    exact ⟨rfl, rfl, rfl, rfl, id⟩
  · exact .refl s

/-- In a calm slice no mode change, no scrub and no census waits for a transaction. -/
theorem leave_calm (t : Nat) (k : Tracker) (hs : s.calm n) : leaveCensus n k (leaveScrub n k (endGrant n t k s)) = s := by
  obtain ⟨-, hjobs, hcensus⟩ := hs
  have hgrant : endGrant n t k s = s := by simp [endGrant, modeSetEnded, hjobs]
  have hscrub : leaveScrub n k s = s := by
    have hnone (e : FineEntry) : (scrubAll s.scrubbing e).1 = e := by simp [State.scrubbing, hjobs, scrubAll]
    simp only [leaveScrub, scrubLeft, hnone]
    split
    · split <;> simp
    · rfl
  rw [hgrant, hscrub]
  simp [leaveCensus, censusLeft, hcensus]

theorem still_closeTrk (t : Nat) (hc : s.canon = true) (hs : s.calm n) : Still n s (closeTrk n t s) := by
  cases hk : s.trk n t with
  | none => simp only [closeTrk, hk]; exact .refl s
  | some k =>
    have hclosed := still_updTrk n t Tracker.closed s
    have hcalm := hclosed.calm hc hs
    have hleft := still_dropLoaf k hcalm
    rw [closeTrk_eq hk, leave_calm t k (hleft.calm (hclosed.canon hc) hcalm)]
    exact hclosed.trans (hleft.trans (still_freeIfDone ..))

/-- A tracker in quarantine is closed and not freed. -/
theorem trk_closeTrk (hs : s.Rises n) (hk : s.trk n t = some k) (hquar : k.quar ≠ []) : (closeTrk n t s).trk n t = some k.closed := by
  obtain ⟨u, hu, he⟩ := closeTrk_quiet hk
  have hku : u.trk n t = some k.closed := by
    rw [hu.trk_eq (rises_updTrk t _ hs), State.trk_updTrk n t _ hs.1, hk]; rfl
  have hquar' : k.closed.quar.isEmpty = false := by simpa [Tracker.closed] using hquar
  rw [he, freeIfDone, hku]
  simp [hquar', hku]

/-- A tracker that serves no drain is left as it is by the drains answered. -/
theorem trk_drainCheck (hs : s.Rises n) (hk : s.trk n t = some k) (hkind : k.kind ≠ .msg .drainW) : (drainCheck n s).trk n t = some k := by
  refine (eachOf_inv_mem (P := fun u => u.Rises n ∧ u.trk n t = some k) (fun kv hkv u hu => ?_) ⟨hs, hk⟩).2
  simp only [List.mem_filter, Bool.and_eq_true, decide_eq_true_eq] at hkv
  have ht : t ≠ kv.1 := by
    rintro rfl
    obtain rfl := Option.some.inj (hk.symm.trans (mfind_of_mem hs.2 hkv.1))
    exact hkind hkv.2.1
  split
  · have hsend := quiet_send (homeMsg n kv.1 kv.2 .grant lsI) u
    have hrises := (hsend.frame (live := false)).rises hu.1
    generalize u.send (homeMsg n kv.1 kv.2 .grant lsI) = v at hsend hrises
    have hslice := State.slice_updSlice_same n (·.dropTrk kv.1) hrises.1
    have hdrop : (v.updSlice n (·.dropTrk kv.1)).Rises n :=
      ⟨State.canon_updSlice n _ hrises.1, by rw [hslice]; exact mrising_mdel hrises.2⟩
    have hkd : (v.updSlice n (·.dropTrk kv.1)).trk n t = some k := by
      rw [State.trk, hslice, Slice.tracker_dropTrk_ne hrises.2 ht]; exact (hsend.trk_eq hu.1 t).trans hu.2
    have hrest := (quiet_bill n .lookup (v.updSlice n (·.dropTrk kv.1))).trans (quiet_addLat n kv.2 _)
    exact ⟨(hrest.frame (live := false)).rises hdrop, (hrest.trk_eq hdrop t).trans hkd⟩
  · exact hu

/-- A tracker whose transaction has ended, with no eviction, writes no entry. -/
theorem still_advance (hs : s.Rises n) (hk : s.trk n t = some k) (hended : k.stage = .ended) (hevict : k.evict = none) :
    Still n s (advance n t s) := by
  have hpump : ∃ x l, pump n t s = (s.updTrk n t fun _ => x).sendAll l ∧ x.stage = .ended ∧ x.evict = none := by
    simp only [pump, hk, hevict]
    exact ⟨_, _, rfl, hended, rfl⟩
  obtain ⟨x, l, he, hxended, hxevict⟩ := hpump
  have hxk : (pump n t s).trk n t = some x := by
    rw [he]
    show (s.updTrk n t fun _ => x).trk n t = some x
    rw [State.trk_updTrk n t _ hs.1, hk]; rfl
  have hstill : Still n s (pump n t s) := by rw [he]; exact (still_updTrk ..).trans (still_sendAll ..)
  have hadvance : advance n t s = drainCheck n (freeIfDone n t (pump n t s)) := by
    unfold advance
    generalize pump n t s = u at hxk
    have hwork : answer n t (endRound n t (closeEvict n t (settleGone n t u))) = u := by
      simp [settleGone, settleRound, closeEvict, endRound, answer, hxk, hxended, hxevict]
    simp [hwork, hxk, Slice.complete, hxended]
  rw [hadvance]
  exact hstill.trans ((still_freeIfDone ..).trans (still_drainCheck ..))

/-! ### The round given up -/

/-- The answer to a read whose data is lost: STATE I, poisoned (04 R131). -/
def Tracker.lostAnswer (n t : Nat) (k : Tracker) : Msg :=
  { op := .datS, src := sliceNode n, dst := k.src, htrk := BitVec.ofNat 8 t, rqtx := k.rqtx, poison := true
    data := Config.lostData (lineOf k.addr), be := BitVec.allOnes 32 }

/-- A sealed read that has not been answered is answered with lost data, poisoned, and owes its Seal (04 R131). -/
theorem answerP_read {op : Op} (hk : s.trk n t = some k) (hkind : k.kind = .msg op) (hop : op = .rdShare ∨ op = .rdOwn ∨ op = .rdOnce)
    (hseal : k.sealGot = false) (hearly : k.early = false) (hsilent : k.silent = false) :
    answerP n t s = (s.send (k.lostAnswer n t), [(k.src.toNat, .seal)]) := by
  have hsealed : op.sealed = true := by rcases hop with rfl | rfl | rfl <;> rfl
  have hatom : op ≠ .atomOp := by rcases hop with rfl | rfl | rfl <;> decide
  simp [answerP, hk, hkind, hsealed, hatom, hseal, hearly, hsilent, homeMsg, Msg.full, lsI, Tracker.lostAnswer]

/-- A tracker left in quarantine for `owed`. -/
def Tracker.leftFor (k : Tracker) (owed : List (Nat × Owed)) : Tracker :=
  { k with toP := true, round := {}, memNode := none, quar := k.quar ++ owed }

/-- A transaction closed in a calm slice while its tracker is in quarantine. -/
theorem endTrk_calm (hs : s.Rises n) (hcalm : s.calm n) (hk : s.trk n t = some k) (hkind : k.kind ≠ .msg .drainW) (hquar : k.quar ≠ []) :
    Still n s (endTrk n t s) ∧ (endTrk n t s).trk n t = some k.closed :=
  have hclose := still_closeTrk t hs.1 hcalm
  ⟨hclose.trans (still_drainCheck ..), trk_drainCheck ((frame_closeTrk n t s).rises hs) (trk_closeTrk hs hk hquar) hkind⟩

/-- A read's transaction ended in P in a calm slice: what it leaves of the line, and its tracker. -/
theorem endInP_calm {f : Fin} {owed : List (Nat × Owed)} {op : Op} {w : Nat} (hs : s.Rises n) (hcalm : s.calm n)
    (hm : (s.slice n).mode ≠ .broadcast) (hk : s.trk n t = some k) (hkind : k.kind = .msg op)
    (hop : op = .rdShare ∨ op = .rdOwn ∨ op = .rdOnce) (hw : s.fineFind n (lineOf k.addr) = some w) (howed : owed ≠ []) :
    let u := endInP n t k f owed s
    (u.fineAt n (fineSet (lineOf k.addr)) w).hstate = hsP ∧ (u.fineAt n (fineSet (lineOf k.addr)) w).isFor (lineOf k.addr) = true ∧
    u.trk n t = some (k.leftFor owed).closed := by
  have hcount : countEvents n k .keep s = s := by
    have hatom : k.kind ≠ .msg .atomOp := by rw [hkind]; rcases hop with rfl | rfl | rfl <;> decide
    simp [countEvents, hatom]
  have horder (u : State) : endOrder k true u = u := by simp [endOrder, hkind]
  obtain ⟨hstate, hfor, hcalm', hquiet⟩ := writeFin_calm (t := t) (f := f) hs.1 hcalm hm hw
  have hbill (u : State) : Quiet u (addLat n k (bill n k.class u)) := (quiet_bill ..).trans (quiet_addLat ..)
  have hbill' (u : State) : Still n u (addLat n k (bill n k.class u)) := (still_bill ..).trans (still_addLat ..)
  simp only [endInP, hcount, horder]
  have hleft (u : State) : (u.updTrk n t fun k => { k with toP := true, round := {}, memNode := none, quar := k.quar ++ owed }) =
      u.updTrk n t (·.leftFor owed) := rfl
  rw [hleft]
  generalize writeFin n t k f true s = v at *
  have hv := (hquiet.frame (live := false)).rises hs
  have hv' := ((hbill v).frame (live := false)).rises hv
  have hkv' := ((hquiet.trans (hbill v)).trk_eq hs t).trans hk
  have hstill := hbill' v
  generalize addLat n k (bill n k.class v) = v' at *
  have howe := still_updTrk n t (·.leftFor owed) v'
  have hdrain : (k.leftFor owed).kind ≠ .msg .drainW := by
    rw [show (k.leftFor owed).kind = .msg op from hkind]; rcases hop with rfl | rfl | rfl <;> decide
  obtain ⟨hend, htrk⟩ := endTrk_calm (k := k.leftFor owed) (rises_updTrk t (·.leftFor owed) hv')
    (howe.calm hv'.1 (hstill.calm hv.1 hcalm')) (by rw [State.trk_updTrk n t _ hv'.1, hkv']; rfl) hdrain (by simp [Tracker.leftFor, howed])
  have hall := (hstill.trans howe).trans hend
  exact ⟨by rw [hall.fineAt hv.1]; exact hstate, by rw [hall.fineAt hv.1]; exact hfor, htrk⟩

/-- What a timed-out read's tracker is left to quarantine for. -/
def Tracker.lateRead (k : Tracker) : List (Nat × Owed) := k.round.owes ++ k.owesMem ++ [(k.src.toNat, .seal)]

/-- The timer of a sealed read: the fault, the answer with lost data, then the transaction ended in P. -/
theorem snoopResponseTimeout_eq {op : Op} (hs : s.Rises n) (hk : s.trk n t = some k) (hlive : k.stage = .live)
    (ht : (s.slice n).timers = true) (hkind : k.kind = .msg op) (hop : op = .rdShare ∨ op = .rdOwn ∨ op = .rdOnce)
    (htimer : k.snoopTimer = true) (hopen : k.round.ended = false) (hseal : k.sealGot = false) (hearly : k.early = false)
    (hsilent : k.silent = false) :
    ∃ v, Quiet s v ∧ Still n s v ∧ bit (v.slice n).assay.status 0x11 = true ∧ k.lostAnswer n t ∈ v.mesh ∧
      snoopResponseTimeout n t s = advance n t (endInP n t k (timeoutFin k) k.lateRead v) := by
  obtain ⟨r, hr⟩ : ∃ r, r = raiseSlice n 0x11
    { syn := BitVec.ofNat 16 t, node := BitVec.ofNat 9 (k.round.late.headD 0), addr := lineOf k.addr } s := ⟨_, rfl⟩
  have hquiet : Quiet s r := hr ▸ quiet_raiseSlice ..
  have hstill : Still n s r := hr ▸ still_raiseSlice ..
  have hnoted : bit (r.slice n).assay.status 0x11 = true := hr ▸ noted_raiseSlice n (by decide) _ hs.1
  have hkr : r.trk n t = some k := (hquiet.trk_eq hs t).trans hk
  refine ⟨r.send (k.lostAnswer n t), hquiet.trans (quiet_send ..), hstill.trans (still_send ..), hnoted,
    List.mem_append_right _ (List.mem_singleton.2 rfl), ?_⟩
  have hround : roundTimedOut n t k.round.late (timeoutFin k) s = endInP n t k (timeoutFin k) k.lateRead (r.send (k.lostAnswer n t)) := by
    simp only [roundTimedOut, hk, ← hr, answerP_read hkr hkind hop hseal hearly hsilent, Tracker.lateRead]
  simp [snoopResponseTimeout, snoopTimedOut, hround, hk, hlive, htimer, ht, hkind, hopen]

theorem snoopResponseTimeout_leaves {op : Op} {w : Nat} (hs : s.Rises n) (hcalm : s.calm n) (hm : (s.slice n).mode ≠ .broadcast)
    (hk : s.trk n t = some k) (hlive : k.stage = .live) (ht : (s.slice n).timers = true) (hkind : k.kind = .msg op)
    (hop : op = .rdShare ∨ op = .rdOwn ∨ op = .rdOnce) (htimer : k.snoopTimer = true) (hopen : k.round.ended = false)
    (hevict : k.evict = none) (hseal : k.sealGot = false) (hearly : k.early = false) (hsilent : k.silent = false)
    (hw : s.fineFind n (lineOf k.addr) = some w) :
    let u := snoopResponseTimeout n t s
    Frame false s u ∧ bit (u.slice n).assay.status 0x11 = true ∧ k.lostAnswer n t ∈ u.mesh ∧
    (u.fineAt n (fineSet (lineOf k.addr)) w).hstate = hsP ∧ (u.fineAt n (fineSet (lineOf k.addr)) w).isFor (lineOf k.addr) = true ∧
    ∃ x, u.trk n t = some x ∧ x.stage = .ended ∧ ∀ q ∈ k.lateRead, q ∈ x.quar := by
  obtain ⟨v, hquiet, hstill, hnoted, hmesh, he⟩ := snoopResponseTimeout_eq hs hk hlive ht hkind hop htimer hopen hseal hearly hsilent
  have howed : k.lateRead ≠ [] := by simp [Tracker.lateRead]
  have hv := (hquiet.frame (live := false)).rises hs
  obtain ⟨hstate, hfor, htrk⟩ := endInP_calm (f := timeoutFin k) hv (hstill.calm hs.1 hcalm) ((hstill.slice hs.1).mode hm)
    ((hquiet.trk_eq hs t).trans hk) hkind hop ((hstill.fineFind hs.1 _).trans hw) howed
  have hend := frame_endInP n t k (timeoutFin k) k.lateRead v
  have hu := hend.rises hv
  have hadvance := frame_advance n t (endInP n t k (timeoutFin k) k.lateRead v)
  have hstay := still_advance hu htrk rfl hevict
  have hquar (q : Nat × Owed) (hq : q ∈ k.lateRead) : q ∈ (k.leftFor k.lateRead).closed.quar := List.mem_append_right _ hq
  have hdrain : (k.leftFor k.lateRead).closed.kind ≠ .msg .drainW := by
    rw [show (k.leftFor k.lateRead).closed.kind = .msg op from hkind]; rcases hop with rfl | rfl | rfl <;> decide
  obtain ⟨x, hx, hlead⟩ := hadvance.stays hu htrk ⟨hdrain, .inl (by simp [Tracker.leftFor, Tracker.closed, howed])⟩
  rw [he]
  refine ⟨(hquiet.frame.trans hend).trans hadvance, (hend.trans hadvance).noted hv hnoted, (hend.trans hadvance).mesh _ hmesh, ?_, ?_,
    x, hx, hlead.ended rfl, fun q hq => hlead.quar q (hquar q hq)⟩
  · rw [hstay.fineAt hu.1]; exact hstate
  · rw [hstay.fineAt hu.1]; exact hfor

end Sys2Proof.Machine
end

section
/-! SUPPORT. The times of holds and of lines in Anvil mode (06 R178, R188, Tables 06-6 and 06-7). -/

namespace Sys2Proof.Machine

variable {n : Nat} {s : State}

/-! ### Holds -/

/-- No hold of the line is left. -/
def Slice.unheld (x : Slice) (a : PA) : Slice := { x with holds := x.holds.filter fun h => h.line != a }

theorem mem_holds_unheld (x : Slice) (a : PA) (h : Hold) : h ∈ (x.unheld a).holds ↔ h ∈ x.holds ∧ h.line ≠ a := by
  simp [Slice.unheld, List.mem_filter]

theorem heldBy_unheld (x : Slice) (a : PA) (req : Nat) : (x.unheld a).heldBy a req = false := by
  rw [Slice.heldBy, List.any_eq_false]
  intro h hh
  have hline := ((mem_holds_unheld x a h).1 hh).2
  simp [hline]

/-- A census step that waits for no line. -/
theorem censusLeft_of_none {a : PA} (h : ∀ c ∈ (s.slice n).census, ¬ a ∈ c.left) : censusLeft n a s = s := by
  have hnone : (s.slice n).census.find? (fun c => c.left.contains a) = none := by simpa using h
  simp only [censusLeft, hnone]

theorem holdExpiry_leaves (line : PA) (hc : s.canon = true) :
    let u := holdExpiry n line s
    (u.slice n).inBuf = (s.slice n).inBuf ∧ (u.slice n).holds = ((s.slice n).unheld (lineOf line)).holds ∧
    (u.slice n).trk = (s.slice n).trk ∧
    ((∀ c ∈ (s.slice n).census, ¬ lineOf line ∈ c.left) → (u.slice n).arr = (s.slice n).arr ∧ ∀ i, i ≠ n → u.slice i = s.slice i) := by
  have he : holdExpiry n line s = censusLeft n (lineOf line) (s.updSlice n (·.unheld (lineOf line))) := rfl
  have hslice := State.slice_updSlice_same n (·.unheld (lineOf line)) hc
  have hquiet := (quiet_censusLeft n (lineOf line) (s.updSlice n (·.unheld (lineOf line)))).slices (State.canon_updSlice n _ hc) n
  rw [hslice] at hquiet
  rw [he]
  refine ⟨hquiet.inBuf, hquiet.holds, hquiet.trk, fun hnone => ?_⟩
  rw [censusLeft_of_none (by rw [hslice]; exact hnone)]
  exact ⟨by rw [hslice]; rfl, fun i hi => State.slice_updSlice_ne _ hc hi⟩

/-! ### Anvil mode -/

/-- The slice, its mirrored writes aside. -/
def Slice.MirrorsOnly (x y : Slice) : Prop := ∃ l q, y = { x with mirrored := l, mirrorQ := q }

theorem slice_mirrorSend (key : Bool × Nat × Nat) (w : Wire) (hc : s.canon = true) :
    (s.slice n).MirrorsOnly ((mirrorSend n key w s).slice n) ∧ (mirrorSend n key w s).mesh = s.mesh := by
  rcases mirrorSend_cases n key w s with ⟨_, _, e⟩ | ⟨_, e⟩ <;> rw [e]
  · exact ⟨⟨_, (s.slice n).mirrorQ, State.slice_updSlice_same n (fun _ => _) hc⟩, rfl⟩
  · exact ⟨⟨(s.slice n).mirrored, _, State.slice_updSlice_same n (fun _ => _) hc⟩, rfl⟩

/-- A fine word written. -/
theorem slice_writeFineW (set way : Nat) (x : Entry) (hc : s.canon = true) :
    ((s.slice n).putFine set way x).MirrorsOnly ((writeFineW n set way x s).slice n) ∧ (writeFineW n set way x s).mesh = s.mesh := by
  obtain ⟨v, hv⟩ : ∃ v, v = s.setSlice n ((s.slice n).putFine set way x) := ⟨_, rfl⟩
  have hput : v.slice n = (s.slice n).putFine set way x := hv ▸ State.slice_updSlice_same n (fun _ => _) hc
  have hcanon : v.canon = true := hv ▸ State.canon_updSlice n (fun _ => _) hc
  have hmesh : v.mesh = s.mesh := hv ▸ rfl
  simp only [writeFineW, ← hv]
  split
  · obtain ⟨hslice, hm⟩ := slice_mirrorSend (n := n) (s := v) _ _ hcanon
    exact ⟨hput ▸ hslice, hm.trans hmesh⟩
  · exact ⟨⟨_, _, hput⟩, hmesh⟩

/-- The pin of the line's way, and nothing else of the slice's arrays, is cleared. -/
theorem unpin_spec (a : PA) (hs : s.Rises n) (hflags : mrising 0 (s.slice n).arr.hlcFlags = true) :
    ((unpin n a s).slice n).arr.fine = (s.slice n).arr.fine ∧ ((unpin n a s).slice n).arr.hlc = (s.slice n).arr.hlc ∧
    (unpin n a s).mesh = s.mesh ∧ ∀ v, s.hlcFind n a = some v → ((unpin n a s).slice n).pin (hlcSet a) v = false := by
  rw [unpin]
  split
  · next w hw =>
    have hslice := State.slice_updSlice_same n (fun sl => sl.putFlags (hlcSet a) w false (sl.pfu (hlcSet a) w)) hs.1
    refine ⟨by rw [hslice]; rfl, by rw [hslice]; rfl, rfl, fun v hv => ?_⟩
    obtain rfl := Option.some.inj (hw.symm.trans hv)
    have hlt : w < 8 := by
      simp only [State.hlcFind] at hw
      split at hw
      · cases hw
      · exact List.mem_range.1 (List.mem_of_find?_eq_some hw)
    rw [hslice, Slice.pin, Slice.putFlags, mget_mput_same _ _ _ hflags, bit_setBit _ _ _ _ (by omega), if_neg (by omega),
      bit_setBit _ _ _ _ (by omega), if_pos rfl]
  · next hnone => exact ⟨rfl, rfl, rfl, fun v hv => by rw [hnone] at hv; cases hv⟩

/-- The line's entry in Anvil mode. -/
def State.anvilAt (s : State) (n : Nat) (a : PA) (w : Nat) : Bool :=
  (s.fineAt n (fineSet a) w).anvil && (s.fineAt n (fineSet a) w).isFor a

theorem anvilIdleExit_eq {line : PA} {w : Nat} (hs : s.Rises n) (ht : (s.slice n).timers = true) (howns : s.owns n (lineOf line) = true)
    (hbusy : ∀ kv ∈ (s.slice n).trk, kv.2.blocks (lineOf line) = false)
    (hw : (List.range 16).find? (s.anvilAt n (lineOf line)) = some w) (hlive : s.fineLive n w = true) :
    anvilIdleExit n line s = freeFine n (fineSet (lineOf line)) w (unpin n (lineOf line) s) := by
  have hidle : ((s.slice n).trk.any fun kv => kv.2.blocks (lineOf line)) = false := by
    rw [List.any_eq_false]; intro kv hkv; simp [hbusy kv hkv]
  have hanvil : (List.range 16).any (fun w => s.fineLive n w && (s.fineAt n (fineSet (lineOf line)) w).anvil &&
      (s.fineAt n (fineSet (lineOf line)) w).isFor (lineOf line)) = true := by
    have hat : s.anvilAt n (lineOf line) w = true := List.find?_some hw
    refine List.any_eq_true.2 ⟨w, List.mem_of_find?_eq_some hw, ?_⟩
    rw [hlive, Bool.true_and]; exact hat
  have hfound : (List.range 16).find? ((unpin n (lineOf line) s).anvilAt n (lineOf line)) = some w := by
    rw [← hw]; congr 1; funext i
    simp only [State.anvilAt, (still_unpin n (lineOf line) s).fineAt hs.1]
  have hexit : anvilExit n (lineOf line) s = freeFine n (fineSet (lineOf line)) w (unpin n (lineOf line) s) := by
    unfold State.anvilAt at hfound
    simp only [anvilExit, hfound]
  rw [← hexit]
  simp only [anvilIdleExit, ht, howns, hidle, hanvil, Bool.not_false, Bool.and_true, if_true]

theorem anvilIdleExit_leaves {line : PA} {w : Nat} (hs : s.Rises n) (hfine : mrising 0 (s.slice n).arr.fine = true)
    (hflags : mrising 0 (s.slice n).arr.hlcFlags = true) (ht : (s.slice n).timers = true) (howns : s.owns n (lineOf line) = true)
    (hbusy : ∀ kv ∈ (s.slice n).trk, kv.2.blocks (lineOf line) = false)
    (hw : (List.range 16).find? (s.anvilAt n (lineOf line)) = some w) (hlive : s.fineLive n w = true) :
    let u := anvilIdleExit n line s
    Quiet s u ∧ (u.slice n).fineE (fineSet (lineOf line)) w = 0 ∧
    (∀ v, s.hlcFind n (lineOf line) = some v → (u.slice n).pin (hlcSet (lineOf line)) v = false) ∧
    (u.slice n).arr.hlc = (s.slice n).arr.hlc ∧ u.mesh = s.mesh := by
  rw [anvilIdleExit_eq hs ht howns hbusy hw hlive]
  have hquiet := quiet_unpin n (lineOf line) s
  obtain ⟨hfineU, hhlc, hmesh, hpin⟩ := unpin_spec (lineOf line) hs hflags
  obtain ⟨⟨l, q, hslice⟩, hmeshW⟩ := slice_writeFineW (n := n) (fineSet (lineOf line)) w 0 (hquiet.canon hs.1)
  refine ⟨hquiet.trans (quiet_freeFine ..), ?_, fun v hv => ?_, ?_, hmeshW.trans hmesh⟩
  · rw [freeFine, hslice]
    refine mget_mput_same (lo := 0) 0 _ _ ?_
    rw [hfineU]; exact hfine
  · rw [freeFine, hslice]; exact hpin v hv
  · rw [freeFine, hslice]; exact hhlc

end Sys2Proof.Machine
end

section
/-! SUPPORT. O49. -/

namespace Sys2Proof.Machine

/-- What the tables of a slice that rise are. -/
theorem rising_arrays {s : State} (n : Nat) (ht : s.tablesRise = true) :
    mrising 0 (s.slice n).arr.fine = true ∧ mrising 0 (s.slice n).arr.hlcFlags = true := by
  refine mget_all (p := fun x : Slice => mrising 0 x.arr.fine = true ∧ mrising 0 x.arr.hlcFlags = true) ⟨rfl, rfl⟩ (fun kv hkv => ?_) n
  simp only [State.tablesRise, Bool.and_eq_true, List.all_eq_true] at ht
  have hslice := ht.1.1.1.1 kv hkv
  simp only [Slice.rising, Bool.and_eq_true] at hslice
  tauto

/-- Settles O49: each timer is read off from what it leaves. -/
theorem timersFire : Obligations.TimersFire := by
  refine ⟨?_, ?_, ?_⟩
  · intro s n t k hc htables hn hk hlive ht hbuf hmirrored hpause hkind a
    have hs := rises_of_tablesRise n hc htables
    have run {f : State → State} (hf : ((f s).slice n).inBuf = (s.slice n).inBuf) : onTimer n f s = .next (f s) :=
      onTimer_eq hn hmirrored hpause (hf.trans hbuf)
    refine ⟨?_, ?_, ?_, ?_, ?_⟩
    · intro op h w hop hread htimer hsent hearlyWb hevict hseal hearly hsilent hmode hcalm hw
      obtain ⟨hframe, hnoted, hmesh, hstate, hfor, x, hx, hended, hquar⟩ := snoopResponseTimeout_leaves hs hcalm hmode hk hlive ht hop hread
        htimer (by simp [Round.ended, hsent]) hevict hseal hearly hsilent hw
      have howes : (h, Owed.snDone) ∈ k.lateRead := by simp [Tracker.lateRead, Round.owes, hsent, hearlyWb]
      exact ⟨_, x, run (hframe.slices hc n).inBuf, hnoted, hmesh, hstate, hfor, hx, hended, hquar _ howes,
        hquar _ (by simp [Tracker.lateRead])⟩
    · intro e l h he htimer hquar hlines hsent hearlyWb
      have howes : (h, Owed.snDone) ∈ l.round.owes := by simp [Round.owes, hsent, hearlyWb]
      obtain ⟨hframe, hnoted, x, e', hx, hin, hslot⟩ := evictionSnoopTimeout_leaves hs hk hkind ht he htimer hquar hlines
        (by simp [Round.ended, hsent]) (List.ne_nil_of_mem howes)
      exact ⟨_, x, e', run hframe, hnoted, hx, hin _ howes, hslot⟩
    · intro hseal
      obtain ⟨hframe, hleaves⟩ := sealTimeout_leaves hs hk hlive ht hseal
      exact ⟨_, run hframe, hleaves⟩
    · intro node hnode hmem hhint
      obtain ⟨hframe, hnoted, x, hx⟩ := memoryReadTimeout_leaves hs hk hkind hlive ht hnode hmem hhint
      exact ⟨_, x, run (hframe.slices hc n).inBuf, hnoted, hx⟩
    · intro hwait htimer
      obtain ⟨hframe, hnoted, x, hx⟩ := stashAnswerTimeout_leaves hs hk hkind ht hwait htimer
      exact ⟨_, x, run (hframe.slices hc n).inBuf, hnoted, hx⟩
  · intro s n line hc htables hn hbuf hmirrored hpause a
    have hs := rises_of_tablesRise n hc htables
    have run {f : State → State} (hf : ((f s).slice n).inBuf = (s.slice n).inBuf) : onTimer n f s = .next (f s) :=
      onTimer_eq hn hmirrored hpause (hf.trans hbuf)
    refine ⟨?_, ?_, ?_⟩
    · obtain ⟨hin, hholds, htrk, hnone⟩ := holdExpiry_leaves (n := n) line hc
      refine ⟨_, run hin, fun h => ?_, fun req => ?_, htrk, hnone⟩
      · rw [hholds]; exact mem_holds_unheld _ _ h
      · rw [Slice.heldBy, hholds]; exact heldBy_unheld _ _ req
    · have hslice := State.slice_updSlice_same n (fun sl : Slice => { sl with cooldowns := sl.cooldowns.filter (· != lineOf line) }) hc
      refine ⟨_, run (f := anvilCooldownEnd n line) (by rw [anvilCooldownEnd, hslice]), fun c => ?_, ?_, fun i hi => ?_⟩
      · rw [anvilCooldownEnd, hslice]; simp [List.mem_filter, a]
      · rw [anvilCooldownEnd, hslice]
      · exact State.slice_updSlice_ne _ hc hi
    · intro w ht howns hbusy hw hlive
      obtain ⟨hfine, hflags⟩ := rising_arrays n htables
      obtain ⟨hquiet, hfree, hpin, hhlc, hmesh⟩ := anvilIdleExit_leaves hs hfine hflags ht howns hbusy hw hlive
      have hn := hquiet.slices hc n
      exact ⟨_, run hn.inBuf, hfree, hpin, hhlc, hn.trk, hmesh⟩
  · intro s n t line hc hn hpause c hmem
    simp only [List.mem_cons, List.not_mem_nil, or_false] at hmem
    rcases hmem with rfl | rfl | rfl | rfl | rfl | rfl | rfl | rfl | rfl <;> exact onTimer_paused _ hn hpause

end Sys2Proof.Machine
end

section
/-! SUPPORT. A header of spine control (03 Table 03-8: class REQ, opcodes 0x18 to 0x1F, from the spine to a home slice): HEADER_TAKE
leaves it to SPINE_CONTROL_ORDER. -/

namespace Sys2Proof.Machine

/-- HEADER_TAKE takes no header of spine control, whatever its bucket. -/
theorem headerTake_spine {f : Flits} {op : Op} (n t : Nat) (s : State) (hop : flitOp f = some op) (hspine : op.spine = true) :
    headerTake n t f s = s := by
  cases op with
  | spineCtl k =>
    have hnone : (Op.spineCtl k).notAtSlice = false := rfl
    simp [headerTake, rxSlice, hop, hspine, hnone]
  | _ => cases hspine

/-- Spine control from the spine to slice 1 for line 0. -/
def spineOrder : Msg := { op := .spineCtl 0, src := spineNode, dst := sliceNode 1 }

/-- The block after reset with that header in the mesh; slice 1 never had the bucket of line 0. -/
def spineOrdered : State := { State.reset with mesh := [spineOrder] }

theorem mayHead_spineOrder : spineOrdered.mayHead 1 (encode spineOrder) spineOrder := by decide +kernel

theorem bkt_spineOrder : (spineOrdered.bkt 1 (bucketOf spineOrder.addr)).bad = false ∧
    (spineOrdered.bkt 1 (bucketOf spineOrder.addr)).kind = .none := by decide +kernel

/-- The command runs and changes nothing. -/
theorem exec_headerTake_spineOrder : exec (.headerTake 1 0 (encode spineOrder)) spineOrdered = .next spineOrdered := by
  obtain ⟨⟨hbuilt, -⟩, ⟨-, hspells⟩, -⟩ := mayHead_spineOrder
  calc exec (.headerTake 1 0 (encode spineOrder)) spineOrdered
      = .next (headerTake 1 0 (encode spineOrder) spineOrdered) := atSlice_built _ hbuilt
    _ = .next spineOrdered := by rw [headerTake_spine 1 0 _ (flitOp_of_decode hspells) rfl]

/-- Refutes O43: spine control is a REQ that a slice may be sent and its sender may send, so the statement's first clause speaks of it
too; but HEADER_TAKE changes nothing for such a header, and source 0x16 is not raised for a bucket that the slice never had. -/
theorem not_headerChecks : ¬ Obligations.HeaderChecks := by
  intro ⟨hheader, _⟩
  obtain ⟨hgood, hkind⟩ := bkt_spineOrder
  obtain ⟨-, -, -, hnever, -⟩ := hheader spineOrdered 1 0 (encode spineOrder) spineOrder (by decide) mayHead_spineOrder rfl rfl
    (by decide) (by decide) (by decide) hgood
  obtain ⟨u, hu, hraised, -⟩ := hnever hkind
  obtain rfl : spineOrdered = u := by injection exec_headerTake_spineOrder.symm.trans hu
  exact absurd hraised (by decide)

end Sys2Proof.Machine
end

section
/-! SUPPORT. Ring commands that set the block (04 Table 04-10, 06 R166, R184, 11 R287, 16 R411): the run of a command that may start,
what each command does with legal operands, and the completion of a command and of its job. -/

namespace Sys2Proof.Machine

/-! ### The run of a command -/

/-- A command that may start does its work on the state in which it is marked started. -/
theorem startCmd_runs {s t : State} {f idx opc : Nat} {k : Taken} {go : Taken → State → Option State}
    (h : s.mayStart f idx opc k) (hgo : go k (s.begin f idx) = some t) : atFn f s (startCmd f idx opc go) = .next t := by
  obtain ⟨hfn, htaken, hopc, hstart, hform, hrun⟩ := h
  have hwork : startCmd f idx opc go s = (go k (s.begin f idx)).getD s := by
    simp [startCmd, htaken, hopc, hstart, hform, hrun, State.begin]
  rw [atFn_built _ hfn, hwork, hgo, Option.getD_some]

/-! ### TIMEOUT_SET, ANVIL_CONFIG and MODE_SET -/

section
variable {f idx : Nat} {k : Taken} {s : State}

theorem timeoutSet_legal (h8 : k.num 8 2 ≤ 1000) (h10 : k.num 10 2 ≤ 1000) (h12 : k.num 12 2 ≤ 10000)
    (h0 : k.num 12 2 = 0 ∨ 10 ≤ k.num 12 2) :
    timeoutSet f idx k s = some (completeCmd f idx ccOK 0 (s.updSpine fun sp => { sp with
      toSnoop := if k.num 8 2 = 0 then sp.toSnoop else k.num 8 2
      toSeal := if k.num 10 2 = 0 then sp.toSeal else k.num 10 2
      toMem := if k.num 12 2 = 0 then sp.toMem else k.num 12 2 })) := by
  refine if_neg ?_
  simp only [Bool.or_eq_true, Bool.and_eq_true, bne_iff_ne, decide_eq_true_eq]
  omega

theorem anvilConfig_legal (h8 : k.num 8 1 ≤ 1) (h9 : 2 ≤ k.num 9 1) (h10 : 1 ≤ k.num 10 2) (h10' : k.num 10 2 ≤ 1000)
    (h12 : 10 ≤ k.num 12 2) (h12' : k.num 12 2 ≤ 10000) (h14 : k.num 14 2 ≤ 10000)
    (hpause : k.num 8 1 = 1 ∨ ∀ n, n < s.par.nSlice → s.paused n = false) :
    let u := s.updSpine fun sp => { sp with
      anvil := { enable := decide (k.num 8 1 = 1), threshold := k.num 9 1, window := k.num 10 2, idle := k.num 12 2
                 cooldown := k.num 14 2 } }
    anvilConfig f idx k s = some (completeCmd f idx ccOK 0 (if k.num 8 1 = 1 then u
      else eachOf u.sliceNums (fun n s => eachOf (s.anvilLines n) (anvilExit n) s) u)) := by
  have hlegal : ¬ (1 < k.num 8 1 || k.num 9 1 < 2 || k.num 10 2 < 1 || 1000 < k.num 10 2 || k.num 12 2 < 10 ||
      10000 < k.num 12 2 || 10000 < k.num 14 2) = true := by
    simp only [Bool.or_eq_true, decide_eq_true_eq]; omega
  have hgo : ¬ (decide (k.num 8 1 = 0) && s.sliceNums.any s.paused) = true := by
    rcases hpause with h | h
    · simp [h]
    · simpa [State.sliceNums] using fun _ => h
  exact (if_neg hlegal).trans (if_neg hgo)

theorem modeSet_local (h : k.num 8 1 = 1) :
    modeSet f idx k s = some (completeCmd f idx ccOK 0 (s.updFn f fun x => { x with local_ := true })) := by
  simp [modeSet, h, doneCmd]

theorem modeSet_mca (h : k.num 8 1 = 0) :
    let u := s.updFn f fun x => { x with local_ := false }
    modeSet f idx k s = some (if u.earlyOf f = [] then completeCmd f idx ccOK 0 u
      else (u.addJob (some (f, idx)) (.modeSet (u.earlyOf f))).1) := by
  simp [modeSet, h, doneCmd, apply_ite some]

end

/-! ### HALLMARK_CONFIG -/

/-- A bucket as HALLMARK_CONFIG leaves it. -/
def Bucket.configured (x : Bucket) (burst period : Nat) : Bucket := { x with burst, period, tokens := min x.tokens burst }

/-- A bucket that is configured again with the same settings stays as it is. -/
theorem Bucket.configured_configured (x : Bucket) (burst period : Nat) :
    (x.configured burst period).configured burst period = x.configured burst period := by simp [Bucket.configured]

/-- The state in which the buckets of some codes are configured. -/
def hmConfigured (burst period : Nat) (l : List Nat) (s : State) : State :=
  eachOf l (fun c s => s.updHall fun h => h.setBucket c ((h.bucket c).configured burst period)) s

/-- Configuring buckets changes nothing else. -/
theorem hmConfigured_frame (burst period : Nat) (l : List Nat) (s : State) :
    let u := hmConfigured burst period l s
    u.hall.buf = s.hall.buf ∧ u.fns = s.fns ∧ u.slices = s.slices ∧ u.spine = s.spine :=
  eachOf_inv (fun u => u.hall.buf = s.hall.buf ∧ u.fns = s.fns ∧ u.slices = s.slices ∧ u.spine = s.spine) l
    (fun c s => s.updHall fun h => h.setBucket c ((h.bucket c).configured burst period)) (fun _ _ h => h) s ⟨rfl, rfl, rfl, rfl⟩

theorem Hallmark.bucket_setBucket {h : Hallmark} (c d : Nat) (b : Bucket) (hr : mrising 0 h.buckets = true) :
    (h.setBucket c b).bucket d = if d = c then b else h.bucket d := by
  split
  · next e => subst e; exact mget_mput_same _ _ _ hr
  · next e => exact mget_mput_ne _ _ _ hr e

/-- The buckets of the codes named, and of no others, are configured. -/
theorem bucket_hmConfigured {burst period : Nat} {l : List Nat} {s : State} (d : Nat) (hr : mrising 0 s.hall.buckets = true) :
    (hmConfigured burst period l s).hall.bucket d =
      if d ∈ l then (s.hall.bucket d).configured burst period else s.hall.bucket d := by
  induction l generalizing s with
  | nil => rfl
  | cons c l ih =>
    rw [hmConfigured, eachOf_cons, ← hmConfigured, ih (mrising_mput _ _ (Nat.zero_le _) hr)]
    simp only [State.updHall_hall, Hallmark.bucket_setBucket c d _ hr, List.mem_cons]
    by_cases hd : d = c
    · subst hd; simp [Bucket.configured_configured]
    · simp [hd]

/-- A record changes neither the buckets of the recorder nor its buffer. -/
theorem feed_hall (s : State) (node : Nat) (r : HRec) :
    (s.feed node r).hall.buckets = s.hall.buckets ∧ (s.feed node r).hall.buf = s.hall.buf := by
  rcases feed_cases s node r with e | ⟨-, e⟩ | ⟨-, e⟩ <;> rw [e] <;> exact ⟨rfl, rfl⟩

/-- HALLMARK_CONFIG with legal operands configures the buckets it names, makes its record and ends OK. -/
theorem hallmarkConfig_legal {f idx : Nat} {k : Taken} {s : State} (hlist : hmListed (k.num 8 2) = true) (hmode : k.num 11 1 ≤ 1)
    (hsec : k.num 11 1 = 0 → hmSec (k.num 8 2) = false) (hperiod : k.num 12 2 ≠ 0) :
    ∃ t, hallmarkConfig f idx k s = some (completeCmd f idx ccOK 0 t) ∧
      t.hall.buckets = (hmConfigured (k.num 10 1) (k.num 12 2) (configCodes (k.num 8 2) (k.num 11 1)) s).hall.buckets ∧
      t.hall.buf = s.hall.buf ∧ t.fns = s.fns ∧ t.slices = s.slices ∧ t.spine = s.spine := by
  have hlegal : ¬ (!hmListed (k.num 8 2) || 1 < k.num 11 1 || (k.num 11 1 = 0 && hmSec (k.num 8 2)) || k.num 12 2 = 0) = true := by
    simpa [hlist, hmode, hperiod] using hsec
  obtain ⟨hbuf, hfns, hslices, hspine⟩ :=
    hmConfigured_frame (k.num 10 1) (k.num 12 2) (configCodes (k.num 8 2) (k.num 11 1)) s
  obtain ⟨hslices', -, -, hfns', hspine', -⟩ := feed_frame _ spineFeed _
  exact ⟨_, if_neg hlegal, (feed_hall ..).1, (feed_hall ..).2.trans hbuf, hfns'.trans hfns, hslices'.trans hslices,
    hspine'.trans hspine⟩

theorem mem_configCodes_class {c code : Nat} :
    c ∈ configCodes code 1 ↔ c < 4096 ∧ c / 256 = code / 256 ∧ hmListed c = true ∧ hmSec c = false := by
  simp [configCodes, and_assoc]

/-- What the bucket table of the recorder is where every table rises. -/
theorem rising_buckets {s : State} (h : s.tablesRise = true) : mrising 0 s.hall.buckets = true := by
  simp only [State.tablesRise, Hallmark.rising, Bool.and_eq_true] at h
  obtain ⟨-, ⟨-, hbuckets⟩, -⟩ := h
  exact hbuckets

/-! ### Jobs and the completion of a command (12 R307) -/

theorem idx_of_taken {s : State} {f idx : Nat} {k : Taken} (h : s.taken f idx = some k) : k.idx = idx := by
  simpa using List.find?_some h

theorem fn_begin {s : State} (f idx : Nat) (c : s.canon = true) :
    (s.begin f idx).fn f = { s.fn f with
      taken := (s.fn f).taken.map fun y => if y.idx = idx then { y with started := true } else y } :=
  State.fn_updFn_same f _ c

/-- A command marked started is still taken, and differs in that mark alone. -/
theorem taken_begin {s : State} {f idx : Nat} {k : Taken} (c : s.canon = true) (h : s.taken f idx = some k) :
    (s.begin f idx).taken f idx = some { k with started := true } := by
  have hmark : ∀ l : List Taken,
      (l.map fun y => if y.idx = idx then { y with started := true } else y).find? (fun y => y.idx = idx) =
      (l.find? fun y => y.idx = idx).map fun y => { y with started := true } := by
    intro l
    induction l with
    | nil => rfl
    | cons y l ih => by_cases hy : y.idx = idx <;> simp [hy, ih]
  rw [State.taken, fn_begin f idx c, hmark]
  exact congrArg _ h

/-- A function's command completed: it is taken no more, and its entry waits behind the others. -/
def Fn.completed (x : Fn) (idx : Nat) (d : Done) : Fn :=
  { x with taken := x.taken.filter fun y => y.idx != idx, done := x.done ++ [d] }

theorem completeCmd_fn {s : State} {f idx result : Nat} {code : BitVec 8} {k : Taken} (c : s.canon = true)
    (h : s.taken f idx = some k) (ho : k.orphan = false) :
    (completeCmd f idx code result s).fn f = (s.fn f).completed idx (k.doneWith code result) ∧
      (completeCmd f idx code result s).slices = s.slices ∧ (completeCmd f idx code result s).mesh = s.mesh ∧
      (completeCmd f idx code result s).spine = s.spine := by
  simp only [completeCmd, h, ho, Bool.not_false, if_true]
  refine ⟨?_, rfl, rfl, rfl⟩
  rw [State.fn_updFn_same f _ (State.canon_updFn f _ c), State.fn_updFn_same f _ c, Taken.doneWith, idx_of_taken h]
  rfl

theorem Fn.completed_taken (x : Fn) (idx : Nat) (d : Done) : (x.completed idx d).taken.find? (fun k => k.idx = idx) = none := by
  simp [Fn.completed]

/-! ### WINDOW_SYNC (11 R287) -/

section
variable {s : State} {f idx mark : Nat}

theorem eachOf_append {α : Type} (l l' : List α) (g : α → State → State) (s : State) :
    eachOf (l ++ l') g s = eachOf l' g (eachOf l g s) := List.foldl_append

/-- With no other WINDOW_SYNC, only the one just begun is looked at. -/
theorem syncDone_addJob (hsync : s.noSync = true) :
    let t := (s.addJob (some (f, idx)) (.windowSync mark)).1
    syncDone f t = if (s.fn f).winPast mark then finishJob s.spine.nextJob ccOK 0 t else t := by
  intro t
  have hjobs : t.spine.jobs = s.spine.jobs ++ [{ id := s.spine.nextJob, cmd := some (f, idx), kind := .windowSync mark }] := rfl
  have hother : ∀ j ∈ s.spine.jobs, ∀ m, j.kind ≠ .windowSync m := by
    intro j hj m hkind
    have := List.all_eq_true.1 hsync j hj
    rw [hkind] at this
    cases this
  rw [syncDone, hjobs, eachOf_append, eachOf_fixed (l := s.spine.jobs)]
  · simp [t, State.addJob]
  · intro j hj
    split
    · exact absurd rfl (hother _ hj _)
    · rfl

/-- The number of a new job names that job. -/
theorem job_addJob (cmd : Option (Nat × Nat)) (kind : JobKind) (hid : ∀ j ∈ s.spine.jobs, j.id < s.spine.nextJob) :
    (s.addJob cmd kind).1.job s.spine.nextJob = some { id := s.spine.nextJob, cmd, kind } := by
  have hnone : (s.spine.jobs.find? fun j => j.id = s.spine.nextJob) = none :=
    List.find?_eq_none.2 fun j hj => by simpa using (hid j hj).ne
  simp [State.job, State.addJob, hnone]

/-- A new job dropped leaves the jobs before it. -/
theorem dropJob_addJob (cmd : Option (Nat × Nat)) (kind : JobKind) (hid : ∀ j ∈ s.spine.jobs, j.id < s.spine.nextJob) :
    ((s.addJob cmd kind).1.dropJob s.spine.nextJob).spine.jobs = s.spine.jobs := by
  have hkeep : s.spine.jobs.filter (fun j => j.id != s.spine.nextJob) = s.spine.jobs :=
    List.filter_eq_self.2 fun j hj => by simpa using (hid j hj).ne
  simp [State.dropJob, State.addJob, hkeep]

/-- The operations before a mark are not past as long as one of them waits. -/
theorem Fn.winPast_eq_false {x : Fn} : x.winPast mark = false ↔ ∃ r ∈ x.win, r.reg = none ∧ r.num < mark := by
  simp [Fn.winPast]

/-- WINDOW_SYNC with no operation before it waiting ends at once. -/
theorem windowSync_ends {k : Taken} (c : s.canon = true) (hsync : s.noSync = true)
    (hid : ∀ j ∈ s.spine.jobs, j.id < s.spine.nextJob) (ht : s.taken f idx = some k) (ho : k.orphan = false)
    (hpast : (s.fn f).winPast (s.fn f).winCount = true) (k' : Taken) :
    ∃ t, windowSync f idx k' s = some t ∧ t.fn f = (s.fn f).completed idx (k.doneWith ccOK 0) ∧
      t.slices = s.slices ∧ t.mesh = s.mesh ∧ t.spine.jobs = s.spine.jobs := by
  refine ⟨_, congrArg some ((syncDone_addJob hsync).trans (if_pos hpast)), ?_⟩
  simp only [finishJob, job_addJob _ _ hid]
  have hdropped := dropJob_addJob (some (f, idx)) (.windowSync (s.fn f).winCount) hid
  obtain ⟨hfn, hslices, hmesh, hspine⟩ := completeCmd_fn (result := 0) (code := ccOK)
    (s := (s.addJob (some (f, idx)) (.windowSync (s.fn f).winCount)).1.dropJob s.spine.nextJob) c ht ho
  exact ⟨hfn, hslices, hmesh, (congrArg Spine.jobs hspine).trans hdropped⟩

/-- WINDOW_SYNC stays taken while an operation before it waits. -/
theorem windowSync_waits (hsync : s.noSync = true) (hpast : (s.fn f).winPast (s.fn f).winCount = false) (k : Taken) :
    windowSync f idx k s = some (s.addJob (some (f, idx)) (.windowSync (s.fn f).winCount)).1 :=
  congrArg some ((syncDone_addJob hsync).trans (if_neg (by rw [hpast]; exact Bool.false_ne_true)))

end

/-- Settles O22: legal operands pass each command's checks, and a WINDOW_SYNC ends as soon as the window operations before it have. -/
theorem settingsCommands : Obligations.SettingsCommands := by
  unfold Obligations.SettingsCommands
  refine ⟨fun s f idx k => ⟨?_, ?_, ?_, ?_, ?_, ?_⟩, ?_⟩
  · intro hstart h8 h10 h12 h0
    exact startCmd_runs hstart (timeoutSet_legal h8 h10 h12 h0)
  · intro hstart h8 h9 h10 h10' h12 h12' h14 hpause
    exact startCmd_runs hstart (anvilConfig_legal h8 h9 h10 h10' h12 h12' h14 hpause)
  · intro hstart hlocal
    exact startCmd_runs hstart (modeSet_local hlocal)
  · intro hstart hmca
    exact startCmd_runs hstart (modeSet_mca hmca)
  · intro hstart hlist hsec hmode hperiod
    obtain ⟨t, hgo, hbuckets, hrest⟩ := hallmarkConfig_legal (f := f) (idx := idx) (s := s.begin f idx) hlist (by omega)
      (fun _ => hsec) hperiod
    refine ⟨t, startCmd_runs hstart hgo, hbuckets.trans ?_, hrest⟩
    rw [hmode]; rfl
  · intro hstart hrise hlist hmode hperiod
    obtain ⟨t, hgo, hbuckets, hrest⟩ := hallmarkConfig_legal (f := f) (idx := idx) (s := s.begin f idx) hlist (by omega)
      (by omega) hperiod
    refine ⟨t, startCmd_runs hstart hgo, fun c => ?_, hrest⟩
    have hb := bucket_hmConfigured (burst := k.num 10 1) (period := k.num 12 2) (l := configCodes (k.num 8 2) 1)
      (s := s.begin f idx) c (rising_buckets (s := s) hrise)
    simp only [mem_configCodes_class] at hb
    rw [Hallmark.bucket, hbuckets, hmode]
    exact hb
  · intro s f idx k c hstart ho hsync hid
    have htaken := taken_begin c hstart.2.1
    have cb : (s.begin f idx).canon = true := State.canon_updFn f _ c
    obtain ⟨hwin, hdone, hcount⟩ : ((s.begin f idx).fn f).win = (s.fn f).win ∧ ((s.begin f idx).fn f).done = (s.fn f).done ∧
        ((s.begin f idx).fn f).winCount = (s.fn f).winCount := by rw [fn_begin f idx c]; exact ⟨rfl, rfl, rfl⟩
    cases hpast : ((s.begin f idx).fn f).winPast ((s.begin f idx).fn f).winCount with
    | true =>
      obtain ⟨t, hgo, hfn, hslices, hmesh, hjobs⟩ := windowSync_ends cb hsync hid htaken ho hpast k
      refine ⟨t, startCmd_runs hstart hgo, hslices, hmesh, ?_, fun _ => ⟨?_, ?_, hjobs⟩, fun hwait => ?_⟩
      · rw [hfn, ← hwin]; rfl
      · rw [State.taken, hfn]; exact Fn.completed_taken ..
      · rw [hfn, ← hdone]; rfl
      · rw [← hwin, ← hcount, ← Fn.winPast_eq_false, hpast] at hwait
        cases hwait
    | false =>
      refine ⟨_, startCmd_runs hstart (windowSync_waits (s := s.begin f idx) hsync hpast k), rfl, rfl, hwin, fun hnone => ?_,
        fun _ => ⟨?_, hdone, ?_⟩⟩
      · obtain ⟨r, hr, -⟩ := Fn.winPast_eq_false.1 hpast
        rw [hwin, hnone] at hr
        cases hr
      · exact Option.isSome_of_eq_some htaken
      · rw [← hcount]; rfl

end Sys2Proof.Machine
end

section
/-! SUPPORT. Drains at a shim (06 R168, R171): the copies sent, the Grants that answer them, and the end of the drain. -/

namespace Sys2Proof.Machine

section
variable {s : State} {sh : Nat} {d : Drain}

/-! ### The end of a drain -/

/-- The shim's own Grant for a drain (log 31). -/
def drainGranted (sh : Nat) (rqtx : BitVec 10) : Out :=
  .toAgent sh { op := .grant, src := agentNode sh, dst := agentNode sh, rqtx }

/-- A shim's only drain ends: the bits that it drained are cleared, and its agent gets the Grant (06 R168 step 4). -/
theorem drainDone_setShim {x : Shim} (c : s.canon = true) (hd : x.drains = [d]) (hheld : d.held = none) (hgone : d.gone = false) :
    drainDone sh d (s.setShim sh x) =
      (s.setShim sh { x with drains := [], drainVec := x.drainVec &&& ~~~ d.bits }).emit (drainGranted sh d.rqtx) := by
  simp [drainDone, hheld, hgone, updShim_setShim sh x _ c, hd, answerAgent, drainGranted]

/-! ### DRAIN_COPIES_SEND -/

/-- The slices that a drain begun now is to drain: those whose bit is set and that are not lost. -/
def Shim.toDrain (x : Shim) : List Nat := (List.range 68).filter fun n => bit x.drainVec n && !x.lost.contains n

/-- The copies that have a place in the REQ queue when a drain begins (03 R94, log 77). -/
def Shim.copyRoom (x : Shim) (d : Drain) : Nat :=
  max (32 - (x.reqQ.length + if d.held.isSome then 1 else 0)) (if x.reqQ.isEmpty then 1 else 0)

/-- A drain begun, with its first copies queued. -/
def Drain.begun (d : Drain) (x : Shim) : Drain :=
  { d with sent := true, todo := x.toDrain.drop (x.copyRoom d), waiting := x.toDrain, bits := x.drainVec }

/-- Copies of a drain's DrainW queued one after another. -/
theorem eachOf_queueReq (x : Shim) (l : List Nat) (copy : Nat → Msg) (c : s.canon = true) :
    eachOf l (fun n s => queueReq sh (copy n) s) (s.setShim sh x) =
      s.setShim sh { x with reqQ := x.reqQ ++ l.map fun n => { m := copy n } } := by
  induction l generalizing x with
  | nil => rw [eachOf_nil, List.map_nil, List.append_nil]
  | cons n l ih =>
    rw [eachOf_cons, queueReq, updShim_setShim sh x _ c, ih]
    simp

theorem Drain.begin_of_unsent (x : Shim) (h : d.sent = false) :
    d.begin x = { d with sent := true, todo := x.toDrain, waiting := x.toDrain, bits := x.drainVec } := by
  simp [Drain.begin, h, Shim.toDrain]

/-- A drain under way takes a place in the REQ queue only for a message that it holds (03 Table 03-15). -/
theorem Shim.reqUsed_of_sent {x : Shim} (hd : x.drains = [d]) (h : d.sent = true) :
    x.reqUsed = x.reqQ.length + if d.held.isSome then 1 else 0 := by
  rw [Shim.reqUsed, hd]
  cases hheld : d.held <;> simp [h, hheld]

/-- The only drain, which no older header holds back, begins (06 R168 steps 1 and 2). -/
theorem drainCopiesSend_begins (c : s.canon = true) (hd : (s.shim sh).drains = [d]) (hready : (s.shim sh).drainReady d = true) :
    let x := s.shim sh
    drainCopiesSend sh s = drainNext sh (d.begun x) (s.setShim sh { x with
      drains := [d.begun x]
      reqQ := x.reqQ ++ (x.toDrain.take (x.copyRoom d)).map fun n =>
        { m := { op := .drainW, src := agentNode sh, dst := sliceNode n, rqtx := d.rqtx } } }) := by
  simp only [drainCopiesSend, State.updShim]
  generalize s.shim sh = x at *
  have hsent : d.sent = false := by
    simp only [Shim.drainReady, Bool.and_eq_true, Bool.not_eq_true'] at hready
    exact hready.1
  have hfind : [d].find? (fun d => x.drainReady d || !d.todo.isEmpty) = some d := by simp [hready]
  simp only [hd, hfind, d.begin_of_unsent x hsent, List.map_cons, List.map_nil, if_true]
  rw [eachOf_queueReq _ _ _ c, Shim.reqUsed_of_sent rfl rfl]
  rfl

/-- A drain that has copies to wait for goes on. -/
theorem drainCopiesSend_sends (c : s.canon = true) (hd : (s.shim sh).drains = [d]) (hready : (s.shim sh).drainReady d = true)
    (hl : (s.shim sh).toDrain ≠ []) :
    let x := s.shim sh
    drainCopiesSend sh s = s.setShim sh { x with
      drains := [d.begun x]
      reqQ := x.reqQ ++ (x.toDrain.take (x.copyRoom d)).map fun n =>
        { m := { op := .drainW, src := agentNode sh, dst := sliceNode n, rqtx := d.rqtx } } } := by
  refine (drainCopiesSend_begins c hd hready).trans (if_neg ?_)
  simpa [Drain.begun] using hl

/-- A drain with no slice to drain is granted at once. -/
theorem drainCopiesSend_grants (c : s.canon = true) (hd : (s.shim sh).drains = [d]) (hready : (s.shim sh).drainReady d = true)
    (hl : (s.shim sh).toDrain = []) (hheld : d.held = none) (hgone : d.gone = false) :
    drainCopiesSend sh s =
      (s.setShim sh { s.shim sh with drains := [], drainVec := 0 }).emit (drainGranted sh d.rqtx) := by
  have hdone : ((d.begun (s.shim sh)).sent && (d.begun (s.shim sh)).waiting.isEmpty) = true := by simp [Drain.begun, hl]
  calc drainCopiesSend sh s
      = drainDone sh (d.begun (s.shim sh)) _ := (drainCopiesSend_begins c hd hready).trans (if_pos hdone)
    _ = _ := drainDone_setShim c rfl hheld hgone
    _ = _ := by simp [hl, Drain.begun]

/-! ### The Grant of a copy -/

/-- SHIM_MESH_MESSAGE with a good message that an agent may be sent. -/
theorem exec_shimMeshMessage {f : Flits} {m : Msg} (hsh : s.hasShim sh = true) (hi : (s.shim sh).assay.inj.count = 0)
    (hf : arrives f (agentNode sh) m) (hroom : (s.shim sh).roomIn m = true) (hok : notAtAgent (isCaching sh) m = false) :
    exec (.shimMeshMessage sh f) s = .next (toAgent sh { m, datBad := false, det := rxDetail f false } (s.takeMesh m)) := by
  obtain ⟨hdst, hspells⟩ := hf
  refine (atShim_built (shimMeshMessage sh f) hsh).trans (congrArg _ ?_)
  simp only [shimMeshMessage, hdst, hspells, hroom, bne_self_eq_false, Bool.not_true, Bool.false_eq_true, if_false]
  exact receive_good _ (fun k => injShim_idle k hi) hspells hok

/-- The answer of the last slice that a shim's only drain waits for ends the drain. -/
theorem drainAnswer_last {n : Nat} (c : s.canon = true) (hd : (s.shim sh).drains = [d]) (hsent : d.sent = true)
    (hheld : d.held = none) (hgone : d.gone = false) (hwait : d.waiting = [n]) :
    drainAnswer sh n d s =
      (s.setShim sh { s.shim sh with drains := [], drainVec := (s.shim sh).drainVec &&& ~~~ d.bits }).emit
        (drainGranted sh d.rqtx) := by
  simp only [drainAnswer, drainNext, hsent, hwait, State.updShim, hd, List.map_cons, List.map_nil, if_true]
  rw [if_pos (by simp)]
  exact Eq.trans (drainDone_setShim c rfl hheld hgone) rfl

/-- The Grant of a slice answers the drain that waits for it. -/
theorem toAgent_drainGrant {m : Msg} {det : Detail} {n : Nat} (hsil : (s.shim sh).silenced = false)
    (hst : (s.shim sh).st ≠ .idle) (hlost : (s.shim sh).lost = []) (hd : (s.shim sh).drains = [d]) (hsent : d.sent = true)
    (hwait : n ∈ d.waiting) (hop : m.op = .grant) (hrqtx : m.rqtx = d.rqtx) (hsrc : nodeSlice m.src = some n) :
    toAgent sh { m, datBad := false, det } s = drainAnswer sh n d s := by
  have hgrant : (s.shim sh).drainGrant m = some (n, d) := by simp [Shim.drainGrant, hsrc, hop, hd, hsent, hrqtx, hwait]
  have hhome : (s.shim sh).lostMsg m = false := by cases hm : m.home <;> simp [Shim.lostMsg, hlost, hm]
  simp [toAgent, hsil, hst, hgrant, hhome]

end

end Sys2Proof.Machine
end

section
/-! SUPPORT. Map updates at a shim (05 R151, 08 R229): which of them wait for a header, and what BUCKET_MAP_UPDATE installs and
acknowledges. -/

namespace Sys2Proof.Machine

/-! ### Map updates acknowledged (05 R151, 08 R229) -/

section
variable {s : State} {sh : Nat}

/-- A map update waits for a header that the shim built before it (05 R151). -/
def Shim.updWaits (x : Shim) (u : MapUpd) : Bool :=
  x.acks && x.outst.any fun o => o.bucket = u.bucket && o.built.any (· < u.seq)

theorem Shim.updWaits_of_header {x : Shim} {u : MapUpd} {o : Outst} {k : Nat} (ha : x.acks = true) (ho : o ∈ x.outst)
    (hb : o.bucket = u.bucket) (hk : o.built = some k) (hlt : k < u.seq) : x.updWaits u = true := by
  simp only [Shim.updWaits, ha, Bool.true_and, List.any_eq_true]
  exact ⟨o, ho, by simp [hb, hk, hlt]⟩

theorem Shim.updWaits_of_none {x : Shim} {u : MapUpd} (h : ∀ o ∈ x.outst, o.bucket ≠ u.bucket ∨ o.built = none) :
    x.updWaits u = false := by
  have hnone : (x.outst.any fun o => o.bucket = u.bucket && o.built.any (· < u.seq)) = false :=
    List.any_eq_false.2 fun o ho => by rcases h o ho with hb | hb <;> simp [hb]
  rw [Shim.updWaits, hnone, Bool.and_false]

theorem wires_eachOf_wire {α : Type} (l : List α) (w : α → Wire) (s : State) :
    (eachOf l (fun u s => s.wire (w u)) s).wires = s.wires ++ l.map w := by
  induction l generalizing s with
  | nil => exact (List.append_nil _).symm
  | cons u l ih => rw [eachOf_cons, ih]; simp

/-- The updates that wait for nothing are acknowledged. -/
theorem mem_wires_ackUpds {u : MapUpd} (hu : u ∈ (s.shim sh).upds) (h : (s.shim sh).updWaits u = false) :
    Wire.mapAck sh u.bucket u.gen ∈ (ackUpds sh s).wires := by
  simp only [ackUpds, State.updShim_wires, wires_eachOf_wire]
  refine List.mem_append_right _ (List.mem_map.2 ⟨u, List.mem_filter.2 ⟨hu, ?_⟩, rfl⟩)
  rw [← Bool.not_false, ← h]; rfl

/-- The updates that wait for a header stay, and nothing else of the shim changes. -/
theorem shim_ackUpds (sh : Nat) {s : State} (c : s.canon = true) :
    (ackUpds sh s).shim sh = { s.shim sh with upds := (s.shim sh).upds.filter (s.shim sh).updWaits } := by
  obtain ⟨hframe, hshims⟩ := shimFrame_mapAcks sh ((s.shim sh).upds.filter fun u => !(s.shim sh).updWaits u) s
  refine (State.shim_updShim_same sh _ (hframe.keeps.canon c)).trans ?_
  rw [show State.shim _ sh = s.shim sh from congrArg (mget ({} : Shim) · sh) hshims]
  rfl

/-! ### BUCKET_MAP_UPDATE (08 R229) -/

/-- The map of a shim where every table rises. -/
theorem rising_bmap {s : State} (sh : Nat) (h : s.tablesRise = true) : mrising 0 (s.shim sh).bmap = true := by
  refine mget_all (p := fun x : Shim => mrising 0 x.bmap = true) rfl (fun kv hkv => ?_) sh
  simp only [State.tablesRise, Bool.and_eq_true, List.all_eq_true] at h
  obtain ⟨⟨⟨⟨-, hshims⟩, -⟩, -⟩, -⟩ := h
  exact (hshims kv hkv).1

theorem canon_setBmap (sh b : Nat) (e : BMapEntry) (c : s.canon = true) : (s.setBmap sh b e).canon = true :=
  State.canon_updShim sh _ c

/-- An entry of a shim's map written: it is read there, and the others stay. -/
theorem bmap_setBmap {b : Nat} {e : BMapEntry} (c : s.canon = true) (hr : mrising 0 (s.shim sh).bmap = true) (i : Nat) :
    (s.setBmap sh b e).bmap sh i = if i = b then e else s.bmap sh i := by
  rw [State.bmap, State.setBmap, State.shim_updShim_same sh _ c]
  split
  · next h => subst h; exact mget_mput_same _ _ _ hr
  · next h => exact mget_mput_ne _ _ _ hr h

/-- An update noted as not yet acknowledged: it takes the place of an older one for its bucket. -/
def Shim.updNoted (x : Shim) (b : Nat) (gen : BitVec 6) : Shim :=
  { x with seq := x.seq + 1
           upds := (x.upds.filter fun u => u.bucket != b) ++ [{ bucket := b, gen, seq := x.seq }] }

/-- An entry installed; where it is to be acknowledged, that is noted, and done at once if nothing stands before it. -/
def mapInstalled (sh b : Nat) (e : BMapEntry) (ack : Bool) (s : State) : State :=
  let s := s.setBmap sh b e
  if ack then ackUpds sh (s.updShim sh fun x => x.updNoted b e.gen) else s

/-- The k-th map update for a shim is discarded if the entry is newer, and otherwise installed (08 R229, log 79). -/
theorem bucketMapUpdate_eq {k b slice engine : Nat} {gen : BitVec 6} {ack : Bool}
    (h : s.findWire k (fun w => match w with | .mapUpdate k .. => k = sh | _ => false) =
      some (.mapUpdate sh b slice engine gen ack)) :
    bucketMapUpdate sh k s =
      let t := s.takeWire (.mapUpdate sh b slice engine gen ack)
      if !newerGen gen (s.bmap sh b).gen && gen != (s.bmap sh b).gen then t else mapInstalled sh b { slice, engine, gen } ack t := by
  unfold bucketMapUpdate
  split
  · next heq => cases heq.symm.trans h; rfl
  · next hne => exact absurd h (hne _ _ _ _ _ _)

theorem shimFrame_mapInstalled (sh b : Nat) (e : BMapEntry) (ack : Bool) (s : State) :
    ShimFrame sh s (mapInstalled sh b e ack s) := by
  have hset : ShimFrame sh s (s.setBmap sh b e) := shimFrame_updShim ..
  cases ack
  · exact hset
  · exact hset.trans ((shimFrame_updShim ..).trans (shimFrame_ackUpds ..))

/-- The shim after a map update: besides the map only the order of its headers and the updates to be acknowledged change. -/
theorem shim_mapInstalled (sh b : Nat) (e : BMapEntry) (ack : Bool) (c : s.canon = true) :
    ∃ seq upds, (mapInstalled sh b e ack s).shim sh = { (s.setBmap sh b e).shim sh with seq, upds } := by
  cases ack
  · exact ⟨_, _, rfl⟩
  · rw [mapInstalled, if_pos rfl, shim_ackUpds sh (State.canon_updShim sh _ (canon_setBmap sh b e c)),
      State.shim_updShim_same sh _ (canon_setBmap sh b e c)]
    exact ⟨_, _, rfl⟩

theorem reqQ_mapInstalled (sh b : Nat) (e : BMapEntry) (ack : Bool) (c : s.canon = true) :
    ((mapInstalled sh b e ack s).shim sh).reqQ = (s.shim sh).reqQ := by
  obtain ⟨seq, upds, hshim⟩ := shim_mapInstalled sh b e ack c
  rw [hshim, State.setBmap, State.shim_updShim_same sh _ c]

/-- The update is noted before any is acknowledged. -/
theorem updNoted_setBmap (b : Nat) (e : BMapEntry) (c : s.canon = true) :
    let x := ((s.setBmap sh b e).updShim sh fun x => x.updNoted b e.gen).shim sh
    x.outst = (s.shim sh).outst ∧ x.acks = (s.shim sh).acks ∧
      { bucket := b, gen := e.gen, seq := (s.shim sh).seq } ∈ x.upds := by
  dsimp only
  rw [State.shim_updShim_same sh _ (canon_setBmap sh b e c), State.setBmap, State.shim_updShim_same sh _ c]
  exact ⟨rfl, rfl, List.mem_append_right _ List.mem_cons_self⟩

/-- With no header of its bucket before it an update is acknowledged at once (05 R151). -/
theorem mapInstalled_acks {b : Nat} {e : BMapEntry} (c : s.canon = true)
    (h : ∀ o ∈ (s.shim sh).outst, o.bucket ≠ b ∨ o.built = none) :
    Wire.mapAck sh b e.gen ∈ (mapInstalled sh b e true s).wires := by
  obtain ⟨houtst, -, hmem⟩ := updNoted_setBmap (sh := sh) b e c
  exact mem_wires_ackUpds hmem (Shim.updWaits_of_none (by rw [houtst]; exact h))

/-- An update behind a header of its bucket waits to be acknowledged. -/
theorem mapInstalled_waits {b j : Nat} {e : BMapEntry} {o : Outst} (c : s.canon = true) (ha : (s.shim sh).acks = true)
    (ho : o ∈ (s.shim sh).outst) (hb : o.bucket = b) (hk : o.built = some j) (hlt : j < (s.shim sh).seq) :
    ∃ u ∈ ((mapInstalled sh b e true s).shim sh).upds, u.bucket = b ∧ u.gen = e.gen := by
  obtain ⟨houtst, hacks, hmem⟩ := updNoted_setBmap (sh := sh) b e c
  refine ⟨{ bucket := b, gen := e.gen, seq := (s.shim sh).seq }, ?_, rfl, rfl⟩
  rw [mapInstalled, if_pos rfl, shim_ackUpds sh (State.canon_updShim sh _ (canon_setBmap sh b e c))]
  exact List.mem_filter.2 ⟨hmem, Shim.updWaits_of_header (hacks.trans ha) (houtst ▸ ho) hb hk hlt⟩

/-- The map after an update. -/
theorem bmap_mapInstalled {b : Nat} {e : BMapEntry} (ack : Bool) (c : s.canon = true) (hr : mrising 0 (s.shim sh).bmap = true)
    (i : Nat) : (mapInstalled sh b e ack s).bmap sh i = if i = b then e else s.bmap sh i := by
  obtain ⟨seq, upds, hshim⟩ := shim_mapInstalled sh b e ack c
  rw [← bmap_setBmap c hr i, State.bmap, hshim, (shimFrame_mapInstalled ..).keeps.par]
  rfl

end

end Sys2Proof.Machine
end

section
/-! SUPPORT. Lost slices at a shim (13 R340): the RQTXs that it answers Rest FREEZE, and the headers that stay counted meanwhile. -/

namespace Sys2Proof.Machine

section
variable {sh : Nat} {s t u : State}

/-- The shim's own Rest FREEZE to its agent (log 31). -/
def frozenAnswer (sh : Nat) (rqtx : BitVec 10) : Out :=
  .toAgent sh { op := .rest, src := agentNode sh, dst := agentNode sh, rqtx, aux := rsFreeze }

/-- What a shim does that answers headers Rest FREEZE: it counts their first answers and acknowledges updates, and a header is
counted no more only when its RQTX has been answered. -/
structure Freezes (sh : Nat) (s t : State) : Prop where
  keeps : Keeps s t
  slices : t.slices = s.slices
  mesh : t.mesh = s.mesh
  others : ∀ a, a ≠ sh → t.shim a = s.shim a
  out : ∀ x ∈ s.out, x ∈ t.out
  shim : ∃ outst upds lostAns, t.shim sh = { s.shim sh with outst, upds, lostAns }
  counted : ∀ o ∈ (s.shim sh).outst, o ∈ (t.shim sh).outst ∨ frozenAnswer sh o.rqtx ∈ t.out

theorem Freezes.refl (sh : Nat) (s : State) : Freezes sh s s :=
  ⟨.refl s, rfl, rfl, fun _ _ => rfl, fun _ => id, ⟨_, _, _, rfl⟩, fun _ => .inl⟩

theorem Freezes.trans (h : Freezes sh s t) (g : Freezes sh t u) : Freezes sh s u where
  keeps := h.keeps.trans g.keeps
  slices := g.slices.trans h.slices
  mesh := g.mesh.trans h.mesh
  others a ha := (g.others a ha).trans (h.others a ha)
  out x hx := g.out x (h.out x hx)
  shim := by
    obtain ⟨_, _, _, ht⟩ := h.shim
    obtain ⟨outst, upds, lostAns, hu⟩ := g.shim
    exact ⟨outst, upds, lostAns, by rw [hu, ht]⟩
  counted o ho := (h.counted o ho).elim (g.counted o) fun hf => .inr (g.out _ hf)

theorem freezes_emit (sh : Nat) (s : State) (x : Out) : Freezes sh s (s.emit x) :=
  ⟨keeps_emit .., rfl, rfl, fun _ _ => rfl, fun _ => List.mem_append_left _, ⟨_, _, _, rfl⟩, fun _ => .inl⟩

/-- A header counted no more, and its RQTX answered. -/
theorem freezes_answer {p : Outst} {upds : List MapUpd} {lostAns : List (Nat × BitVec 10)} (c : s.canon = true)
    (hframe : ShimFrame sh s t)
    (hshim : t.shim sh = { s.shim sh with outst := (s.shim sh).outst.erase p, upds, lostAns }) :
    Freezes sh s (t.emit (frozenAnswer sh p.rqtx)) where
  keeps := hframe.keeps.trans (keeps_emit ..)
  slices := hframe.slices
  mesh := hframe.mesh
  others := hframe.others c
  out x hx := List.mem_append_left _ (hframe.out ▸ hx)
  shim := ⟨_, _, _, hshim⟩
  counted o ho := by
    by_cases h : o = p
    · exact .inr (List.mem_append_right _ (h ▸ List.mem_cons_self))
    · refine .inl ?_
      rw [State.emit_shim, hshim]
      exact (List.mem_erase_of_ne h).2 ho

/-- A Rest takes the header that it answers from those counted, and drains nothing (05 R151, 06 R167). -/
theorem firstAnswer_rest {m : Msg} {o : Outst} (hop : m.op = .rest) (ho : o ∈ (s.shim sh).outst) (hq : o.rqtx = m.rqtx)
    (hb : o.built.isSome = true) :
    ∃ p, p.rqtx = m.rqtx ∧
      firstAnswer sh m s = ackUpds sh (s.updShim sh fun x => { x with outst := x.outst.erase p }) := by
  obtain ⟨p, hp⟩ : ∃ p, (s.shim sh).outst.find? (fun o => o.rqtx = m.rqtx && o.built.isSome) = some p :=
    Option.isSome_iff_exists.1 (List.find?_isSome.2 ⟨o, ho, by simp [hq, hb]⟩)
  have hprop := List.find?_some hp
  simp only [Bool.and_eq_true, decide_eq_true_eq] at hprop
  refine ⟨p, hprop.1, ?_⟩
  simp only [firstAnswer, hp, hop, bne_self_eq_false, Bool.false_and, Bool.false_eq_true, if_false]
  cases m.home <;> rfl

/-- Header p is counted no more, and slice n's late answer to it is awaited (log 86). -/
def lostCounted (sh n : Nat) (p : Outst) (s : State) : State :=
  (ackUpds sh (s.updShim sh fun x => { x with outst := x.outst.erase p })).updShim sh fun x =>
    { x with lostAns := addNew x.lostAns (n, p.rqtx) }

theorem shimFrame_lostCounted (sh n : Nat) (p : Outst) (s : State) : ShimFrame sh s (lostCounted sh n p s) :=
  ((shimFrame_updShim ..).trans (shimFrame_ackUpds ..)).trans (shimFrame_updShim ..)

theorem shim_lostCounted (sh n : Nat) (p : Outst) (c : s.canon = true) :
    ∃ upds lostAns, (lostCounted sh n p s).shim sh =
      { s.shim sh with outst := (s.shim sh).outst.erase p, upds, lostAns } := by
  have cu := State.canon_updShim sh (fun x => { x with outst := x.outst.erase p }) c
  rw [lostCounted, State.shim_updShim_same sh _ ((keeps_ackUpds sh _).canon cu), shim_ackUpds sh cu,
    State.shim_updShim_same sh _ c]
  exact ⟨_, _, rfl⟩

/-- A lost slice's RQTX of which a header is counted is answered. -/
theorem answerLost_open {n : Nat} {cut : List Msg} {q : BitVec 10 × Nat} {o : Outst} (c : s.canon = true)
    (hcut : (s.shim sh).cut = false) (ho : o ∈ (s.shim sh).outst) (hq : o.rqtx = q.1) (hbkt : o.bucket = q.2)
    (hb : o.built.isSome = true) :
    Freezes sh s (answerLost sh n cut q s) ∧ frozenAnswer sh q.1 ∈ (answerLost sh n cut q s).out := by
  have hopen : ((s.shim sh).outst.any fun o => o.rqtx = q.1 && o.bucket = q.2 && o.built.isSome) = true :=
    List.any_eq_true.2 ⟨o, ho, by simp [hq, hbkt, hb]⟩
  obtain ⟨p, hp, hanswer⟩ :=
    firstAnswer_rest (m := { op := .rest, src := sliceNode n, rqtx := q.1, aux := rsFreeze }) rfl ho hq hb
  replace hp : p.rqtx = q.1 := hp
  obtain ⟨upds, lostAns, hshim⟩ := shim_lostCounted sh n p c
  have hcut' : ((lostCounted sh n p s).shim sh).cut = false := by rw [hshim]; exact hcut
  have heq : answerLost sh n cut q s = (lostCounted sh n p s).emit (frozenAnswer sh p.rqtx) := by
    rw [lostCounted, hp] at hcut' ⊢
    simp only [answerLost, hopen, Bool.true_or, if_true, hanswer, hcut', Bool.false_eq_true, if_false]
    rfl
  rw [heq, ← hp]
  exact ⟨freezes_answer c (shimFrame_lostCounted ..) hshim, List.mem_append_right _ List.mem_cons_self⟩

/-- Whether or not a header of an RQTX is counted, nothing but its answer happens. -/
theorem answerLost_freezes {n : Nat} {cut : List Msg} {q : BitVec 10 × Nat} (c : s.canon = true) (hcut : (s.shim sh).cut = false) :
    Freezes sh s (answerLost sh n cut q s) := by
  by_cases hopen : ∃ o ∈ (s.shim sh).outst, o.rqtx = q.1 ∧ o.bucket = q.2 ∧ o.built.isSome = true
  · obtain ⟨o, ho, hq, hbkt, hb⟩ := hopen
    exact (answerLost_open c hcut ho hq hbkt hb).1
  · have hnone : ((s.shim sh).outst.any fun o => o.rqtx = q.1 && o.bucket = q.2 && o.built.isSome) = false :=
      List.any_eq_false.2 fun o ho h => hopen ⟨o, ho, by simpa [and_assoc] using h⟩
    simp only [answerLost, hnone, hcut, Bool.false_or, Bool.false_eq_true, if_false]
    split
    · exact freezes_emit ..
    · exact .refl ..

/-- Several RQTXs answered, one after another: each of which a header was counted is answered. -/
theorem eachOf_answerLost {n : Nat} {cut : List Msg} {l : List (BitVec 10 × Nat)} (c : s.canon = true)
    (hcut : (s.shim sh).cut = false) :
    Freezes sh s (eachOf l (answerLost sh n cut) s) ∧
      ∀ q ∈ l, (∃ o ∈ (s.shim sh).outst, o.rqtx = q.1 ∧ o.bucket = q.2 ∧ o.built.isSome = true) →
        frozenAnswer sh q.1 ∈ (eachOf l (answerLost sh n cut) s).out := by
  induction l generalizing s with
  | nil => exact ⟨.refl sh s, fun _ h => absurd h List.not_mem_nil⟩
  | cons p l ih =>
    have hp := answerLost_freezes (n := n) (cut := cut) (q := p) c hcut
    obtain ⟨outst, upds, lostAns, hshim⟩ := hp.shim
    obtain ⟨hl, hall⟩ := ih (hp.keeps.canon c) (by rw [hshim]; exact hcut)
    rw [eachOf_cons]
    refine ⟨hp.trans hl, fun q hmem ⟨o, ho, hq, hbkt, hb⟩ => ?_⟩
    rcases List.mem_cons.1 hmem with rfl | hmem
    · exact hl.out _ (answerLost_open c hcut ho hq hbkt hb).2
    · rcases hp.counted o ho with ho | hf
      · exact hall q hmem ⟨o, ho, hq, hbkt, hb⟩
      · exact hl.out _ (hq ▸ hf)

/-- Once the RQTXs are answered no drain is left to answer, where none waited before. -/
theorem answerLost_noDrains {n : Nat} {cut : List Msg} {l : List (BitVec 10 × Nat)} (waits : Drain → Bool) (c : s.canon = true)
    (hsil : (s.shim sh).silenced = false) (hst : (s.shim sh).st ≠ .idle) (hcut : (s.shim sh).cut = false)
    (hd : (s.shim sh).drains = []) :
    let t := if (s.shim sh).silenced || (s.shim sh).st = .idle then s else eachOf l (answerLost sh n cut) s
    eachOf ((t.shim sh).drains.filter waits) (drainAnswer sh n) t = eachOf l (answerLost sh n cut) s := by
  obtain ⟨outst, upds, lostAns, hshim⟩ := (eachOf_answerLost (n := n) (cut := cut) (l := l) c hcut).1.shim
  simp [hsil, hst, hshim, hd]

/-- A message for the agent that a lost slice sent or had sent, but for a Rest FREEZE. -/
def Msg.ofLost (n : Nat) (m : Msg) : Bool := m.home = some n && !(m.op = .rest && m.aux = rsFreeze)

/-- A shim notes a lost slice: the copies of drains for it go from the REQ queue, and its messages go from the agent's queues. -/
def Shim.noteLost (x : Shim) (n : Nat) : Shim :=
  { x with
    lost := addNew x.lost n
    reqQ := x.reqQ.filter fun q => !(q.m.op = .drainW && q.m.dst = sliceNode n)
    snpIn := x.snpIn.filter fun m => !m.ofLost n
    rspIn := x.rspIn.filter fun m => !m.ofLost n
    datIn := x.datIn.filter fun m => !m.ofLost n }

/-- A notice at a shim that has no drain: the slice is noted, then its RQTXs are answered. -/
theorem lostSliceNotice_eq {k n : Nat} {l : List (BitVec 10 × Nat)} (c : s.canon = true)
    (h : s.findWire k (fun w => match w with | .lostNotice k .. => k = sh | _ => false) = some (.lostNotice sh n l))
    (hsil : (s.shim sh).silenced = false) (hst : (s.shim sh).st ≠ .idle) (hcut : (s.shim sh).cut = false)
    (hd : (s.shim sh).drains = []) :
    ∃ cut, lostSliceNotice sh k s =
      eachOf l (answerLost sh n cut) ((s.takeWire (.lostNotice sh n l)).updShim sh fun x => x.noteLost n) := by
  have ct : (s.takeWire (.lostNotice sh n l)).canon = true := c
  have hshim := State.shim_updShim_same sh (fun x => x.noteLost n) ct
  unfold lostSliceNotice
  split
  · next heq =>
    cases heq.symm.trans h
    exact ⟨_, answerLost_noDrains (s := (s.takeWire (.lostNotice sh n l)).updShim sh fun x => x.noteLost n) _
      (State.canon_updShim sh _ ct) (by rw [hshim]; exact hsil) (by rw [hshim]; exact hst) (by rw [hshim]; exact hcut)
      (by rw [hshim]; exact hd)⟩
  · next hne => exact absurd h (hne _ _ _)

end

theorem mem_addNew {α : Type} [DecidableEq α] (l : List α) (x : α) : x ∈ addNew l x := by
  rw [addNew]
  split
  · assumption
  · exact List.mem_append_right _ List.mem_cons_self

/-! ### The four commands -/

/-- Settles O41: each step of the shim by its lemma; a header that the lost slice held stays counted until its RQTX is answered. -/
theorem drainAndMapSteps : Obligations.DrainAndMapSteps := by
  unfold Obligations.DrainAndMapSteps
  refine ⟨fun s sh d c hsh hd hready => ⟨fun hl => ?_, fun hl hheld hgone => ?_⟩, ?_, ?_, ?_⟩
  · exact (atShim_built _ hsh).trans (congrArg _ (drainCopiesSend_sends c hd hready hl))
  · exact (atShim_built _ hsh).trans (congrArg _ (drainCopiesSend_grants c hd hready hl hheld hgone))
  · intro s sh n d f m c hsh _ hi hf hsil hst hroom hlost hd hsent hheld hgone hwait hop hrqtx hsrc
    have hok : notAtAgent (isCaching sh) m = false := by simp [notAtAgent, hop]
    rw [exec_shimMeshMessage hsh hi hf hroom hok, toAgent_drainGrant (s := s.takeMesh m) hsil hst hlost hd hsent
      (hwait ▸ List.mem_cons_self) hop hrqtx hsrc, drainAnswer_last (s := s.takeMesh m) c hd hsent hheld hgone hwait]
    rfl
  · intro s sh k b slice engine gen ack c hrise hsh hfind
    have hexec := (atShim_built (bucketMapUpdate sh k) hsh).trans (congrArg _ (bucketMapUpdate_eq hfind))
    refine ⟨fun hold hne => hexec.trans (congrArg _ (if_pos (by simp [hold, hne]))), fun hnew => ?_⟩
    have hr : mrising 0 (s.shim sh).bmap = true := rising_bmap sh hrise
    have hframe := shimFrame_mapInstalled sh b { slice, engine, gen } ack (s.takeWire (.mapUpdate sh b slice engine gen ack))
    have hbmap := bmap_mapInstalled (s := s.takeWire (.mapUpdate sh b slice engine gen ack)) (b := b)
      (e := { slice, engine, gen }) ack c hr
    refine ⟨_, hexec.trans (congrArg _ (if_neg ?_)), ?_, fun i hi => ?_, ?_, ?_, ?_, hframe.others c, hframe.slices, hframe.mesh⟩
    · rcases hnew with h | h <;> simp [h]
    · exact (hbmap b).trans (if_pos rfl)
    · exact (hbmap i).trans (if_neg hi)
    · exact reqQ_mapInstalled (s := s.takeWire _) sh b _ ack c
    · rintro rfl _ hnone
      exact mapInstalled_acks (s := s.takeWire _) c hnone
    · rintro o j rfl hacks ho hb hj hlt
      exact mapInstalled_waits (s := s.takeWire _) c hacks ho hb hj hlt
  · intro s sh n k l c hsh hfind hsil hst hcut hd
    obtain ⟨cut, heq⟩ := lostSliceNotice_eq c hfind hsil hst hcut hd
    have ct : (s.takeWire (.lostNotice sh n l)).canon = true := c
    have hnoted := State.shim_updShim_same sh (fun x => x.noteLost n) ct
    obtain ⟨hfreezes, hall⟩ := eachOf_answerLost (n := n) (cut := cut) (l := l)
      (State.canon_updShim sh (fun x => x.noteLost n) ct) (by rw [hnoted]; exact hcut)
    obtain ⟨outst, upds, lostAns, hshim⟩ := hfreezes.shim
    rw [hnoted] at hshim hall
    refine ⟨_, (atShim_built _ hsh).trans (congrArg _ heq), ?_, ?_, hall, fun a ha => ?_, hfreezes.slices, hfreezes.mesh⟩
    · rw [hshim]; exact mem_addNew ..
    · rw [hshim]; rfl
    · exact (hfreezes.others a ha).trans (State.shim_updShim_ne _ ct ha)

end Sys2Proof.Machine
end

section
/-! SUPPORT. A tray line scrubbed at a slice that a fault of that scrub puts in HOLD while two copies name the slice as their source,
the first of them with the slice itself as the target (07 R212, 13 R334, 15 R385): which slice the corrected line is mirrored to. -/

namespace Sys2Proof.Machine

/-- A tray line of a fine way with a single-bit error in its first codeword. -/
def singleError : TrayLine := { data := 7, cw := [.single] }

/-- Slice 0, whose tray is one fine way of 1,024 lines with the first of them wrong in one bit, under two copies: to itself and to
slice 1. Source 0x09 is set to severity 3 (15 R379). No SLICE_COPY makes the first job, since a target is in RETAIN (13 R333). -/
def copiedToItself : State :=
  (State.reset.updSpine fun x => { x with
    trayFt := 1, srcCfg := [(0x09, { srcDefault 0x09 with sev := 3 })], nextJob := 2
    jobs := [{ id := 0, cmd := none, kind := .copy 0 0 0 0 false }, { id := 1, cmd := none, kind := .copy 0 1 0 0 false }]
  }).updSlice 0 fun x => { x with
    scans := [{ kind := .copy, pos := 8192, stop := 12288, period := 0 }]
    arr := { x.arr with trayFine := [(15 * 1024, singleError)] } }

/-- The tray lines in the fine ways of slice 1 after a step. -/
def peerTrayAfter : Res → Option (Map TrayLine)
  | .next u => some (u.slice 1).arr.trayFine
  | _ => none

theorem copyPeer_copiedToItself : copiedToItself.copyPeer 0 = some 0 := by decide +kernel
theorem slice_one_copiedToItself : (copiedToItself.slice 1).arr.trayFine = [] := by decide +kernel

/-- The fault of the first codeword puts slice 0 in HOLD; the copy to itself then has no serving target, and the corrected line is
mirrored to the target of the other copy. -/
theorem peerTrayAfter_trayScrub :
    peerTrayAfter (exec (.trayScrub 0) copiedToItself) = some [(15 * 1024, { data := 7 })] := by decide +kernel

/-- Refutes O47: its clause about TRAY_SCRUB has every slice but the scrubbing one and its mirror target unchanged, with the target
taken before the step; where the corrected error is a fault of severity 3, the slice enters HOLD within the step, and a copy of
the slice to itself stops being the one that the correction is mirrored for. -/
theorem not_sliceMemory : ¬ Obligations.SliceMemory := by
  intro ⟨_, _, _, _, hscrub⟩
  obtain ⟨u, hu, -, -, -, -, -, hothers⟩ := hscrub copiedToItself 0 (by decide +kernel) (by decide +kernel) (by decide +kernel)
    (by decide +kernel) (by decide +kernel) (by decide +kernel) (by decide +kernel) (by decide +kernel) (by decide +kernel)
  have hmirrored : peerTrayAfter (.next u) = some [(15 * 1024, { data := 7 })] :=
    (congrArg peerTrayAfter hu).symm.trans peerTrayAfter_trayScrub
  have hpeer : copiedToItself.copyPeer 0 ≠ some 1 := by rw [copyPeer_copiedToItself]; decide
  have hkept : peerTrayAfter (.next u) = some [] :=
    congrArg some ((congrArg (·.arr.trayFine) (hothers 1 (by decide) hpeer)).trans slice_one_copiedToItself)
  exact absurd (hmirrored.symm.trans hkept) (by decide)

end Sys2Proof.Machine
end

section
/-! SUPPORT. TRAY_CONFIGURE (07 R207, R208): the conversion that it starts at every serving slice, and when it starts none. -/

namespace Sys2Proof.Machine

section
variable {s : State} {n i : Nat}

/-! ### Conditions changed -/

theorem setConds_frame (s : State) (n : Nat) (f : Conds → Conds) :
    (s.setConds n f).spine = s.spine ∧ (s.setConds n f).fns = s.fns := by
  simp only [State.setConds]
  split
  · exact ⟨rfl, rfl⟩
  · simp [feed_frame]

theorem slice_setConds_ne (f : Conds → Conds) (c : s.canon = true) (hi : i ≠ n) : (s.setConds n f).slice i = s.slice i := by
  simp only [State.setConds]
  split
  · exact State.slice_updSlice_ne _ c hi
  · rw [slice_feed]; exact State.slice_updSlice_ne _ c hi

/-! ### The conversion of a slice -/

/-- The slice is in PROOF's condition P_TRAY with its conversion's scan at the first set. -/
def Slice.converts (x : Slice) : Prop := x.conds.pTray = true ∧ ∃ sc ∈ x.scans, sc.kind = .tray ∧ sc.pos = 0

variable {ft ht : Nat}

theorem keeps_startTray (ft ht n : Nat) (s : State) : Keeps s (startTray ft ht n s) := by
  rw [startTray]
  exact (keeps_updSlice ..).trans (keeps_setConds ..)

theorem spine_startTray (ft ht n : Nat) (s : State) : (startTray ft ht n s).spine = s.spine := (setConds_frame ..).1

theorem converts_startTray_same (c : s.canon = true) : ((startTray ft ht n s).slice n).converts := by
  rw [startTray, slice_setConds n _ (State.canon_updSlice n _ c), State.slice_updSlice_same n _ c]
  exact ⟨rfl, _, List.mem_append_right _ List.mem_cons_self, rfl, rfl⟩

/-- A conversion that has begun at one slice stays so while others begin theirs. -/
theorem converts_startTray (c : s.canon = true) (h : (s.slice i).converts) : ((startTray ft ht n s).slice i).converts := by
  by_cases hi : i = n
  · subst hi; exact converts_startTray_same c
  · rwa [startTray, slice_setConds_ne _ (State.canon_updSlice n _ c) hi, State.slice_updSlice_ne _ c hi]

theorem eachOf_startTray (l : List Nat) (c : s.canon = true) :
    (eachOf l (startTray ft ht) s).spine = s.spine ∧
      ∀ i, i ∈ l ∨ (s.slice i).converts → ((eachOf l (startTray ft ht) s).slice i).converts := by
  induction l generalizing s with
  | nil => exact ⟨rfl, fun i h => h.resolve_left List.not_mem_nil⟩
  | cons n l ih =>
    obtain ⟨hspine, hconverts⟩ := ih (s := startTray ft ht n s) ((keeps_startTray ..).canon c)
    refine ⟨hspine.trans (spine_startTray ..), fun i h => hconverts i ?_⟩
    rcases h with h | h
    · rcases List.mem_cons.1 h with rfl | h
      · exact .inr (converts_startTray_same c)
      · exact .inl h
    · exact .inr (converts_startTray c h)

/-! ### The command -/

variable {f idx : Nat} {k : Taken}

theorem trayConfigure_enabled (hft : k.num 8 1 ≤ 8) (hht : k.num 9 1 ≤ 4) (hen : s.spine.trayEn = true) :
    trayConfigure f idx k s = refuse f idx ccSTATE s := by
  simp [trayConfigure, Nat.not_lt.2 hft, Nat.not_lt.2 hht, hen]

theorem trayConfigure_same (hft : k.num 8 1 ≤ 8) (hht : k.num 9 1 ≤ 4) (hen : s.spine.trayEn = false)
    (huse : s.trayUsable (k.num 8 1) (k.num 9 1) = true) (heq : k.num 8 1 = s.spine.trayFt ∧ k.num 9 1 = s.spine.trayHt) :
    trayConfigure f idx k s = doneCmd f idx 0 s := by
  simp only [trayConfigure, Nat.not_lt.2 hft, Nat.not_lt.2 hht, hen, huse]
  simp [heq]

/-- Slices that a TRAY_CONFIGURE waits for (07 R208): all that have power. -/
def State.poweredSlices (s : State) : List Nat := s.sliceNums.filter fun n => (s.slice n).conds.phase != .off

/-- The conversion begun at every slice in service. -/
def trayStarted (ft ht : Nat) (s : State) : State :=
  eachOf (s.sliceNums.filter fun n => (s.slice n).serving) (startTray ft ht) s

theorem poweredSlices_ne_nil (hn : n < s.par.nSlice) (hserving : (s.slice n).serving = true) : s.poweredSlices ≠ [] := by
  refine List.ne_nil_of_mem (List.mem_filter.2 ⟨List.mem_range.2 hn, ?_⟩)
  have hphase : (s.slice n).conds.phase = .service := by simpa [Slice.serving] using hserving
  simp [hphase]

theorem trayConfigure_grows (hft : k.num 8 1 ≤ 8) (hht : k.num 9 1 ≤ 4) (hen : s.spine.trayEn = false)
    (huse : s.trayUsable (k.num 8 1) (k.num 9 1) = true) (hft' : s.spine.trayFt ≤ k.num 8 1) (hht' : s.spine.trayHt ≤ k.num 9 1)
    (hne : k.num 8 1 ≠ s.spine.trayFt ∨ k.num 9 1 ≠ s.spine.trayHt) (hpower : s.poweredSlices ≠ []) :
    trayConfigure f idx k s = some ((trayStarted (k.num 8 1) (k.num 9 1) s).addJob (some (f, idx))
      (.tray (k.num 8 1) (k.num 9 1) s.poweredSlices [])).1 := by
  have hdiff : ¬ (k.num 8 1 = s.spine.trayFt ∧ k.num 9 1 = s.spine.trayHt) := fun h => hne.elim (· h.1) (· h.2)
  have hwait : s.poweredSlices.isEmpty = false := by simpa using hpower
  have hshrink : ¬ (k.num 8 1 < s.spine.trayFt ∨ k.num 9 1 < s.spine.trayHt) := by omega
  simp only [State.poweredSlices] at hwait
  simp [trayConfigure, Nat.not_lt.2 hft, Nat.not_lt.2 hht, hen, huse, hdiff, hshrink, hwait, trayStarted, State.poweredSlices]

/-- What TRAY_CONFIGURE leaves when it raises the tray's ways: the conversion at every serving slice, and its job. -/
theorem trayConfigure_starts (c : s.canon = true) (hft : k.num 8 1 ≤ 8) (hht : k.num 9 1 ≤ 4) (hen : s.spine.trayEn = false)
    (huse : s.trayUsable (k.num 8 1) (k.num 9 1) = true) (hft' : s.spine.trayFt ≤ k.num 8 1) (hht' : s.spine.trayHt ≤ k.num 9 1)
    (hne : k.num 8 1 ≠ s.spine.trayFt ∨ k.num 9 1 ≠ s.spine.trayHt) (hsome : ∃ n, n < s.par.nSlice ∧ (s.slice n).serving = true) :
    ∃ t, trayConfigure f idx k s = some t ∧ t.spine.trayFt = s.spine.trayFt ∧ t.spine.trayHt = s.spine.trayHt ∧
      (∀ n, n < s.par.nSlice → (s.slice n).serving = true → (t.slice n).converts) ∧
      ∃ j ∈ t.spine.jobs, j.cmd = some (f, idx) ∧ ∃ left, j.kind = .tray (k.num 8 1) (k.num 9 1) left [] := by
  obtain ⟨n, hn, hserving⟩ := hsome
  obtain ⟨hspine, hconverts⟩ := eachOf_startTray (ft := k.num 8 1) (ht := k.num 9 1)
    (s.sliceNums.filter fun n => (s.slice n).serving) c
  refine ⟨_, trayConfigure_grows hft hht hen huse hft' hht' hne (poweredSlices_ne_nil hn hserving),
    show (trayStarted _ _ s).spine.trayFt = _ from congrArg Spine.trayFt hspine,
    show (trayStarted _ _ s).spine.trayHt = _ from congrArg Spine.trayHt hspine, fun i hi hi' => ?_,
    _, List.mem_append_right _ List.mem_cons_self, rfl, _, rfl⟩
  exact hconverts i (.inl (List.mem_filter.2 ⟨List.mem_range.2 hi, hi'⟩))

end

end Sys2Proof.Machine
end

section
/-! SUPPORT. What reading a command's operand buffer leaves (12 Table 12-9, 14 R362): the Range Guard's checks and the use of
translations change the spine's fault state and the ATC's order alone. -/

namespace Sys2Proof.Machine

/-- Only the spine's Assay, its ATC, the recorder and what is driven outwards may differ. -/
structure BufferRead (s t : State) : Prop where
  keeps : Keeps s t
  slices : t.slices = s.slices
  fns : t.fns = s.fns
  spine : ∃ assay atc, t.spine = { s.spine with assay, atc }

theorem BufferRead.refl (s : State) : BufferRead s s := ⟨.refl s, rfl, rfl, _, _, rfl⟩

theorem BufferRead.trans {s t u : State} (h : BufferRead s t) (g : BufferRead t u) : BufferRead s u := by
  obtain ⟨assay, atc, hspine⟩ := g.spine
  obtain ⟨assay', atc', hspine'⟩ := h.spine
  exact ⟨h.keeps.trans g.keeps, g.slices.trans h.slices, g.fns.trans h.fns, assay, atc, by rw [hspine, hspine']⟩

theorem BufferRead.ite {s t u : State} {p : Prop} [Decidable p] (ht : BufferRead s t) (hu : BufferRead s u) :
    BufferRead s (if p then t else u) := by
  split
  · exact ht
  · exact hu

/-- Nothing of the block written but the recorder and what is driven outwards. -/
theorem BufferRead.of_spine {s t : State} (keeps : Keeps s t) (slices : t.slices = s.slices) (fns : t.fns = s.fns)
    (spine : t.spine = s.spine) : BufferRead s t := ⟨keeps, slices, fns, _, _, spine⟩

section
variable {s t : State}

theorem BufferRead.slice (h : BufferRead s t) (n : Nat) : t.slice n = s.slice n := by
  rw [State.slice, h.slices, h.keeps.par]; rfl

theorem BufferRead.taken (h : BufferRead s t) (f idx : Nat) : t.taken f idx = s.taken f idx := by
  rw [State.taken, State.fn, h.fns]; rfl

theorem BufferRead.jobs (h : BufferRead s t) : t.spine.jobs = s.spine.jobs := by
  obtain ⟨_, _, hspine⟩ := h.spine; rw [hspine]

theorem BufferRead.pwr (h : BufferRead s t) : t.spine.pwr = s.spine.pwr := by
  obtain ⟨_, _, hspine⟩ := h.spine; rw [hspine]

theorem BufferRead.calSet (h : BufferRead s t) (n : Nat) : t.calSet n = s.calSet n := by
  obtain ⟨_, _, hspine⟩ := h.spine; rw [State.calSet, hspine]; rfl

end

theorem bufferRead_feed (s : State) (node : Nat) (r : HRec) : BufferRead s (s.feed node r) := by
  obtain ⟨hslices, -, -, hfns, hspine, -⟩ := feed_frame s node r
  exact .of_spine (keeps_feed ..) hslices hfns hspine

theorem bufferRead_emit (s : State) (o : Out) : BufferRead s (s.emit o) := .of_spine (keeps_emit ..) rfl rfl rfl

theorem bufferRead_trigger (s : State) (src : Nat) : BufferRead s (s.trigger src) := by
  refine .of_spine (keeps_trigger ..) ?_ ?_ ?_ <;> (rw [State.trigger]; split <;> rfl)

theorem bufferRead_raiseSpine (part : BitVec 9) (src : Nat) (d : Detail) (s : State) : BufferRead s (raiseSpine part src d s) := by
  rw [raiseSpine]
  refine (bufferRead_trigger s src).trans (.trans ?_ (bufferRead_feed ..))
  exact ⟨keeps_updSpine .., rfl, rfl, _, _, rfl⟩

theorem bufferRead_injSpine (src : Nat) (s : State) : BufferRead s (injSpine src s).2 := by
  rw [injSpine]
  dsimp only
  split
  · exact ⟨keeps_updSpine .., rfl, rfl, _, _, rfl⟩
  · exact .refl s

theorem bufferRead_tableCheck (table word : Nat) (s : State) : BufferRead s (tableCheck table word s) := by
  have hinj := (bufferRead_injSpine 0x67 s).trans (bufferRead_injSpine 0x68 _)
  simp only [tableCheck]
  split
  · exact hinj.trans (bufferRead_raiseSpine ..)
  · exact hinj

theorem bufferRead_hostDenied (fn : Nat) (a : PA) (write : Bool) (s : State) : BufferRead s (hostDenied fn a write s) := by
  rw [hostDenied]; exact bufferRead_feed ..

theorem bufferRead_hostCheck (fn : Nat) (addr : W64) (write : Bool) (s : State) : BufferRead s (hostCheck fn addr write s).2 := by
  rw [hostCheck, apply_ite Prod.snd]
  exact .ite ((bufferRead_tableCheck ..).trans (bufferRead_tableCheck ..))
    (((bufferRead_tableCheck ..).trans (bufferRead_tableCheck ..)).trans (bufferRead_hostDenied ..))

theorem bufferRead_atcUse (fn : Nat) (addr : W64) (s : State) : BufferRead s (atcUse fn addr s) := by
  rw [atcUse]
  split
  · split
    · exact ⟨keeps_updSpine .., rfl, rfl, _, _, rfl⟩
    · exact .refl s
  · exact .refl s

theorem bufferRead_readPart (fn : Nat) (addr : W64) (b : List Byte) (r : List Byte × State) (p : Nat × Nat) :
    BufferRead r.2 (readPart fn addr b r p).2 := by
  simp only [readPart]
  split
  · exact .refl _
  · exact ((bufferRead_hostCheck ..).trans (bufferRead_atcUse ..)).trans (bufferRead_emit ..)

theorem bufferRead_foldl (fn : Nat) (addr : W64) (b : List Byte) (l : List (Nat × Nat)) (r : List Byte × State) :
    BufferRead r.2 (l.foldl (readPart fn addr b) r).2 := by
  induction l generalizing r with
  | nil => exact .refl _
  | cons p l ih => exact (bufferRead_readPart ..).trans (ih _)

/-- The state in which a command has the n bytes of its buffer. -/
def State.bufRead (s : State) (fn : Nat) (addr : W64) (l : List Byte) (n : Nat) : State :=
  ((bufParts addr n).foldl (readPart fn addr l) ([], s)).2

theorem bufferRead_bufRead (s : State) (fn : Nat) (addr : W64) (l : List Byte) (n : Nat) : BufferRead s (s.bufRead fn addr l n) :=
  bufferRead_foldl fn addr l _ ([], s)

/-- A buffer that may be read at once gives its bytes to the command's work. -/
theorem readBuffer_open {s : State} {fn idx n : Nat} {addr : W64} (l : List Byte) (go : List Byte → State → Option State)
    (h : s.bufOpen fn idx addr n false) :
    readBuffer fn idx addr n (.bytes l) go s = go (s.bufBytes fn addr l n) (s.bufRead fn addr l n) := by
  obtain ⟨hup, hready⟩ := h
  simp only [readBuffer, hup, readFailure, hready, Bool.not_true, Bool.false_eq_true, if_false]
  rfl

end Sys2Proof.Machine
end

section
/-! SUPPORT. CAL_WRITE and its apply (13 R352, 17 R426, R442): the set stored, what a slice does with it, and what the end of an
apply completes. -/

namespace Sys2Proof.Machine

/-! ### The stored sets -/

/-- A value other than the default is written beside every other key, whatever the table holds. -/
theorem mget_mput_other {α : Type} [DecidableEq α] {d v : α} (d' : α) (m : Map α) {i k : Nat} (hv : v ≠ d) (hi : i ≠ k) :
    mget d' (mput d m k v) i = mget d' m i := by
  have hfront (r : Map α) (hr : i < k → mget d' r i = d') : mget d' ((k, v) :: r) i = mget d' r i := by
    rcases Nat.lt_or_gt_of_ne hi with h | h
    · rw [mget, if_neg hi.symm, if_pos h, hr h]
    · exact mget_cons_lt _ _ _ h
  induction m with
  | nil => rw [mput, if_neg hv]; exact hfront [] fun _ => rfl
  | cons x r ih =>
    obtain ⟨j, w⟩ := x
    rcases mput_cons d w v j k r with ⟨hlt, e⟩ | ⟨rfl, e⟩ | ⟨hlt, e⟩ <;> rw [e]
    · rw [if_neg hv]
      exact hfront _ fun h => by rw [mget, if_neg (by omega), if_pos (by omega)]
    · rw [if_neg hv]
      simp only [mget, hi.symm, if_false]
    · simp only [mget, ih]

/-- A set written by CAL_WRITE is not the fused one: its WRITTEN is 1 (18 R446). -/
theorem calOf_ne_fused (l : List Byte) (n : Nat) : calOf l ≠ CalSet.fused n := fun h => by
  have hwritten := congrArg CalSet.written h
  cases hwritten

/-- The set of a record stored for slice n (17 R442). -/
def State.calStored (s : State) (n : Nat) (l : List Byte) : State :=
  s.updSpine fun sp => { sp with cal := mput (CalSet.fused n) sp.cal n (calOf l) }

section
variable {s : State} {f idx n : Nat} {l : List Byte}

theorem calSet_calStored_same : (s.calStored n l).calSet n = calOf l := mget_mput_of_ne _ _ (calOf_ne_fused l n)

theorem calSet_calStored_ne {m : Nat} (hm : m ≠ n) : (s.calStored n l).calSet m = s.calSet m :=
  mget_mput_other _ _ (calOf_ne_fused l n) hm

/-! ### CAL_WRITE -/

/-- What a slice does with a good record (13 R352, 17 R442): one in service pauses in P_CAL until its apply ends; one without power
takes the set as it has power again; any other takes it at once. -/
theorem calTake_eq (hok : calOk l n = true) (hsalv : (s.slice n).conds.hSalv = false) :
    calTake f idx n l s =
      if (s.slice n).serving = true then
        some (((s.calStored n l).addJob (some (f, idx)) (.calWrite n)).1.setConds n fun c => { c with pCal := true })
      else if (s.slice n).conds.phase = .off || !bit s.spine.pwr n then
        some ((s.calStored n l).addJob (some (f, idx)) (.calWrite n)).1
      else doneCmd f idx 0 (s.calStored n l) := by
  simp only [calTake, hok, hsalv, Bool.not_true, Bool.false_eq_true, if_false]
  rfl

/-- CAL_WRITE to a serving slice: it pauses in P_CAL, and a job of the command waits for the apply's end (13 R352). -/
theorem calTake_pauses (c : s.canon = true) (hok : calOk l n = true) (hsalv : (s.slice n).conds.hSalv = false)
    (hserving : (s.slice n).serving = true) :
    ∃ t, calTake f idx n l s = some t ∧ t.calSet n = calOf l ∧ (t.slice n).conds.pCal = true ∧ (t.slice n).arr = (s.slice n).arr ∧
      (∀ m, m ≠ n → t.calSet m = s.calSet m) ∧ ∃ j ∈ t.spine.jobs, j.cmd = some (f, idx) ∧ j.kind = .calWrite n := by
  obtain ⟨hspine, -⟩ := setConds_frame ((s.calStored n l).addJob (some (f, idx)) (.calWrite n)).1 n fun c => { c with pCal := true }
  have hslice := slice_setConds (s := ((s.calStored n l).addJob (some (f, idx)) (.calWrite n)).1) n
    (fun c => { c with pCal := true }) c
  refine ⟨_, (calTake_eq hok hsalv).trans (if_pos hserving), ?_, by rw [hslice], by rw [hslice]; rfl, fun m hm => ?_, ?_⟩
  · rw [State.calSet, hspine]; exact calSet_calStored_same
  · rw [State.calSet, hspine]; exact calSet_calStored_ne hm
  · rw [hspine]; exact ⟨_, List.mem_append_right _ List.mem_cons_self, rfl, rfl⟩

/-- CAL_WRITE to a slice without power: its job waits until the slice has power again (17 R442). -/
theorem calTake_waits (hok : calOk l n = true) (hsalv : (s.slice n).conds.hSalv = false) (hserving : (s.slice n).serving = false)
    (hpower : (s.slice n).conds.phase = .off ∨ bit s.spine.pwr n = false) :
    ∃ t, calTake f idx n l s = some t ∧ t.calSet n = calOf l ∧ t.slices = s.slices ∧ (∀ m, m ≠ n → t.calSet m = s.calSet m) ∧
      t.fns = s.fns ∧ ∃ j ∈ t.spine.jobs, j.cmd = some (f, idx) ∧ j.kind = .calWrite n := by
  refine ⟨_, (calTake_eq hok hsalv).trans ((if_neg (by simp [hserving])).trans (if_pos (by simpa using hpower))),
    calSet_calStored_same, rfl, fun m hm => calSet_calStored_ne hm, rfl, ?_⟩
  exact ⟨_, List.mem_append_right _ List.mem_cons_self, rfl, rfl⟩

/-- CAL_WRITE to a slice with power that does not serve ends at once. -/
theorem calTake_ends (hok : calOk l n = true) (hsalv : (s.slice n).conds.hSalv = false) (hserving : (s.slice n).serving = false)
    (hphase : (s.slice n).conds.phase ≠ .off) (hpwr : bit s.spine.pwr n = true) :
    calTake f idx n l s = doneCmd f idx 0 (s.calStored n l) :=
  (calTake_eq hok hsalv).trans ((if_neg (by simp [hserving])).trans (if_neg (by simp [hphase, hpwr])))

/-- CAL_WRITE whose buffer is open takes the record that it has read, unless a change of HCLK point is requested (17 R426). -/
theorem calWrite_open {k : Taken} (hn : n < s.par.nSlice) (hk : k.num 8 1 = n) (hdvfs : s.dvfsHigh = false)
    (hopen : s.bufOpen f idx (bits k.desc 128 64) 128 false) :
    calWrite (.bytes l) f idx k s =
      calTake f idx n (s.bufBytes f (bits k.desc 128 64) l 128) (s.bufRead f (bits k.desc 128 64) l 128) := by
  simp only [calWrite, hk, State.built, hn, hdvfs, decide_true, Bool.not_true, Bool.false_eq_true, if_false]
  exact readBuffer_open l _ hopen

/-! ### The end of an apply -/

variable {id : Nat}

/-- A job is found by its number (12 R307). -/
theorem job_of_mem {j : Job} (hnamed : s.jobsNamed = true) (hj : j ∈ s.spine.jobs) : s.job j.id = some j := by
  simp only [State.jobsNamed, Bool.and_eq_true, decide_eq_true_eq] at hnamed
  obtain ⟨hnodup, -⟩ := hnamed
  cases hfound : s.job j.id with
  | none => exact absurd (List.find?_eq_none.1 hfound j hj) (by simp)
  | some i =>
    have hid : i.id = j.id := by simpa using List.find?_some hfound
    rw [List.inj_on_of_nodup_map hnodup (List.mem_of_find?_eq_some hfound) hj hid]

theorem drainIn_empty (h : (s.slice n).inBuf = []) : drainIn n s = s := by simp [drainIn, h]

theorem takeHeld_frame (s : State) : (takeHeld s).fns = s.fns ∧ (takeHeld s).spine.jobs = s.spine.jobs := by
  rw [takeHeld]; split <;> exact ⟨rfl, rfl⟩

theorem applying_takeHeld (s : State) : (takeHeld s).applying = s.applying := by rw [takeHeld]; split <;> rfl

theorem slice_takeHeld (s : State) (n : Nat) : (takeHeld s).slice n = s.slice n := by rw [takeHeld]; split <;> rfl

/-- A change of HCLK point that waited is taken once no slice applies a set (17 R426). -/
theorem takeHeld_taken (hheld : s.spine.dvfsHeld ≠ none) (hfree : s.applying = false) :
    (takeHeld s).spine.dvfsTaken = true ∧ (takeHeld s).spine.dvfsHeld = none := by
  simp [takeHeld, hfree, Option.isSome_iff_ne_none.2 hheld]

/-- The command of an apply completed and its slice's pause over. -/
def applyEnded (f idx id n : Nat) (s : State) : State :=
  (completeCmd f idx ccOK 0 (s.dropJob id)).setConds n fun c => { c with pCal := false }

/-- CAL_APPLY_END of an apply whose job is the only one for its slice. -/
theorem calApplyEnd_eq {k : Taken} (c : s.canon = true) (hnamed : s.jobsNamed = true)
    (hjob : { id, cmd := some (f, idx), kind := .calWrite n } ∈ s.spine.jobs)
    (honly : ∀ j ∈ s.spine.jobs, j.kind = .calWrite n → j.id = id) (hk : s.taken f idx = some k) (ho : k.orphan = false)
    (hcal : (s.slice n).conds.pCal = true) :
    calApplyEnd n s = drainIn n (takeHeld (applyEnded f idx id n s)) := by
  have hspine : (completeCmd f idx ccOK 0 (s.dropJob id)).spine = (s.dropJob id).spine :=
    (completeCmd_fn (s := s.dropJob id) c hk ho).2.2.2
  have hfinish : finishJob id ccOK 0 s = completeCmd f idx ccOK 0 (s.dropJob id) := by
    have hfound := job_of_mem hnamed hjob
    simp only [finishJob, hfound]
  have hlast : ((completeCmd f idx ccOK 0 (s.dropJob id)).spine.jobs.any fun j => decide (j.kind = .calWrite n)) = false := by
    rw [hspine, List.any_eq_false]
    intro j hj
    obtain ⟨hmem, hid⟩ := List.mem_filter.1 hj
    simpa using fun hkind => absurd (honly j hmem hkind) (by simpa using hid)
  cases hfound : s.spine.jobs.find? fun j => decide (j.kind = .calWrite n) with
  | none => exact absurd (List.find?_eq_none.1 hfound _ hjob) (by simp)
  | some j =>
    have hid : j.id = id := honly j (List.mem_of_find?_eq_some hfound) (by simpa using List.find?_some hfound)
    simp only [calApplyEnd, hfound, hcal, hid, hfinish, hlast, Bool.not_true, Bool.false_eq_true, if_false]
    rfl

theorem slice_applyEnded {k : Taken} (c : s.canon = true) (hk : s.taken f idx = some k) (ho : k.orphan = false) :
    (applyEnded f idx id n s).slice n = { s.slice n with conds := { (s.slice n).conds with pCal := false } } := by
  have hkeeps := (keeps_dropJob s id).trans (keeps_completeCmd f idx ccOK 0 (s.dropJob id))
  have hslices : (completeCmd f idx ccOK 0 (s.dropJob id)).slices = s.slices :=
    (completeCmd_fn (s := s.dropJob id) c hk ho).2.1
  have hslice : (completeCmd f idx ccOK 0 (s.dropJob id)).slice n = s.slice n := by
    rw [State.slice, hslices, hkeeps.par]; rfl
  rw [applyEnded, slice_setConds n _ (hkeeps.canon c), hslice]

theorem applyEnded_frame {k : Taken} (c : s.canon = true) (hk : s.taken f idx = some k) (ho : k.orphan = false) :
    (applyEnded f idx id n s).fn f = (s.fn f).completed idx (k.doneWith ccOK 0) ∧
      (applyEnded f idx id n s).spine = (s.dropJob id).spine := by
  obtain ⟨hspine, hfns⟩ := setConds_frame (completeCmd f idx ccOK 0 (s.dropJob id)) n fun c => { c with pCal := false }
  obtain ⟨hfn, -, -, hspine'⟩ := completeCmd_fn (code := ccOK) (result := 0) (s := s.dropJob id) c hk ho
  refine ⟨?_, hspine.trans hspine'⟩
  rw [State.fn, applyEnded, hfns]
  exact hfn

/-- CAL_APPLY_END with no pause to end. -/
theorem calApplyEnd_unpaused (hcal : (s.slice n).conds.pCal = false) : calApplyEnd n s = s := by
  simp only [calApplyEnd, hcal, Bool.not_false, if_true]
  split <;> rfl

end

end Sys2Proof.Machine
end

section
/-! SUPPORT. O28. -/

namespace Sys2Proof.Machine

section
variable {s : State} {f idx n : Nat} {k : Taken}

/-- CAL_WRITE runs on the record of its open buffer, in the state that reading it leaves. -/
theorem calWrite_runs (l : List Byte) (hn : n < s.par.nSlice) (hstart : s.mayStart f idx 0x31 k) (hk : k.num 8 1 = n)
    (hdvfs : s.dvfsHigh = false) (hopen : (s.begin f idx).bufOpen f idx (bits k.desc 128 64) 128 false) :
    ∃ r, BufferRead (s.begin f idx) r ∧
      ∀ t, calTake f idx n ((s.begin f idx).bufBytes f (bits k.desc 128 64) l 128) r = some t →
        exec (.calWrite f idx (.bytes l)) s = .next t :=
  ⟨_, bufferRead_bufRead .., fun _ hgo => startCmd_runs hstart ((calWrite_open (s := s.begin f idx) hn hk hdvfs hopen).trans hgo)⟩

/-- What CAL_APPLY_END does to a paused slice whose input buffer is empty. -/
theorem calApplyEnd_ends {id : Nat} (c : s.canon = true) (hnamed : s.jobsNamed = true)
    (hjob : { id, cmd := some (f, idx), kind := .calWrite n } ∈ s.spine.jobs)
    (honly : ∀ j ∈ s.spine.jobs, j.kind = .calWrite n → j.id = id) (hk : s.taken f idx = some k) (ho : k.orphan = false)
    (hbuf : (s.slice n).inBuf = []) (hcal : (s.slice n).conds.pCal = true) :
    calApplyEnd n s = takeHeld (applyEnded f idx id n s) := by
  rw [calApplyEnd_eq c hnamed hjob honly hk ho hcal]
  refine drainIn_empty ?_
  rw [slice_takeHeld, slice_applyEnded c hk ho]
  exact hbuf

end

/-- Settles O28: TRAY_CONFIGURE starts a conversion at each slice in service; a good record is stored and taken by its slice in the
way that its phase and power ask for; the end of an apply completes the one job of its slice. -/
theorem trayAndCalibration : Obligations.TrayAndCalibration := by
  unfold Obligations.TrayAndCalibration
  refine ⟨?_, ?_, ?_, ?_⟩
  · rintro s f idx _ _ k c hstart rfl rfl hft hht
    have cb : (s.begin f idx).canon = true := State.canon_updFn f _ c
    refine ⟨fun hen huse hft' hht' => ⟨fun heq heq' => ?_, fun hne hsome => ?_⟩, fun hen => ?_⟩
    · exact startCmd_runs hstart (trayConfigure_same (s := s.begin f idx) hft hht hen huse ⟨heq, heq'⟩)
    · obtain ⟨t, hgo, hrest⟩ := trayConfigure_starts (f := f) (idx := idx) cb hft hht hen huse hft' hht' hne hsome
      exact ⟨t, startCmd_runs hstart hgo, hrest⟩
    · exact startCmd_runs hstart (trayConfigure_enabled (s := s.begin f idx) hft hht hen)
  · intro s f idx n k l c hn hstart hk hdvfs hopen
    obtain ⟨r, hread, hrun⟩ := calWrite_runs l hn hstart hk hdvfs hopen
    generalize (s.begin f idx).bufBytes f (bits k.desc 128 64) l 128 = record at hrun ⊢
    intro _ hok hsalv
    have cr : r.canon = true := hread.keeps.canon (State.canon_updFn f _ c)
    have hslice : r.slice n = s.slice n := hread.slice n
    have hpwr' : r.spine.pwr = s.spine.pwr := hread.pwr
    rw [← hslice] at hsalv
    refine ⟨fun hserving => ?_, fun hserving hpower => ?_, fun hserving hphase hpwr => ?_⟩ <;> rw [← hslice] at hserving
    · obtain ⟨t, hgo, hcal, hpause, harr, hother, hjob⟩ := calTake_pauses (f := f) (idx := idx) cr hok hsalv hserving
      exact ⟨t, hrun t hgo, hcal, hpause, harr.trans (congrArg Slice.arr hslice), fun m hm => (hother m hm).trans (hread.calSet m),
        hjob⟩
    · obtain ⟨t, hgo, hcal, hslices, hother, hfns, hjob⟩ := calTake_waits (f := f) (idx := idx) hok hsalv hserving
        (by rw [hslice, hpwr']; exact hpower)
      refine ⟨t, hrun t hgo, hcal, hslices.trans hread.slices, fun m hm => (hother m hm).trans (hread.calSet m), ?_, hjob⟩
      have htaken : t.taken f idx = (s.begin f idx).taken f idx := by
        rw [← hread.taken, State.taken, State.fn, hfns]; rfl
      exact Option.isSome_of_eq_some (htaken.trans (taken_begin c hstart.2.1))
    · exact ⟨_, hrun _ (calTake_ends hok hsalv hserving (by rw [hslice]; exact hphase) (by rw [hpwr']; exact hpwr)),
        calSet_calStored_same, hread.slices, hread.jobs⟩
  · intro s f idx id n k c hnamed hn hjob honly hk ho hbuf hcal
    obtain ⟨hfns, hjobs⟩ := takeHeld_frame (applyEnded f idx id n s)
    obtain ⟨hfn, hspine⟩ := applyEnded_frame (n := n) (id := id) c hk ho
    refine ⟨_, (atSlice_built _ hn).trans (congrArg _ (calApplyEnd_ends c hnamed hjob honly hk ho hbuf hcal)), ?_, ?_, ?_, ?_, ?_⟩
    · rw [slice_takeHeld, slice_applyEnded c hk ho]
    · rw [hjobs, hspine]
      exact fun j hj => by simpa using (List.mem_filter.1 hj).2
    · rw [State.fn, hfns]
      exact congrArg Fn.done hfn
    · rw [State.taken, State.fn, hfns]
      exact (congrArg (fun x : Fn => x.taken.find? _) hfn).trans (Fn.completed_taken ..)
    · intro hheld hfree
      exact takeHeld_taken (by rw [hspine]; exact hheld) ((applying_takeHeld _).symm.trans hfree)
  · intro s n hn hcal
    exact (atSlice_built _ hn).trans (congrArg _ (calApplyEnd_unpaused hcal))

end Sys2Proof.Machine
end

section
/-! SUPPORT. O57: no table is listed at reset, so every bucket reads as its initial owner. -/

namespace Sys2Proof.Machine

/-- Settles O57: right after reset the master map, the slices' tables and the shims' maps are unlisted, and what an unlisted bucket
reads as is R215's owner. -/
theorem bucketsAtReset : Obligations.BucketsAtReset := by
  intro p _ s
  refine ⟨fun n _ => ?_, fun b _ => ⟨rfl, fun sh => rfl, fun n _ => ?_⟩⟩
  · show (Slice.initial p n).serving = true ↔ n < p.nActive
    by_cases h : n < p.nActive <;> simp [Slice.serving, Slice.initial, h]
  · show bktInit p n b = _
    simp only [bktInit, initialHome, eq_comm (b := n)]

end Sys2Proof.Machine
end

section
/-! SUPPORT. BUCKET_MOVE of a bucket that its slice holds frozen while no move or copy of the slice runs (08 R221, Table 08-2). -/

namespace Sys2Proof.Machine

/-- BUCKET_MOVE of bucket 0 to slice 1 and its engine 0. -/
def moveToOne : Taken := { idx := 0, ring := 0, desc := 0x100000000000000000010 }

/-- The block after reset, but with bucket 0 frozen at slice 0, and the command taken from function 0. No scan and no job runs. -/
def frozenUnmoved : State :=
  (State.reset.setBkt 0 0 { kind := .frozen }).updFn 0 fun x => { x with taken := [moveToOne], nextCmd := 1 }

/-- The state of bucket 0 at slice 0 after a step. -/
def sourceKindAfter : Res → Option BKind
  | .next u => some (u.bkt 0 0).kind
  | _ => none

theorem bucket_moveToOne : moveToOne.num 8 2 = 0 := by decide +kernel
theorem target_moveToOne : moveToOne.num 10 1 = 1 := by decide +kernel
theorem home_frozenUnmoved : (frozenUnmoved.master 0).slice = 0 := by decide +kernel
theorem mayStart_moveToOne : frozenUnmoved.mayStart 0 0 0x10 moveToOne := by decide +kernel
theorem moveRefused_frozenUnmoved : frozenUnmoved.moveRefused 0 0 1 = none := by decide +kernel

/-- The start of a move leaves the bucket at its source as it was. -/
theorem sourceKindAfter_moveToOne : sourceKindAfter (exec (.bucketMove 0 0) frozenUnmoved) = some .frozen := by decide +kernel

/-- Refutes O25: its first clause has the moved bucket owned at its slice afterwards. The model refuses the move of a frozen bucket
only by the move or copy that froze it; a bucket that is frozen with none in progress starts a move scan and stays frozen. -/
theorem not_bucketMoveStarts : ¬ Obligations.BucketMoveStarts := by
  intro h
  obtain ⟨hmove, -⟩ := h frozenUnmoved 0 0 moveToOne (by decide +kernel) mayStart_moveToOne (by decide +kernel) (by decide +kernel)
    (by decide +kernel) (by decide +kernel)
  rw [bucket_moveToOne, target_moveToOne, home_frozenUnmoved] at hmove
  obtain ⟨t, ht, howned, -⟩ := hmove (by decide) moveRefused_frozenUnmoved
  have hfrozen : sourceKindAfter (.next t) = some .frozen := (congrArg sourceKindAfter ht).symm.trans sourceKindAfter_moveToOne
  exact absurd (hfrozen.symm.trans (congrArg some howned)) (by decide)

end Sys2Proof.Machine
end

section
/-! SUPPORT. COPY_ACK_RECEIVE at a slice that the table of slices lists twice (13 R336): what the acknowledgment leaves to read. -/

namespace Sys2Proof.Machine

/-- Slice 0 with one mirrored write that is not acknowledged. -/
def oneMirrored : Slice := { Slice.initial Params.reference 0 with mirrored := [(false, 0, 0)] }

/-- Slice 0 with a mirrored write that waits to be sent. -/
def oneQueued : Slice := { Slice.initial Params.reference 0 with mirrorQ := [((false, 0, 0), .ackNone)] }

/-- Slice 0 is listed twice, so the table is not canonical; the acknowledgment of its one mirrored write is under way. -/
def listedTwice : State :=
  { State.reset with slices := [(0, oneMirrored), (0, oneQueued)], wires := [.copyAck 1 0 0 false 0] }

/-- The messages between parts after a step. -/
def wiresAfter : Res → Option (List Wire)
  | .next u => some u.wires
  | _ => none

/-- The acknowledged slice equals its reset value and is listed no more; the second listing is read, whose waiting write goes out. -/
theorem wiresAfter_copyAckReceive : wiresAfter (exec (.copyAckReceive 0 0) listedTwice) = some [.ackNone] := by decide +kernel

/-- Refutes O36: its clause about COPY_ACK_RECEIVE without a waiting write does not ask for canonical tables. Where a slice is listed
twice, the acknowledgment that brings the first listing to the reset value uncovers the second, and what waits there is sent. -/
theorem not_entriesCopied : ¬ Obligations.EntriesCopied := by
  intro ⟨⟨_, hack⟩, _⟩
  obtain ⟨hnone, -⟩ := hack listedTwice 0 0 1 0 0 false (by decide) (by decide +kernel) (by decide +kernel)
  have hsent := (congrArg wiresAfter (hnone (.inl (by decide +kernel)))).symm.trans wiresAfter_copyAckReceive
  exact absurd hsent (by decide +kernel)

end Sys2Proof.Machine
end

section
/-! SUPPORT. What the work of a slice leaves: bucket ownership, the map, the shims and the messages under way (`Steady`), and with them
the other slices, the functions and the hold-offs (`EngineWork`): faults, records and modes, one lemma for each operation. -/

namespace Sys2Proof.Machine

/-- The block goes on: the shims stay, no message between parts is taken back, and a slice that enters HOLD waits for its salvage. -/
structure Onward (s t : State) : Prop where
  keeps : Keeps s t
  held : s.canon = true → ∀ i, (t.slice i).conds.phase = .hold → (s.slice i).conds.phase = .hold ∨ i ∈ t.spine.salvageQ
  salvageQ : ∀ i ∈ s.spine.salvageQ, i ∈ t.spine.salvageQ
  shims : t.shims = s.shims
  wires : ∀ w ∈ s.wires, w ∈ t.wires

/-- Work that moves no bucket: every slice's table and the master map stay. -/
structure Steady (s t : State) : Prop extends Onward s t where
  bkt : s.canon = true → ∀ i, (t.slice i).bkt = (s.slice i).bkt
  master : t.spine.master = s.spine.master

/-- Work of slice n alone: the other slices stay too. -/
structure SliceWork (n : Nat) (s t : State) : Prop extends Steady s t where
  others : s.canon = true → ∀ i, i ≠ n → t.slice i = s.slice i

/-- Work of slice n that completes no command and ends no hold-off: the functions and the hold-offs stay too. -/
structure EngineWork (n : Nat) (s t : State) : Prop extends SliceWork n s t where
  holdoffs : s.canon = true → (t.slice n).holdoffs = (s.slice n).holdoffs
  fns : t.fns = s.fns

section
variable {n : Nat} {s t u : State}

theorem Onward.trans (h : Onward s t) (g : Onward t u) : Onward s u where
  keeps := h.keeps.trans g.keeps
  held c i hi := (g.held (h.keeps.canon c) i hi).elim (fun hi => (h.held c i hi).imp_right (g.salvageQ i)) .inr
  salvageQ i hi := g.salvageQ i (h.salvageQ i hi)
  shims := g.shims.trans h.shims
  wires w hw := g.wires w (h.wires w hw)

theorem Steady.refl (s : State) : Steady s s := ⟨⟨.refl s, fun _ _ => .inl, fun _ h => h, rfl, fun _ h => h⟩, fun _ _ => rfl, rfl⟩

theorem Steady.trans (h : Steady s t) (g : Steady t u) : Steady s u where
  toOnward := h.toOnward.trans g.toOnward
  bkt c i := (g.bkt (h.keeps.canon c) i).trans (h.bkt c i)
  master := g.master.trans h.master

theorem SliceWork.refl (n : Nat) (s : State) : SliceWork n s s := ⟨.refl s, fun _ _ _ => rfl⟩

theorem SliceWork.trans (h : SliceWork n s t) (g : SliceWork n t u) : SliceWork n s u where
  toSteady := h.toSteady.trans g.toSteady
  others c i hi := (g.others (h.keeps.canon c) i hi).trans (h.others c i hi)

theorem EngineWork.refl (n : Nat) (s : State) : EngineWork n s s := ⟨.refl n s, fun _ => rfl, rfl⟩

theorem EngineWork.trans (h : EngineWork n s t) (g : EngineWork n t u) : EngineWork n s u where
  toSliceWork := h.toSliceWork.trans g.toSliceWork
  holdoffs c := (g.holdoffs (h.keeps.canon c)).trans (h.holdoffs c)
  fns := g.fns.trans h.fns

theorem SliceWork.ite {p : Prop} [Decidable p] (ht : SliceWork n s t) (hu : SliceWork n s u) : SliceWork n s (if p then t else u) := by
  split
  · exact ht
  · exact hu

theorem EngineWork.ite {p : Prop} [Decidable p] (ht : EngineWork n s t) (hu : EngineWork n s u) :
    EngineWork n s (if p then t else u) := by
  split
  · exact ht
  · exact hu

theorem Steady.ite {p : Prop} [Decidable p] (ht : Steady s t) (hu : Steady s u) : Steady s (if p then t else u) := by
  split
  · exact ht
  · exact hu

theorem steady_eachOf {α : Type} (l : List α) (f : α → State → State) (h : ∀ x s, Steady s (f x s)) (s : State) :
    Steady s (eachOf l f s) := by
  induction l generalizing s with
  | nil => exact .refl s
  | cons x r ih => exact (h x s).trans (ih (f x s))

theorem engine_eachOf {α : Type} (l : List α) (f : α → State → State) (h : ∀ x s, EngineWork n s (f x s)) (s : State) :
    EngineWork n s (eachOf l f s) := by
  induction l generalizing s with
  | nil => exact .refl n s
  | cons x r ih => exact (h x s).trans (ih (f x s))

/-- An entry of a slice's table depends on the integration and the slice's table alone. -/
theorem Steady.bkt_eq (h : Steady s t) (c : s.canon = true) (i b : Nat) : t.bkt i b = s.bkt i b := by
  rw [State.bkt, h.keeps.par, h.bkt c i]; rfl

theorem Steady.master_eq (h : Steady s t) (b : Nat) : t.master b = s.master b := by
  rw [State.master, h.keeps.par, h.master]; rfl

theorem fn_of_fns (h : t.fns = s.fns) (f : Nat) : t.fn f = s.fn f := by rw [State.fn, h]; rfl

theorem slice_of_slices (hp : t.par = s.par) (h : t.slices = s.slices) (i : Nat) : t.slice i = s.slice i := by
  rw [State.slice, hp, h]; rfl

/-- Work that writes no slice, function or shim and leaves the map. -/
theorem EngineWork.of_slices (n : Nat) (keeps : Keeps s t) (slices : t.slices = s.slices)
    (salvageQ : ∀ i ∈ s.spine.salvageQ, i ∈ t.spine.salvageQ) (master : t.spine.master = s.spine.master)
    (shims : t.shims = s.shims) (fns : t.fns = s.fns) (wires : ∀ w ∈ s.wires, w ∈ t.wires) : EngineWork n s t := by
  have hslice := slice_of_slices keeps.par slices
  exact ⟨⟨⟨⟨keeps, fun _ i hi => .inl (hslice i ▸ hi), salvageQ, shims, wires⟩, fun _ i => by rw [hslice], master⟩,
    fun _ i _ => hslice i⟩, fun _ => by rw [hslice], fns⟩

/-- A slice written, its table aside. -/
theorem work_updSlice (n : Nat) (f : Slice → Slice) (s : State) (hb : (f (s.slice n)).bkt = (s.slice n).bkt)
    (hp : (f (s.slice n)).conds.phase = .hold → (s.slice n).conds.phase = .hold) : SliceWork n s (s.updSlice n f) where
  keeps := keeps_updSlice ..
  bkt c i := by
    by_cases hi : i = n
    · rw [hi, State.slice_updSlice_same n f c, hb]
    · rw [State.slice_updSlice_ne f c hi]
  held c i hi := by
    by_cases hin : i = n
    · subst hin; rw [State.slice_updSlice_same i f c] at hi; exact .inl (hp hi)
    · rw [State.slice_updSlice_ne f c hin] at hi; exact .inl hi
  salvageQ _ hi := hi
  master := rfl
  shims := rfl
  wires _ hw := hw
  others c i hi := State.slice_updSlice_ne f c hi

theorem engine_updSlice (n : Nat) (f : Slice → Slice) (s : State) (hb : (f (s.slice n)).bkt = (s.slice n).bkt)
    (hh : (f (s.slice n)).holdoffs = (s.slice n).holdoffs)
    (hp : (f (s.slice n)).conds.phase = .hold → (s.slice n).conds.phase = .hold) : EngineWork n s (s.updSlice n f) where
  toSliceWork := work_updSlice n f s hb hp
  holdoffs c := by rw [State.slice_updSlice_same n f c, hh]
  fns := rfl

end

/-! ### Records, modes and faults -/

theorem engine_wire (n : Nat) (w : Wire) (s : State) : EngineWork n s (s.wire w) :=
  .of_slices n (keeps_wire ..) rfl (fun _ h => h) rfl rfl rfl fun _ => List.mem_append_left _

theorem engine_updSpine (n : Nat) (g : Spine → Spine) (s : State) (hq : ∀ i ∈ s.spine.salvageQ, i ∈ (g s.spine).salvageQ)
    (hm : (g s.spine).master = s.spine.master) : EngineWork n s (s.updSpine g) :=
  .of_slices n (keeps_updSpine ..) rfl hq hm rfl rfl fun _ h => h

theorem engine_feed (n node : Nat) (r : HRec) (s : State) : EngineWork n s (s.feed node r) := by
  obtain ⟨hslices, hshims, -, hfns, hspine, -, hwires, -⟩ := feed_frame s node r
  exact .of_slices n (keeps_feed ..) hslices (by rw [hspine]; exact fun _ h => h) (by rw [hspine]) hshims hfns
    (by rw [hwires]; exact fun _ h => h)

theorem engine_setConds (n : Nat) (f : Conds → Conds) (s : State)
    (hp : (f (s.slice n).conds).phase = .hold → (s.slice n).conds.phase = .hold) : EngineWork n s (s.setConds n f) := by
  have hconds : EngineWork n s (s.updSlice n fun sl => { sl with conds := f (s.slice n).conds }) := engine_updSlice _ _ _ rfl rfl hp
  simp only [State.setConds]
  exact .ite hconds (hconds.trans (engine_feed ..))

theorem engine_trigger (n src : Nat) (s : State) : EngineWork n s (s.trigger src) := by
  rw [State.trigger]
  exact .ite (.of_slices n (keeps_updHall s fun h => { h with fatalDue := h.fatalDue + 1 }) rfl (fun _ h => h) rfl rfl rfl fun _ h => h)
    (.refl n s)

theorem engine_endSequence (n : Nat) (s : State) : EngineWork n s (endSequence s) := by
  rw [endSequence]; exact .ite (.refl n s) (engine_updSpine _ _ _ (fun _ h => h) rfl)

/-- HOLD entered: the slice waits for its salvage. -/
theorem engine_holdSlice (n : Nat) (s : State) : EngineWork n s (holdSlice n s) := by
  have henter : EngineWork n s ((s.setConds n fun c => { c with phase := .hold }).updSpine fun sp =>
      { sp with salvageQ := addNew sp.salvageQ n }) := by
    obtain ⟨hspine, hfns⟩ := setConds_frame s n fun c => { c with phase := .hold }
    refine ⟨⟨⟨⟨(keeps_setConds ..).trans (keeps_updSpine ..), fun c i hi => ?_, fun i hi => ?_, ?_, ?_⟩, fun c i => ?_, ?_⟩,
      fun c i hi => slice_setConds_ne _ c hi⟩, fun c => ?_, hfns⟩
    · by_cases hin : i = n
      · exact .inr (hin ▸ mem_addNew _ _)
      · rw [State.updSpine_slice, slice_setConds_ne _ c hin] at hi; exact .inl hi
    · show i ∈ addNew (s.setConds n _).spine.salvageQ n
      rw [hspine, addNew]
      split
      · exact hi
      · exact List.mem_append_left _ hi
    · simp only [State.updSpine_shims, State.setConds]
      split <;> simp [feed_frame]
    · simp only [State.updSpine_wires, State.setConds]
      split <;> simp [feed_frame]
    · by_cases hi : i = n
      · rw [hi, State.updSpine_slice, slice_setConds n _ c]
      · rw [State.updSpine_slice, slice_setConds_ne _ c hi]
    · exact (congrArg Spine.master hspine : (s.setConds n _).spine.master = _)
    · rw [State.updSpine_slice, slice_setConds n _ c]
  simp only [holdSlice]
  exact .ite (.refl n s) (.ite (henter.trans (engine_endSequence ..)) henter)

theorem engine_raiseSlice (n src : Nat) (d : Detail) (s : State) : EngineWork n s (raiseSlice n src d s) := by
  unfold raiseSlice
  refine (engine_trigger n src s).trans ?_
  generalize s.trigger src = s
  have hnote (sev : BitVec 2) : EngineWork n s (s.updSlice n fun sl => { sl with assay := sl.assay.capture sl.hclk 0 src sev d }) :=
    engine_updSlice _ _ _ rfl rfl id
  exact .ite (((hnote _).trans (engine_feed ..)).trans (engine_holdSlice ..)) ((hnote _).trans (engine_feed ..))

theorem engine_injSlice (n src : Nat) (s : State) : EngineWork n s (injSlice n src s).2 := by
  rw [injSlice]; exact .ite (engine_updSlice _ _ _ rfl rfl id) (.refl n s)

theorem engine_raiseSpine (n : Nat) (part : BitVec 9) (src : Nat) (d : Detail) (s : State) :
    EngineWork n s (raiseSpine part src d s) :=
  ((engine_trigger n src s).trans (engine_updSpine _ _ _ (fun _ h => h) rfl)).trans (engine_feed ..)

theorem engine_injSpine (n src : Nat) (s : State) : EngineWork n s (injSpine src s).2 := by
  rw [injSpine]; exact .ite (engine_updSpine _ _ _ (fun _ h => h) rfl) (.refl n s)

/-- A word of a spine table read with its check. -/
theorem engine_tableCheck (n table word : Nat) (s : State) : EngineWork n s (tableCheck table word s) := by
  have hinj := (engine_injSpine n 0x67 s).trans (engine_injSpine n 0x68 _)
  simp only [tableCheck]
  exact .ite (hinj.trans (engine_raiseSpine ..)) hinj

/-! ### Jobs -/

theorem work_updFn (n f : Nat) (g : Fn → Fn) (s : State) : SliceWork n s (s.updFn f g) :=
  ⟨⟨⟨keeps_updFn .., fun _ _ => .inl, fun _ h => h, rfl, fun _ h => h⟩, fun _ _ => rfl, rfl⟩, fun _ _ _ => rfl⟩

theorem steady_updJob (id : Nat) (f : JobKind → JobKind) (s : State) : Steady s (s.updJob id f) :=
  (engine_updSpine 0 _ _ (fun _ h => h) rfl).toSteady

theorem work_completeCmd (n fn idx : Nat) (code : BitVec 8) (result : Nat) (s : State) :
    SliceWork n s (completeCmd fn idx code result s) := by
  simp only [completeCmd]
  split
  · exact .refl n s
  · exact .ite ((work_updFn ..).trans (work_updFn ..)) ((work_updFn ..).trans (engine_feed n ..).toSliceWork)

theorem work_finishJob (n id : Nat) (code : BitVec 8) (result : Nat) (s : State) :
    SliceWork n s (finishJob id code result s) := by
  have hdrop : SliceWork n s (s.dropJob id) := (engine_updSpine n _ _ (fun _ h => h) rfl).toSliceWork
  simp only [finishJob]
  split
  · exact .refl n s
  · split
    · exact hdrop.trans (work_completeCmd ..)
    · exact hdrop

end Sys2Proof.Machine
end

section
/-! SUPPORT. What array writes, and the end of holds and Anvil lines, leave of a slice's engines and of the steals in progress (08 R219). -/

namespace Sys2Proof.Machine

/-- Slice y is slice x but for its arrays, trackers and counters: ownership, modes and the engines' work stay. -/
structure Slice.Aside (x y : Slice) : Prop where
  bkt : y.bkt = x.bkt
  holdoffs : y.holdoffs = x.holdoffs
  steal : y.steal = x.steal
  recipe : y.recipe = x.recipe
  conds : y.conds = x.conds

/-- Work on the arrays of slice n: its engines' work stays, and so does the job of every steal. -/
structure ArrayWork (n : Nat) (s t : State) : Prop extends EngineWork n s t where
  steal : s.canon = true → (t.slice n).steal = (s.slice n).steal
  recipe : s.canon = true → (t.slice n).recipe = (s.slice n).recipe
  job : ∀ id c m b, s.job id = some { id, cmd := c, kind := .steal m b } → t.job id = some { id, cmd := c, kind := .steal m b }

section
variable {n : Nat} {s t u : State}

theorem ArrayWork.refl (n : Nat) (s : State) : ArrayWork n s s := ⟨.refl n s, fun _ => rfl, fun _ => rfl, fun _ _ _ _ h => h⟩

theorem ArrayWork.trans (h : ArrayWork n s t) (g : ArrayWork n t u) : ArrayWork n s u where
  toEngineWork := h.toEngineWork.trans g.toEngineWork
  steal c := (g.steal (h.keeps.canon c)).trans (h.steal c)
  recipe c := (g.recipe (h.keeps.canon c)).trans (h.recipe c)
  job id c m b hj := g.job id c m b (h.job id c m b hj)

theorem ArrayWork.ite {p : Prop} [Decidable p] (ht : ArrayWork n s t) (hu : ArrayWork n s u) : ArrayWork n s (if p then t else u) := by
  split
  · exact ht
  · exact hu

theorem array_eachOf {α : Type} (l : List α) (f : α → State → State) (h : ∀ x s, ArrayWork n s (f x s)) (s : State) :
    ArrayWork n s (eachOf l f s) := by
  induction l generalizing s with
  | nil => exact .refl n s
  | cons x r ih => exact (h x s).trans (ih (f x s))

theorem array_updSlice (f : Slice → Slice) (h : (s.slice n).Aside (f (s.slice n))) : ArrayWork n s (s.updSlice n f) where
  toEngineWork := engine_updSlice n f s h.bkt h.holdoffs (by rw [h.conds]; exact fun h => h)
  steal c := by rw [State.slice_updSlice_same n f c, h.steal]
  recipe c := by rw [State.slice_updSlice_same n f c, h.recipe]
  job _ _ _ _ hj := hj

theorem array_setSlice (x : Slice) (h : (s.slice n).Aside x) : ArrayWork n s (s.setSlice n x) := array_updSlice (fun _ => x) h

theorem array_wire (n : Nat) (w : Wire) (s : State) : ArrayWork n s (s.wire w) :=
  ⟨engine_wire n w s, fun _ => rfl, fun _ => rfl, fun _ _ _ _ h => h⟩

/-- The jobs rewritten one by one: the jobs of steals stay. -/
theorem array_mapJobs (n : Nat) (g : Job → Job) (s : State) (hid : ∀ j, (g j).id = j.id)
    (hsteal : ∀ id c m b, g { id, cmd := c, kind := .steal m b } = { id, cmd := c, kind := .steal m b }) :
    ArrayWork n s (s.updSpine fun sp => { sp with jobs := sp.jobs.map g }) := by
  refine ⟨engine_updSpine n _ s (fun _ h => h) rfl, fun _ => rfl, fun _ => rfl, fun id c m b hj => ?_⟩
  have hfind : (s.spine.jobs.map g).find? (fun j => j.id = id) = (s.spine.jobs.find? fun j => j.id = id).map g := by
    rw [List.find?_map]; congr 2; funext j; simp [hid]
  show (s.spine.jobs.map g).find? (fun j => j.id = id) = _
  rw [hfind, show s.spine.jobs.find? (fun j => j.id = id) = _ from hj]
  simp [hsteal]

end

/-! ### Array writes -/

theorem array_unpin (n : Nat) (a : PA) (s : State) : ArrayWork n s (unpin n a s) := by
  rw [unpin]
  split
  · exact array_updSlice _ ⟨rfl, rfl, rfl, rfl, rfl⟩
  · exact .refl n s

theorem array_mirrorSend (n : Nat) (key : Bool × Nat × Nat) (w : Wire) (s : State) : ArrayWork n s (mirrorSend n key w s) := by
  rcases mirrorSend_cases n key w s with ⟨_, _, e⟩ | ⟨_, e⟩ <;> rw [e]
  · refine (array_setSlice _ ?_).trans (array_wire ..)
    exact ⟨rfl, rfl, rfl, rfl, rfl⟩
  · exact array_setSlice _ ⟨rfl, rfl, rfl, rfl, rfl⟩

theorem array_writeFineW (n set way : Nat) (x : Entry) (s : State) : ArrayWork n s (writeFineW n set way x s) := by
  have hput : ArrayWork n s (s.setSlice n ((s.slice n).putFine set way x)) := array_setSlice _ ⟨rfl, rfl, rfl, rfl, rfl⟩
  simp only [writeFineW]
  split
  · exact hput.trans (array_mirrorSend ..)
  · exact hput

theorem array_writeLoafW (n set way : Nat) (x : Entry) (s : State) : ArrayWork n s (writeLoafW n set way x s) := by
  have hput : ArrayWork n s (s.setSlice n ((s.slice n).putLoaf set way x)) := array_setSlice _ ⟨rfl, rfl, rfl, rfl, rfl⟩
  simp only [writeLoafW]
  split
  · exact hput.trans (array_mirrorSend ..)
  · exact hput

theorem array_dropCopy (n : Nat) (a : PA) (s : State) : ArrayWork n s (dropCopy n a s) := by
  rw [dropCopy]
  split
  · exact array_updSlice _ ⟨rfl, rfl, rfl, rfl, rfl⟩
  · exact .refl n s

theorem array_notePoison (n : Nat) (a : PA) (s : State) : ArrayWork n s (notePoison a s) := by
  refine array_mapJobs n _ s (fun j => ?_) fun _ _ _ _ => rfl
  split
  · split <;> rfl
  · split <;> rfl
  · rfl

theorem array_countScrub (n : Nat) (e : FineEntry) (s : State) : ArrayWork n s (countScrub e s) := by
  refine array_mapJobs n _ s (fun j => ?_) fun _ _ _ _ => rfl
  split
  · split <;> rfl
  · rfl

theorem array_writeFine (n : Nat) (a : PA) (way : Nat) (e : FineEntry) (s : State) : ArrayWork n s (writeFine n a way e s) := by
  simp only [writeFine]
  have hwrite (x : Entry) : ArrayWork n s (writeFineW n (fineSet a) way x s) := array_writeFineW ..
  have hnote (x : Entry) (p : Bool) : ArrayWork n s (if p = true then notePoison a (writeFineW n (fineSet a) way x s)
      else writeFineW n (fineSet a) way x s) := .ite ((hwrite x).trans (array_notePoison ..)) (hwrite x)
  exact .ite (((hnote _ _).trans (array_dropCopy ..)).trans (array_countScrub ..)) (hnote _ _)

theorem array_freeFine (n set way : Nat) (s : State) : ArrayWork n s (freeFine n set way s) := array_writeFineW ..

theorem array_writeLoaf (n set way : Nat) (e : LoafEntry) (s : State) : ArrayWork n s (writeLoaf n set way e s) := array_writeLoafW ..

/-! ### Holds and Anvil lines ended -/

theorem array_anvilExit (n : Nat) (a : PA) (s : State) : ArrayWork n s (anvilExit n a s) := by
  simp only [anvilExit]
  split
  · exact (array_unpin ..).trans (array_freeFine ..)
  · exact array_unpin ..

theorem array_completeFine (n : Nat) (a : PA) (s : State) : ArrayWork n s (completeFine n a s) := by
  simp only [completeFine]
  split
  · exact .refl n s
  · exact .ite (.refl n s) (.ite (.ite (array_writeFine ..) (array_writeFine ..)) (.ite (array_freeFine ..) (array_writeFine ..)))

theorem array_completeLoaf (n : Nat) (c : Census) (kept : List PA) (p : Nat × Nat) (s : State) :
    ArrayWork n s (completeLoaf n c kept p s) := by
  simp only [completeLoaf]
  exact .ite (array_writeLoaf ..) (array_writeLoaf ..)

theorem array_completeLine (n : Nat) (a : PA) (c : Census) (s : State) : ArrayWork n s (completeLine n a c s) := by
  simp only [completeLine]
  refine (array_completeFine n a s).trans ?_
  split
  · exact .ite (array_completeLoaf ..) (.refl n _)
  · exact .refl n _

theorem array_censusLeft (n : Nat) (a : PA) (s : State) : ArrayWork n s (censusLeft n a s) := by
  simp only [censusLeft]
  split
  · exact (array_completeLine ..).trans (array_updSlice _ ⟨rfl, rfl, rfl, rfl, rfl⟩)
  · exact .refl n s

theorem array_holdsEnded (n : Nat) (l : List PA) (s : State) : ArrayWork n s (holdsEnded n l s) :=
  array_eachOf _ _ (fun _ _ => .ite (.refl n _) (array_censusLeft ..)) s

theorem array_quietBucket (n b : Nat) (s : State) : ArrayWork n s (quietBucket n b s) := by
  simp only [quietBucket]
  refine .ite (.refl n s) (.trans ?_ (array_eachOf _ _ (fun _ _ => array_anvilExit ..) _))
  exact (array_updSlice (fun sl => { sl with holds := sl.holds.filter fun h => bucketOf h.line != b })
    ⟨rfl, rfl, rfl, rfl, rfl⟩).trans (array_holdsEnded ..)

/-! ### Steals and activations -/

/-- A steal begun: the slice's own record of it apart, it is work on the arrays. -/
theorem engine_startSteal (n b thief : Nat) (why : StealWhy) (s : State) : EngineWork n s (startSteal n b thief why s) := by
  rw [startSteal]
  exact (engine_updSlice n _ s rfl rfl fun h => h).trans (array_quietBucket ..).toEngineWork

theorem engine_recipeRec (n m e what : Nat) (id : BitVec 32) (s : State) : EngineWork n s (recipeRec m e what id s) := engine_feed ..

theorem engine_setShdBank (n e : Nat) (x : Bank) (s : State) : EngineWork n s (s.setShdBank n e x) :=
  engine_updSlice n _ s rfl rfl fun h => h

theorem engine_checkShd (n e : Nat) (s : State) : EngineWork n s (checkShd n e s) := by
  simp only [checkShd]
  refine .ite (.refl n s) (.ite ?_ (engine_injSlice ..))
  exact ((engine_injSlice ..).trans (engine_raiseSlice ..)).trans (engine_setShdBank ..)

theorem engine_recipeEngine (n : Nat) (r : RecipeAct) (l : List Nat) (s : State) : EngineWork n s (recipeEngine n r l s) := by
  induction l generalizing s with
  | nil =>
    simp only [recipeEngine]
    exact (engine_updSlice n _ s rfl rfl fun h => h).trans (engine_setConds n _ _ fun h => h)
  | cons e rest ih =>
    simp only [recipeEngine]
    refine (engine_checkShd n e s).trans (.ite ?_ (.ite (engine_updSlice _ _ _ rfl rfl fun h => h) ?_))
    · exact (engine_recipeRec ..).trans (ih _)
    · exact (engine_recipeRec ..).trans (ih _)

theorem engine_recipeOut (n : Nat) (s : State) : EngineWork n s (recipeOut n s) := by
  rw [recipeOut]
  split
  · split
    · split
      · exact engine_startSteal ..
      · exact .refl n s
    · exact .refl n s
  · exact .refl n s

theorem engine_recipeNext (n : Nat) (s : State) : EngineWork n s (recipeNext n s) := by
  have hnext (r : RecipeAct) (s : State) : EngineWork n s (recipeOut n (recipeEngine n r r.engines s)) :=
    (engine_recipeEngine ..).trans (engine_recipeOut ..)
  simp only [recipeNext]
  refine .ite (.refl n s) ?_
  split
  · exact .refl n s
  · split
    · exact hnext ..
    · refine .ite (engine_recipeOut ..) (.ite (.refl n s) ?_)
      split
      · exact .ite (engine_startSteal ..) (.refl n s)
      · exact (EngineWork.ite (.refl n s) (engine_recipeRec ..)).trans (hnext ..)

theorem engine_recipeFailed (n b : Nat) (s : State) : EngineWork n s (recipeFailed n b s) := by
  have hput (f : Slice → RecipeAct) : EngineWork n s (s.updSlice n fun sl => { sl with recipe := some (f sl) }) :=
    engine_updSlice n _ s rfl rfl fun h => h
  simp only [recipeFailed]
  split
  · refine .ite (hput _) ?_
    split
    · exact (hput _).trans (engine_recipeRec ..)
    · exact hput _
  · exact .refl n s

/-- Without an activation nothing goes on. -/
theorem recipeNext_idle {n : Nat} {s : State} (h : (s.slice n).recipe = none) : recipeNext n s = s := by
  simp only [recipeNext, h, ite_self]

end Sys2Proof.Machine
end

section
/-! SUPPORT. O34: steals (08 R218 to R220): a bucket written in a slice's table and the master map, what a steal's end leaves. -/

namespace Sys2Proof.Machine

/-! ### A slice written once or twice -/

/-- A slice written twice is written once. -/
theorem updSlice_updSlice {s : State} (n : Nat) (f g : Slice → Slice) (c : s.canon = true) :
    (s.updSlice n f).updSlice n g = s.updSlice n fun sl => g (f sl) := by
  rw [State.updSlice, State.slice_updSlice_same n f c]
  simp only [State.updSlice, State.setSlice]
  rw [mput_mput _ _ _ _ (mwf_rising ((State.canon_iff s).1 c).1)]

theorem updSlice_congr {s : State} {n : Nat} {f g : Slice → Slice} (h : f (s.slice n) = g (s.slice n)) :
    s.updSlice n f = s.updSlice n g := by
  rw [State.updSlice, State.updSlice, h]

/-! ### The tables of ownership (08 R215) -/

section
variable {s : State} {n b : Nat}

/-- The tables of ownership where every table rises. -/
theorem rising_bkt (n : Nat) (h : s.tablesRise = true) : mrising 0 (s.slice n).bkt = true := by
  refine mget_all (p := fun x : Slice => mrising 0 x.bkt = true) rfl (fun kv hkv => ?_) n
  simp only [State.tablesRise, Bool.and_eq_true, List.all_eq_true] at h
  have hslice := h.1.1.1.1 kv hkv
  simp only [Slice.rising, Bool.and_eq_true] at hslice
  tauto

theorem rising_master (h : s.tablesRise = true) : mrising 0 s.spine.master = true := by
  simp only [State.tablesRise, Spine.rising, Bool.and_eq_true] at h
  tauto

theorem bkt_setBkt_same {e : BktEntry} (c : s.canon = true) (hr : mrising 0 (s.slice n).bkt = true) : (s.setBkt n b e).bkt n b = e := by
  rw [State.bkt, State.setBkt, State.slice_updSlice_same n _ c]
  exact mget_mput_same _ _ _ hr

theorem bkt_setBkt_ne {e : BktEntry} {i d : Nat} (c : s.canon = true) (hr : mrising 0 (s.slice n).bkt = true) (h : i ≠ n ∨ d ≠ b) :
    (s.setBkt n b e).bkt i d = s.bkt i d := by
  rw [State.bkt, State.setBkt]
  by_cases hi : i = n
  · subst hi
    rw [State.slice_updSlice_same i _ c]
    exact mget_mput_ne _ _ _ hr (h.resolve_left (· rfl))
  · rw [State.slice_updSlice_ne _ c hi]; rfl

theorem risings_setBkt {e : BktEntry} (c : s.canon = true) (hr : ∀ i, mrising 0 (s.slice i).bkt = true) (i : Nat) :
    mrising 0 ((s.setBkt n b e).slice i).bkt = true := by
  rw [State.setBkt]
  by_cases hi : i = n
  · rw [hi, State.slice_updSlice_same n _ c]; exact mrising_mput _ _ (Nat.zero_le _) (hr n)
  · rw [State.slice_updSlice_ne _ c hi]; exact hr i

theorem master_setMaster_same {e : MasterEntry} (hr : mrising 0 s.spine.master = true) : (s.setMaster b e).master b = e :=
  mget_mput_same _ _ _ hr

theorem master_setMaster_ne {e : MasterEntry} {d : Nat} (hr : mrising 0 s.spine.master = true) (h : d ≠ b) :
    (s.setMaster b e).master d = s.master d :=
  mget_mput_ne _ _ _ hr h

/-- The shims told of an entry's engine. -/
theorem engine_sendEngine (n b : Nat) (s : State) : EngineWork n s (sendEngine b s) := by
  simp only [sendEngine]
  exact (engine_tableCheck ..).trans (engine_eachOf _ _ (fun _ _ => engine_wire ..) _)

/-- Every shim is told of the bucket's engine. -/
theorem mem_wires_sendEngine {sh : Nat} (hs : s.hasShim sh = true) (hsh : sh < 288) :
    Wire.mapUpdate sh b (s.master b).slice (s.master b).engine (s.master b).gen false ∈ (sendEngine b s).wires := by
  have hcheck := (engine_tableCheck 0 tblMaster b s).toSteady
  simp only [sendEngine, wires_eachOf_wire, hcheck.master_eq]
  refine List.mem_append_right _ (List.mem_map.2 ⟨sh, List.mem_filter.2 ⟨List.mem_range.2 hsh, ?_⟩, rfl⟩)
  rw [State.hasShim, hcheck.keeps.par]; exact hs

theorem bufferRead_sendEngine (b : Nat) (s : State) : BufferRead s (sendEngine b s) := by
  simp only [sendEngine]
  refine eachOf_inv (BufferRead s) _ _ (fun _ t h => ?_) _ (bufferRead_tableCheck ..)
  exact h.trans (.of_spine (keeps_wire ..) rfl rfl rfl)

/-- A bucket's entries written in a slice's table and in the master map. -/
def State.setHome (s : State) (n b : Nat) (e : BktEntry) (m : MasterEntry) : State := (s.setBkt n b e).setMaster b m

theorem keeps_setHome (s : State) (n b : Nat) (e : BktEntry) (m : MasterEntry) : Keeps s (s.setHome n b e m) :=
  (keeps_setBkt ..).trans (keeps_setMaster ..)

theorem slice_setHome (e : BktEntry) (m : MasterEntry) (c : s.canon = true) :
    (s.setHome n b e m).slice n = { s.slice n with bkt := mput (bktInit s.par n b) (s.slice n).bkt b e } := by
  simp only [State.setHome, State.setMaster, State.updSpine_slice, State.setBkt]
  exact State.slice_updSlice_same n _ c

theorem slice_setHome_ne {i : Nat} (e : BktEntry) (m : MasterEntry) (c : s.canon = true) (hi : i ≠ n) :
    (s.setHome n b e m).slice i = s.slice i := by
  simp only [State.setHome, State.setMaster, State.updSpine_slice, State.setBkt]
  exact State.slice_updSlice_ne _ c hi

end

/-! ### A command's job ended -/

/-- The end of a job completes its command. -/
theorem finishJob_done {s : State} {id f idx result : Nat} {code : BitVec 8} {kind : JobKind} {k : Taken} (c : s.canon = true)
    (hj : s.job id = some { id, cmd := some (f, idx), kind }) (hk : s.taken f idx = some k) (ho : k.orphan = false) :
    ((finishJob id code result s).fn f).done = (s.fn f).done ++ [k.doneWith code result] := by
  have hdrop : (s.dropJob id).canon = true := (keeps_updSpine ..).canon c
  obtain ⟨hfn, -⟩ := completeCmd_fn (s := s.dropJob id) (result := result) (code := code) hdrop hk ho
  simp only [finishJob, hj]
  exact congrArg Fn.done hfn

/-- The end of a job writes no slice. -/
theorem slices_finishJob (id : Nat) (code : BitVec 8) (result : Nat) (s : State) : (finishJob id code result s).slices = s.slices := by
  simp only [finishJob]
  split
  · rfl
  · split
    · simp only [completeCmd]
      split
      · rfl
      · split
        · rfl
        · simp [feed_frame, State.dropJob]
    · rfl

theorem slice_finishJob (id : Nat) (code : BitVec 8) (result : Nat) (s : State) (i : Nat) :
    (finishJob id code result s).slice i = s.slice i :=
  slice_of_slices (keeps_finishJob ..).par (slices_finishJob ..) i

/-! ### The end of a steal -/

theorem work_endSteal (n b : Nat) (s : State) : SliceWork n s (endSteal n b s) :=
  (work_updSlice n _ s rfl fun h => h).trans (engine_recipeNext ..).toSliceWork

section
variable {s : State} {n b : Nat}

theorem holdoffs_endSteal (c : s.canon = true) : b ∈ ((endSteal n b s).slice n).holdoffs := by
  rw [endSteal, (engine_recipeNext n _).holdoffs ((keeps_updSlice ..).canon c), State.slice_updSlice_same n _ c]
  exact mem_addNew ..

theorem fn_endSteal (f : Nat) : (endSteal n b s).fn f = s.fn f :=
  fn_of_fns (s := s) (engine_recipeNext n (s.updSlice n _)).fns f

/-- Without an activation, the hold-off is all that the end of a steal leaves. -/
theorem endSteal_idle (c : s.canon = true) (h : (s.slice n).recipe = none) :
    endSteal n b s = s.updSlice n fun sl => { sl with steal := none, holdoffs := addNew sl.holdoffs b } :=
  recipeNext_idle (by rw [State.slice_updSlice_same n _ c]; exact h)

end

/-- What the end of a steal of bucket b means to what it was for: the command completes, the activation notes it (13 R349). -/
def stealNoted (n b thief gen : Nat) : StealWhy → State → State
  | .idle, s => s
  | .command job, s => finishJob job ccOK (gen + 256 * n) s
  | .recipe, s => s.updSlice n fun sl => { sl with recipe := sl.recipe.map (recipeStolen b thief) }

/-- The bucket as it passes to the thief: in the slice's table, in the master map, and by the updates to the shims. -/
def stealPassed (n b thief : Nat) (s : State) : State :=
  let t := ((quietBucket n b s).updSlice n (parkBucket b)).setBkt n b { s.bkt n b with engine := thief }
  sendEngine b (t.setMaster b { t.master b with engine := thief })

/-- What an abandoned steal means to what it was for. -/
def stealFailed (n b : Nat) : StealWhy → State → State
  | .idle, s => s
  | .command job, s => finishJob job ccABORTED 0 s
  | .recipe, s => recipeFailed n b s

section
variable {s : State} {n b v e : Nat} {why : StealWhy}

theorem stealFlip_eq (hx : (s.slice n).steal = some { bucket := b, victim := v, thief := e, why }) (hs : (s.slice n).serving = true)
    (hq : (s.slice n).quiet b = true) (hp : s.paused n = false) :
    stealFlip n s = endSteal n b (stealNoted n b e (s.bkt n b).gen.toNat why (stealPassed n b e s)) := by
  simp only [stealFlip, hx, hs, hp, hq]
  cases why <;> rfl

theorem dropSteal_eq (n : Nat) (x : Steal) (s : State) :
    dropSteal n x s = endSteal n x.bucket (stealFailed n x.bucket x.why
      (s.updSlice n fun sl => parkBucket x.bucket { sl with steal := none })) := by
  obtain ⟨_, _, _, why⟩ := x
  cases why <;> rfl

theorem stealAbandon_eq (hx : (s.slice n).steal = some { bucket := b, victim := v, thief := e, why }) (hs : (s.slice n).serving = true)
    (hq : (s.slice n).quiet b = false) :
    stealAbandon n s = dropSteal n { bucket := b, victim := v, thief := e, why } s := by
  simp only [stealAbandon, hx, hs, hq, Bool.not_false, Bool.and_true, if_true]

/-- The end of a steal, whatever it was for, is work of its slice. -/
theorem work_stealNoted (n b thief gen : Nat) (why : StealWhy) (s : State) : SliceWork n s (stealNoted n b thief gen why s) := by
  cases why with
  | idle => exact .refl n s
  | command job => exact work_finishJob ..
  | recipe => exact work_updSlice n (fun sl => { sl with recipe := sl.recipe.map (recipeStolen b thief) }) s rfl fun h => h

theorem work_stealFailed (n b : Nat) (why : StealWhy) (s : State) : SliceWork n s (stealFailed n b why s) := by
  cases why with
  | idle => exact .refl n s
  | command job => exact work_finishJob ..
  | recipe => exact (engine_recipeFailed ..).toSliceWork

/-- No activation starts at the end of a steal. -/
theorem recipe_stealNoted (thief gen : Nat) (why : StealWhy) (c : s.canon = true) (h : (s.slice n).recipe = none) :
    ((stealNoted n b thief gen why s).slice n).recipe = none := by
  cases why with
  | idle => exact h
  | command job => rw [stealNoted, slice_finishJob, h]
  | recipe => rw [stealNoted, State.slice_updSlice_same n _ c, h]; rfl

theorem work_dropSteal (n : Nat) (x : Steal) (s : State) : SliceWork n s (dropSteal n x s) := by
  rw [dropSteal_eq]
  exact ((work_updSlice n (fun sl => parkBucket x.bucket { sl with steal := none }) s rfl fun h => h).trans
    (work_stealFailed ..)).trans (work_endSteal ..)

/-- The bucket before it passes on: its slice's arrays, and no more, are worked on. -/
theorem array_parked (n b : Nat) (s : State) : ArrayWork n s ((quietBucket n b s).updSlice n (parkBucket b)) :=
  (array_quietBucket ..).trans (array_updSlice _ ⟨rfl, rfl, rfl, rfl, rfl⟩)

/-- All that the passing of bucket b to an engine of its slice leaves (08 R219 steps 3 and 4). -/
structure StealPassed (n b thief : Nat) (s t : State) : Prop where
  canon : t.canon = true
  entry : t.bkt n b = { s.bkt n b with engine := thief }
  bkt : ∀ d, d ≠ b → t.bkt n d = s.bkt n d
  entryMaster : t.master b = { s.master b with engine := thief }
  master : ∀ d, d ≠ b → t.master d = s.master d
  others : ∀ i, i ≠ n → t.slice i = s.slice i
  told : ∀ sh, s.hasShim sh = true → sh < 288 → Wire.mapUpdate sh b (s.master b).slice thief (s.master b).gen false ∈ t.wires
  fns : t.fns = s.fns
  recipe : (s.slice n).recipe = none → (t.slice n).recipe = none
  job : ∀ id c m d, s.job id = some { id, cmd := c, kind := .steal m d } → t.job id = some { id, cmd := c, kind := .steal m d }

theorem stealPassed_eq (n b thief : Nat) (s : State) :
    let u := (quietBucket n b s).updSlice n (parkBucket b)
    stealPassed n b thief s =
      sendEngine b (u.setHome n b { s.bkt n b with engine := thief } { s.master b with engine := thief }) := by
  intro u
  have hmaster (e : BktEntry) : (u.setBkt n b e).master b = s.master b := (array_parked n b s).master_eq b
  simp only [stealPassed, State.setHome]
  rw [hmaster]

theorem stealPassed_leaves (thief : Nat) (c : s.canon = true) (ht : s.tablesRise = true) :
    StealPassed n b thief s (stealPassed n b thief s) := by
  have heq := stealPassed_eq n b thief s
  have hpark := array_parked n b s
  dsimp only at heq
  rw [heq]
  generalize (quietBucket n b s).updSlice n (parkBucket b) = u at hpark
  generalize he : ({ s.bkt n b with engine := thief } : BktEntry) = e
  generalize hm : ({ s.master b with engine := thief } : MasterEntry) = m
  have cu := hpark.keeps.canon c
  have hr : mrising 0 (u.slice n).bkt = true := by rw [hpark.bkt c]; exact rising_bkt n ht
  have hrm : mrising 0 (u.setBkt n b e).spine.master = true := by
    rw [State.setBkt, State.updSlice_spine, hpark.master]; exact rising_master ht
  have ct := (keeps_setHome u n b e m).canon cu
  have hread := bufferRead_sendEngine b (u.setHome n b e m)
  have hsend := engine_sendEngine n b (u.setHome n b e m)
  have hentry : (u.setHome n b e m).master b = m := master_setMaster_same hrm
  refine ⟨hsend.keeps.canon ct, ?_, fun d hd => ?_, ?_, fun d hd => ?_, fun i hi => ?_, fun sh hs hsh => ?_, ?_, fun h => ?_,
    fun id cmd k d hj => ?_⟩
  · rw [hsend.bkt_eq ct]; exact (bkt_setBkt_same cu hr).trans he.symm
  · rw [hsend.bkt_eq ct]; exact (bkt_setBkt_ne cu hr (.inr hd)).trans (hpark.bkt_eq c n d)
  · rw [hsend.master_eq, hentry, hm]
  · rw [hsend.master_eq]; exact (master_setMaster_ne hrm hd).trans (hpark.master_eq d)
  · rw [hread.slice, slice_setHome_ne _ _ cu hi, hpark.others c i hi]
  · have htold := mem_wires_sendEngine (b := b) (s := u.setHome n b e m) (sh := sh)
      (by rw [State.hasShim, (keeps_setHome ..).par, hpark.keeps.par]; exact hs) hsh
    rw [hentry] at htold
    subst hm
    exact htold
  · exact hsend.fns.trans hpark.fns
  · rw [hread.slice, slice_setHome _ _ cu]; exact (hpark.recipe c).trans h
  · rw [State.job, hread.jobs]; exact hpark.job id cmd k d hj

end

/-! ### What each row leaves -/

section
variable {s : State} {n b v e : Nat} {why : StealWhy}

theorem stealIdleStart_eq (hs : (s.slice n).serving = true) (he : e < 4) (hsteal : (s.slice n).steal = none) (hidle : s.readyOf n e = 0)
    (hlong : (s.slice n).stealCfg.idle ≤ mget 0 (s.slice n).idleFor e)
    (hv : argMax (s.readyOf n) ((List.range 4).filter (· != e)) = some v) (hminq : (s.slice n).stealCfg.minq ≤ s.readyOf n v)
    (hb : s.stealBucket n v = some b) : stealIdleStart n e s = startSteal n b e .idle s := by
  have hguard : (!(s.slice n).serving || decide (4 ≤ e) || (s.slice n).steal.isSome || s.readyOf n e != 0 ||
      decide (mget 0 (s.slice n).idleFor e < (s.slice n).stealCfg.idle)) = false := by
    simp [hs, hsteal, hidle, Nat.not_le.2 he, Nat.not_lt.2 hlong]
  simp only [stealIdleStart, hguard, hv, if_neg (Nat.not_lt.2 hminq), hb, Bool.false_eq_true, if_false]

theorem steal_startSteal (thief : Nat) (why : StealWhy) (c : s.canon = true) :
    ((startSteal n b thief why s).slice n).steal = some { bucket := b, victim := (s.bkt n b).engine, thief, why } := by
  rw [startSteal, (array_quietBucket ..).steal ((keeps_updSlice ..).canon c), State.slice_updSlice_same n _ c]

theorem stealFlip_paused (hp : s.paused n = true) : stealFlip n s = s := by
  simp only [stealFlip]
  split
  · rfl
  · simp [hp]

/-- A slice whose bucket is no longer under its hold-off; an activation that waited for it tries again. -/
def holdoffEnded (b : Nat) (sl : Slice) : Slice :=
  { sl with
    holdoffs := sl.holdoffs.filter (· != b)
    recipe := sl.recipe.map fun r => if r.retry = some b then { r with retry := none } else r }

theorem stealHoldoffEnd_eq (h : b ∈ (s.slice n).holdoffs) : stealHoldoffEnd n b s = recipeNext n (s.updSlice n (holdoffEnded b)) := by
  simp only [stealHoldoffEnd, List.contains_iff_mem.2 h, if_true]
  rfl

end

/-- Settles O34: each row is put as the passing or the parking of the bucket, then what its steal was for, then the hold-off; all but
the passing is work of the slice that moves no bucket. -/
theorem stealSteps : Obligations.StealSteps := by
  intro s n b c hn hs ht
  have run (f : State → State) : atSlice n s f = .next (f s) := atSlice_built f hn
  refine ⟨?_, ?_, ?_, ?_, ?_⟩
  · intro e v he hsteal hidle hlong hv hminq hb
    have hwork := engine_startSteal n b e .idle s
    refine ⟨_, (run _).trans (congrArg _ (stealIdleStart_eq hs he hsteal hidle hlong hv hminq hb)), steal_startSteal e .idle c,
      fun m hm _ => hwork.others c m hm, fun d => hwork.bkt_eq c n d, hwork.master⟩
  · intro v e why hx hq hp
    have hpass := stealPassed_leaves (n := n) (b := b) e c ht
    have hflip := stealFlip_eq hx hs hq hp
    generalize stealPassed n b e s = u at hpass hflip
    have hnote := work_stealNoted n b e (s.bkt n b).gen.toNat why u
    have hwork := hnote.trans (work_endSteal n b _)
    refine ⟨_, (run _).trans (congrArg _ hflip), (hwork.bkt_eq hpass.canon n b).trans hpass.entry,
      (hwork.master_eq b).trans hpass.entryMaster, holdoffs_endSteal (hnote.keeps.canon hpass.canon),
      fun d hd => ⟨(hwork.bkt_eq hpass.canon n d).trans (hpass.bkt d hd), (hwork.master_eq d).trans (hpass.master d hd)⟩,
      fun m hm _ => (hwork.others hpass.canon m hm).trans (hpass.others m hm),
      fun sh hsh hlt => hwork.wires _ (hpass.told sh hsh hlt), fun hr => ?_, fun id f idx k hwhy hj hk ho => ?_⟩
    · have cn := hnote.keeps.canon hpass.canon
      rw [endSteal_idle cn (recipe_stealNoted e _ why hpass.canon (hpass.recipe hr)), State.slice_updSlice_same n _ cn]
    · have hk' : u.taken f idx = some k := by rw [State.taken, fn_of_fns hpass.fns]; exact hk
      rw [fn_endSteal, hwhy, ← fn_of_fns hpass.fns f]
      exact finishJob_done hpass.canon (hpass.job id _ n b hj) hk' ho
  · intro v e why hx hq
    have hwork := work_dropSteal n { bucket := b, victim := v, thief := e, why } s
    have hdrop := dropSteal_eq n { bucket := b, victim := v, thief := e, why } s
    have hrun := (run _).trans (congrArg Host.Outcome.next (stealAbandon_eq hx hs hq))
    generalize dropSteal n { bucket := b, victim := v, thief := e, why } s = t at hwork hdrop hrun
    have cp : (s.updSlice n fun sl => parkBucket b { sl with steal := none }).canon = true := (keeps_updSlice ..).canon c
    refine ⟨t, hrun, fun d => hwork.bkt_eq c n d, hwork.master, ?_, fun m hm _ => hwork.others c m hm, fun hwhy hr => ?_,
      fun id f idx k hwhy hj hk ho => ?_⟩
    · rw [hdrop]; exact holdoffs_endSteal ((work_stealFailed ..).keeps.canon cp)
    · subst hwhy
      refine hdrop.trans ((endSteal_idle cp ?_).trans (updSlice_updSlice n _ _ c))
      show ((s.updSlice n _).slice n).recipe = none
      rw [State.slice_updSlice_same n _ c]
      exact hr
    · subst hwhy
      rw [hdrop, fn_endSteal]
      exact finishJob_done cp hj hk ho
  · exact fun hp => (run _).trans (congrArg _ (stealFlip_paused hp))
  · intro hb
    have hwork := engine_recipeNext n (s.updSlice n (holdoffEnded b))
    have cu : (s.updSlice n (holdoffEnded b)).canon = true := (keeps_updSlice ..).canon c
    have hupd : SliceWork n s (s.updSlice n (holdoffEnded b)) := work_updSlice n _ s rfl fun h => h
    have hall := hupd.trans hwork.toSliceWork
    refine ⟨_, (run _).trans (congrArg _ (stealHoldoffEnd_eq hb)), ?_, fun d => hall.bkt_eq c n d,
      fun m hm _ => hall.others c m hm, fun hr => ?_⟩
    · rw [hwork.holdoffs cu, State.slice_updSlice_same n _ c]; rfl
    · rw [recipeNext_idle]
      · exact updSlice_congr (by simp [holdoffEnded, hr])
      · rw [State.slice_updSlice_same n _ c, holdoffEnded, hr]; rfl

end Sys2Proof.Machine
end

section
/-! SUPPORT. O35: the flip of a moved bucket (08 R227, R228): what stays beside the bucket's own entries while its home changes. -/

namespace Sys2Proof.Machine

/-! ### Work that moves no bucket -/

section
variable (n : Nat) (s : State)

theorem steady_updSlice (f : Slice → Slice) (hb : (f (s.slice n)).bkt = (s.slice n).bkt)
    (hp : (f (s.slice n)).conds.phase = .hold → (s.slice n).conds.phase = .hold) : Steady s (s.updSlice n f) :=
  (work_updSlice n f s hb hp).toSteady

theorem steady_setConds (f : Conds → Conds) (hp : (f (s.slice n).conds).phase = .hold → (s.slice n).conds.phase = .hold) :
    Steady s (s.setConds n f) :=
  (engine_setConds n f s hp).toSteady

theorem steady_requestCensus (bs : List Nat) : Steady s (requestCensus n bs s) := by
  have hcensus (f : Slice → List Census) : Steady s (s.updSlice n fun sl => { sl with census := f sl }) :=
    steady_updSlice n s _ rfl fun h => h
  simp only [requestCensus]
  exact .ite ((hcensus _).trans (steady_setConds _ _ _ fun h => h)) (hcensus _)

theorem steady_startPurge (l : List Mv) : Steady s (startPurge n l s) := by
  simp only [startPurge]
  exact steady_updSlice _ _ _ rfl fun h => h

theorem steady_endMoves : Steady s (endMoves n s) := by
  simp only [endMoves]
  split
  · exact .refl s
  · refine Steady.trans ?_ (steady_startPurge ..)
    exact steady_updSlice _ _ _ rfl fun h => h

theorem steady_settleSuspects (f g : Slice → Suspects) : Steady s (s.updSlice n fun sl => { sl with susFine := f sl, susLoaf := g sl }) :=
  steady_updSlice n s _ rfl fun h => h

theorem steady_settleCensus (done : List Nat) : Steady s (settleCensus n done s) := by
  have hend (p : Bool) (u : State) (h : Steady s u) : Steady s (if p then u else u.setConds n fun c => { c with lCensus := false }) :=
    .ite h (h.trans (steady_setConds _ _ _ fun h => h))
  simp only [settleCensus]
  refine hend _ _ ?_
  split
  · exact (steady_settleSuspects n s _ _).trans (steady_settleSuspects ..)
  · exact steady_settleSuspects n s _ _

theorem steady_scrubAgain : Steady s (scrubAgain n s) := by
  refine steady_eachOf _ _ (fun agent u => ?_) s
  simp only [startScrub]
  exact steady_updSlice _ _ _ rfl fun h => h

theorem steady_carrySuspects (m b : Nat) : Steady s (carrySuspects n m b s) := by
  have hraise (p : Bool) (d : Detail) (u : State) (h : Steady s u) : Steady s (if p then raiseSlice m 0x04 d u else u) :=
    .ite (h.trans (engine_raiseSlice ..).toSteady) h
  simp only [carrySuspects]
  refine .ite (.refl s) (Steady.trans ?_ (steady_requestCensus ..))
  exact hraise _ _ _ (hraise _ _ _ (steady_settleSuspects m s _ _))

theorem steady_setFrontier (b fine loaf : Nat) : Steady s (setFrontier n b fine loaf s) := by
  simp only [setFrontier]
  refine Steady.trans ?_ (steady_requestCensus ..)
  refine Steady.trans ?_ (steady_setConds _ _ _ fun h => h)
  exact steady_updSlice _ _ _ rfl fun h => h

theorem steady_countFlip (job : Nat) : Steady s (countFlip job s) := steady_updJob ..

end

/-! ### The parts of a flip -/

/-- The flip's first step: a steal of the bucket is dropped. -/
def stealDropped (n b : Nat) (s : State) : State :=
  match (s.slice n).steal with
  | some x => if x.bucket = b then dropSteal n x s else s
  | none => s

/-- The censuses of the bucket end at its old home; a CENSUS_RANGE goes on, and a retire scrub begins again, at its new home. -/
def censusMoved (n b tgt : Nat) (s : State) : State :=
  let range := ((s.slice n).census.filter fun c => c.bucket = b && c.job.isSome).map fun c =>
    { c with started := false, waiting := [], unanswered := [], reports := [], placed := [], left := [] }
  let s := s.updSlice n fun sl => { sl with census := sl.census.filter fun c => c.bucket != b }
  let s := scrubAgain tgt (s.updSlice tgt fun sl => { sl with census := sl.census ++ range })
  let s := if range.isEmpty then s else s.setConds tgt fun c => { c with lCensus := true }
  settleCensus n [] s

/-- The master map's entry goes to every shim, and those whose agent is admitted are awaited. -/
def mapSent (b : Nat) (s : State) : State :=
  let s := tableCheck tblMaster b s
  let s := s.setMaster b { s.master b with unacked := s.shimNums.filter fun sh => (s.shim sh).acks }
  let g := s.master b
  eachOf s.shimNums (fun sh s => s.wire (.mapUpdate sh b g.slice g.engine g.gen ((s.shim sh).acks))) s

/-- The bucket's entries at its new and its old home. -/
def homesMoved (n b tgt e : Nat) (gen : BitVec 6) (purge : Bool) (s : State) : State :=
  (s.setBkt tgt b { s.bkt tgt b with kind := .owned, engine := e, gen, peer := 0, incoming := false, bad := false }).setBkt n b
    { kind := .stub, gen, peer := tgt, purge }

theorem flipBucket_eq (n b tgt e : Nat) (purge : Bool) (s : State) :
    flipBucket n b tgt e purge s = sendMap b
      ((censusMoved n b tgt (homesMoved n b tgt e ((s.bkt n b).gen + 1) purge (stealDropped n b s))).setMaster b
        { slice := tgt, engine := e, gen := (s.bkt n b).gen + 1 }) := rfl

theorem steady_stealDropped (n b : Nat) (s : State) : Steady s (stealDropped n b s) := by
  rw [stealDropped]
  split
  · exact .ite (work_dropSteal ..).toSteady (.refl s)
  · exact .refl s

theorem steady_census (n : Nat) (f : Slice → List Census) (s : State) : Steady s (s.updSlice n fun sl => { sl with census := f sl }) :=
  steady_updSlice n s _ rfl fun h => h

theorem steady_censusMoved (n b tgt : Nat) (s : State) : Steady s (censusMoved n b tgt s) := by
  have hmark (p : Bool) (u : State) (h : Steady s u) : Steady s (if p then u else u.setConds tgt fun c => { c with lCensus := true }) :=
    .ite h (h.trans (steady_setConds _ _ _ fun h => h))
  simp only [censusMoved]
  refine Steady.trans (hmark _ _ (Steady.trans ?_ (steady_scrubAgain ..))) (steady_settleCensus ..)
  exact (steady_census n _ s).trans (steady_census tgt _ _)

section
variable {s : State} {n b : Nat}

theorem onward_setBkt (e : BktEntry) (s : State) : Onward s (s.setBkt n b e) where
  keeps := keeps_setBkt ..
  held c i hi := by
    by_cases hin : i = n
    · subst hin; rw [State.setBkt, State.slice_updSlice_same i _ c] at hi; exact .inl hi
    · rw [State.setBkt, State.slice_updSlice_ne _ c hin] at hi; exact .inl hi
  salvageQ _ hi := hi
  shims := rfl
  wires _ hw := hw

theorem onward_setMaster (b : Nat) (e : MasterEntry) (s : State) : Onward s (s.setMaster b e) :=
  ⟨keeps_setMaster .., fun _ _ => .inl, fun _ h => h, rfl, fun _ h => h⟩

/-- The shims whose agent is admitted: they acknowledge what they are told (08 R229). -/
def State.acking (s : State) : List Nat := s.shimNums.filter fun sh => (s.shim sh).acks

theorem acking_of_shims {t : State} (hp : t.par = s.par) (h : t.shims = s.shims) : t.acking = s.acking := by
  have hshim (sh : Nat) : t.shim sh = s.shim sh := by rw [State.shim, h]; rfl
  have hnums : t.shimNums = s.shimNums := by simp only [State.shimNums]; congr 1; funext sh; rw [State.hasShim, hp]; rfl
  simp only [State.acking, hnums, hshim]

theorem sendMap_eq (b : Nat) (s : State) : sendMap b s = if s.acking.isEmpty then freeStubs b (mapSent b s) else mapSent b s := by
  have hcheck := (engine_tableCheck 0 tblMaster b s).toSteady
  rw [← acking_of_shims hcheck.keeps.par hcheck.shims]
  rfl

theorem onward_mapSent (b : Nat) (s : State) : Onward s (mapSent b s) := by
  simp only [mapSent]
  refine Onward.trans ?_ (engine_eachOf (n := 0) _ _ (fun _ _ => engine_wire ..) _).toOnward
  exact (engine_tableCheck 0 tblMaster b s).toOnward.trans (onward_setMaster ..)

theorem tables_mapSent (c : s.canon = true) (i : Nat) : ((mapSent b s).slice i).bkt = (s.slice i).bkt := by
  have hcheck := (engine_tableCheck 0 tblMaster b s).toSteady
  have hset (e : MasterEntry) := (onward_setMaster b e (tableCheck tblMaster b s)).keeps.canon (hcheck.keeps.canon c)
  simp only [mapSent]
  rw [(engine_eachOf (n := 0) _ _ (fun _ _ => engine_wire ..) _).bkt (hset _)]
  exact hcheck.bkt c i

theorem master_mapSent (hr : mrising 0 s.spine.master = true) :
    (mapSent b s).master b = { s.master b with unacked := s.acking } := by
  have hcheck := (engine_tableCheck 0 tblMaster b s).toSteady
  simp only [mapSent]
  rw [(engine_eachOf (n := 0) _ _ (fun _ _ => engine_wire ..) _).toSteady.master_eq,
    master_setMaster_same (by rw [hcheck.master]; exact hr), hcheck.master_eq, ← acking_of_shims hcheck.keeps.par hcheck.shims]
  rfl

/-- Messages that follow what their shims are: sending them changes no shim. -/
theorem eachOf_wire_shim (l : List Nat) (w : Nat → Shim → Wire) (s : State) :
    eachOf l (fun sh t => t.wire (w sh (t.shim sh))) s = eachOf l (fun sh t => t.wire (w sh (s.shim sh))) s := by
  induction l generalizing s with
  | nil => rfl
  | cons sh l ih => rw [eachOf_cons, eachOf_cons, ih]; rfl

theorem mem_wires_mapSent {sh : Nat} (hr : mrising 0 s.spine.master = true) (hsh : sh < 288) (hs : s.hasShim sh = true) :
    Wire.mapUpdate sh b (s.master b).slice (s.master b).engine (s.master b).gen (s.shim sh).acks ∈ (mapSent b s).wires := by
  have hcheck := (engine_tableCheck 0 tblMaster b s).toSteady
  have hshim : (tableCheck tblMaster b s).shim sh = s.shim sh := by rw [State.shim, hcheck.shims]; rfl
  simp only [mapSent]
  rw [eachOf_wire_shim _ (fun sh x => .mapUpdate sh b _ _ _ x.acks), wires_eachOf_wire]
  refine List.mem_append_right _ (List.mem_map.2 ⟨sh, List.mem_filter.2 ⟨List.mem_range.2 hsh, ?_⟩, ?_⟩)
  · show bit (tableCheck tblMaster b s).par.strapped sh = true
    rw [hcheck.keeps.par]; exact hs
  · rw [master_setMaster_same (by rw [hcheck.master]; exact hr), hcheck.master_eq]
    exact congrArg (fun x : Shim => Wire.mapUpdate sh b _ _ _ x.acks) hshim

/-- A slice that waits for its salvage, or is not in HOLD, is not freed. -/
theorem holdFreed_eq (h : (s.slice n).conds.phase = .hold → n ∈ s.spine.salvageQ) : holdFreed n s = s := by
  rw [holdFreed, if_neg]
  intro hfree
  simp only [Bool.and_eq_true, decide_eq_true_eq, Bool.not_eq_true', List.contains_eq_mem, decide_eq_false_iff_not] at hfree
  exact hfree.2 (h hfree.1.1.1.1)

/-- Slice n alone holds a stub of the bucket: that stub is freed. -/
theorem freeStubs_single (hn : n < s.par.nSlice) (h : ∀ k, k < s.par.nSlice → ((s.bkt k b).kind = .stub ↔ k = n)) :
    freeStubs b s = holdFreed n (s.setBkt n b { incoming := (s.bkt n b).incoming, purge := (s.bkt n b).purge }) := by
  have honly : (s.sliceNums.filter fun k => (s.bkt k b).kind = .stub) = [n] := by
    have heq : s.sliceNums.filter (fun k => (s.bkt k b).kind = .stub) = s.sliceNums.filter (fun k => k = n) :=
      List.filter_congr fun k hk => by simp [h k (List.mem_range.1 hk)]
    rw [heq, State.sliceNums, List.filter_eq, List.count_eq_one_of_mem List.nodup_range (List.mem_range.2 hn)]
    rfl
  simp only [freeStubs, honly, eachOf_cons, eachOf_nil]

end

/-! ### The flip -/

section
variable {s : State} {n b tgt e : Nat} {gen : BitVec 6} {purge : Bool}

/-- The bucket's entries at its new and its old home, and every other. -/
theorem bkt_homesMoved (c : s.canon = true) (hr : ∀ i, mrising 0 (s.slice i).bkt = true) (hne : tgt ≠ n) :
    let t := homesMoved n b tgt e gen purge s
    t.bkt tgt b = { s.bkt tgt b with kind := .owned, engine := e, gen, peer := 0, incoming := false, bad := false } ∧
      t.bkt n b = { kind := .stub, gen, peer := tgt, purge } ∧ (∀ k, k ≠ n → k ≠ tgt → t.bkt k b = s.bkt k b) ∧
      ∀ i, mrising 0 (t.slice i).bkt = true := by
  intro t
  generalize hown : ({ s.bkt tgt b with kind := .owned, engine := e, gen, peer := 0, incoming := false, bad := false } : BktEntry) = own
  have cu := (keeps_setBkt s tgt b own).canon c
  have ht : t = (s.setBkt tgt b own).setBkt n b { kind := .stub, gen, peer := tgt, purge } := by rw [← hown]; rfl
  have hrn : mrising 0 ((s.setBkt tgt b own).slice n).bkt = true := by
    rw [State.setBkt, State.slice_updSlice_ne _ c hne.symm]; exact hr n
  rw [ht]
  refine ⟨?_, bkt_setBkt_same cu hrn, fun k hk hkt => ?_, risings_setBkt cu (risings_setBkt c hr)⟩
  · rw [bkt_setBkt_ne cu hrn (.inl hne), bkt_setBkt_same c (hr tgt)]
  · rw [bkt_setBkt_ne cu hrn (.inl hk), bkt_setBkt_ne c (hr tgt) (.inl hkt)]

theorem onward_homesMoved (n b tgt e : Nat) (gen : BitVec 6) (purge : Bool) (s : State) :
    Onward s (homesMoved n b tgt e gen purge s) :=
  (onward_setBkt ..).trans (onward_setBkt ..)

/-- All that the flip of bucket b from slice n to a target leaves. -/
structure Flipped (n b tgt e : Nat) (s t : State) : Prop where
  canon : t.canon = true
  shims : t.shims = s.shims
  new : (t.bkt tgt b).kind = .owned ∧ (t.bkt tgt b).engine = e ∧ (t.bkt tgt b).gen = (s.bkt n b).gen + 1 ∧
    (t.bkt tgt b).incoming = false
  master : (t.master b).slice = tgt ∧ (t.master b).engine = e ∧ (t.master b).gen = (s.bkt n b).gen + 1
  told : ∀ sh, sh < 288 → s.hasShim sh = true → Wire.mapUpdate sh b tgt e ((s.bkt n b).gen + 1) (s.shim sh).acks ∈ t.wires
  stub : s.acking ≠ [] → (t.bkt n b).kind = .stub ∧ (t.bkt n b).peer = tgt
  freed : s.acking = [] → (t.bkt n b).kind = .none

theorem Flipped.steady {t u : State} (h : Flipped n b tgt e s t) (g : Steady t u) : Flipped n b tgt e s u := by
  have hbkt := g.bkt_eq h.canon
  exact ⟨g.keeps.canon h.canon, g.shims.trans h.shims, by simpa only [hbkt] using h.new, by simpa only [g.master_eq] using h.master,
    fun sh hsh hs => g.wires _ (h.told sh hsh hs), by simpa only [hbkt] using h.stub, by simpa only [hbkt] using h.freed⟩

theorem flipBucket_leaves (c : s.canon = true) (ht : s.tablesRise = true) (hn : n < s.par.nSlice) (hne : tgt ≠ n)
    (hhold : (s.slice n).conds.phase ≠ .hold) (hstub : ∀ k, k < s.par.nSlice → (s.bkt k b).kind = .stub → k = n) :
    Flipped n b tgt e s (flipBucket n b tgt e true s) := by
  have hdrop := steady_stealDropped n b s
  rw [flipBucket_eq]
  generalize stealDropped n b s = s1 at hdrop
  have c1 := hdrop.keeps.canon c
  have hr1 (i : Nat) : mrising 0 (s1.slice i).bkt = true := by rw [hdrop.bkt c]; exact rising_bkt i ht
  obtain ⟨hnew, hold, hother, hr2⟩ := bkt_homesMoved (b := b) (e := e) (gen := (s.bkt n b).gen + 1) (purge := true) c1 hr1 hne
  have hon1 := hdrop.toOnward.trans (onward_homesMoved n b tgt e ((s.bkt n b).gen + 1) true s1)
  have hm1 : (homesMoved n b tgt e ((s.bkt n b).gen + 1) true s1).spine.master = s.spine.master := hdrop.master
  generalize homesMoved n b tgt e ((s.bkt n b).gen + 1) true s1 = s2 at hnew hold hother hr2 hon1 hm1
  have hcensus := steady_censusMoved n b tgt s2
  generalize censusMoved n b tgt s2 = s3 at hcensus
  have c3 := hcensus.keeps.canon (hon1.keeps.canon c)
  have hr3 : mrising 0 s3.spine.master = true := by rw [hcensus.master, hm1]; exact rising_master ht
  generalize hg : ({ slice := tgt, engine := e, gen := (s.bkt n b).gen + 1 } : MasterEntry) = g
  have hon3 := (hon1.trans hcensus.toOnward).trans (onward_setMaster b g s3)
  have htab (k : Nat) : ((mapSent b (s3.setMaster b g)).slice k).bkt = (s2.slice k).bkt :=
    (tables_mapSent ((keeps_setMaster ..).canon c3) k).trans (hcensus.bkt (hon1.keeps.canon c) k)
  have hentry : (s3.setMaster b g).master b = g := master_setMaster_same hr3
  have hr4 : mrising 0 (s3.setMaster b g).spine.master = true := mrising_mput _ _ (Nat.zero_le _) hr3
  have hmaster := master_mapSent (b := b) hr4
  have htold (sh : Nat) (hsh : sh < 288) (hs : s.hasShim sh = true) :
      Wire.mapUpdate sh b tgt e ((s.bkt n b).gen + 1) (s.shim sh).acks ∈ (mapSent b (s3.setMaster b g)).wires := by
    have h := mem_wires_mapSent (b := b) (sh := sh) hr4 hsh (by rw [State.hasShim, hon3.keeps.par]; exact hs)
    have hshim : (s3.setMaster b g).shim sh = s.shim sh := by rw [State.shim, hon3.shims]; rfl
    rw [hentry, hshim] at h
    subst hg
    exact h
  have hack : (s3.setMaster b g).acking = s.acking := acking_of_shims hon3.keeps.par hon3.shims
  have hon := hon3.trans (onward_mapSent b _)
  rw [hentry] at hmaster
  rw [sendMap_eq, hack]
  generalize mapSent b (s3.setMaster b g) = u at *
  have cu := hon.keeps.canon c
  have hbkt (k d : Nat) : u.bkt k d = s2.bkt k d := by rw [State.bkt, htab, hon.keeps.par, ← hon1.keeps.par]; rfl
  obtain ⟨hkind, heng, hgen, hinc⟩ : (u.bkt tgt b).kind = .owned ∧ (u.bkt tgt b).engine = e ∧
      (u.bkt tgt b).gen = (s.bkt n b).gen + 1 ∧ (u.bkt tgt b).incoming = false := by
    rw [hbkt, hnew]; exact ⟨rfl, rfl, rfl, rfl⟩
  have hhome : (u.master b).slice = tgt ∧ (u.master b).engine = e ∧ (u.master b).gen = (s.bkt n b).gen + 1 := by
    rw [hmaster, ← hg]; exact ⟨rfl, rfl, rfl⟩
  have hleft : u.bkt n b = { kind := .stub, gen := (s.bkt n b).gen + 1, peer := tgt, purge := true } := (hbkt n b).trans hold
  by_cases hnone : s.acking = []
  · have hlone (k : Nat) (hk : k < u.par.nSlice) : (u.bkt k b).kind = .stub ↔ k = n := by
      refine ⟨fun hs => ?_, fun h => by rw [h, hleft]⟩
      by_contra hkn
      by_cases hkt : k = tgt
      · rw [hkt, hkind] at hs; cases hs
      · rw [hbkt, hother k hkn hkt, hdrop.bkt_eq c] at hs
        exact hkn (hstub k (by rw [← hon.keeps.par]; exact hk) hs)
    have hru : mrising 0 (u.slice n).bkt = true := by rw [htab]; exact hr2 n
    rw [if_pos (by rw [hnone]; rfl), freeStubs_single (by rw [hon.keeps.par]; exact hn) hlone]
    have hfree (x : BktEntry) := hon.trans (onward_setBkt (n := n) (b := b) x u)
    rw [holdFreed_eq fun hp => ((hfree _).held c n hp).resolve_left hhold]
    have hstay (x : BktEntry) : (u.setBkt n b x).bkt tgt b = u.bkt tgt b := bkt_setBkt_ne cu hru (.inl hne)
    refine ⟨(hfree _).keeps.canon c, (hfree _).shims, ?_, hhome, htold, fun h => absurd hnone h, fun _ => ?_⟩
    · rw [hstay]; exact ⟨hkind, heng, hgen, hinc⟩
    · rw [bkt_setBkt_same cu hru]
  · rw [if_neg (by simpa using hnone)]
    exact ⟨cu, hon.shims, ⟨hkind, heng, hgen, hinc⟩, hhome, htold, fun _ => by rw [hleft]; exact ⟨rfl, rfl⟩, fun h => absurd h hnone⟩

/-- The one element with a property is found. -/
theorem find?_unique {α : Type} {l : List α} {p : α → Bool} {x : α} (hx : x ∈ l) (hp : p x = true)
    (h : ∀ y ∈ l, p y = true → y = x) : l.find? p = some x := by
  cases hfind : l.find? p with
  | none => exact absurd hp (List.find?_eq_none.1 hfind x hx)
  | some y => rw [h y (List.mem_of_find?_eq_some hfind) (List.find?_some hfind)]

/-- The drain of frozen bucket b of slice n has ended: its finished move scan sc takes it to m's target, and neither slice pauses. -/
structure FlipReady (s : State) (n b : Nat) (sc : Scan) (m : Mv) : Prop where
  built : n < s.par.nSlice
  frozen : (s.bkt n b).kind = .frozen
  serving : (s.slice n).serving = true
  only : ∀ k, k < s.par.nSlice → (s.bkt k b).kind = .frozen ∨ (s.bkt k b).kind = .stub → k = n
  scan : (s.slice n).scans.find? (fun x => (x.kind = .move || x.kind = .copy) && x.stop ≤ x.pos && x.moves.any fun y => y.b = b) =
    some sc
  kind : sc.kind = .move
  move : sc.moves.find? (fun y => y.b = b) = some m
  targetServing : (s.slice m.target).serving = true
  runs : s.paused n = false
  targetRuns : s.paused m.target = false
  quiet : quietBucket n b s = s
  drained : s.drainedOut n b = true

/-- BUCKET_FLIP finds the slice at which the bucket is frozen, and the finished scan that moves it. -/
theorem FlipReady.found {sc : Scan} {m : Mv} (h : FlipReady s n b sc m) :
    s.sliceNums.find? (fun k => ((s.slice k).scans.find? fun x => (x.kind = .move || x.kind = .copy) && x.stop ≤ x.pos &&
      x.moves.any fun y => y.b = b).isSome && (s.bkt k b).kind = .frozen && (s.slice k).serving) = some n := by
  refine find?_unique (List.mem_range.2 h.built) (by simp [h.scan, h.frozen, h.serving]) fun k hk hp => ?_
  simp only [Bool.and_eq_true, decide_eq_true_eq] at hp
  exact h.only k (List.mem_range.1 hk) (.inl hp.1.2)

/-- Once the bucket has flipped, BUCKET_FLIP moves no other. -/
theorem FlipReady.steady {sc : Scan} {m : Mv} (h : FlipReady s n b sc m) :
    Steady (flipBucket n b m.target m.engine true s) (bucketFlip b s) := by
  have hcopy : (ScanKind.move = ScanKind.copy) = False := by simp
  simp only [bucketFlip, h.found, h.scan, h.move, h.quiet, ite_self, h.drained, h.targetServing, h.runs, h.targetRuns, h.kind, hcopy,
    decide_false, Bool.not_true, Bool.or_false, Bool.false_eq_true, if_false]
  generalize flipBucket n b m.target m.engine true s = u
  refine Steady.trans ?_ ((engine_recipeNext n _).toSteady.trans (engine_recipeNext m.target _).toSteady)
  refine Steady.trans ?_ (steady_endMoves ..)
  refine Steady.trans ?_ (steady_updSlice n _ _ rfl fun h => h)
  refine Steady.trans ?_ (steady_countFlip ..)
  have hcarry : Steady u (if sc.takeover = true then setFrontier m.target b 0 0 u else carrySuspects n m.target b u) :=
    .ite (steady_setFrontier ..) (steady_carrySuspects ..)
  exact .ite (hcarry.trans (steady_requestCensus ..)) hcarry

end

end Sys2Proof.Machine
end

section
/-! SUPPORT. O35: stubs freed and slices reset (08 R230, 17 R431, R422): what they leave of the map, the jobs and the other buckets. -/

namespace Sys2Proof.Machine

/-- Buckets are given up and none is taken: an entry of a slice's table stays or names nothing, the master map stays, and no job
begins. -/
structure Freed (s t : State) : Prop where
  keeps : Keeps s t
  jobs : s.spine.jobs = [] → t.spine.jobs = []
  master : t.spine.master = s.spine.master
  bkt : s.canon = true → ∀ i b, b < 4096 → t.bkt i b = s.bkt i b ∨ (t.bkt i b).kind = .none
  risings : s.canon = true → (∀ i, mrising 0 (s.slice i).bkt = true) → ∀ i, mrising 0 (t.slice i).bkt = true

section
variable {s t u : State} {n : Nat}

theorem Freed.trans (h : Freed s t) (g : Freed t u) : Freed s u where
  keeps := h.keeps.trans g.keeps
  jobs hj := g.jobs (h.jobs hj)
  master := g.master.trans h.master
  bkt c i b hb := (g.bkt (h.keeps.canon c) i b hb).elim (fun e => e ▸ h.bkt c i b hb) .inr
  risings c hr := g.risings (h.keeps.canon c) (h.risings c hr)

/-- Work that leaves every slice's table. -/
theorem Freed.of_bkt (keeps : Keeps s t) (hj : s.spine.jobs = [] → t.spine.jobs = []) (hm : t.spine.master = s.spine.master)
    (hb : s.canon = true → ∀ i, (t.slice i).bkt = (s.slice i).bkt) : Freed s t where
  keeps := keeps
  jobs := hj
  master := hm
  bkt c i b _ := .inl (by rw [State.bkt, hb c, keeps.par]; rfl)
  risings c hr i := by rw [hb c]; exact hr i

theorem Freed.refl (s : State) : Freed s s := .of_bkt (.refl s) (fun h => h) rfl fun _ _ => rfl

theorem Freed.ite {p : Prop} [Decidable p] (ht : Freed s t) (hu : Freed s u) : Freed s (if p then t else u) := by
  split
  · exact ht
  · exact hu

theorem freed_eachOf {α : Type} (l : List α) (f : α → State → State) (h : ∀ x s, Freed s (f x s)) (s : State) :
    Freed s (eachOf l f s) := by
  induction l generalizing s with
  | nil => exact .refl s
  | cons x r ih => exact (h x s).trans (ih (f x s))

theorem Freed.of_slices (keeps : Keeps s t) (hj : t.spine.jobs = s.spine.jobs) (hm : t.spine.master = s.spine.master)
    (hs : t.slices = s.slices) : Freed s t :=
  .of_bkt keeps (fun h => hj.trans h) hm fun _ i => by rw [slice_of_slices keeps.par hs]

theorem freed_updSlice (n : Nat) (f : Slice → Slice) (s : State) (hb : ∀ x : Slice, (f x).bkt = x.bkt) : Freed s (s.updSlice n f) := by
  refine .of_bkt (keeps_updSlice ..) (fun h => h) rfl fun c i => ?_
  by_cases hi : i = n
  · rw [hi, State.slice_updSlice_same n f c, hb]
  · rw [State.slice_updSlice_ne f c hi]

theorem freed_updSpine (g : Spine → Spine) (s : State) (hj : (g s.spine).jobs = s.spine.jobs) (hm : (g s.spine).master = s.spine.master) :
    Freed s (s.updSpine g) := .of_slices (keeps_updSpine ..) hj hm rfl

theorem freed_setConds (n : Nat) (f : Conds → Conds) (s : State) : Freed s (s.setConds n f) := by
  obtain ⟨hspine, -⟩ := setConds_frame s n f
  refine .of_bkt (keeps_setConds ..) (fun h => hspine ▸ h) (by rw [hspine]) fun c i => ?_
  by_cases hi : i = n
  · rw [hi, slice_setConds n f c]
  · rw [slice_setConds_ne f c hi]

/-- A bucket that a slice does not hold any more. -/
theorem freed_setBkt (n b : Nat) (e : BktEntry) (s : State) (hr : s.canon = true → mrising 0 (s.slice n).bkt = true)
    (he : e.kind = .none) : Freed s (s.setBkt n b e) where
  keeps := keeps_setBkt ..
  jobs h := h
  master := rfl
  bkt c i d _ := by
    by_cases h : i = n ∧ d = b
    · obtain ⟨rfl, rfl⟩ := h; rw [bkt_setBkt_same c (hr c)]; exact .inr he
    · exact .inl (bkt_setBkt_ne c (hr c) (by tauto))
  risings c hr := risings_setBkt c hr

/-! ### No bucket left (17 Table 17-3) -/

/-- Entries of a slice's table cleared one after the other. -/
def clearBkts (n : Nat) (l : List Nat) (s : State) : State := eachOf l (fun b s => s.setBkt n b {}) s

/-- The buckets that a slice's table owns where nothing is listed. -/
def initiallyOwned (p : Params) (n : Nat) : List Nat := allBuckets.filter fun b => (bktInit p n b).kind = .owned

theorem noBuckets_eq (n : Nat) (s : State) :
    noBuckets n s = clearBkts n (initiallyOwned s.par n) (s.updSlice n fun sl => { sl with bkt := [] }) := rfl

/-- A bucket not owned where nothing is listed is not held there at all. -/
theorem initially_none {p : Params} {d : Nat} (hd : d < 4096) : d ∈ initiallyOwned p n ∨ (bktInit p n d).kind = .none := by
  by_cases hown : (bktInit p n d).kind = .owned
  · exact .inl (List.mem_filter.2 ⟨List.mem_range.2 hd, by simpa using hown⟩)
  · right
    rw [bktInit] at hown ⊢
    split at hown <;> simp_all

theorem keeps_clearBkts (n : Nat) (l : List Nat) (s : State) : Keeps s (clearBkts n l s) := keeps_eachOf l _ (fun _ _ => keeps_setBkt ..) s

theorem spine_clearBkts (n : Nat) (l : List Nat) (s : State) : (clearBkts n l s).spine = s.spine :=
  eachOf_inv (fun t : State => t.spine = s.spine) l (fun b s => s.setBkt n b {}) (fun _ _ h => h) s rfl

theorem clearBkts_leaves (l : List Nat) (c : s.canon = true) (hr : mrising 0 (s.slice n).bkt = true) :
    let t := clearBkts n l s
    (∀ i, i ≠ n → t.slice i = s.slice i) ∧ mrising 0 (t.slice n).bkt = true ∧
      ∀ d, d ∈ l ∨ (s.bkt n d).kind = .none → (t.bkt n d).kind = .none := by
  induction l generalizing s with
  | nil => exact ⟨fun _ _ => rfl, hr, fun d hd => hd.resolve_left (by simp)⟩
  | cons b l ih =>
    have cb := (keeps_setBkt s n b {}).canon c
    have hrb : mrising 0 ((s.setBkt n b {}).slice n).bkt = true := by
      rw [State.setBkt, State.slice_updSlice_same n _ c]; exact mrising_mput _ _ (Nat.zero_le _) hr
    obtain ⟨hother, hrt, hnone⟩ := ih cb hrb
    refine ⟨fun i hi => (hother i hi).trans (State.slice_updSlice_ne _ c hi), hrt, fun d hd => hnone d ?_⟩
    by_cases hdb : d = b
    · rw [hdb, bkt_setBkt_same c hr]; exact .inr rfl
    · rw [bkt_setBkt_ne c hr (.inr hdb)]; simpa [hdb] using hd

/-- A slice may lose its table for one without a bucket. -/
theorem freed_noBuckets (n : Nat) (f : Slice → Slice) (s : State) : Freed s (noBuckets n (s.updSlice n f)) := by
  rw [noBuckets_eq]
  generalize hu : ((s.updSlice n f).updSlice n fun sl => { sl with bkt := [] }) = u
  have hkeeps : Keeps s u := hu ▸ (keeps_updSlice ..).trans (keeps_updSlice ..)
  have hspine : u.spine = s.spine := hu ▸ rfl
  have hsame (c : s.canon = true) : (u.slice n).bkt = [] := by
    rw [← hu, State.slice_updSlice_same n _ ((keeps_updSlice ..).canon c)]
  have hne (c : s.canon = true) (i : Nat) (hi : i ≠ n) : u.slice i = s.slice i := by
    rw [← hu, State.slice_updSlice_ne _ ((keeps_updSlice ..).canon c) hi, State.slice_updSlice_ne _ c hi]
  have hleaves (c : s.canon = true) := clearBkts_leaves (n := n) (initiallyOwned (s.updSlice n f).par n) (hkeeps.canon c)
    (by rw [hsame c]; rfl)
  have hkeep := hkeeps.trans (keeps_clearBkts n (initiallyOwned (s.updSlice n f).par n) u)
  have hspine' := (spine_clearBkts n (initiallyOwned (s.updSlice n f).par n) u).trans hspine
  generalize clearBkts n (initiallyOwned (s.updSlice n f).par n) u = t at *
  refine ⟨hkeep, fun h => hspine' ▸ h, by rw [hspine'], fun c i b hb => ?_, fun c hr i => ?_⟩
  · obtain ⟨hother, -, hnone⟩ := hleaves c
    by_cases hi : i = n
    · subst hi
      refine .inr (hnone b ((initially_none hb).imp_right fun h => ?_))
      rw [State.bkt, hsame c, hkeeps.par]; exact h
    · exact .inl (by rw [State.bkt, hother i hi, hne c i hi, hkeep.par]; rfl)
  · obtain ⟨hother, hrn, -⟩ := hleaves c
    by_cases hi : i = n
    · subst hi; exact hrn
    · rw [hother i hi, hne c i hi]; exact hr i

/-! ### Slice reset and power (17 R431, R422) -/

theorem freed_shimsForget (n : Nat) (s : State) : Freed s (shimsForget n s) := by
  refine freed_eachOf _ _ (fun sh s => ?_) s
  exact .ite (.of_slices (keeps_updShim ..) rfl rfl rfl) (.refl s)

theorem freed_fallLevels (s : State) : Freed s (fallLevels s) :=
  freed_eachOf _ _ (fun _ s => freed_updSpine _ s rfl rfl) s

theorem freed_resetSlice (n : Nat) (next : SeedNext) (s : State) : Freed s (resetSlice n next s) := by
  simp only [resetSlice]
  refine Freed.trans ?_ (freed_setConds ..)
  refine Freed.trans ?_ (freed_updSlice n Slice.seeded _ fun _ => rfl)
  refine Freed.trans ?_ (freed_shimsForget ..)
  refine (freed_noBuckets n Slice.cleared s).trans ?_
  generalize noBuckets n (s.updSlice n Slice.cleared) = u
  exact .of_slices (.of_eq rfl rfl rfl rfl rfl rfl) rfl rfl rfl

theorem freed_powerOff (n : Nat) (p : Phase) (s : State) : Freed s (powerOff n p s) := by
  simp only [powerOff]
  exact ((freed_noBuckets n _ s).trans (freed_setConds ..)).trans (freed_fallLevels _)

theorem freed_finishFor (p : JobKind → Bool) (code : BitVec 8) (s : State) : Freed s (finishFor p code s) := by
  have hsteady : Steady s (finishFor p code s) :=
    steady_eachOf _ _ (fun _ _ => .ite (work_finishJob 0 ..).toSteady (.refl _)) s
  refine .of_bkt hsteady.keeps (fun h => ?_) hsteady.master hsteady.bkt
  rw [finishFor, h, eachOf_nil, h]

theorem freed_powerUp (n : Nat) (s : State) : Freed s (powerUp n s) := by
  simp only [powerUp, enterSeed]
  refine Freed.trans ?_ (freed_finishFor ..)
  refine Freed.trans ?_ (freed_setConds ..)
  refine Freed.trans ?_ (freed_updSlice n Slice.seeded _ fun _ => rfl)
  refine Freed.trans ?_ (freed_powerOff ..)
  refine Freed.trans ?_ (freed_shimsForget ..)
  exact freed_updSpine _ s rfl rfl

theorem freed_holdFreed (n : Nat) (s : State) : Freed s (holdFreed n s) := by
  simp only [holdFreed]
  have hclear : Freed s (if (s.slice n).conds.hSalv = true then s.setConds n fun c => { c with hSalv := false } else s) :=
    .ite (freed_setConds ..) (.refl s)
  refine .ite (hclear.trans ?_) (.refl s)
  refine .ite (.ite (freed_powerUp ..) (.refl _)) (.ite ?_ (.refl _))
  exact (freed_updSpine _ _ rfl rfl).trans (freed_resetSlice ..)

end

/-! ### The stubs of a bucket -/

section
variable {s : State} {b : Nat}

/-- The stub of one slice freed. -/
def stubFreed (n b : Nat) (s : State) : State :=
  holdFreed n (s.setBkt n b { incoming := (s.bkt n b).incoming, purge := (s.bkt n b).purge })

theorem freeStubs_eq (b : Nat) (s : State) :
    freeStubs b s = eachOf (s.sliceNums.filter fun n => (s.bkt n b).kind = .stub) (fun n s => stubFreed n b s) s := rfl

theorem jobs_freeStubs (h : s.spine.jobs = []) : (freeStubs b s).spine.jobs = [] := by
  rw [freeStubs_eq]
  refine eachOf_inv (fun t : State => t.spine.jobs = []) _ _ (fun n t ht => ?_) s h
  rw [stubFreed]
  exact (freed_holdFreed ..).jobs ht

/-- Every stub of the bucket is freed, and the master map stays. -/
theorem freeStubs_leaves (c : s.canon = true) (hr : ∀ i, mrising 0 (s.slice i).bkt = true) (hb : b < 4096) :
    (freeStubs b s).spine.master = s.spine.master ∧ (freeStubs b s).par = s.par ∧
      ∀ i, i < s.par.nSlice → ((freeStubs b s).bkt i b).kind ≠ .stub := by
  have hall (l : List Nat) (t : State) (ct : t.canon = true) (hrt : ∀ i, mrising 0 (t.slice i).bkt = true) :
      let u := eachOf l (fun n s => stubFreed n b s) t
      u.spine.master = t.spine.master ∧ u.par = t.par ∧ ∀ i, i ∈ l ∨ (t.bkt i b).kind ≠ .stub → (u.bkt i b).kind ≠ .stub := by
    induction l generalizing t with
    | nil => exact ⟨rfl, rfl, fun i hi => hi.resolve_left (by simp)⟩
    | cons n l ih =>
      have hset := freed_setBkt n b { incoming := (t.bkt n b).incoming, purge := (t.bkt n b).purge } t (fun _ => hrt n) rfl
      have hhold := freed_holdFreed n (t.setBkt n b { incoming := (t.bkt n b).incoming, purge := (t.bkt n b).purge })
      have hfree : Freed t (stubFreed n b t) := hset.trans hhold
      obtain ⟨hmaster, hpar, hstub⟩ := ih _ (hfree.keeps.canon ct) (hfree.risings ct hrt)
      refine ⟨hmaster.trans hfree.master, hpar.trans hfree.keeps.par, fun i hi => hstub i ?_⟩
      by_cases hin : i = n
      · subst hin
        rcases hhold.bkt (hset.keeps.canon ct) i b hb with e | e <;> right
        · rw [stubFreed, e, bkt_setBkt_same ct (hrt i)]; simp
        · rw [stubFreed, e]; simp
      · refine (hi.imp_left fun hi => (List.mem_cons.1 hi).resolve_left hin).imp_right fun hk => ?_
        rcases hfree.bkt ct i b hb with e | e <;> rw [e]
        · exact hk
        · simp
  obtain ⟨hmaster, hpar, hstub⟩ := hall (s.sliceNums.filter fun n => (s.bkt n b).kind = .stub) s c hr
  refine ⟨hmaster, hpar, fun i hi => hstub i ?_⟩
  by_cases hk : (s.bkt i b).kind = .stub
  · exact .inl (List.mem_filter.2 ⟨List.mem_range.2 hi, by simpa using hk⟩)
  · exact .inr hk

end

end Sys2Proof.Machine
end

section
/-! SUPPORT. O35: the end of a purge scan (08 R231): its marks, what its slice's modes follow, and the move that it ends (12 R317). -/

namespace Sys2Proof.Machine

/-! ### What settles at a purge's end -/

/-- Slice y is slice x but for its table, its modes and its suspect sets. -/
def Slice.Settled (x y : Slice) : Prop :=
  y = { x with bkt := y.bkt, conds := y.conds, susFine := y.susFine, susLoaf := y.susLoaf }

theorem Slice.Settled.trans {x y z : Slice} (h : x.Settled y) (g : y.Settled z) : x.Settled z := by
  rw [Slice.Settled] at *
  rw [g, h]

/-- Tables, modes and suspect sets settle; nothing else of the block changes. -/
structure Settles (s t : State) : Prop where
  keeps : Keeps s t
  slice : s.canon = true → ∀ i, (s.slice i).Settled (t.slice i)
  spine : t.spine = s.spine
  fns : t.fns = s.fns
  shims : t.shims = s.shims
  mesh : t.mesh = s.mesh

section
variable {s t u : State} {n : Nat}

theorem Settles.refl (s : State) : Settles s s := ⟨.refl s, fun _ _ => rfl, rfl, rfl, rfl, rfl⟩

theorem Settles.trans (h : Settles s t) (g : Settles t u) : Settles s u where
  keeps := h.keeps.trans g.keeps
  slice c i := (h.slice c i).trans (g.slice (h.keeps.canon c) i)
  spine := g.spine.trans h.spine
  fns := g.fns.trans h.fns
  shims := g.shims.trans h.shims
  mesh := g.mesh.trans h.mesh

theorem Settles.ite {p : Prop} [Decidable p] (ht : Settles s t) (hu : Settles s u) : Settles s (if p then t else u) := by
  split
  · exact ht
  · exact hu

theorem settles_eachOf {α : Type} (l : List α) (f : α → State → State) (h : ∀ x s, Settles s (f x s)) (s : State) :
    Settles s (eachOf l f s) := by
  induction l generalizing s with
  | nil => exact .refl s
  | cons x r ih => exact (h x s).trans (ih (f x s))

theorem settles_updSlice (n : Nat) (f : Slice → Slice) (s : State) (h : ∀ x : Slice, x.Settled (f x)) : Settles s (s.updSlice n f) := by
  refine ⟨keeps_updSlice .., fun c i => ?_, rfl, rfl, rfl, rfl⟩
  by_cases hi : i = n
  · rw [hi, State.slice_updSlice_same n f c]; exact h _
  · rw [State.slice_updSlice_ne f c hi]; rfl

theorem settles_setConds (n : Nat) (f : Conds → Conds) (s : State) : Settles s (s.setConds n f) := by
  refine ⟨keeps_setConds .., fun c i => ?_, ?_, ?_, ?_, ?_⟩
  · by_cases hi : i = n
    · rw [hi, slice_setConds n f c]; rfl
    · rw [slice_setConds_ne f c hi]; rfl
  all_goals simp only [State.setConds]; split <;> simp [feed_frame]

theorem settles_settleMoves (l : List Nat) (s : State) : Settles s (settleMoves l s) :=
  settles_eachOf _ _ (fun _ s => .ite (.refl s) (settles_setConds ..)) s

theorem settles_suspects (n : Nat) (f g : Slice → Suspects) (s : State) :
    Settles s (s.updSlice n fun sl => { sl with susFine := f sl, susLoaf := g sl }) :=
  settles_updSlice n _ s fun _ => rfl

theorem settles_settleCensus (n : Nat) (done : List Nat) (s : State) : Settles s (settleCensus n done s) := by
  have hend (p : Bool) (u : State) (h : Settles s u) : Settles s (if p then u else u.setConds n fun c => { c with lCensus := false }) :=
    .ite h (h.trans (settles_setConds ..))
  simp only [settleCensus]
  refine hend _ _ ?_
  split
  · exact (settles_suspects n _ _ s).trans (settles_suspects ..)
  · exact settles_suspects n _ _ s

/-- Whether a slice is in a move depends on the scans alone. -/
theorem Settles.inMove (h : Settles s t) (c : s.canon = true) (n : Nat) : t.inMove n = s.inMove n := by
  have hscans (i : Nat) : (t.slice i).scans = (s.slice i).scans := by rw [h.slice c i]
  have hnums : t.sliceNums = s.sliceNums := by rw [State.sliceNums, h.keeps.par]; rfl
  simp only [State.inMove, hscans, hnums]

/-- P_MOVE of a settled slice follows its moves. -/
theorem pMove_settleMove (c : s.canon = true) : ((settleMove s n).slice n).conds.pMove = s.inMove n := by
  simp only [settleMove]
  split
  · next h => exact h
  · rw [slice_setConds n _ c]

theorem pMove_settleMoves (l : List Nat) (c : s.canon = true) (h : (s.slice n).conds.pMove = s.inMove n) :
    ((settleMoves l s).slice n).conds.pMove = s.inMove n := by
  have hone (m : Nat) (u : State) : Settles u (settleMove u m) := .ite (.refl u) (settles_setConds ..)
  have hall : Settles s (settleMoves l s) ∧ ((settleMoves l s).slice n).conds.pMove = s.inMove n := by
    refine eachOf_inv (fun u => Settles s u ∧ (u.slice n).conds.pMove = s.inMove n) l _ (fun m u hu => ?_) s ⟨.refl s, h⟩
    obtain ⟨hsettles, hp⟩ := hu
    have cu := hsettles.keeps.canon c
    refine ⟨hsettles.trans (hone m u), ?_⟩
    by_cases hm : n = m
    · subst hm; rw [pMove_settleMove cu, hsettles.inMove c]
    · simp only [settleMove]
      split
      · exact hp
      · rw [slice_setConds_ne _ cu hm, hp]
  exact hall.2

theorem pMove_settleCensus (done : List Nat) (c : s.canon = true) :
    ((settleCensus n done s).slice n).conds.pMove = (s.slice n).conds.pMove := by
  have hsus (m : Nat) (f g : Slice → Suspects) (u : State) (h : u.canon = true ∧ (u.slice n).conds = (s.slice n).conds) :
      (u.updSlice m fun sl => { sl with susFine := f sl, susLoaf := g sl }).canon = true ∧
        ((u.updSlice m fun sl => { sl with susFine := f sl, susLoaf := g sl }).slice n).conds = (s.slice n).conds := by
    refine ⟨(keeps_updSlice ..).canon h.1, ?_⟩
    by_cases hm : n = m
    · subst hm; rw [State.slice_updSlice_same n _ h.1, h.2]
    · rw [State.slice_updSlice_ne _ h.1 hm, h.2]
  have hend (p : Bool) (u : State) (h : u.canon = true ∧ (u.slice n).conds = (s.slice n).conds) :
      ((if p then u else u.setConds n fun c => { c with lCensus := false }).slice n).conds.pMove = (s.slice n).conds.pMove := by
    split
    · rw [h.2]
    · rw [slice_setConds n _ h.1, h.2]
  simp only [settleCensus]
  refine hend _ _ ?_
  split
  · exact hsus _ _ _ _ (hsus n _ _ s ⟨c, rfl⟩)
  · exact hsus n _ _ s ⟨c, rfl⟩

end

/-! ### The purge marks -/

/-- The buckets whose purge mark is written 0. -/
def purgeUnmarked (n : Nat) (l : List Nat) (s : State) : State :=
  eachOf l (fun b s => s.setBkt n b { s.bkt n b with purge := false }) s

section
variable {s : State} {n : Nat}

theorem settles_setBkt (n b : Nat) (e : BktEntry) (s : State) : Settles s (s.setBkt n b e) := by
  rw [State.setBkt]
  exact settles_updSlice n _ s fun _ => rfl

theorem settles_purgeUnmarked (n : Nat) (l : List Nat) (s : State) : Settles s (purgeUnmarked n l s) :=
  settles_eachOf _ _ (fun _ _ => settles_setBkt ..) s

/-- A marked bucket loses its mark, and no bucket changes hands. -/
theorem bkt_purgeUnmarked (l : List Nat) (c : s.canon = true) (hr : mrising 0 (s.slice n).bkt = true) (b : Nat) :
    ((purgeUnmarked n l s).bkt n b).kind = (s.bkt n b).kind ∧
      (b ∈ l ∨ (s.bkt n b).purge = false → ((purgeUnmarked n l s).bkt n b).purge = false) := by
  induction l generalizing s with
  | nil => exact ⟨rfl, fun h => h.resolve_left (by simp)⟩
  | cons d l ih =>
    have cd := (keeps_setBkt s n d { s.bkt n d with purge := false }).canon c
    have hrd : mrising 0 ((s.setBkt n d { s.bkt n d with purge := false }).slice n).bkt = true := by
      rw [State.setBkt, State.slice_updSlice_same n _ c]; exact mrising_mput _ _ (Nat.zero_le _) hr
    obtain ⟨hkind, hpurge⟩ := ih cd hrd
    by_cases hb : b = d
    · subst hb
      rw [bkt_setBkt_same c hr] at hkind hpurge
      exact ⟨hkind, fun _ => hpurge (.inr rfl)⟩
    · rw [bkt_setBkt_ne c hr (.inr hb)] at hkind hpurge
      exact ⟨hkind, fun h => hpurge (by simpa [hb] using h)⟩

/-- What is read of a table is its default or listed. -/
theorem mget_default_or_mem {α : Type} (d : α) (m : Map α) (k : Nat) : mget d m k = d ∨ (k, mget d m k) ∈ m := by
  induction m with
  | nil => exact .inl rfl
  | cons x r ih =>
    obtain ⟨j, w⟩ := x
    rw [mget]
    split
    · next h => subst h; exact .inr List.mem_cons_self
    · split
      · exact .inl rfl
      · exact ih.imp_right (List.mem_cons_of_mem _)

/-- A bucket that the list of marked ones leaves out has no mark. -/
theorem purge_of_not_mem {b : Nat} (hb : ¬ b ∈ ((s.slice n).bkt.filter fun kv => kv.2.purge).map (·.1)) :
    (s.bkt n b).purge = false := by
  rw [State.bkt]
  rcases mget_default_or_mem (bktInit s.par n b) (s.slice n).bkt b with h | h
  · rw [h, bktInit]; split <;> rfl
  · by_contra hp
    exact hb (List.mem_map.2 ⟨_, List.mem_filter.2 ⟨h, by simpa using hp⟩, rfl⟩)

/-! ### PURGE_SCAN_END -/

/-- What the end of a purge scan settles at its slice, before the jobs that it ends. -/
def purgeSettled (n : Nat) (flipped : List Mv) (s : State) : State :=
  let s := s.updSlice n fun sl => { sl with scans := sl.scans.filter fun x => x.kind != .purge }
  settleCensus n [] (settleMoves (n :: flipped.map (·.target))
    (purgeUnmarked n (((s.slice n).bkt.filter fun kv => kv.2.purge).map (·.1)) s))

theorem purgeScanEnd_eq {sc : Scan} (h : (s.slice n).scans.find? (fun sc => sc.kind = .purge && sc.stop ≤ sc.pos) = some sc) :
    purgeScanEnd n s = evacSteps (purgeJobs n (purgeSettled n sc.flipped s)) := by
  rw [purgeScanEnd, h]; rfl

theorem purgeScanEnd_idle (h : (s.slice n).scans.find? (fun sc => sc.kind = .purge && sc.stop ≤ sc.pos) = none) :
    purgeScanEnd n s = s := by
  rw [purgeScanEnd, h]

/-- The slice's scans apart, the settling changes tables, modes and suspect sets alone. -/
theorem settles_purgeSettled (n : Nat) (flipped : List Mv) (s : State) :
    Settles (s.updSlice n fun sl => { sl with scans := sl.scans.filter fun x => x.kind != .purge }) (purgeSettled n flipped s) :=
  ((settles_purgeUnmarked ..).trans (settles_settleMoves ..)).trans (settles_settleCensus ..)

theorem scans_purgeSettled (flipped : List Mv) (c : s.canon = true) :
    ((purgeSettled n flipped s).slice n).scans = (s.slice n).scans.filter fun x => x.kind != .purge := by
  rw [(settles_purgeSettled n flipped s).slice ((keeps_updSlice ..).canon c) n, State.slice_updSlice_same n _ c]

theorem arr_purgeSettled (flipped : List Mv) (c : s.canon = true) :
    ((purgeSettled n flipped s).slice n).arr = (s.slice n).arr ∧ ((purgeSettled n flipped s).slice n).trk = (s.slice n).trk := by
  rw [(settles_purgeSettled n flipped s).slice ((keeps_updSlice ..).canon c) n, State.slice_updSlice_same n _ c]
  exact ⟨rfl, rfl⟩

/-- P_MOVE follows the moves that are left. -/
theorem pMove_purgeSettled (flipped : List Mv) (c : s.canon = true) :
    ((purgeSettled n flipped s).slice n).conds.pMove = (purgeSettled n flipped s).inMove n := by
  simp only [purgeSettled]
  have cu := (keeps_updSlice s n fun sl => { sl with scans := sl.scans.filter fun x => x.kind != .purge }).canon c
  generalize (s.updSlice n fun sl => { sl with scans := sl.scans.filter fun x => x.kind != .purge }) = u at cu
  have cv := (settles_purgeUnmarked n (((u.slice n).bkt.filter fun kv => kv.2.purge).map (·.1)) u).keeps.canon cu
  generalize purgeUnmarked n (((u.slice n).bkt.filter fun kv => kv.2.purge).map (·.1)) u = v at cv
  have hmove : Settles v (settleMove v n) := .ite (.refl v) (settles_setConds ..)
  have hmoves : Settles v (settleMoves (n :: flipped.map (·.target)) v) := settles_settleMoves ..
  have cw := hmoves.keeps.canon cv
  rw [pMove_settleCensus [] cw, (settles_settleCensus n [] _).inMove cw, hmoves.inMove cv]
  show ((settleMoves (flipped.map (·.target)) (settleMove v n)).slice n).conds.pMove = v.inMove n
  rw [pMove_settleMoves _ (hmove.keeps.canon cv) ((pMove_settleMove cv).trans (hmove.inMove cv n).symm), hmove.inMove cv]

/-- Every purge mark of the slice is gone, and no bucket changes hands. -/
theorem bkt_purgeSettled (flipped : List Mv) (c : s.canon = true) (ht : s.tablesRise = true) (b : Nat) :
    ((purgeSettled n flipped s).bkt n b).purge = false ∧ ((purgeSettled n flipped s).bkt n b).kind = (s.bkt n b).kind := by
  have hscans := steady_updSlice n s (fun sl => { sl with scans := sl.scans.filter fun x => x.kind != .purge }) rfl fun h => h
  simp only [purgeSettled]
  generalize (s.updSlice n fun sl => { sl with scans := sl.scans.filter fun x => x.kind != .purge }) = u at hscans
  have cu := hscans.keeps.canon c
  have hr : mrising 0 (u.slice n).bkt = true := by rw [hscans.bkt c]; exact rising_bkt n ht
  obtain ⟨hkind, hpurge⟩ := bkt_purgeUnmarked (((u.slice n).bkt.filter fun kv => kv.2.purge).map (·.1)) cu hr b
  have cv := (settles_purgeUnmarked n (((u.slice n).bkt.filter fun kv => kv.2.purge).map (·.1)) u).keeps.canon cu
  have hsteady (v : State) : Steady v (settleCensus n [] (settleMoves (n :: flipped.map (·.target)) v)) := by
    refine Steady.trans ?_ (steady_settleCensus ..)
    exact steady_eachOf _ _ (fun _ _ => .ite (.refl _) (steady_setConds _ _ _ fun h => h)) v
  rw [(hsteady _).bkt_eq cv, hkind, hscans.bkt_eq c]
  refine ⟨hpurge ?_, rfl⟩
  by_cases hb : b ∈ ((u.slice n).bkt.filter fun kv => kv.2.purge).map (·.1)
  · exact .inl hb
  · exact .inr (purge_of_not_mem hb)

/-- The move that a purge ends completes its command, and no other job is left. -/
theorem purgeJobs_move {f idx id b tgt : Nat} {gen : BitVec 6} {aborted : Bool} {k : Taken} (c : s.canon = true)
    (hj : s.spine.jobs = [{ id, cmd := some (f, idx), kind := .move n b tgt gen aborted }]) (hk : s.taken f idx = some k)
    (ho : k.orphan = false) :
    ∃ t, purgeJobs n s = t ∧ t.slices = s.slices ∧ t.shims = s.shims ∧ t.mesh = s.mesh ∧ t.par = s.par ∧ t.spine.jobs = [] ∧
      t.fn f = (s.fn f).completed idx (if aborted then k.doneWith ccABORTED 0 else k.doneWith ccOK (gen.toNat + 256 * tgt)) := by
  have hjob : s.job id = some { id, cmd := some (f, idx), kind := .move n b tgt gen aborted } := by
    rw [State.job, hj]; simp
  have hdrop : (s.dropJob id).canon = true := (keeps_updSpine ..).canon c
  have hfinish (code : BitVec 8) (result : Nat) : finishJob id code result s = completeCmd f idx code result (s.dropJob id) := by
    rw [finishJob, hjob]
  have hdone (code : BitVec 8) (result : Nat) := completeCmd_fn (s := s.dropJob id) (result := result) (code := code) hdrop hk ho
  have hempty : (s.dropJob id).spine.jobs = [] := by
    show s.spine.jobs.filter _ = []
    rw [hj]; simp
  have hone : purgeJobs n s = if aborted then finishJob id ccABORTED 0 s else finishJob id ccOK (gen.toNat + 256 * tgt) s := by
    rw [purgeJobs, hj, eachOf_cons, eachOf_nil]; simp
  refine ⟨_, hone, ?_⟩
  cases aborted <;> simp only [Bool.false_eq_true, if_false, if_true, hfinish]
  all_goals
    obtain ⟨hfn, hslices, hmesh, hspine⟩ := hdone _ _
    exact ⟨hslices, (work_completeCmd 0 ..).shims, hmesh, (work_completeCmd 0 ..).keeps.par, by rw [hspine]; exact hempty, hfn⟩

end

end Sys2Proof.Machine
end

section
/-! SUPPORT. O35: flips, map acknowledgments and the end of a purge, put together. -/

namespace Sys2Proof.Machine

section
variable {s : State} {n b sh k : Nat} {gen : BitVec 6}

/-! ### Admitted shims (08 R229) -/

theorem acking_eq_nil : s.acking = [] ↔ ∀ sh, sh < 288 → s.hasShim sh = true → (s.shim sh).acks = false := by
  simp only [State.acking, State.shimNums, List.filter_eq_nil_iff, List.mem_filter, List.mem_range, Bool.not_eq_true, and_imp]

/-! ### Map acknowledgments (08 R229, R230) -/

/-- The messages that SPINE_MAP_ACK takes. -/
def isMapAck (w : Wire) : Bool := match w with | .mapAck _ _ _ => true | _ => false

theorem spineMapAck_eq (h : s.findWire k isMapAck = some (.mapAck sh b gen)) :
    spineMapAck k s = evacSteps (copyReleases (ackMap sh b gen (s.takeWire (.mapAck sh b gen)))) := by
  have hmodel : s.findWire k isMapAck = s.findWire k fun w => match w with | .mapAck _ _ _ => true | _ => false := rfl
  unfold spineMapAck
  split
  · next hfound => cases hfound.symm.trans (hmodel.symm.trans h); rfl
  · next hother => exact absurd (hmodel.symm.trans h) (hother sh b gen)

/-- Where no command and no move is in progress, no copy and no evacuation waits. -/
theorem noJobs_waits (h : s.spine.jobs = []) : evacSteps (copyReleases s) = s := by
  have hcopy : copyReleases s = s := by rw [copyReleases, h]; rfl
  rw [hcopy, evacSteps, h]; rfl

/-- An acknowledgment that is not the last of its bucket. -/
theorem ackMap_waits (hg : (s.master b).gen = gen) (hsh : sh ∈ (s.master b).unacked) (hq : ∃ q ∈ (s.master b).unacked, q ≠ sh) :
    ackMap sh b gen s = s.setMaster b { s.master b with unacked := (s.master b).unacked.filter (· != sh) } := by
  obtain ⟨q, hq, hne⟩ := hq
  have hleft : ((s.master b).unacked.filter (· != sh)).isEmpty = false := by
    rw [List.isEmpty_eq_false_iff_exists_mem]
    exact ⟨q, List.mem_filter.2 ⟨hq, by simpa using hne⟩⟩
  simp [ackMap, hg, hsh, hleft]

/-- The last acknowledgment of a bucket frees its stubs. -/
theorem ackMap_last (hg : (s.master b).gen = gen) (hsh : sh ∈ (s.master b).unacked) (hq : ∀ q ∈ (s.master b).unacked, q = sh) :
    ackMap sh b gen s = freeStubs b (s.setMaster b { s.master b with unacked := [] }) := by
  have hleft : (s.master b).unacked.filter (· != sh) = [] := List.filter_eq_nil_iff.2 fun q h => by simp [hq q h]
  simp [ackMap, hg, hsh, hleft]

/-- An acknowledgment of an older generation, or of a shim that is not awaited. -/
theorem ackMap_dropped (h : (s.master b).gen ≠ gen ∨ ¬ sh ∈ (s.master b).unacked) : ackMap sh b gen s = s := by
  rw [ackMap]
  dsimp only
  rw [if_neg]
  simpa [imp_iff_not_or] using h

theorem jobs_ackMap (h : s.spine.jobs = []) : (ackMap sh b gen s).spine.jobs = [] := by
  simp only [ackMap]
  split
  · split
    · exact jobs_freeStubs h
    · exact h
  · exact h

end

/-- BUCKET_FLIP of a moved bucket. -/
theorem FlipReady.flipped {s : State} {n b : Nat} {sc : Scan} {m : Mv} (h : FlipReady s n b sc m) (c : s.canon = true)
    (ht : s.tablesRise = true) (hne : m.target ≠ n) : Flipped n b m.target m.engine s (bucketFlip b s) := by
  have hhold : (s.slice n).conds.phase ≠ .hold := by
    intro hp
    have hs := h.serving
    rw [Slice.serving, hp] at hs
    cases hs
  exact (flipBucket_leaves c ht h.built hne hhold fun k hk hs => h.only k hk (.inr hs)).steady h.steady

/-- Settles O35: the flip moves the bucket's entries and is otherwise work that moves no bucket; freeing stubs gives buckets up and
takes none; a purge's end settles tables, modes and suspect sets alone before the jobs that it ends. -/
theorem bucketMovesEnd : Obligations.BucketMovesEnd := by
  refine ⟨?_, ?_, ?_, ?_, ?_⟩
  · intro s n b sc m c ht hn _ hk hs hone hsc hmove hm hne _ hst hp hpt hq hd
    obtain ⟨-, hshims, ⟨hkind, heng, hgen, hinc⟩, ⟨hslice, hmeng, hmgen⟩, htold, hstub, hfreed⟩ :=
      (FlipReady.mk hn hk hs hone hsc hmove hm hst hp hpt hq hd).flipped c ht hne
    refine ⟨_, rfl, hkind, heng, hgen, hinc, hslice, hmeng, hmgen, hshims, htold, fun ⟨sh, hsh, hs, ha⟩ => hstub fun hnone => ?_,
      fun h => hfreed (acking_eq_nil.2 h)⟩
    rw [acking_eq_nil.1 hnone sh hsh hs] at ha
    cases ha
  · intro s k sh b gen hw
    refine ⟨_, congrArg _ (spineMapAck_eq hw), fun hj => noJobs_waits (jobs_ackMap hj), fun hg hsh hq => ackMap_waits hg hsh hq,
      fun hg hsh hq c ht hb => ?_, fun h => ackMap_dropped h⟩
    rw [ackMap_last (s := s.takeWire (.mapAck sh b gen)) hg hsh hq]
    have hread := master_setMaster_same (s := s.takeWire (.mapAck sh b gen)) (b := b)
      (e := { (s.takeWire (.mapAck sh b gen)).master b with unacked := [] }) (rising_master ht)
    obtain ⟨hmaster, hpar, hstub⟩ := freeStubs_leaves (b := b)
      (s := (s.takeWire (.mapAck sh b gen)).setMaster b { (s.takeWire (.mapAck sh b gen)).master b with unacked := [] }) c
      (fun i => (rising_bkt i ht : mrising 0 (s.slice i).bkt = true)) hb
    refine ⟨?_, hstub⟩
    rw [State.master, hmaster, hpar]
    exact congrArg MasterEntry.unacked hread
  · intro s n hn h
    exact (atSlice_built _ hn).trans (congrArg _ (purgeScanEnd_idle h))
  · intro s n sc c ht hn h
    have hsettles := settles_purgeSettled n sc.flipped s
    obtain ⟨harr, htrk⟩ := arr_purgeSettled (n := n) sc.flipped c
    exact ⟨purgeSettled n sc.flipped s, (atSlice_built _ hn).trans (congrArg _ (purgeScanEnd_eq h)), scans_purgeSettled sc.flipped c,
      bkt_purgeSettled sc.flipped c ht, pMove_purgeSettled sc.flipped c, harr, htrk, hsettles.spine, hsettles.fns, hsettles.shims,
      hsettles.mesh⟩
  · intro s n f idx id b tgt gen aborted sc k c hn h hj hk ho
    have hsettles := settles_purgeSettled n sc.flipped s
    obtain ⟨harr, htrk⟩ := arr_purgeSettled (n := n) sc.flipped c
    have hscans := scans_purgeSettled (n := n) sc.flipped c
    have hrun := (atSlice_built (purgeScanEnd n) hn).trans (congrArg Host.Outcome.next (purgeScanEnd_eq h))
    have cu := hsettles.keeps.canon ((keeps_updSlice ..).canon c)
    have hku : (purgeSettled n sc.flipped s).taken f idx = some k := by rw [State.taken, fn_of_fns hsettles.fns]; exact hk
    obtain ⟨t, hjobs, hslices, hshims, hmesh, hpar, hnone, hfn⟩ := purgeJobs_move cu (by rw [hsettles.spine]; exact hj) hku ho
    have hslice := slice_of_slices hpar hslices n
    have hidle : evacSteps t = t := by rw [evacSteps, hnone]; rfl
    refine ⟨t, hrun.trans (by rw [hjobs, hidle]), ?_, hnone, ?_, ?_, by rw [hslice, harr], by rw [hslice, htrk],
      hshims.trans hsettles.shims, hmesh.trans hsettles.mesh⟩
    · rw [hslice, hscans]
      exact fun x hx => by simpa using (List.mem_filter.1 hx).2
    · rw [State.taken, hfn]; exact Fn.completed_taken ..
    · rw [hfn, fn_of_fns hsettles.fns]
      exact congrArg _ (by cases aborted <;> rfl)

end Sys2Proof.Machine
end

section
/-! SUPPORT. O38: what the work of a window's end keeps (08 R233): the measurements, the settings and every part beside the slices. -/

namespace Sys2Proof.Machine

/-! ### What a window's end keeps -/

/-- The shims, the functions, the mesh, the window's settings and the salvage stay, no job but that of a shed begins, and every slice
keeps what `keep` reads of it. -/
structure WindowWork {α : Type} (keep : Slice → α) (s t : State) : Prop where
  keeps : Keeps s t
  shims : t.shims = s.shims
  fns : t.fns = s.fns
  mesh : t.mesh = s.mesh
  temper : t.spine.temper = s.spine.temper
  now : t.spine.temperNow = s.spine.temperNow
  salvage : t.spine.salvage = s.spine.salvage
  jobs : (∀ j ∈ s.spine.jobs, ∃ m, j.kind = .shed m) → ∀ j ∈ t.spine.jobs, ∃ m, j.kind = .shed m
  kept : s.canon = true → ∀ i, keep (t.slice i) = keep (s.slice i)

/-- The measurements of a slice's last and present window, and its arrays. -/
def Slice.measured (x : Slice) : Arrays × Nat × Nat × Nat × Nat × Map Nat × Map Nat :=
  (x.arr, x.temper.occ, x.temper.lat, x.temper.occN, x.temper.latN, x.temper.bktLast, x.temper.bktNow)

/-- What a fault leaves of a slice. -/
def Slice.sound (x : Slice) : Arrays × Temper := (x.arr, x.temper)

section
variable {α : Type} {keep : Slice → α} {s t u : State}

theorem WindowWork.refl (keep : Slice → α) (s : State) : WindowWork keep s s :=
  ⟨.refl s, rfl, rfl, rfl, rfl, rfl, rfl, fun h => h, fun _ _ => rfl⟩

theorem WindowWork.trans (h : WindowWork keep s t) (g : WindowWork keep t u) : WindowWork keep s u where
  keeps := h.keeps.trans g.keeps
  shims := g.shims.trans h.shims
  fns := g.fns.trans h.fns
  mesh := g.mesh.trans h.mesh
  temper := g.temper.trans h.temper
  now := g.now.trans h.now
  salvage := g.salvage.trans h.salvage
  jobs hj := g.jobs (h.jobs hj)
  kept c i := (g.kept (h.keeps.canon c) i).trans (h.kept c i)

theorem WindowWork.ite {p : Prop} [Decidable p] (ht : WindowWork keep s t) (hu : WindowWork keep s u) :
    WindowWork keep s (if p then t else u) := by
  split
  · exact ht
  · exact hu

theorem window_eachOf {β : Type} (l : List β) (f : β → State → State) (h : ∀ x s, WindowWork keep s (f x s)) (s : State) :
    WindowWork keep s (eachOf l f s) := by
  induction l generalizing s with
  | nil => exact .refl keep s
  | cons x r ih => exact (h x s).trans (ih (f x s))

/-- Work that keeps more keeps less. -/
theorem WindowWork.weaken {β : Type} {less : Slice → β} (h : WindowWork keep s t) (hl : ∀ x y, keep x = keep y → less x = less y) :
    WindowWork less s t :=
  { h with kept := fun c i => hl _ _ (h.kept c i) }

theorem window_updSlice (n : Nat) (f : Slice → Slice) (s : State) (h : keep (f (s.slice n)) = keep (s.slice n)) :
    WindowWork keep s (s.updSlice n f) := by
  refine ⟨keeps_updSlice .., rfl, rfl, rfl, rfl, rfl, rfl, fun h => h, fun c i => ?_⟩
  by_cases hi : i = n
  · rw [hi, State.slice_updSlice_same n f c, h]
  · rw [State.slice_updSlice_ne f c hi]

theorem window_updSpine (g : Spine → Spine) (s : State) (ht : (g s.spine).temper = s.spine.temper)
    (hn : (g s.spine).temperNow = s.spine.temperNow) (hv : (g s.spine).salvage = s.spine.salvage)
    (hj : (g s.spine).jobs = s.spine.jobs) : WindowWork keep s (s.updSpine g) :=
  ⟨keeps_updSpine .., rfl, rfl, rfl, ht, hn, hv, fun h => by rw [State.updSpine_spine, hj]; exact h, fun _ _ => rfl⟩

theorem window_feed (node : Nat) (r : HRec) (s : State) : WindowWork keep s (s.feed node r) := by
  obtain ⟨-, hshims, -, hfns, hspine, hmesh, -⟩ := feed_frame s node r
  exact ⟨keeps_feed .., hshims, hfns, hmesh, by rw [hspine], by rw [hspine], by rw [hspine], by rw [hspine]; exact fun h => h,
    fun _ i => by rw [slice_feed]⟩

theorem window_trigger (src : Nat) (s : State) : WindowWork keep s (s.trigger src) := by
  rw [State.trigger]
  exact .ite ⟨keeps_updHall s fun h => { h with fatalDue := h.fatalDue + 1 }, rfl, rfl, rfl, rfl, rfl, rfl, fun h => h, fun _ _ => rfl⟩
    (.refl keep s)

/-! ### Modes and faults -/

theorem window_setConds (n : Nat) (f : Conds → Conds) (s : State) (h : ∀ (x : Slice) c, keep { x with conds := c } = keep x) :
    WindowWork keep s (s.setConds n f) := by
  have hconds : WindowWork keep s (s.updSlice n fun sl => { sl with conds := f (s.slice n).conds }) := window_updSlice n _ s (h ..)
  simp only [State.setConds]
  exact .ite hconds (hconds.trans (window_feed ..))

theorem window_holdSlice (n : Nat) (s : State) (h : ∀ (x : Slice) c, keep { x with conds := c } = keep x) :
    WindowWork keep s (holdSlice n s) := by
  have henter : WindowWork keep s ((s.setConds n fun c => { c with phase := .hold }).updSpine fun sp =>
      { sp with salvageQ := addNew sp.salvageQ n }) :=
    (window_setConds n _ s h).trans (window_updSpine _ _ rfl rfl rfl rfl)
  have hend (u : State) : WindowWork keep u (endSequence u) := by
    rw [endSequence]; exact .ite (.refl keep u) (window_updSpine _ _ rfl rfl rfl rfl)
  simp only [holdSlice]
  exact .ite (.refl keep s) (.ite (henter.trans (hend _)) henter)

theorem window_raiseSlice (n src : Nat) (d : Detail) (s : State) : WindowWork Slice.sound s (raiseSlice n src d s) := by
  unfold raiseSlice
  refine (window_trigger src s).trans ?_
  generalize s.trigger src = s
  have hnote (sev : BitVec 2) : WindowWork Slice.sound s
      (s.updSlice n fun sl => { sl with assay := sl.assay.capture sl.hclk 0 src sev d }) := window_updSlice n _ s rfl
  exact .ite (((hnote _).trans (window_feed ..)).trans (window_holdSlice n _ fun _ _ => rfl)) ((hnote _).trans (window_feed ..))

end

/-! ### The measurements closed -/

section
variable {s : State}

/-- Every slice updated: each of the block is written once. -/
theorem slice_updSlices (f : Nat → Slice → Slice) (c : s.canon = true) (n : Nat) :
    (s.updSlices f).slice n = if n < s.par.nSlice then f n (s.slice n) else s.slice n := by
  have hall (l : List Nat) (hl : l.Nodup) (t : State) (ct : t.canon = true) :
      (eachOf l (fun n t => t.updSlice n (f n)) t).slice n = if n ∈ l then f n (t.slice n) else t.slice n := by
    induction l generalizing t with
    | nil => rfl
    | cons m l ih =>
      obtain ⟨hm, hl⟩ := List.nodup_cons.1 hl
      rw [eachOf_cons, ih hl _ ((keeps_updSlice ..).canon ct)]
      by_cases hn : n = m
      · subst hn; simp [hm, State.slice_updSlice_same n _ ct]
      · simp [hn, State.slice_updSlice_ne _ ct hn]
  rw [State.updSlices, hall s.sliceNums List.nodup_range s c]
  simp [State.sliceNums]

/-- The state with every slice's measurements closed. -/
def windowClosed (s : State) : State := s.updSlices fun _ sl => { sl with temper := sl.temper.close }

theorem window_windowClosed (s : State) : WindowWork Slice.arr s (windowClosed s) :=
  window_eachOf _ _ (fun n s => window_updSlice n _ s rfl) s

theorem slice_windowClosed (c : s.canon = true) {n : Nat} (hn : n < s.par.nSlice) :
    (windowClosed s).slice n = { s.slice n with temper := (s.slice n).temper.close } := by
  rw [windowClosed, slice_updSlices _ c, if_pos hn]

/-- The slices in TRACK are those before the window was closed. -/
theorem tracking_windowClosed (c : s.canon = true) : (windowClosed s).tracking = s.sliceNums.filter fun n => (s.slice n).mode = .track := by
  have hnums : (windowClosed s).sliceNums = s.sliceNums := by rw [State.sliceNums, (window_windowClosed s).keeps.par]; rfl
  rw [State.tracking, hnums]
  refine List.filter_congr fun n hn => ?_
  rw [slice_windowClosed c (List.mem_range.1 hn)]
  rfl

end

/-! ### Slow windows judged (08 R234) -/

/-- What the judgement of a window leaves of a slice: x is its monitor before, `slow` whether the window is slow. -/
structure Judged (consec : Nat) (slow : Bool) (x : Temper) (y : Slice) : Prop where
  same : slow = x.slow → y.temper.run = 0 ∧ y.temper.slow = x.slow
  counted : slow ≠ x.slow → x.run + 1 < consec → y.temper.run = x.run + 1 ∧ y.temper.slow = x.slow
  turned : slow ≠ x.slow → consec ≤ x.run + 1 →
    y.temper.run = 0 ∧ y.temper.slow = slow ∧ (slow = true → bit y.assay.status 0x18 = true)

section
variable {s : State} {n med2 count : Nat}

/-- The run of windows that speak against what the slice is found to be. -/
def runSet (n run : Nat) (s : State) : State := s.updSlice n fun sl => { sl with temper := { sl.temper with run } }

/-- The slice found to be what it was not. -/
def slowTurned (n : Nat) (s : State) : State :=
  s.updSlice n fun sl => { sl with temper := { sl.temper with run := 0, slow := !(s.slice n).temper.slow, sinceShed := 64 } }

/-- All that a judgement can do. -/
theorem judge_cases (n med2 count : Nat) (s : State) :
    s.slowWindow n med2 count = (s.slice n).temper.slow ∧ judge n med2 count s = runSet n 0 s ∨
    s.slowWindow n med2 count ≠ (s.slice n).temper.slow ∧
      ((s.slice n).temper.run + 1 < s.spine.temperNow.consec ∧ judge n med2 count s = runSet n ((s.slice n).temper.run + 1) s ∨
      s.spine.temperNow.consec ≤ (s.slice n).temper.run + 1 ∧
        ((s.slice n).temper.slow = true ∧ judge n med2 count s = slowTurned n s ∨
        (s.slice n).temper.slow = false ∧ judge n med2 count s = raiseSlice n 0x18 {} (slowTurned n s))) := by
  by_cases h : s.slowWindow n med2 count = (s.slice n).temper.slow
  · exact .inl ⟨h, by simp [judge, h, runSet]⟩
  · refine .inr ⟨h, ?_⟩
    by_cases hlt : (s.slice n).temper.run + 1 < s.spine.temperNow.consec
    · exact .inl ⟨hlt, by simp [judge, h, hlt, runSet]⟩
    · refine .inr ⟨Nat.not_lt.1 hlt, ?_⟩
      cases hx : (s.slice n).temper.slow with
      | true => rw [hx] at h; exact .inl ⟨rfl, by simp [judge, h, hlt, hx, slowTurned]⟩
      | false => rw [hx] at h; exact .inr ⟨rfl, by simp [judge, h, hlt, hx, slowTurned]⟩

theorem window_runSet (n run : Nat) (s : State) : WindowWork Slice.measured s (runSet n run s) := window_updSlice n _ s rfl

theorem window_slowTurned (n : Nat) (s : State) : WindowWork Slice.measured s (slowTurned n s) := window_updSlice n _ s rfl

/-- A judgement writes the slice's monitor, and a slice found slow notes the fault. -/
theorem window_judge (n med2 count : Nat) (s : State) : WindowWork Slice.measured s (judge n med2 count s) := by
  have hraise (u : State) : WindowWork Slice.measured u (raiseSlice n 0x18 {} u) :=
    (window_raiseSlice ..).weaken fun x y h => by
      obtain ⟨harr, htemper⟩ := Prod.mk.inj h
      simp only [Slice.measured, harr, htemper]
  obtain ⟨-, e⟩ | ⟨-, ⟨-, e⟩ | ⟨-, ⟨-, e⟩ | ⟨-, e⟩⟩⟩ := judge_cases n med2 count s <;> rw [e]
  · exact window_runSet ..
  · exact window_runSet ..
  · exact window_slowTurned ..
  · exact (window_slowTurned ..).trans (hraise _)

theorem others_judge (c : s.canon = true) {i : Nat} (hi : i ≠ n) : (judge n med2 count s).slice i = s.slice i := by
  obtain ⟨-, e⟩ | ⟨-, ⟨-, e⟩ | ⟨-, ⟨-, e⟩ | ⟨-, e⟩⟩⟩ := judge_cases n med2 count s <;> rw [e]
  · exact State.slice_updSlice_ne _ c hi
  · exact State.slice_updSlice_ne _ c hi
  · exact State.slice_updSlice_ne _ c hi
  · rw [(engine_raiseSlice n ..).others ((window_slowTurned ..).keeps.canon c) i hi]
    exact State.slice_updSlice_ne _ c hi

theorem judge_leaves (c : s.canon = true) :
    Judged s.spine.temperNow.consec (s.slowWindow n med2 count) (s.slice n).temper ((judge n med2 count s).slice n) := by
  have hrun (r : Nat) : (runSet n r s).slice n = { s.slice n with temper := { (s.slice n).temper with run := r } } :=
    State.slice_updSlice_same n _ c
  have hput : (slowTurned n s).slice n = { s.slice n with
      temper := { (s.slice n).temper with run := 0, slow := !(s.slice n).temper.slow, sinceShed := 64 } } :=
    State.slice_updSlice_same n _ c
  have cu := (window_slowTurned n s).keeps.canon c
  obtain ⟨h, e⟩ | ⟨h, ⟨hlt, e⟩ | ⟨hle, ⟨hx, e⟩ | ⟨hx, e⟩⟩⟩ := judge_cases n med2 count s <;> rw [e]
  · rw [hrun]
    exact ⟨fun _ => ⟨rfl, rfl⟩, fun hne => absurd h hne, fun hne => absurd h hne⟩
  · rw [hrun]
    exact ⟨fun he => absurd he h, fun _ _ => ⟨rfl, rfl⟩, fun _ hle => absurd hlt (Nat.not_lt.2 hle)⟩
  · have hslow : s.slowWindow n med2 count = false := by rw [hx] at h; simpa using h
    rw [hput]
    exact ⟨fun he => absurd he h, fun _ hlt => absurd hlt (Nat.not_lt.2 hle), fun _ _ => ⟨rfl, by simp [hslow, hx], by simp [hslow]⟩⟩
  · have hslow : s.slowWindow n med2 count = true := by rw [hx] at h; simpa using h
    have htemper : ((raiseSlice n 0x18 {} (slowTurned n s)).slice n).temper = ((slowTurned n s).slice n).temper :=
      (Prod.mk.inj ((window_raiseSlice n 0x18 {} (slowTurned n s)).kept cu n)).2
    refine ⟨fun he => absurd he h, fun _ hlt => absurd hlt (Nat.not_lt.2 hle), fun _ _ => ?_⟩
    rw [htemper, hput]
    exact ⟨rfl, by simp [hslow, hx], fun _ => noted_raiseSlice n (by decide) _ cu⟩

/-- The slices of a list judged one after the other. -/
theorem judges_leave (l : List Nat) (hl : l.Nodup) (c : s.canon = true) :
    let t := eachOf l (fun n s => judge n med2 count s) s
    (∀ i, ¬ i ∈ l → t.slice i = s.slice i) ∧
      ∀ i ∈ l, Judged s.spine.temperNow.consec (s.slowWindow i med2 count) (s.slice i).temper (t.slice i) := by
  induction l generalizing s with
  | nil => exact ⟨fun _ _ => rfl, fun i hi => absurd hi (by simp)⟩
  | cons m l ih =>
    obtain ⟨hm, hl⟩ := List.nodup_cons.1 hl
    have hone := window_judge m med2 count s
    obtain ⟨hother, hjudged⟩ := ih (s := judge m med2 count s) hl (hone.keeps.canon c)
    refine ⟨fun i hi => ?_, fun i hi => ?_⟩
    · obtain ⟨him, hil⟩ := not_or.1 (fun h => hi (List.mem_cons.2 h))
      exact (hother i hil).trans (others_judge c him)
    · by_cases him : i = m
      · subst him
        rw [eachOf_cons, hother i hm]
        exact judge_leaves c
      · have hslow : (judge m med2 count s).slowWindow i med2 count = s.slowWindow i med2 count := by
          rw [State.slowWindow, others_judge c him, hone.now]; rfl
        have h := hjudged i ((List.mem_cons.1 hi).resolve_left him)
        rwa [hslow, others_judge c him, hone.now] at h

end

end Sys2Proof.Machine
end

section
/-! SUPPORT. O38: the median of a window, and what a slow slice sheds (08 R234, R236). -/

namespace Sys2Proof.Machine

/-! ### Sorting -/

section
variable {α : Type}

/-- The model's sort is insertion sort by a key. -/
theorem sortBy_eq (f : α → Nat) (l : List α) : sortBy f l = l.insertionSort fun a b => f a ≤ f b := by
  have hinsert (x : α) (r : List α) : sortBy.insertBefore f x r = r.orderedInsert (fun a b => f a ≤ f b) x := by
    induction r with
    | nil => rfl
    | cons a r ih => simp only [sortBy.insertBefore, List.orderedInsert_cons, ih]
  rw [sortBy, List.foldl_reverse]
  induction l with
  | nil => rfl
  | cons a l ih => rw [List.foldr_cons, ih, hinsert, List.insertionSort_cons]

theorem perm_sortBy (f : α → Nat) (l : List α) : (sortBy f l).Perm l := by
  rw [sortBy_eq]; exact List.perm_insertionSort ..

theorem pairwise_sortBy (f : α → Nat) (l : List α) : (sortBy f l).Pairwise fun a b => f a ≤ f b := by
  have : Std.Total fun a b : α => f a ≤ f b := ⟨fun a b => le_total (f a) (f b)⟩
  have : IsTrans α fun a b => f a ≤ f b := ⟨fun _ _ _ => le_trans⟩
  rw [sortBy_eq]
  exact List.pairwise_insertionSort ..

end

theorem median2_of_sorted {l : List Nat} (h : l.Pairwise (· ≤ ·)) (hl : l ≠ []) :
    median2 l = l.getD ((l.length - 1) / 2) 0 + l.getD (l.length / 2) 0 := by
  have hsort : sortBy id l = l := by rw [sortBy_eq]; exact List.Pairwise.insertionSort_eq h
  rw [median2, hsort]
  exact if_neg fun h => hl (List.length_eq_zero_iff.1 h)

theorem median2_of_perm {l r : List Nat} (h : l.Perm r) : median2 l = median2 r := by
  have hsort : sortBy id l = sortBy id r :=
    ((perm_sortBy id l).trans (h.trans (perm_sortBy id r).symm)).eq_of_pairwise (fun _ _ _ _ h g => le_antisymm h g)
      (pairwise_sortBy id l) (pairwise_sortBy id r)
  rw [median2, median2, hsort]

/-! ### A slice written as it is -/

/-- What is read at a key written there again. -/
theorem mput_mget {α : Type} [DecidableEq α] {d : α} {m : Map α} {k : Nat} (h : ∀ x ∈ m, x.1 = k → x.2 ≠ d) :
    mput d m k (mget d m k) = m := by
  induction m with
  | nil => simp [mput, mget]
  | cons x r ih =>
    obtain ⟨j, w⟩ := x
    have ih := ih fun y hy => h y (List.mem_cons_of_mem _ hy)
    rcases Nat.lt_trichotomy k j with hlt | rfl | hgt
    · simp [mput, mget, hlt, Nat.ne_of_gt hlt]
    · simp [mput, mget, h (k, w) List.mem_cons_self rfl]
    · simp [mput, mget, Nat.lt_asymm hgt, Nat.ne_of_lt hgt, ih]

theorem updSlice_self {s : State} {n : Nat} {f : Slice → Slice} (c : s.canon = true) (h : f (s.slice n) = s.slice n) :
    s.updSlice n f = s := by
  have hall : ∀ x ∈ s.slices, x.1 = n → x.2 ≠ Slice.initial s.par n := by
    have hwf := ((State.canon_iff s).1 c).1
    simp only [mwf, Bool.and_eq_true, List.all_eq_true, decide_eq_true_eq] at hwf
    rintro x hx rfl
    exact hwf.2 x hx
  rw [State.updSlice, h, State.setSlice, State.slice, mput_mget hall]

/-! ### Targets (08 R236 step 3) -/

theorem length_fours (targets : List Nat) : (targets.flatMap fun m => List.replicate 4 m).length = 4 * targets.length := by
  induction targets with
  | nil => rfl
  | cons m r ih => simp only [List.flatMap_cons, List.length_append, ih, List.length_replicate, List.length_cons]; omega

/-- Four places for each target, in their order. -/
theorem getElem?_fours (targets : List Nat) (i : Nat) : (targets.flatMap fun m => List.replicate 4 m)[i]? = targets[i / 4]? := by
  induction targets generalizing i with
  | nil => rfl
  | cons m r ih =>
    rw [List.flatMap_cons]
    by_cases hi : i < 4
    · rw [List.getElem?_append_left (by simpa using hi), Nat.div_eq_of_lt hi, List.getElem?_replicate, if_pos hi]; rfl
    · rw [List.getElem?_append_right (by simpa using hi), List.length_replicate, ih,
        show i / 4 = (i - 4) / 4 + 1 by omega, List.getElem?_cons_succ]

section
variable {targets bs : List Nat}

/-- Where the targets have room for every bucket, each bucket goes. -/
theorem buckets_assignTargets (h : bs.length ≤ 4 * targets.length) : (assignTargets targets bs).map (·.b) = bs := by
  rw [assignTargets, List.map_map]
  exact List.map_fst_zip (by rw [length_fours]; exact h)

theorem targets_assignTargets (h : bs.length ≤ 4 * targets.length) {i : Nat} (hi : i < bs.length) :
    ((assignTargets targets bs).map (·.target))[i]? = targets[i / 4]? := by
  have hzip : (assignTargets targets bs).map (·.target) = (bs.zip (targets.flatMap fun m => List.replicate 4 m)).map Prod.snd := by
    rw [assignTargets, List.map_map]; rfl
  rw [hzip, ← getElem?_fours, List.getElem?_map]
  have hi' : i < (targets.flatMap fun m => List.replicate 4 m).length := by rw [length_fours]; omega
  rw [List.getElem?_eq_getElem hi', List.getElem?_eq_getElem (by rw [List.length_zip]; omega)]
  simp

end

/-! ### The buckets shed (08 R236 steps 1 and 2) -/

section
variable {s : State} {n med2 : Nat}

/-- How many buckets a slow slice sheds. -/
def State.shedCount (s : State) (n med2 : Nat) : Nat :=
  (s.ownedBuckets n).length - max s.spine.temperNow.floor ((s.ownedBuckets n).length * med2 / (2 * (s.slice n).temper.lat))

theorem shedList_eq (h : 0 < (s.slice n).temper.lat) :
    s.shedList n med2 = (sortBy (fun b => 2 ^ 32 - mget 0 (s.slice n).temper.bktLast b) (s.ownedBuckets n)).take (s.shedCount n med2) := by
  simp only [State.shedList, Nat.ne_of_gt h, if_false, State.shedCount]

theorem nodup_ownedBuckets (s : State) (n : Nat) : (s.ownedBuckets n).Nodup := List.nodup_range.filter _

theorem length_shedList (h : 0 < (s.slice n).temper.lat) : (s.shedList n med2).length = s.shedCount n med2 := by
  rw [shedList_eq h, List.length_take, (perm_sortBy ..).length_eq]
  exact Nat.min_eq_left (Nat.sub_le ..)

/-- The buckets shed are those of the slice with the highest counts of the last window. -/
theorem shedList_highest (h : 0 < (s.slice n).temper.lat) (hcount : ∀ b, mget 0 (s.slice n).temper.bktLast b < 2 ^ 32) :
    (s.shedList n med2).Nodup ∧ (∀ b ∈ s.shedList n med2, b ∈ s.ownedBuckets n) ∧
      ∀ b ∈ s.shedList n med2, ∀ d ∈ s.ownedBuckets n, ¬ d ∈ s.shedList n med2 →
        mget 0 (s.slice n).temper.bktLast d ≤ mget 0 (s.slice n).temper.bktLast b := by
  rw [shedList_eq h]
  have hperm := perm_sortBy (fun b => 2 ^ 32 - mget 0 (s.slice n).temper.bktLast b) (s.ownedBuckets n)
  have hsorted := pairwise_sortBy (fun b => 2 ^ 32 - mget 0 (s.slice n).temper.bktLast b) (s.ownedBuckets n)
  generalize sortBy (fun b => 2 ^ 32 - mget 0 (s.slice n).temper.bktLast b) (s.ownedBuckets n) = l at hperm hsorted
  refine ⟨(hperm.nodup_iff.2 (nodup_ownedBuckets s n)).sublist (List.take_sublist ..), fun b hb => hperm.subset (List.mem_of_mem_take hb),
    fun b hb d hd hout => ?_⟩
  rw [← List.take_append_drop (s.shedCount n med2) l] at hsorted
  have hdrop : d ∈ l.drop (s.shedCount n med2) := by
    have hl := hperm.symm.subset hd
    rw [← List.take_append_drop (s.shedCount n med2) l] at hl
    exact (List.mem_append.1 hl).resolve_left hout
  have hkey := (List.pairwise_append.1 hsorted).2.2 b hb d hdrop
  have := hcount b
  have := hcount d
  omega

/-! ### What may be shed now (08 R221) -/

/-- The job is an evacuation of slice n. -/
def evacuates (n : Nat) (k : JobKind) : Bool :=
  match k with
  | .evacuate m _ _ _ => m = n
  | _ => false

theorem evacuates_iff {k : JobKind} : evacuates n k = true ↔ ∃ tk mv rs, k = .evacuate n tk mv rs := by
  cases k <;> simp [evacuates]

/-- Slice n may start a scan that moves buckets away. -/
def State.mayMove (s : State) (n : Nat) : Bool :=
  (s.slice n).susFine.isEmpty && (s.slice n).susLoaf.isEmpty && !s.inMove n && !s.inCopy n &&
    !s.spine.jobs.any fun j => evacuates n j.kind

theorem mayMove_iff : s.mayMove n = true ↔ (s.slice n).susFine.isEmpty = true ∧ (s.slice n).susLoaf.isEmpty = true ∧
    s.inMove n = false ∧ s.inCopy n = false ∧ ∀ j ∈ s.spine.jobs, ∀ tk mv rs, j.kind ≠ .evacuate n tk mv rs := by
  have hjobs : (s.spine.jobs.any fun j => evacuates n j.kind) = false ↔
      ∀ j ∈ s.spine.jobs, ∀ tk mv rs, j.kind ≠ .evacuate n tk mv rs := by
    rw [List.any_eq_false]
    refine forall₂_congr fun j _ => ?_
    rw [evacuates_iff]
    exact ⟨fun h tk mv rs e => h ⟨tk, mv, rs, e⟩, fun h ⟨tk, mv, rs, e⟩ => h tk mv rs e⟩
  rw [State.mayMove, ← hjobs]
  simp only [Bool.and_eq_true, Bool.not_eq_true', and_assoc]

theorem mayShed_eq (l : List Nat) : s.mayShed n l =
    if s.mayMove n then (l.filter fun b => !s.stubbed b && !s.censusOf b).take (63 - (s.stubs n).length) else [] := rfl

theorem mayShed_free {l : List Nat} (hfree : s.mayMove n = true) (hl : ∀ b ∈ l, s.stubbed b = false ∧ s.censusOf b = false)
    (hroom : l.length + (s.stubs n).length ≤ 63) : s.mayShed n l = l := by
  have hall : (l.filter fun b => !s.stubbed b && !s.censusOf b) = l :=
    List.filter_eq_self.2 fun b hb => by simp [hl b hb]
  rw [mayShed_eq, if_pos hfree, hall, List.take_of_length_le (by omega)]

theorem mayShed_busy {l : List Nat} (h : s.mayMove n ≠ true) : s.mayShed n l = [] := by
  rw [mayShed_eq, if_neg h]

/-! ### Shedding -/

/-- What is left of a slice's shedding: buckets deferred, and whether a scan of it runs. -/
def deferSet (n : Nat) (l : List Nat) (sh : Bool) (s : State) : State :=
  s.updSlice n fun sl => { sl with temper := { sl.temper with deferred := l, shed := sh } }

/-- The buckets that a slow slice is to shed: chosen anew, or those deferred that it still owns. -/
def State.shedWanted (s : State) (n med2 : Nat) : List Nat :=
  if !(s.slice n).temper.shed && s.spine.temperNow.recheck ≤ (s.slice n).temper.sinceShed && (s.slice n).temper.deferred.isEmpty then
    s.shedList n med2
  else (s.slice n).temper.deferred.filter (s.ownedBuckets n).contains

/-- The slice sheds: it is slow and active, and shedding is enabled. -/
def State.sheds (s : State) (n : Nat) : Bool := (s.slice n).temper.slow && (s.slice n).serving && s.spine.temperNow.shedEn

theorem sheds_not (s : State) (n : Nat) :
    (!(s.slice n).temper.slow || !(s.slice n).serving || !s.spine.temperNow.shedEn) = !s.sheds n := by
  simp only [State.sheds, Bool.not_and]

theorem deferSet_self {sh : Bool} (c : s.canon = true) (hd : (s.slice n).temper.deferred = []) (hs : (s.slice n).temper.shed = sh) :
    deferSet n [] sh s = s := by
  refine updSlice_self c ?_
  rw [← hd, ← hs]

theorem shed_off (c : s.canon = true) (h : s.sheds n = false) : shed n med2 s = deferSet n [] (s.slice n).temper.shed s := by
  simp only [shed, sheds_not, h, Bool.not_false, if_true, Bool.or_false]
  split
  · next hd => exact (deferSet_self c (List.isEmpty_iff.1 hd) rfl).symm
  · rfl

theorem shed_on (h : s.sheds n = true) :
    let may := s.mayShed n (s.shedWanted n med2)
    let l := assignTargets (s.roomy n) may
    let rest := (s.shedWanted n med2).filter fun b => !may.contains b
    (l = [] → shed n med2 s = deferSet n rest (s.slice n).temper.shed s) ∧
      (l ≠ [] → shed n med2 s =
        let r := (deferSet n rest true s).addJob none (.shed n)
        startMove n l false r.2 r.1) := by
  intro may l rest
  have hshed : shed n med2 s =
      let s' := s.updSlice n fun sl => { sl with temper := { sl.temper with deferred := rest, shed := sl.temper.shed || !l.isEmpty } }
      if l.isEmpty then s' else
        let r := s'.addJob none (.shed n)
        startMove n l false r.2 r.1 := by
    simp only [shed, sheds_not, h, Bool.not_true, Bool.false_eq_true, if_false]
    rfl
  constructor
  · intro hl
    simp only [hshed, hl, List.isEmpty_nil, Bool.not_true, Bool.or_false, if_true]
    exact updSlice_congr rfl
  · intro hl
    have hne : l.isEmpty = false := by simpa using hl
    rw [hshed, hne]
    simp only [Bool.not_false, Bool.or_true, Bool.false_eq_true, if_false]
    rfl

end

end Sys2Proof.Machine
end

section
/-! SUPPORT. O38: the end of a Temper window, put together (08 R233 to R236), and an automatic evacuation (13 R345). -/

namespace Sys2Proof.Machine

/-! ### Shedding keeps the measurements -/

section
variable {s : State}

theorem window_setHome (m : Mv) (incoming : Bool) (s : State) : WindowWork Slice.measured s
    (let s := s.setMaster m.b { s.master m.b with moving := true }
     s.setBkt m.target m.b { s.bkt m.target m.b with incoming }) :=
  (window_updSpine _ s rfl rfl rfl rfl).trans (window_updSlice m.target _ _ rfl)

theorem window_settleMoves (l : List Nat) (s : State) : WindowWork Slice.measured s (settleMoves l s) :=
  window_eachOf _ _ (fun n s => .ite (.refl _ s) (window_setConds n _ s fun _ _ => rfl)) s

theorem window_startMove (n : Nat) (l : List Mv) (job : Nat) (s : State) :
    WindowWork Slice.measured s (startMove n l false job s) := by
  simp only [startMove, Bool.false_eq_true, if_false]
  refine WindowWork.trans ?_ (window_settleMoves ..)
  refine WindowWork.trans ?_ (window_eachOf _ _ (fun m s => window_setHome m _ s) _)
  exact window_updSlice n _ s rfl

theorem window_addShed (n : Nat) (s : State) : WindowWork Slice.measured s (s.addJob none (.shed n)).1 := by
  refine ⟨keeps_addJob .., rfl, rfl, rfl, rfl, rfl, rfl, fun h j hj => ?_, fun _ _ => rfl⟩
  rcases List.mem_append.1 (show j ∈ s.spine.jobs ++ _ from hj) with hj | hj
  · exact h j hj
  · rw [List.mem_singleton.1 hj]; exact ⟨n, rfl⟩

theorem window_shed (n med2 : Nat) (s : State) : WindowWork Slice.measured s (shed n med2 s) := by
  have hput (l : List Nat) (on : Bool) : WindowWork Slice.measured s
      (s.updSlice n fun sl => { sl with temper := { sl.temper with deferred := l, shed := sl.temper.shed || on } }) :=
    window_updSlice n _ s rfl
  simp only [shed]
  refine .ite (.ite (.refl _ s) (hput ..)) (.ite (hput ..) ?_)
  exact ((hput ..).trans (window_addShed n _)).trans (window_startMove ..)

/-! ### The end of a window -/

/-- The window closed and judged. -/
def windowJudged (s : State) : State :=
  eachOf (windowClosed s).tracking (fun n t => judge n (windowClosed s).med2 (windowClosed s).tracking.length t) (windowClosed s)

/-- The window closed and judged, the slow slices shed, the new settings in force. -/
def windowShed (s : State) : State :=
  (eachOf (windowJudged s).sliceNums (fun n => shed n (windowClosed s).med2) (windowJudged s)).updSpine fun sp =>
    { sp with temperNow := sp.temper }

theorem window_windowJudged (s : State) : WindowWork Slice.measured (windowClosed s) (windowJudged s) :=
  window_eachOf _ _ (fun n s => window_judge n _ _ s) _

theorem window_sheds (s : State) : WindowWork Slice.measured (windowClosed s)
    (eachOf (windowJudged s).sliceNums (fun n => shed n (windowClosed s).med2) (windowJudged s)) :=
  (window_windowJudged s).trans (window_eachOf _ _ (fun n s => window_shed n _ s) _)

theorem sliceNums_windowJudged (s : State) : (windowJudged s).sliceNums = s.sliceNums := by
  rw [State.sliceNums, (window_windowJudged s).keeps.par, (window_windowClosed s).keeps.par]; rfl

theorem med2_windowClosed (c : s.canon = true) :
    (windowClosed s).med2 = median2 ((s.sliceNums.filter fun n => (s.slice n).mode = .track).map fun n => (s.slice n).temper.close.lat) := by
  rw [State.med2, tracking_windowClosed c]
  congr 1
  refine List.map_congr_left fun n hn => ?_
  rw [slice_windowClosed c (List.mem_range.1 (List.mem_of_mem_filter hn))]

/-- What is left of the measurements at the end of a window. -/
theorem measured_windowShed (c : s.canon = true) {n : Nat} (hn : n < s.par.nSlice) :
    ((windowShed s).slice n).measured = ({ s.slice n with temper := (s.slice n).temper.close } : Slice).measured := by
  rw [← slice_windowClosed c hn]
  exact (window_sheds s).kept ((window_windowClosed s).keeps.canon c) n

/-- Shedding alone starts no copy and no evacuation: nothing else waits. -/
theorem onlySheds_wait (hv : s.spine.salvage = none) (hj : ∀ j ∈ s.spine.jobs, ∃ m, j.kind = .shed m) :
    evacSteps (copyReleases (salvageGo s)) = s := by
  have hkind {id : Nat} {j : Job} (h : s.job id = some j) : ∃ m, j.kind = .shed m := hj j (List.mem_of_find?_eq_some h)
  have hsalvage : salvageGo s = s := by rw [salvageGo, hv]
  have hcopy : copyReleases s = s := eachOf_fixed fun id _ => by
    rw [copyRelease]
    split
    · next h => obtain ⟨m, hm⟩ := hkind h; cases hm
    · rfl
  have hevac : evacSteps s = s := eachOf_fixed fun id _ => by
    rw [evacStep]
    split
    · next h => obtain ⟨m, hm⟩ := hkind h; cases hm
    · rfl
  rw [hsalvage, hcopy, hevac]

/-! ### AUTO_EVACUATE (13 R345) -/

theorem evacRefused_none {n : Nat} (h : s.evacRefused n = none) : (s.spine.jobs.any fun j => evacuates n j.kind) = false := by
  by_contra hj
  have hj : (s.spine.jobs.any fun j => evacuates n j.kind) = true := by simpa using hj
  have hbusy : s.evacRefused n ≠ none := by
    rw [State.evacRefused]
    split
    · simp
    · rw [if_pos]
      · simp
      · exact Bool.or_eq_true_iff.2 (.inr hj)
  exact hbusy h

theorem autoEvacuate_starts {n : Nat} (hq : n ∈ s.spine.autoEvac) (hm : (s.slice n).mode = .broadcast) (h : s.evacRefused n = none) :
    autoEvacuate n s = startEvac n none false (s.updSpine fun sp => { sp with autoEvac := sp.autoEvac.filter (· != n) }) := by
  have hmode : ((s.slice n).mode != .broadcast) = false := by simp [hm]
  have hcontains : s.spine.autoEvac.contains n = true := List.contains_iff_mem.2 hq
  rw [autoEvacuate, hcontains, hmode, h]
  simp only [Bool.not_true, Bool.false_eq_true, if_false]
  exact if_neg fun hj => absurd (hj.symm.trans (evacRefused_none h)) (by decide)

end

end Sys2Proof.Machine
end

section
/-! SUPPORT. O38: the windows that are slow, what a slow slice sheds, and the theorem. -/

namespace Sys2Proof.Machine

section
variable {s : State} {n med2 : Nat}

/-- The judgement of a slice in TRACK at the end of a window. -/
theorem windowJudged_track (c : s.canon = true) (hn : n < s.par.nSlice) (ht : (s.slice n).mode = .track) :
    Judged s.spine.temperNow.consec ((windowClosed s).slowWindow n (windowClosed s).med2 (windowClosed s).tracking.length)
      (s.slice n).temper.close ((windowJudged s).slice n) := by
  have hclosed := window_windowClosed s
  have hmem : n ∈ (windowClosed s).tracking := by
    rw [tracking_windowClosed c]
    exact List.mem_filter.2 ⟨List.mem_range.2 hn, by simpa using ht⟩
  have h := (judges_leave (med2 := (windowClosed s).med2) (count := (windowClosed s).tracking.length) (windowClosed s).tracking
    (List.nodup_range.filter _) (hclosed.keeps.canon c)).2 n hmem
  rwa [hclosed.now, slice_windowClosed c hn] at h

/-- A slice not in TRACK is not judged. -/
theorem windowJudged_other (c : s.canon = true) (hn : n < s.par.nSlice) (ht : (s.slice n).mode ≠ .track) :
    (windowJudged s).slice n = { s.slice n with temper := (s.slice n).temper.close } := by
  have hmem : ¬ n ∈ (windowClosed s).tracking := by
    rw [tracking_windowClosed c]
    exact fun h => ht (by simpa using (List.mem_filter.1 h).2)
  rw [← slice_windowClosed c hn]
  exact (judges_leave (windowClosed s).tracking (List.nodup_range.filter _) ((window_windowClosed s).keeps.canon c)).1 n hmem

/-- Where the spine finds the window slow (08 R234). -/
theorem slowWindow_windowClosed (c : s.canon = true) (hn : n < s.par.nSlice) (med2 count : Nat) :
    (windowClosed s).slowWindow n med2 count = decide (4 ≤ count ∧
      s.spine.temperNow.ratio * med2 < 16 * (s.slice n).temper.close.lat ∧ s.spine.temperNow.occmin ≤ (s.slice n).temper.close.occ) := by
  simp only [State.slowWindow, slice_windowClosed c hn, (window_windowClosed s).now, Bool.decide_and, Bool.and_assoc]

/-! ### Shedding, case by case -/

theorem shedWanted_fresh (hs : (s.slice n).temper.shed = false) (hr : s.spine.temperNow.recheck ≤ (s.slice n).temper.sinceShed)
    (hd : (s.slice n).temper.deferred = []) : s.shedWanted n med2 = s.shedList n med2 := by
  simp [State.shedWanted, hs, hr, hd]

theorem shedWanted_stale (h : ¬ ((s.slice n).temper.shed = false ∧ s.spine.temperNow.recheck ≤ (s.slice n).temper.sinceShed ∧
    (s.slice n).temper.deferred = [])) (hd : (s.slice n).temper.deferred = []) : s.shedWanted n med2 = [] := by
  rw [State.shedWanted, if_neg, hd, List.filter_nil]
  simpa [hd] using h

theorem assignTargets_nil_left (l : List Nat) : assignTargets [] l = [] := by
  rw [assignTargets, List.flatMap_nil, List.zip_nil_right, List.map_nil]

theorem assignTargets_nil_right (l : List Nat) : assignTargets l [] = [] := rfl

theorem filter_not_self (l : List Nat) : (l.filter fun b => !l.contains b) = [] :=
  List.filter_eq_nil_iff.2 fun b hb => by simp [hb]

/-- Nothing to shed: nothing changes. -/
theorem shed_nothing (c : s.canon = true) (h : s.sheds n = true) (hw : s.shedWanted n med2 = [])
    (hd : (s.slice n).temper.deferred = []) : shed n med2 s = s := by
  have hmay : s.mayShed n [] = [] := by
    rw [mayShed_eq]
    split <;> simp
  obtain ⟨hnone, -⟩ := shed_on (med2 := med2) h
  rw [hw, hmay, List.filter_nil] at hnone
  exact (hnone (assignTargets_nil_right _)).trans (deferSet_self c hd rfl)

/-- What R221 forbids is deferred. -/
theorem shed_deferred (h : s.sheds n = true) (hbusy : s.mayMove n ≠ true) :
    shed n med2 s = deferSet n (s.shedWanted n med2) (s.slice n).temper.shed s := by
  obtain ⟨hnone, -⟩ := shed_on (med2 := med2) h
  rw [mayShed_busy hbusy] at hnone
  refine (hnone (assignTargets_nil_right _)).trans ?_
  rw [List.filter_eq_self.2 fun b _ => by simp]

section
variable (h : s.sheds n = true) (hmay : s.mayShed n (s.shedWanted n med2) = s.shedWanted n med2)
include h hmay

/-- With no slice that has room nothing is shed, and nothing deferred. -/
theorem shed_noRoom (c : s.canon = true) (hroom : s.roomy n = []) (hd : (s.slice n).temper.deferred = []) : shed n med2 s = s := by
  obtain ⟨hnone, -⟩ := shed_on (med2 := med2) h
  rw [hmay, filter_not_self, hroom] at hnone
  exact (hnone (assignTargets_nil_left _)).trans (deferSet_self c hd rfl)

/-- With room for all of them the buckets go in one scan. -/
theorem shed_moves (hwant : s.shedWanted n med2 ≠ []) (hroom : (s.shedWanted n med2).length ≤ 4 * (s.roomy n).length) :
    shed n med2 s =
      let r := (deferSet n [] true s).addJob none (.shed n)
      startMove n (assignTargets (s.roomy n) (s.shedWanted n med2)) false r.2 r.1 := by
  obtain ⟨-, hsome⟩ := shed_on (med2 := med2) h
  rw [hmay, filter_not_self] at hsome
  refine hsome fun hl => hwant ?_
  rw [← buckets_assignTargets hroom, hl, List.map_nil]

end

end

/-! ### The clauses -/

theorem exec_temperWindowEnd (s : State) : exec .temperWindowEnd s = .next (evacSteps (copyReleases (salvageGo (windowShed s)))) := rfl

/-- The measurements of a slice at the end of a window. -/
theorem windowShed_measurements {s : State} (c : s.canon = true) {n : Nat} (hn : n < s.par.nSlice) :
    ((windowShed s).slice n).temper.occ = (s.slice n).temper.close.occ ∧
      ((windowShed s).slice n).temper.lat = (s.slice n).temper.close.lat ∧ ((windowShed s).slice n).temper.occN = 0 ∧
      ((windowShed s).slice n).temper.latN = 0 ∧ ((windowShed s).slice n).arr = (s.slice n).arr := by
  have hmeasured := measured_windowShed c hn
  simp only [Slice.measured, Prod.mk.injEq] at hmeasured
  obtain ⟨harr, hocc, hlat, hoccN, hlatN, -⟩ := hmeasured
  exact ⟨hocc, hlat, hoccN, hlatN, harr⟩

/-- With no command in progress and no salvage, the end of a window is its closing, the judgements and the sheddings alone. -/
theorem exec_temperWindowEnd_alone {s : State} (hj : s.spine.jobs = []) (hv : s.spine.salvage = none) :
    exec .temperWindowEnd s = .next (windowShed s) := by
  have h := window_sheds s
  have hclosed := window_windowClosed s
  have hsalvage : (windowShed s).spine.salvage = none := h.salvage.trans (hclosed.salvage.trans hv)
  have hsheds : ∀ j ∈ (windowShed s).spine.jobs, ∃ m, j.kind = .shed m :=
    h.jobs (hclosed.jobs fun j hmem => absurd hmem (by simp [hj]))
  rw [exec_temperWindowEnd, onlySheds_wait hsalvage hsheds]

/-- A slice in TRACK after the window, and one that is not. -/
theorem windowJudged_leaves {s : State} (c : s.canon = true) {n : Nat} (hn : n < s.par.nSlice) {slow : Bool}
    (hslow : (windowClosed s).slowWindow n (windowClosed s).med2 (windowClosed s).tracking.length = slow) :
    let tr := s.sliceNums.filter fun n => (s.slice n).mode = .track
    let x := (s.slice n).temper
    let y := ((windowJudged s).slice n).temper
    (n ∈ tr → slow = x.slow → y.run = 0 ∧ y.slow = x.slow) ∧
      (n ∈ tr → slow ≠ x.slow → x.run + 1 < s.spine.temperNow.consec → y.run = x.run + 1 ∧ y.slow = x.slow) ∧
      (n ∈ tr → slow ≠ x.slow → s.spine.temperNow.consec ≤ x.run + 1 → y.run = 0 ∧ y.slow = slow ∧
        (slow = true → bit ((windowJudged s).slice n).assay.status 0x18 = true)) ∧
      (¬ n ∈ tr → y.run = x.run ∧ y.slow = x.slow) ∧ y.occ = x.close.occ ∧ y.lat = x.close.lat ∧ y.bktLast = x.bktNow ∧
      y.bktNow = [] := by
  intro tr x y
  have hmem : n ∈ tr ↔ (s.slice n).mode = .track := by simp [tr, State.sliceNums, hn]
  have hmeasured : ((windowJudged s).slice n).measured = ({ s.slice n with temper := (s.slice n).temper.close } : Slice).measured := by
    rw [← slice_windowClosed c hn]
    exact (window_windowJudged s).kept ((window_windowClosed s).keeps.canon c) n
  simp only [Slice.measured, Prod.mk.injEq] at hmeasured
  obtain ⟨-, hocc, hlat, -, -, hlast, hnow⟩ := hmeasured
  have htrack (h : n ∈ tr) := hslow ▸ windowJudged_track c hn (hmem.1 h)
  have hother (h : ¬ n ∈ tr) : y = x.close := congrArg Slice.temper (windowJudged_other c hn fun ht => h (hmem.2 ht))
  exact ⟨fun h => (htrack h).same, fun h => (htrack h).counted, fun h => (htrack h).turned,
    fun h => by rw [hother h]; exact ⟨rfl, rfl⟩, hocc, hlat, hlast, hnow⟩

/-- Settles O38: a window's end is its closing, the judgements and the sheddings, each of which keeps the measurements; a slice sheds
the front of its buckets sorted by falling counts. -/
theorem temperAndAutoEvacuation : Obligations.TemperAndAutoEvacuation := by
  refine ⟨?_, fun l h hl => median2_of_sorted h hl, fun l r h => median2_of_perm h, ?_, ?_, ?_, ?_⟩
  · intro s c lat occ tr med2 cfg slow
    have hclosed := window_windowClosed s
    have hjudged := window_windowJudged s
    have hmed : (windowClosed s).med2 = med2 := med2_windowClosed c
    have hslow {n : Nat} (hn : n < s.par.nSlice) :
        (windowClosed s).slowWindow n (windowClosed s).med2 (windowClosed s).tracking.length = slow n := by
      rw [slowWindow_windowClosed c hn, hmed, tracking_windowClosed c]; rfl
    refine ⟨windowJudged s, ?_, hjudged.now.trans hclosed.now, hjudged.temper.trans hclosed.temper, hjudged.fns.trans hclosed.fns,
      hjudged.shims.trans hclosed.shims, hjudged.mesh.trans hclosed.mesh, fun n hn => windowJudged_leaves c hn (hslow hn),
      fun htr n => decide_eq_false fun h => absurd h.1 (Nat.not_le.2 htr)⟩
    rw [exec_temperWindowEnd, ← hmed, ← sliceNums_windowJudged s]
    rfl
  · intro s n med2 c hn x cfg on own fresh count highest put free
    have hsheds : s.sheds n = true ↔ on := by simp only [State.sheds, Bool.and_eq_true, and_assoc]; exact Iff.rfl
    refine ⟨fun hoff => shed_off c (Bool.eq_false_iff.2 fun h => hoff (hsheds.1 h)),
      fun hon hstale hd => shed_nothing c (hsheds.2 hon) (shedWanted_stale hstale hd) hd,
      fun hon hfresh hlat hbelow hcount => ?_⟩
    obtain ⟨hshed, hrecheck, hdefer⟩ := hfresh
    have hwant : s.shedWanted n med2 = s.shedList n med2 := shedWanted_fresh hshed hrecheck hdefer
    have hlength : (s.shedWanted n med2).length = count := by rw [hwant]; exact length_shedList hlat
    have hhighest : highest (s.shedWanted n med2) := ⟨hlength, hwant ▸ shedList_highest hlat hbelow⟩
    refine ⟨fun hbusy => ⟨_, hhighest, ?_⟩, fun hfree hown hroom => ?_⟩
    · rw [shed_deferred (hsheds.2 hon) fun h => hbusy (mayMove_iff.1 h), show (s.slice n).temper.shed = false from hshed]; rfl
    · have hmay : s.mayShed n (s.shedWanted n med2) = s.shedWanted n med2 :=
        mayShed_free (mayMove_iff.2 hfree) (fun b hb => hown b (hhighest.2.2.1 b hb)) (by rw [hlength]; exact hroom)
      refine ⟨fun hnone => shed_noRoom (hsheds.2 hon) hmay c hnone hdefer, fun hfits => ?_⟩
      rw [← hlength] at hcount hfits
      refine ⟨_, ?_, fun i hi => targets_assignTargets hfits (by rw [hlength]; exact hi),
        shed_moves (hsheds.2 hon) hmay (List.ne_nil_of_length_pos hcount) hfits⟩
      rw [buckets_assignTargets hfits]
      exact hhighest
  · intro s c
    have h := window_sheds s
    have hclosed := window_windowClosed s
    refine ⟨windowShed s, exec_temperWindowEnd s, h.temper.trans hclosed.temper, h.shims.trans hclosed.shims, h.mesh.trans hclosed.mesh,
      fun n hn => ?_⟩
    obtain ⟨hocc, hlat, hoccN, hlatN, -⟩ := windowShed_measurements c hn
    exact ⟨hocc, hlat, hoccN, hlatN⟩
  · intro s c hj hv
    have h := window_sheds s
    have hclosed := window_windowClosed s
    exact ⟨windowShed s, exec_temperWindowEnd_alone hj hv, h.temper.trans hclosed.temper, h.shims.trans hclosed.shims,
      h.fns.trans hclosed.fns, h.mesh.trans hclosed.mesh, fun n hn => windowShed_measurements c hn⟩
  · intro s n hn hq hm h
    exact (atSlice_built _ hn).trans (congrArg _ (autoEvacuate_starts hq hm h))

end Sys2Proof.Machine
end

section
/-! SUPPORT. What cuts an agent off from its shim (09 R251): a fault raised at the shim, and the resets of agent and shim. -/

namespace Sys2Proof.Machine

/-! ### A fault at a shim: what it leaves of the state, and of the shim -/

section
variable {s : State} {sh : Nat}

theorem eachOf_wire {α : Type} (l : List α) (w : α → Wire) (s : State) :
    eachOf l (fun u s => s.wire (w u)) s = { s with wires := s.wires ++ l.map w } := by
  induction l generalizing s with
  | nil => rw [eachOf_nil, List.map_nil, List.append_nil]
  | cons u l ih => rw [eachOf_cons, ih, List.map_cons, State.wire, List.append_assoc, List.singleton_append]

/-- Acknowledgments write the shim and the internal messages alone. -/
theorem ackUpds_eq (sh : Nat) (s : State) :
    ackUpds sh s =
      { s.setShim sh { s.shim sh with upds := (s.shim sh).upds.filter (s.shim sh).updWaits } with
        wires := s.wires ++ ((s.shim sh).upds.filter fun u => !(s.shim sh).updWaits u).map fun u => .mapAck sh u.bucket u.gen } :=
  congrArg (State.updShim · sh fun x => { x with upds := x.upds.filter (s.shim sh).updWaits }) (eachOf_wire _ _ s)

@[simp] theorem spine_ackUpds (sh : Nat) (s : State) : (ackUpds sh s).spine = s.spine := by rw [ackUpds_eq]; rfl

@[simp] theorem spine_feed (s : State) (node : Nat) (r : HRec) : (s.feed node r).spine = s.spine := by
  obtain ⟨-, -, -, -, hspine, -⟩ := feed_frame s node r
  exact hspine

@[simp] theorem spine_trigger (src : Nat) (s : State) : (s.trigger src).spine = s.spine := by
  rw [State.trigger]
  split <;> rfl

@[simp] theorem shims_trigger (src : Nat) (s : State) : (s.trigger src).shims = s.shims := by
  rw [State.trigger]
  split <;> rfl

@[simp] theorem spine_shimDetected (sh src : Nat) (d : Detail) (s : State) : (shimDetected sh src d s).spine = s.spine :=
  spine_feed ..

@[simp] theorem spine_raiseShim (sh src : Nat) (d : Detail) (s : State) : (raiseShim sh src d s).spine = s.spine := by
  rcases raiseShim_cases sh src d s with e | e <;> simp [e]

/-- A fault noted is in the shim's Assay registers alone. -/
theorem shim_shimDetected (src : Nat) (d : Detail) (c : s.canon = true) :
    ∃ assay, (shimDetected sh src d (s.trigger src)).shim sh = { s.shim sh with assay } := by
  have hx : (s.trigger src).shim sh = s.shim sh := by rw [State.shim, shims_trigger]; rfl
  rw [shimDetected, shim_feed, State.shim_updShim_same sh _ ((keeps_trigger src s).canon c), hx]
  exact ⟨_, rfl⟩

/-- A fault at a shim that is not idle: it is noted, and at severity 3 the agent is cut off and is to be retired (15 R385). -/
theorem shim_raiseShim (src : Nat) (d : Detail) (c : s.canon = true) (hst : (s.shim sh).st ≠ .idle) :
    ∃ assay upds, (raiseShim sh src d s).shim sh =
      if s.sevOf src = 3 then { (s.shim sh).cutOff with retireDue := true, assay, upds } else { s.shim sh with assay, upds } := by
  obtain ⟨assay, hx⟩ := shim_shimDetected (sh := sh) src d c
  have ct := ((shimFrame_trigger sh src s).trans (shimFrame_shimDetected sh src d _)).keeps.canon c
  have hsev : (shimDetected sh src d (s.trigger src)).sevOf src = s.sevOf src := by simp only [State.sevOf, State.src]; simp
  have hst' : ((shimDetected sh src d (s.trigger src)).shim sh).st ≠ .idle := by rw [hx]; exact hst
  rw [raiseShim_eq]
  by_cases h3 : s.sevOf src = 3
  · simp only [hsev, h3, bne_iff_ne, ne_eq, hst', not_false_eq_true, decide_true, Bool.true_and, if_true]
    rw [shim_ackUpds sh (State.canon_updShim sh _ ct), State.shim_updShim_same sh _ ct, hx]
    exact ⟨assay, _, rfl⟩
  · simp only [hsev, h3, decide_false, Bool.false_and, Bool.false_eq_true, if_false, hx]
    exact ⟨assay, (s.shim sh).upds, rfl⟩

end

/-! ### An agent cut off (09 R251) -/

section
variable {s : State} {sh : Nat} {x y : Shim}

/-- y is x after R251: fenced, with nothing left to inject but RSP and DAT messages, and nothing for the agent but its snoops. -/
structure Shim.Severed (x y : Shim) : Prop where
  st : y.st = .fenced
  cut : y.cut = true
  reqQ : y.reqQ = []
  wbkQ : y.wbkQ = []
  drains : ∀ d ∈ y.drains, d.sent = true ∧ d.todo = [] ∧ d.gone = true
  rspQ : y.rspQ = x.rspQ
  datQ : y.datQ = x.datQ
  rspIn : y.rspIn = []
  datIn : y.datIn = []
  snpIn : y.snpIn = x.snpIn

/-- Fenced, the drains that go on had sent their copies, and hold no message and no copy back (09 R246 step 1). -/
theorem drains_fence (x : Shim) : ∀ d ∈ x.fence.drains, d.sent = true ∧ d.held = none ∧ d.todo = [] := by
  intro d hd
  simp only [Shim.fence, List.mem_filter, List.mem_map] at hd
  obtain ⟨⟨e, ⟨-, hsent⟩, rfl⟩, -⟩ := hd
  exact ⟨hsent, rfl, rfl⟩

theorem severed_cutOff (x : Shim) : x.Severed x.cutOff where
  st := rfl
  cut := rfl
  reqQ := rfl
  wbkQ := rfl
  drains d hd := by
    obtain ⟨e, he, rfl⟩ := List.mem_map.1 hd
    obtain ⟨hsent, -, htodo⟩ := drains_fence x e he
    exact ⟨hsent, htodo, rfl⟩
  rspQ := rfl
  datQ := rfl
  rspIn := rfl
  datIn := rfl
  snpIn := rfl

theorem Shim.Severed.trans {z : Shim} (h : x.Severed y) (g : y.Severed z) : x.Severed z :=
  { g with rspQ := g.rspQ.trans h.rspQ, datQ := g.datQ.trans h.datQ, snpIn := g.snpIn.trans h.snpIn }

/-- What R251 does is not undone by what the shim notes of faults, retires and map updates. -/
theorem Shim.Severed.noted (h : x.Severed y) (assay : Assay) (upds : List MapUpd) (retireDue : Bool) :
    x.Severed { y with assay, upds, retireDue } :=
  { h with }

/-- A shim as the reset of its agent leaves it at first. -/
def Shim.cutForReset (x : Shim) : Shim := { x.cutOff with retireDue := x.autoRetire }

theorem agentReset_eq (hst : (s.shim sh).st = .admitting ∨ (s.shim sh).st = .admitted) :
    agentReset sh s = raiseShim sh 0x45 { node := agentNode sh } (ackUpds sh (s.updShim sh Shim.cutForReset)) :=
  if_pos (by simpa using hst)

/-- The reset of an admitting or admitted agent. -/
theorem shim_agentReset (c : s.canon = true) (hst : (s.shim sh).st = .admitting ∨ (s.shim sh).st = .admitted) :
    (s.shim sh).Severed ((agentReset sh s).shim sh) ∧
      ((agentReset sh s).shim sh).retireDue = ((s.shim sh).autoRetire || decide (s.sevOf 0x45 = 3)) ∧
      bit ((agentReset sh s).shim sh).assay.status 5 = true ∧ ShimFrame sh s (agentReset sh s) ∧
      (agentReset sh s).spine = s.spine := by
  rw [agentReset_eq hst]
  have hframe := (shimFrame_updShim sh s Shim.cutForReset).trans (shimFrame_ackUpds sh _)
  have hspine := spine_ackUpds sh (s.updShim sh Shim.cutForReset)
  have hx := shim_ackUpds sh (State.canon_updShim sh Shim.cutForReset c)
  rw [State.shim_updShim_same sh _ c] at hx
  generalize ackUpds sh (s.updShim sh Shim.cutForReset) = t at *
  have ct := hframe.keeps.canon c
  have hsev : t.sevOf 0x45 = s.sevOf 0x45 := by rw [State.sevOf, State.src, hspine]; rfl
  have hcut : (s.shim sh).Severed (t.shim sh) := by rw [hx]; exact (severed_cutOff _).noted _ _ _
  have hdue : (t.shim sh).retireDue = (s.shim sh).autoRetire := by rw [hx]; rfl
  obtain ⟨assay, upds, hraised⟩ := shim_raiseShim (sh := sh) 0x45 { node := agentNode sh } ct (by simp [hcut.st])
  refine ⟨?_, ?_, status_raiseShim sh _ ct (by decide), hframe.trans (shimFrame_raiseShim ..), (spine_raiseShim ..).trans hspine⟩
  · rw [hraised]
    split
    · exact (hcut.trans (severed_cutOff _)).noted ..
    · exact hcut.noted ..
  · rw [hraised, hsev, ← hdue]
    split
    · next h3 => rw [decide_eq_true h3, Bool.or_true]
    · next h3 => rw [decide_eq_false h3, Bool.or_false]

/-- A shim idle or fenced has no agent to reset. -/
theorem agentReset_none (hst : (s.shim sh).st = .idle ∨ (s.shim sh).st = .fenced) : agentReset sh s = s := by
  rcases hst with h | h <;> simp [agentReset, h]

end

/-- A shim with its reset asked for; it waits for the retire of an agent that was cut off (log 32). -/
def Shim.resetAsked (x : Shim) : Shim :=
  { x with resetPending := true, retireDue := x.retireDue || (x.st = .fenced && x.cut) }

/-- Settles O42: a shim reset is an agent reset with the retire it waits for noted. -/
theorem agentAndShimReset : Obligations.AgentAndShimReset := by
  intro s sh c hsh x
  have hreset : exec (.shimReset sh) s = .next ((agentReset sh s).updShim sh Shim.resetAsked) := atShim_built (shimReset sh) hsh
  refine ⟨fun hst => ?_, fun hst => ⟨?_, ?_⟩, fun hst hp => ?_, fun h => ?_⟩
  · obtain ⟨hcut, hdue, hstatus, hframe, hspine⟩ := shim_agentReset c hst
    have ct := hframe.keeps.canon c
    refine ⟨⟨_, atShim_built (agentReset sh) hsh, hcut.st, hcut.cut, hcut.reqQ, hcut.wbkQ, hcut.drains, hcut.rspQ, hcut.datQ,
      hcut.rspIn, hcut.datIn, hcut.snpIn, hdue, hstatus, hframe.others c, hframe.slices, hspine, hframe.mesh⟩, _, hreset, ?_⟩
    have hshim := hframe.trans (shimFrame_updShim sh _ Shim.resetAsked)
    rw [State.shim_updShim_same sh _ ct]
    exact ⟨hcut.st, hcut.cut, hcut.reqQ, hcut.wbkQ, rfl, by simp [Shim.resetAsked, hcut.st, hcut.cut], hstatus, hshim.others c,
      hshim.slices, hspine, hshim.mesh⟩
  · exact (atShim_built (agentReset sh) hsh).trans (congrArg _ (agentReset_none hst))
  · rw [agentReset_none hst] at hreset
    exact ⟨_, hreset, rfl, fun a ha => State.shim_updShim_ne _ c ha, State.shim_updShim_same sh _ c⟩
  · exact (atShim_built (shimResetApply sh) hsh).trans (congrArg _ (if_pos (by simpa using ⟨hp, hst⟩)))
  · have hno : ¬(x.resetPending && x.st = .idle) = true := by rcases h with h | h <;> simp [h]
    exact (atShim_built (shimResetApply sh) hsh).trans (congrArg _ (if_neg hno))

end Sys2Proof.Machine
end

section
/-! SUPPORT. SHIM_INJECT (09 R238) and SHIM_MESH_MESSAGE (03 R94, R100, 05 R151, 06 R167): the message that goes next, and what
the shim counts of a message as it puts it in its queue for the agent. -/

namespace Sys2Proof.Machine

/-! ### The message to inject next (09 R238) -/

section
variable {x : Shim} {q : QMsg} {l : List QMsg}

theorem inject_waited (h : x.reqQ.find? (fun q => 64 ≤ q.wait) = some q) :
    x.inject = some (q, { x with reqQ := x.reqQ.erase q }) := by
  simp only [Shim.inject, h]

section
variable (h : x.reqQ.find? (fun q => 64 ≤ q.wait) = none)
include h

theorem inject_rsp (hr : x.rspQ = q :: l) : x.inject = some (q, { x with rspQ := l }) := by
  simp only [Shim.inject, h, hr]

theorem inject_dat (hr : x.rspQ = []) (hd : x.datQ = q :: l) : x.inject = some (q, { x with datQ := l }) := by
  simp only [Shim.inject, h, hr, hd]

theorem inject_wbk (hr : x.rspQ = []) (hd : x.datQ = []) (hw : x.wbkQ = q :: l) : x.inject = some (q, { x with wbkQ := l }) := by
  simp only [Shim.inject, h, hr, hd, hw]

theorem inject_req (hr : x.rspQ = []) (hd : x.datQ = []) (hw : x.wbkQ = []) :
    x.inject = x.nextReq.map fun q => (q, { x with reqQ := x.reqQ.erase q }) := by
  simp only [Shim.inject, h, hr, hd, hw]

end

theorem nextReq_of_find (h : x.reqQ.find? (fun q => q.m.op != .pfHint) = some q) : x.nextReq = some q := by
  simp only [Shim.nextReq, h]

theorem nextReq_hints (h : ∀ p ∈ x.reqQ, p.m.op = .pfHint) : x.nextReq = x.reqQ.head? := by
  have hnone : x.reqQ.find? (fun q => q.m.op != .pfHint) = none := List.find?_eq_none.2 fun p hp => by simp [h p hp]
  simp only [Shim.nextReq, hnone]

theorem shimInject_some {s : State} {sh : Nat} {y : Shim} (h : (s.shim sh).inject = some (q, y)) :
    shimInject sh s = (s.setShim sh y).send q.m := by
  simp only [shimInject, h]

end

/-! ### A message counted as it is received (05 R151, 06 R167) -/

/-- What the count of a message leaves: all that a step of the shim leaves, the spine, the recorder, and the queues for the
agent. -/
structure Counts (sh : Nat) (s t : State) : Prop extends ShimFrame sh s t where
  spine : t.spine = s.spine
  hall : t.hall = s.hall
  queues : s.canon = true → (t.shim sh).snpIn = (s.shim sh).snpIn ∧ (t.shim sh).rspIn = (s.shim sh).rspIn ∧
    (t.shim sh).datIn = (s.shim sh).datIn

section
variable {s t u : State} {sh : Nat} {m : Msg} {o : Outst}

theorem Counts.refl (sh : Nat) (s : State) : Counts sh s s where
  toShimFrame := .of_shims sh (.refl s) rfl rfl rfl rfl
  spine := rfl
  hall := rfl
  queues _ := ⟨rfl, rfl, rfl⟩

theorem Counts.trans (h : Counts sh s t) (g : Counts sh t u) : Counts sh s u where
  toShimFrame := h.toShimFrame.trans g.toShimFrame
  spine := g.spine.trans h.spine
  hall := g.hall.trans h.hall
  queues c := by
    obtain ⟨hs, hr, hd⟩ := h.queues c
    obtain ⟨gs, gr, gd⟩ := g.queues (h.keeps.canon c)
    exact ⟨gs.trans hs, gr.trans hr, gd.trans hd⟩

theorem counts_updShim {f : Shim → Shim}
    (h : ∀ x, (f x).snpIn = x.snpIn ∧ (f x).rspIn = x.rspIn ∧ (f x).datIn = x.datIn) : Counts sh s (s.updShim sh f) where
  toShimFrame := shimFrame_updShim ..
  spine := rfl
  hall := rfl
  queues c := by rw [State.shim_updShim_same sh f c]; exact h _

theorem counts_ackUpds (sh : Nat) (s : State) : Counts sh s (ackUpds sh s) where
  toShimFrame := shimFrame_ackUpds sh s
  spine := spine_ackUpds sh s
  hall := by rw [ackUpds_eq]; rfl
  queues c := by rw [shim_ackUpds sh c]; exact ⟨rfl, rfl, rfl⟩

/-- A shim with the first answer of a header counted: the home that did its work is one to drain. -/
def Shim.firstAnswered (x : Shim) (m : Msg) (o : Outst) : Shim :=
  let y := { x with outst := x.outst.erase o }
  match m.home with
  | some n =>
    if m.op != .rest && o.op.drains then
      { y with drainVec := setBit y.drainVec n true, drains := y.drains.map fun d => { d with bits := setBit d.bits n false } }
    else y
  | none => y

theorem firstAnswer_found (c : s.canon = true)
    (h : (s.shim sh).outst.find? (fun o => o.rqtx = m.rqtx && o.built.isSome) = some o) :
    firstAnswer sh m s = ackUpds sh (s.updShim sh (·.firstAnswered m o)) := by
  simp only [firstAnswer, h, Shim.firstAnswered]
  cases m.home with
  | none => rfl
  | some n =>
    cases m.op != .rest && o.op.drains with
    | true => simp only [if_true, updShim_updShim sh _ _ c]
    | false => rfl

theorem firstAnswer_unfound (h : (s.shim sh).outst.find? (fun o => o.rqtx = m.rqtx && o.built.isSome) = none) :
    firstAnswer sh m s = s := by
  simp only [firstAnswer, h]

theorem queues_firstAnswered (x : Shim) (m : Msg) (o : Outst) :
    (x.firstAnswered m o).snpIn = x.snpIn ∧ (x.firstAnswered m o).rspIn = x.rspIn ∧ (x.firstAnswered m o).datIn = x.datIn := by
  simp only [Shim.firstAnswered]
  split
  · split <;> exact ⟨rfl, rfl, rfl⟩
  · exact ⟨rfl, rfl, rfl⟩

theorem outst_firstAnswered (x : Shim) (m : Msg) (o : Outst) : (x.firstAnswered m o).outst = x.outst.erase o := by
  simp only [Shim.firstAnswered]
  split
  · split <;> rfl
  · rfl

theorem drainVec_firstAnswered {x : Shim} {n : Nat} (h : m.home = some n) :
    (x.firstAnswered m o).drainVec = if m.op ≠ .rest ∧ o.op.drains = true then setBit x.drainVec n true else x.drainVec := by
  simp only [Shim.firstAnswered, h, apply_ite Shim.drainVec, Bool.and_eq_true, bne_iff_ne, ne_eq]

theorem counts_firstAnswer (c : s.canon = true) (m : Msg) : Counts sh s (firstAnswer sh m s) := by
  cases h : (s.shim sh).outst.find? (fun o => o.rqtx = m.rqtx && o.built.isSome) with
  | none => rw [firstAnswer_unfound h]; exact .refl sh s
  | some o =>
    rw [firstAnswer_found c h]
    exact (counts_updShim (queues_firstAnswered · m o)).trans (counts_ackUpds ..)

/-- An answer of the tracker that an earlier stash held shows that the stash's data will not come (log 87). -/
def stashEnded (sh : Nat) (m : Msg) (s : State) : State :=
  match nodeSlice m.src with
  | some n => if m.op = .rest then s else s.updShim sh fun x => { x with stashes := x.stashes.erase (n, m.htrk) }
  | none => s

theorem counts_stashEnded (sh : Nat) (m : Msg) (s : State) : Counts sh s (stashEnded sh m s) := by
  simp only [stashEnded]
  split
  · split
    · exact .refl sh s
    · exact counts_updShim fun x => ⟨rfl, rfl, rfl⟩
  · exact .refl sh s

/-- The headers that a shim counts, and the slices that it is to drain, do not depend on its stashes. -/
theorem stashEnded_headers (c : s.canon = true) (m : Msg) :
    ((stashEnded sh m s).shim sh).outst = (s.shim sh).outst ∧ ((stashEnded sh m s).shim sh).drainVec = (s.shim sh).drainVec := by
  simp only [stashEnded]
  split
  · split
    · exact ⟨rfl, rfl⟩
    · rw [State.shim_updShim_same sh _ c]; exact ⟨rfl, rfl⟩
  · exact ⟨rfl, rfl⟩

theorem countAnswer_other (h : m.op.isFirst = false) : countAnswer sh m s = s := by
  simp only [countAnswer, h, Bool.not_false, if_true]

theorem countAnswer_first (h : m.op.isFirst = true) (hstash : (s.shim sh).stashData m = none)
    (hlate : (s.shim sh).lateAns m = none) : countAnswer sh m s = firstAnswer sh m (stashEnded sh m s) := by
  simp only [countAnswer, h, hstash, hlate, Bool.not_true, Bool.false_eq_true, if_false]
  rfl

theorem counts_countAnswer (c : s.canon = true) (hstash : (s.shim sh).stashData m = none)
    (hlate : (s.shim sh).lateAns m = none) : Counts sh s (countAnswer sh m s) := by
  have hended := counts_stashEnded sh m s
  cases h : m.op.isFirst with
  | false => rw [countAnswer_other h]; exact .refl sh s
  | true => rw [countAnswer_first h hstash hlate]; exact hended.trans (counts_firstAnswer (hended.keeps.canon c) m)

/-- The first answer of a counted header ends its count. -/
theorem countAnswer_found (c : s.canon = true) (hfirst : m.op.isFirst = true) (hstash : (s.shim sh).stashData m = none)
    (hlate : (s.shim sh).lateAns m = none)
    (h : (s.shim sh).outst.find? (fun o => o.rqtx = m.rqtx && o.built.isSome) = some o) :
    ((countAnswer sh m s).shim sh).outst = (s.shim sh).outst.erase o ∧
      ∀ n, m.home = some n → ((countAnswer sh m s).shim sh).drainVec =
        if m.op ≠ .rest ∧ o.op.drains = true then setBit (s.shim sh).drainVec n true else (s.shim sh).drainVec := by
  have ct := (counts_stashEnded sh m s).keeps.canon c
  obtain ⟨houtst, hvec⟩ := stashEnded_headers (sh := sh) c m
  rw [← houtst] at h ⊢
  rw [countAnswer_first hfirst hstash hlate, firstAnswer_found ct h, shim_ackUpds sh (State.canon_updShim sh _ ct),
    State.shim_updShim_same sh _ ct]
  exact ⟨outst_firstAnswered .., fun n hn => hvec ▸ drainVec_firstAnswered hn⟩

/-! ### A message for the agent (03 R94, R100) -/

/-- What an agent is sent is a snoop, a response or data (03 Tables 03-8 to 03-12). -/
theorem class_of_atAgent {caching : Bool} (h : notAtAgent caching m = false) : m.op.cls = 2 ∨ m.op.cls = 3 ∨ m.op.cls = 4 := by
  simp only [notAtAgent, Bool.not_eq_false', Bool.or_eq_true, decide_eq_true_eq, Bool.and_eq_true] at h
  obtain (((h | h) | h) | h) | ⟨-, (((h | h) | h) | h) | h⟩ := h
  case inr.inl.inl.inl.inl => exact .inl h
  all_goals rw [h]; decide

/-- A message goes to the end of the queue of its class (03 Table 03-15). -/
theorem enqueue_queues (x : Shim) (h : m.op.cls = 2 ∨ m.op.cls = 3 ∨ m.op.cls = 4) :
    (x.enqueue m).snpIn = x.snpIn ++ (if m.op.cls = 2 then [m] else []) ∧
      (x.enqueue m).rspIn = x.rspIn ++ (if m.op.cls = 3 then [m] else []) ∧
      (x.enqueue m).datIn = x.datIn ++ (if m.op.cls = 4 then [m] else []) := by
  rcases h with h | h | h <;> simp [Shim.enqueue, h]

theorem enqueue_headers (x : Shim) (m : Msg) : (x.enqueue m).outst = x.outst ∧ (x.enqueue m).drainVec = x.drainVec := by
  simp only [Shim.enqueue]
  split <;> exact ⟨rfl, rfl⟩

theorem toAgent_silenced {rx : Rx} (h : (s.shim sh).silenced = true) : toAgent sh rx s = s := by
  simp [toAgent, h]

/-- A message of no drain, for an agent that takes part, is counted and put in its queue. -/
theorem toAgent_enqueues {rx : Rx} (hsil : (s.shim sh).silenced = false) (hst : (s.shim sh).st ≠ .idle)
    (hcut : (s.shim sh).cut = false) (hlost : (s.shim sh).lostMsg rx.m = false) (hdrain : (s.shim sh).drainGrant rx.m = none) :
    toAgent sh rx s = (countAnswer sh rx.m s).updShim sh (·.enqueue rx.m) := by
  simp [toAgent, hsil, hst, hcut, hlost, hdrain]

/-- A good message that the part refuses is discarded with a protocol fault (03 Table 03-16). -/
theorem receive_refused {src : RxSrc} {inj : Nat → State → Bool × State} {raise : Nat → Detail → State → State}
    {reject : Msg → Bool} {f : Flits} {det : Detail} (go : Rx → State → State)
    (hi : ∀ k, inj k s = (false, s)) (hf : spells f m det) (hr : reject m = true) :
    receive src inj raise reject f go s = raise src.protocol det s := by
  have hd : ∀ (c : Bool) (k : Nat), (if c then injEach (inj src.data) k s else (false, s)) = (false, s) := by
    intro c k
    cases c
    · rfl
    · exact injEach_idle (hi _) k
  simp only [receive, hi, hd, hf, hr, if_true]

section
variable {f : Flits} (hsh : s.hasShim sh = true) (hi : (s.shim sh).assay.inj.count = 0) (hf : arrives f (agentNode sh) m)
include hsh hf

theorem exec_shimMeshMessage_full (hroom : (s.shim sh).roomIn m = false) : exec (.shimMeshMessage sh f) s = .next s := by
  obtain ⟨hdst, hspells⟩ := hf
  refine (atShim_built (shimMeshMessage sh f) hsh).trans (congrArg _ ?_)
  simp [shimMeshMessage, hdst, hspells, hroom]

include hi

theorem exec_shimMeshMessage_refused (hroom : (s.shim sh).roomIn m = true) (hno : notAtAgent (isCaching sh) m = true) :
    exec (.shimMeshMessage sh f) s = .next (raiseShim sh 0x42 (rxDetail f false) (s.takeMesh m)) := by
  obtain ⟨hdst, hspells⟩ := hf
  refine (atShim_built (shimMeshMessage sh f) hsh).trans (congrArg _ ?_)
  simp only [shimMeshMessage, hdst, hspells, hroom, bne_self_eq_false, Bool.not_true, Bool.false_eq_true, if_false]
  exact receive_refused _ (fun k => injShim_idle k hi) hspells hno

end

end

/-- Settles O40: the message that goes next has its equation for each queue; one for the agent is counted, then queued. -/
theorem shimInjectsAndDelivers : Obligations.ShimInjectsAndDelivers := by
  refine ⟨?_, ?_⟩
  · intro s sh _ hsh x
    have hexec {q : QMsg} {y : Shim} (h : x.inject = some (q, y)) : exec (.shimInject sh) s = .next ((s.setShim sh y).send q.m) :=
      (atShim_built (shimInject sh) hsh).trans (congrArg _ (shimInject_some h))
    refine ⟨fun q h => hexec (inject_waited h), fun h => ⟨fun q l hr => hexec (inject_rsp h hr),
      fun q l hr hd => hexec (inject_dat h hr hd), fun q l hr hd hw => hexec (inject_wbk h hr hd hw),
      fun q l hr hd hw hq hop => ?_, fun q hr hd hw hq => ?_, fun q l hr hd hw hq hop => ?_, fun hr hd hw hq => ?_⟩⟩
    · have hfind : x.reqQ.find? (fun q => q.m.op != .pfHint) = some q := by simp [hq, hop]
      refine hexec ?_
      rw [inject_req h hr hd hw, nextReq_of_find hfind, Option.map_some, hq, List.erase_cons_head]
    · exact hexec (by rw [inject_req h hr hd hw, nextReq_of_find hq, Option.map_some])
    · refine hexec ?_
      rw [inject_req h hr hd hw, nextReq_hints hop, hq, List.head?_cons, Option.map_some, List.erase_cons_head]
    · refine (atShim_built (shimInject sh) hsh).trans (congrArg _ ?_)
      have hnone : (s.shim sh).inject = none := by
        rw [inject_req h hr hd hw, nextReq_hints (by simp [hq]), hq]; rfl
      simp only [shimInject, hnone]
  · intro s sh f m c hsh hlt hi hf x
    refine ⟨exec_shimMeshMessage_full hsh hf, fun hroom => ⟨fun hno => ?_, fun hok hsil => ?_,
      fun hok hsil hst hcut hlost hdrain hstash hlate => ?_⟩⟩
    · have hframe := shimFrame_raiseShim sh 0x42 (rxDetail f false) (s.takeMesh m)
      exact ⟨_, exec_shimMeshMessage_refused hsh hi hf hroom hno,
        status_raiseShim (src := 0x42) sh _ ((keeps_takeMesh s m).canon c) (by decide), hframe.out, hframe.mesh, hframe.slices⟩
    · exact (exec_shimMeshMessage hsh hi hf hroom hok).trans (congrArg _ (toAgent_silenced hsil))
    · have ct : (s.takeMesh m).canon = true := (keeps_takeMesh s m).canon c
      have hcounts : Counts sh (s.takeMesh m) (countAnswer sh m (s.takeMesh m)) := counts_countAnswer ct hstash hlate
      have cu := hcounts.keeps.canon ct
      have hframe := hcounts.toShimFrame.trans (shimFrame_updShim sh _ (·.enqueue m))
      obtain ⟨hsnp, hrsp, hdat⟩ := hcounts.queues ct
      obtain ⟨qsnp, qrsp, qdat⟩ := enqueue_queues ((countAnswer sh m (s.takeMesh m)).shim sh) (class_of_atAgent hok)
      obtain ⟨houtst, hvec⟩ := enqueue_headers ((countAnswer sh m (s.takeMesh m)).shim sh) m
      refine ⟨_, (exec_shimMeshMessage hsh hi hf hroom hok).trans (congrArg _ (toAgent_enqueues hsil hst hcut hlost hdrain)),
        hframe.out, hframe.mesh, ?_⟩
      rw [State.shim_updShim_same sh _ cu, qsnp, qrsp, qdat, houtst, hvec, hsnp, hrsp, hdat]
      refine ⟨rfl, rfl, rfl, fun h => ?_, fun o hfirst hfind => countAnswer_found ct hfirst hstash hlate hfind, hframe.others ct,
        hframe.slices, hcounts.spine, hcounts.hall⟩
      rw [countAnswer_other h]

end Sys2Proof.Machine
end

section
/-! SUPPORT. Admissions (09 R243, R244): what a reading of the master map leaves, the end of a job's command, and the steps of an
admission. -/

namespace Sys2Proof.Machine

/-! ### Reading a spine table (15 R378, R399) -/

/-- What the checks of a spine table leave: all but the spine's fault state and the recorder. -/
structure TableRead (s t : State) : Prop extends BufferRead s t where
  shims : t.shims = s.shims
  mesh : t.mesh = s.mesh
  out : t.out = s.out

theorem TableRead.refl (s : State) : TableRead s s := ⟨.refl s, rfl, rfl, rfl⟩

theorem TableRead.trans {s t u : State} (h : TableRead s t) (g : TableRead t u) : TableRead s u where
  toBufferRead := h.toBufferRead.trans g.toBufferRead
  shims := g.shims.trans h.shims
  mesh := g.mesh.trans h.mesh
  out := g.out.trans h.out

theorem tableRead_injSpine (src : Nat) (s : State) : TableRead s (injSpine src s).2 := by
  refine ⟨bufferRead_injSpine src s, ?_, ?_, ?_⟩ <;> (rw [injSpine]; dsimp only; split <;> rfl)

theorem tableRead_raiseSpine (part : BitVec 9) (src : Nat) (d : Detail) (s : State) : TableRead s (raiseSpine part src d s) := by
  have htrigger := shimFrame_trigger 0 src s
  refine ⟨bufferRead_raiseSpine part src d s, ?_, ?_, ?_⟩ <;>
    simp [raiseSpine, feed_frame, shims_trigger, htrigger.mesh, htrigger.out]

theorem tableRead_tableCheck (table word : Nat) (s : State) : TableRead s (tableCheck table word s) := by
  have hinj := (tableRead_injSpine 0x67 s).trans (tableRead_injSpine 0x68 _)
  simp only [tableCheck]
  split
  · exact hinj.trans (tableRead_raiseSpine ..)
  · exact hinj

theorem tableRead_tableChecks (table count : Nat) (s : State) : TableRead s (tableChecks table count s) :=
  eachOf_inv (TableRead s) _ _ (fun word _ h => h.trans (tableRead_tableCheck table word _)) s (.refl s)

section
variable {s t : State} {sh : Nat}

theorem TableRead.shim (h : TableRead s t) (a : Nat) : t.shim a = s.shim a := congrArg (mget ({} : Shim) · a) h.shims

theorem TableRead.mapCopy (h : TableRead s t) : t.mapCopy = s.mapCopy := by
  obtain ⟨_, _, hspine⟩ := h.spine
  rw [State.mapCopy, hspine, h.keeps.par]
  rfl

/-- A shim with the master map loaded (09 R243 step 2). -/
def Shim.loaded (x : Shim) (bmap : Map BMapEntry) : Shim := { x with bmap, mapLoaded := true, upds := [] }

/-- The state without the map updates that are under way to a shim. -/
def State.noUpdates (s : State) (sh : Nat) : State :=
  { s with wires := s.wires.filter fun w => match w with | .mapUpdate k .. => k != sh | _ => true }

/-- The master map loaded: the table is read, the updates under way are gone, and the shim is written. -/
theorem loadMap_eq (sh : Nat) (s : State) :
    loadMap sh s = (tableChecks tblMaster 4096 (s.noUpdates sh)).setShim sh ((s.shim sh).loaded s.mapCopy) := by
  have hread := tableRead_tableChecks tblMaster 4096 (s.noUpdates sh)
  have hload : loadMap sh s = (tableChecks tblMaster 4096 (s.noUpdates sh)).updShim sh
      (·.loaded (tableChecks tblMaster 4096 (s.noUpdates sh)).mapCopy) := rfl
  rw [hload, State.updShim, hread.mapCopy, hread.shim]
  rfl

/-- What the loading of the map leaves: it reads the spine's jobs and its map, and writes the shim alone. -/
theorem loadMap_loads (c : s.canon = true) :
    ShimFrame sh s (loadMap sh s) ∧ (loadMap sh s).shim sh = (s.shim sh).loaded s.mapCopy ∧
      (loadMap sh s).fns = s.fns ∧ ∃ assay atc, (loadMap sh s).spine = { s.spine with assay, atc } := by
  have hread := tableRead_tableChecks tblMaster 4096 (s.noUpdates sh)
  have hkeeps := (Keeps.of_eq (s := s) (t := s.noUpdates sh) rfl rfl rfl rfl rfl rfl).trans hread.keeps
  rw [loadMap_eq]
  exact ⟨(ShimFrame.of_shims sh hkeeps hread.slices hread.mesh hread.out hread.shims).trans (shimFrame_setShim ..),
    shim_setShim sh _ (hkeeps.canon c), hread.fns, hread.spine⟩

end

/-! ### The end of a job (12 R307) -/

section
variable {s : State} {id f idx result : Nat} {code : BitVec 8} {kind : JobKind} {k : Taken}

/-- The end of a job writes the jobs, the functions and the recorder. -/
theorem finishJob_frame (id : Nat) (code : BitVec 8) (result : Nat) (s : State) :
    (finishJob id code result s).slices = s.slices ∧ (finishJob id code result s).shims = s.shims ∧
      (finishJob id code result s).out = s.out := by
  refine ⟨slices_finishJob .., (work_finishJob 0 ..).shims, ?_⟩
  simp only [finishJob, completeCmd]
  split
  · rfl
  · split
    · split
      · rfl
      · split
        · rfl
        · simp [feed_frame, State.dropJob]
    · rfl

/-- The end of a command's job: the command is completed, and its job is gone. -/
theorem finishJob_cmd {j : Job} (c : s.canon = true) (hj : s.job j.id = some j) (hcmd : j.cmd = some (f, idx))
    (hk : s.taken f idx = some k) (ho : k.orphan = false) :
    (finishJob j.id code result s).taken f idx = none ∧
      ((finishJob j.id code result s).fn f).done = (s.fn f).done ++ [k.doneWith code result] ∧
      (∀ i ∈ (finishJob j.id code result s).spine.jobs, i.id ≠ j.id) := by
  obtain ⟨hfn, -, -, hspine⟩ := completeCmd_fn (s := s.dropJob j.id) (code := code) (result := result)
    ((keeps_dropJob ..).canon c) hk ho
  simp only [finishJob, hj, hcmd, State.taken, hfn, hspine]
  refine ⟨Fn.completed_taken .., rfl, fun i hi => ?_⟩
  simpa using (List.mem_filter.1 hi).2

end

/-! ### The steps of an admission (09 R243, R244) -/

/-- An update of every slice writes slices alone. -/
theorem updSlices_eq (s : State) (g : Nat → Slice → Slice) : s.updSlices g = { s with slices := (s.updSlices g).slices } :=
  eachOf_inv (fun t => t = { s with slices := t.slices }) _ _ (fun n t h => by rw [h]; rfl) s rfl

/-- A caching agent's revision given to every slice (09 R243 step 4). -/
def giveRev (sh r : Nat) (s : State) : State :=
  if isCaching sh then s.updSlices fun _ sl => { sl with adm := mins sl.adm sh r } else s

theorem giveRev_eq (sh r : Nat) (s : State) : giveRev sh r s = { s with slices := (giveRev sh r s).slices } := by
  rw [giveRev]
  split
  · exact updSlices_eq ..
  · rfl

theorem rev_giveRev {s : State} (sh r : Nat) (c : s.canon = true) {n : Nat} (hn : n < s.par.nSlice) :
    ((giveRev sh r s).slice n).rev sh = if isCaching sh then some r else (s.slice n).rev sh := by
  rw [giveRev]
  split
  · rw [slice_updSlices _ c]
    exact (congrArg (Slice.rev · sh) (if_pos hn)).trans (mfind_mins_self ..)
  · rfl

/-- With no entry that waits for it a shim has nothing to acknowledge. -/
theorem shimAcksAll_none {s : State} {sh : Nat} (h : ∀ kv ∈ s.spine.master, ¬ sh ∈ kv.2.unacked) : shimAcksAll sh s = s := by
  have hnone : (s.spine.master.filter fun kv => kv.2.unacked.contains sh) = [] :=
    List.filter_eq_nil_iff.2 fun kv hkv => by simpa using h kv hkv
  simp only [shimAcksAll, hnone, List.map_nil, eachOf_nil]

section
variable {s : State} {f idx sh : Nat} {k : Taken} {j : Job}

/-- An admission's job is found by its number. -/
theorem job_of_admitJob (hnamed : s.jobsNamed = true) (h : s.admitJob sh = some j) : s.job j.id = some j :=
  job_of_mem hnamed (List.mem_of_find?_eq_some h)

/-- AGENT_ADMIT with legal operands of an idle shim of a block that is set up. -/
structure State.mayAdmit (s : State) (k : Taken) (sh : Nat) : Prop where
  agent : k.num 8 2 = sh
  built : s.agentBuilt sh = true
  func : k.num 10 1 < s.par.nFunc
  allow : k.num 11 1 < 8
  setup : s.spine.setup = true
  idle : (s.shim sh).st = .idle
  noRetire : s.retireJob sh = none
  noReset : (s.shim sh).resetPending = false

/-- Agent or shim in reset (09 R243 step 1, 17 R432). -/
theorem agentAdmit_inReset (h : s.mayAdmit k sh) {a r : Bool} (har : a = false ∨ r = false) :
    agentAdmit a r f idx k s = some (completeCmd f idx ccSTATE 0 s) := by
  obtain ⟨rfl, hbuilt, hfunc, hallow, hsetup, hidle, hnoRetire, hnoReset⟩ := h
  have hreset : (!a || !r) = true := by rcases har with rfl | rfl <;> simp
  have hstate : (!s.spine.setup || (s.shim (k.num 8 2)).st != .idle || (s.retireJob (k.num 8 2)).isSome || !a || !r ||
      (s.shim (k.num 8 2)).resetPending) = true := by
    simp only [hsetup, hidle, hnoRetire, hnoReset, Bool.or_false, Option.isSome_none, bne_self_eq_false, Bool.not_true,
      Bool.false_or, hreset]
  simp only [agentAdmit, hbuilt, Nat.not_le.2 hfunc, Nat.not_le.2 hallow, hstate, decide_false, Bool.not_true, Bool.or_self,
    Bool.false_eq_true, if_false, if_true]
  rfl

/-- A shim whose agent asks to join (09 R243 step 1). -/
def Shim.admitting (x : Shim) (func allow : Nat) : Shim := { x with st := .admitting, neg := 0, func, allow := BitVec.ofNat 3 allow }

theorem agentAdmit_starts (h : s.mayAdmit k sh) :
    agentAdmit true true f idx k s =
      some ((loadMap sh (s.updShim sh (·.admitting (k.num 10 1) (k.num 11 1)))).addJob (some (f, idx)) (.agentAdmit sh)).1 := by
  obtain ⟨rfl, hbuilt, hfunc, hallow, hsetup, hidle, hnoRetire, hnoReset⟩ := h
  simp only [agentAdmit, hbuilt, hsetup, hidle, hnoRetire, hnoReset, Nat.not_le.2 hfunc, Nat.not_le.2 hallow, decide_false,
    Bool.not_true, Option.isSome_none, bne_self_eq_false, Bool.or_self, Bool.false_eq_true, if_false]
  rfl

section
variable {cap : BitVec 3} (hst : (s.shim sh).st = .admitting) (hmap : (s.shim sh).mapLoaded = true) (hneg : (s.shim sh).neg = 0)
include hst hmap hneg

/-- The handshake of a shim with its map loaded, and no revision in common (09 R244). -/
theorem admitHandshake_fails (hr : commonRev cap (s.shim sh).allow s.lcpLimit = 0) :
    admitHandshake sh cap s = admitFails sh ccNOREV (s.updShim sh fun x => { x with cap }) := by
  simp only [admitHandshake, hst, hmap, hneg, bne_self_eq_false, Bool.not_true, Bool.or_self, Bool.false_eq_true, if_false]
  exact if_pos hr

/-- A shim with its agent's capabilities and revision (09 R243 step 4). -/
def Shim.agreed (x : Shim) (cap : BitVec 3) (r : Nat) : Shim := { x with cap := cap, neg := r }

/-- The handshake that finds a revision gives it to the slices. -/
theorem admitHandshake_agrees (c : s.canon = true) {r : Nat} (hr : commonRev cap (s.shim sh).allow s.lcpLimit = r) (h0 : r ≠ 0) :
    admitHandshake sh cap s =
      giveRev sh r (s.updShim sh (·.agreed cap r)) := by
  simp only [admitHandshake, hst, hmap, hneg, bne_self_eq_false, Bool.not_true, Bool.or_self, Bool.false_eq_true, if_false]
  refine (if_neg (hr ▸ h0)).trans ?_
  rw [updShim_updShim sh _ _ c]
  subst hr
  rfl

end

/-- The end of an admission's job, where it has one. -/
def endAdmit (sh : Nat) (code : BitVec 8) (result : Nat) (s : State) : State :=
  match s.admitJob sh with
  | some j => finishJob j.id code result s
  | none => s

theorem endAdmit_job {code : BitVec 8} {result : Nat} (h : s.admitJob sh = some j) :
    endAdmit sh code result s = finishJob j.id code result s := by
  simp only [endAdmit, h]

/-- A shim whose admission has failed (09 R244). -/
def Shim.unadmitted (x : Shim) : Shim := { x with st := .idle, neg := 0, mapLoaded := false, upds := [] }

/-- An admission that fails leaves its shim idle, and ends its command (09 R244). -/
theorem admitFails_ends (c : s.canon = true) (hnamed : s.jobsNamed = true) (hj : s.admitJob sh = some j)
    (hcmd : j.cmd = some (f, idx)) (hk : s.taken f idx = some k) (ho : k.orphan = false)
    (hacked : ∀ kv ∈ s.spine.master, ¬ sh ∈ kv.2.unacked) (code : BitVec 8) :
    ((admitFails sh code s).shim sh).st = .idle ∧ (admitFails sh code s).taken f idx = none ∧
      ((admitFails sh code s).fn f).done = (s.fn f).done ++ [k.doneWith code 0] ∧ (admitFails sh code s).slices = s.slices := by
  have hfails : admitFails sh code s = finishJob j.id code 0 (s.updShim sh Shim.unadmitted) :=
    (congrArg (endAdmit sh code 0) (shimAcksAll_none (s := s.updShim sh Shim.unadmitted) hacked)).trans (endAdmit_job hj)
  rw [hfails]
  have cu := State.canon_updShim sh Shim.unadmitted c
  obtain ⟨hslices, hshims, -⟩ := finishJob_frame j.id code 0 (s.updShim sh Shim.unadmitted)
  obtain ⟨htaken, hdone, -⟩ := finishJob_cmd (code := code) (result := 0) cu (job_of_admitJob (s := s) hnamed hj) hcmd hk ho
  refine ⟨?_, htaken, hdone, hslices⟩
  rw [State.shim, hshims]
  exact congrArg Shim.st (State.shim_updShim_same sh _ c)

/-- A shim with its agent admitted (09 R243 step 5). -/
def Shim.opened (x : Shim) : Shim := { x with st := .admitted, admittedPin := true }

theorem admitJob_loadMap (c : s.canon = true) : (loadMap sh s).admitJob sh = s.admitJob sh := by
  obtain ⟨-, -, -, assay, atc, hspine⟩ := loadMap_loads (sh := sh) c
  rw [State.admitJob, hspine]
  rfl

/-- The state in which an admission ends. -/
def agentOpened (sh : Nat) (s : State) : State :=
  ((loadMap sh s).updShim sh Shim.opened).emit (.admitted sh true (s.shim sh).neg)

theorem admitOpen_opens (c : s.canon = true) (hst : (s.shim sh).st = .admitting) (hneg : (s.shim sh).neg ≠ 0)
    (hj : s.admitJob sh = some j) :
    admitOpen sh s = finishJob j.id ccOK ((s.shim sh).cap.toNat + 256 * (s.shim sh).neg) (agentOpened sh s) := by
  have hno : ¬((s.shim sh).st != .admitting || (s.shim sh).neg = 0) = true := by simp [hst, hneg]
  exact (if_neg hno).trans (endAdmit_job ((admitJob_loadMap c).trans hj))

theorem agentOpened_frame (sh : Nat) (c : s.canon = true) :
    (agentOpened sh s).canon = true ∧ (agentOpened sh s).shim sh = ((s.shim sh).loaded s.mapCopy).opened ∧
      Out.admitted sh true (s.shim sh).neg ∈ (agentOpened sh s).out ∧ (agentOpened sh s).slices = s.slices ∧
      (agentOpened sh s).fns = s.fns ∧ (agentOpened sh s).spine.jobs = s.spine.jobs := by
  obtain ⟨hframe, hshim, hfns, assay, atc, hspine⟩ := loadMap_loads (sh := sh) c
  have cl := hframe.keeps.canon c
  exact ⟨(keeps_emit ..).canon (State.canon_updShim sh Shim.opened cl),
    (State.shim_updShim_same sh Shim.opened cl).trans (congrArg Shim.opened hshim),
    List.mem_append_right _ List.mem_cons_self, hframe.slices, hfns, (congrArg Spine.jobs hspine :)⟩

end

/-- Settles O30: an admission reads the map and writes its shim, and its end completes its command. -/
theorem admission : Obligations.Admission := by
  refine ⟨⟨?_, ?_, ?_⟩, ?_⟩
  · intro s f idx sh k c hmay harg hbuilt hfunc hallow hsetup hidle hnoRetire hnoReset
    have hadmit : (s.begin f idx).mayAdmit k sh := ⟨harg, hbuilt, hfunc, hallow, hsetup, hidle, hnoRetire, hnoReset⟩
    have cb : (s.begin f idx).canon = true := State.canon_updFn f _ c
    have cu := State.canon_updShim sh (·.admitting (k.num 10 1) (k.num 11 1)) cb
    obtain ⟨hframe, hshim, -, -⟩ := loadMap_loads (sh := sh) cu
    have hothers := (shimFrame_updShim sh (s.begin f idx) (·.admitting (k.num 10 1) (k.num 11 1))).trans hframe
    refine ⟨fun a r har => startCmd_runs hmay (agentAdmit_inReset hadmit har), _,
      startCmd_runs hmay (agentAdmit_starts hadmit), ?_, hothers.others cb, hothers.slices, _,
      List.mem_append_right _ List.mem_cons_self, rfl, rfl⟩
    refine hshim.trans ?_
    rw [State.shim_updShim_same sh _ cb]
    rfl
  · intro s sh cap c hsh hst hmap hneg h0
    have cu := State.canon_updShim sh (·.agreed cap (commonRev cap (s.shim sh).allow s.lcpLimit)) c
    have hexec := (atShim_built (admitHandshake sh cap) hsh).trans (congrArg _ (admitHandshake_agrees hst hmap hneg c rfl h0))
    refine ⟨_, hexec, ?_, fun n hn => rev_giveRev _ _ cu hn, fun a ha => ?_, ?_, ?_⟩ <;> rw [giveRev_eq]
    · exact State.shim_updShim_same sh (·.agreed cap _) c
    · exact State.shim_updShim_ne (·.agreed cap _) c ha
    · rfl
    · rfl
  · intro s f idx sh k j c hnamed hsh hst hneg hj hcmd hk ho
    obtain ⟨cu, hshim, hadmitted, hslices, hfns, hjobs⟩ := agentOpened_frame sh c
    obtain ⟨hslices', hshims', hout'⟩ :=
      finishJob_frame j.id ccOK ((s.shim sh).cap.toNat + 256 * (s.shim sh).neg) (agentOpened sh s)
    have hjob : (agentOpened sh s).job j.id = some j := by rw [State.job, hjobs]; exact job_of_admitJob hnamed hj
    have htaken : (agentOpened sh s).taken f idx = some k := by rw [State.taken, fn_of_fns hfns]; exact hk
    obtain ⟨hgone, hdone, hdropped⟩ :=
      finishJob_cmd (code := ccOK) (result := (s.shim sh).cap.toNat + 256 * (s.shim sh).neg) cu hjob hcmd htaken ho
    refine ⟨_, (atShim_built (admitOpen sh) hsh).trans (congrArg _ (admitOpen_opens c hst hneg hj)), ?_, ?_, hgone, ?_,
      hslices'.trans hslices, hdropped⟩
    · rw [State.shim, hshims']; exact hshim
    · rw [hout']; exact hadmitted
    · rw [hdone, fn_of_fns hfns]
  · intro s f idx sh k j c hnamed hsh hst hmap hneg hj hcmd hk ho hacked
    refine ⟨⟨_, (atShim_built (admitWaitTimeout sh) hsh).trans (congrArg _ (if_pos (by simp [hst, hmap, hneg]))),
      admitFails_ends c hnamed hj hcmd hk ho hacked _⟩, fun cap hr => ⟨_, (atShim_built (admitHandshake sh cap) hsh).trans
      (congrArg _ (admitHandshake_fails hst hmap hneg hr)), ?_⟩⟩
    exact admitFails_ends (State.canon_updShim sh _ c) hnamed hj hcmd hk ho hacked _

end Sys2Proof.Machine
end

section
/-! SUPPORT. What an agent's retire does at the slices writes no shim (09 R246 step 3): one lemma for each operation that the
work can reach, by the operation's branches. -/

namespace Sys2Proof.Machine

/-- An operation repeated. -/
@[simp] theorem shims_eachOf {α : Type} {l : List α} {f : α → State → State} {s : State}
    (h : ∀ x t, (f x t).shims = t.shims) : (eachOf l f s).shims = s.shims :=
  eachOf_inv (fun t => t.shims = s.shims) l f (fun x t ht => (h x t).trans ht) s rfl

/-- A choice between two operations. -/
@[simp] theorem shims_ite {p : Prop} [Decidable p] {s t : State} :
    (if p then s else t).shims = if p then s.shims else t.shims :=
  apply_ite ..

section
variable {s : State} {n t set way src array b : Nat} {a : PA} {k : Tracker}

/-! ### Records, modes and faults (13 R325, 15 R382, R395) -/

@[simp] theorem shims_updTrk {f : Tracker → Tracker} : (s.updTrk n t f).shims = s.shims := by simp [State.updTrk]

@[simp] theorem shims_feed {node : Nat} {r : HRec} : (s.feed node r).shims = s.shims := by simp [State.feed]

@[simp] theorem shims_setConds {f : Conds → Conds} : (s.setConds n f).shims = s.shims := by simp [State.setConds]

@[simp] theorem shims_endSequence : (endSequence s).shims = s.shims := by simp [endSequence]

@[simp] theorem shims_holdSlice : (holdSlice n s).shims = s.shims := by simp [holdSlice]

@[simp] theorem shims_raiseSlice {d : Detail} : (raiseSlice n src d s).shims = s.shims := by simp [raiseSlice]

@[simp] theorem shims_injSlice : (injSlice n src s).2.shims = s.shims := by simp [injSlice]

@[simp] theorem shims_startDisable : (startDisable n array way s).shims = s.shims := by simp [startDisable]

@[simp] theorem shims_countWay {d : Detail} : (countWay n array way d s).shims = s.shims := by simp [countWay]

@[simp] theorem shims_arrayError {d : Detail} : (arrayError n src array way d s).shims = s.shims := by simp [arrayError]

/-! ### Jobs and their commands (12 R307) -/

@[simp] theorem shims_dropJob {id : Nat} : (s.dropJob id).shims = s.shims := by simp [State.dropJob]

@[simp] theorem shims_updJob {id : Nat} {f : JobKind → JobKind} : (s.updJob id f).shims = s.shims := by simp [State.updJob]

@[simp] theorem shims_completeCmd {fn idx : Nat} {code : BitVec 8} {result : Nat} :
    (completeCmd fn idx code result s).shims = s.shims := by
  simp only [completeCmd]
  split <;> simp

@[simp] theorem shims_finishJob {id : Nat} {code : BitVec 8} {result : Nat} :
    (finishJob id code result s).shims = s.shims := by
  simp only [finishJob]
  repeat' split
  all_goals simp

@[simp] theorem shims_modeSetEnded : (modeSetEnded n t s).shims = s.shims := by
  refine shims_eachOf fun j u => ?_
  split
  · simp
  · rfl

@[simp] theorem shims_rangeLine {job : Nat} {f : JobKind → JobKind} : (rangeLine job f s).shims = s.shims := by
  simp only [rangeLine]
  split <;> simp

@[simp] theorem shims_endOrder {toP : Bool} : (endOrder k toP s).shims = s.shims := by
  simp only [endOrder]
  split <;> simp

@[simp] theorem shims_rangeWalked {job : Nat} : (rangeWalked job b s).shims = s.shims := by
  simp only [rangeWalked]
  split <;> simp

/-! ### Slots, the ledger and replacement -/

@[simp] theorem shims_bill {c : Bill} : (bill n c s).shims = s.shims := by simp [bill]

@[simp] theorem shims_useSlot : (useSlot n s).shims = s.shims := by simp [useSlot]

@[simp] theorem shims_useTray : (useTray n s).shims = s.shims := by simp [useTray]

@[simp] theorem shims_ownSlot : (ownSlot n s).shims = s.shims := by simp [ownSlot]

@[simp] theorem shims_addLat : (addLat n k s).shims = s.shims := by
  simp only [addLat]
  split <;> simp

@[simp] theorem shims_withPeer {f : Slice → Slice} : (withPeer n f s).shims = s.shims := by
  simp only [withPeer]
  split <;> simp

@[simp] theorem shims_countLine : (countLine n a s).shims = s.shims := by simp [countLine]

@[simp] theorem shims_countEvents {f : Fin} : (countEvents n k f s).shims = s.shims := by simp [countEvents]

@[simp] theorem shims_touchFine {c : Option (BitVec 4)} : (touchFine n c way s).shims = s.shims := by
  simp only [touchFine]
  split <;> simp

@[simp] theorem shims_touchLoaf {c : Option (BitVec 4)} : (touchLoaf n c way s).shims = s.shims := by
  simp only [touchLoaf]
  split <;> simp

@[simp] theorem shims_touchHlc {c : Option (BitVec 4)} : (touchHlc n c way s).shims = s.shims := by
  simp only [touchHlc]
  split <;> simp

/-! ### Array words and their mirrors (08 R224) -/

@[simp] theorem shims_unpin : (unpin n a s).shims = s.shims := by
  simp only [unpin]
  split <;> simp

@[simp] theorem shims_dropCopy : (dropCopy n a s).shims = s.shims := by
  simp only [dropCopy]
  split <;> simp

@[simp] theorem shims_mirrorSend {key : Bool × Nat × Nat} {w : Wire} : (mirrorSend n key w s).shims = s.shims := by
  simp [mirrorSend]

@[simp] theorem shims_writeFineW {x : Entry} : (writeFineW n set way x s).shims = s.shims := by
  simp only [writeFineW]
  split <;> simp

@[simp] theorem shims_freeFine : (freeFine n set way s).shims = s.shims := by simp [freeFine]

@[simp] theorem shims_notePoison : (notePoison a s).shims = s.shims := by simp [notePoison]

@[simp] theorem shims_countScrub {e : FineEntry} : (countScrub e s).shims = s.shims := by simp [countScrub]

@[simp] theorem shims_writeFine {e : FineEntry} : (writeFine n a way e s).shims = s.shims := by simp [writeFine]

@[simp] theorem shims_writeLoafW {x : Entry} : (writeLoafW n set way x s).shims = s.shims := by
  simp only [writeLoafW]
  split <;> simp

@[simp] theorem shims_writeLoaf {e : LoafEntry} : (writeLoaf n set way e s).shims = s.shims := by simp [writeLoaf]

@[simp] theorem shims_clearPres : (clearPres n a s).shims = s.shims := by
  simp only [clearPres]
  split <;> simp

@[simp] theorem shims_noteReport {groups : BitVec 16} {owner : Bool} : (noteReport n a groups owner s).shims = s.shims := by
  simp [noteReport]

@[simp] theorem shims_addToLoaf {groups : BitVec 16} {owner : Bool} : (addToLoaf n a way groups owner s).shims = s.shims := by
  simp [addToLoaf]

@[simp] theorem shims_evictLoaf : (evictLoaf n t set way s).shims = s.shims := by simp [evictLoaf]

@[simp] theorem shims_newLoaf {c : BitVec 4} {req : Option (BitVec 4)} : (newLoaf n t a c req s).1.shims = s.shims := by
  simp only [newLoaf]
  split <;> simp

@[simp] theorem shims_homeLoaf {w : Nat} {c : BitVec 4} : (homeLoaf n a w c s).1.shims = s.shims := by
  simp only [homeLoaf]
  split <;> simp

@[simp] theorem shims_holdInLoaf {w : Nat} {c : BitVec 4} {groups : BitVec 16} {owner : Bool} :
    (holdInLoaf n a w c groups owner s).shims = s.shims := by
  simp [holdInLoaf]

@[simp] theorem shims_evictFine : (evictFine n t set way s).shims = s.shims := by simp [evictFine]

@[simp] theorem shims_recordHold : (recordHold n k s).shims = s.shims := by simp [recordHold]

@[simp] theorem shims_unpinLost : (unpinLost n set s).shims = s.shims := by simp [unpinLost]

/-! ### Suspect entries and abandoned moves (02 R56 to R59, 08 R226) -/

@[simp] theorem shims_requestCensus {bs : List Nat} : (requestCensus n bs s).shims = s.shims := by simp [requestCensus]

@[simp] theorem shims_startPurge {flipped : List Mv} : (startPurge n flipped s).shims = s.shims := by simp [startPurge]

@[simp] theorem shims_endMoves : (endMoves n s).shims = s.shims := by
  simp only [endMoves]
  split <;> simp

@[simp] theorem shims_abandonMove : (abandonMove n b s).shims = s.shims := by
  simp only [abandonMove]
  split <;> simp

@[simp] theorem shims_abandonAll : (abandonAll n s).shims = s.shims := by
  simp only [abandonAll]
  split <;> simp

@[simp] theorem shims_noteFine {bs : List Nat} : (noteFine n set bs s).shims = s.shims := by simp [noteFine]

@[simp] theorem shims_noteLoaf {bs : List Nat} : (noteLoaf n set bs s).shims = s.shims := by simp [noteLoaf]

@[simp] theorem shims_suspectFine : (suspectFine n set s).shims = s.shims := by
  simp only [suspectFine]
  split <;> simp

@[simp] theorem shims_suspectLoaf : (suspectLoaf n set s).shims = s.shims := by
  simp only [suspectLoaf]
  split <;> simp

@[simp] theorem shims_checkFine {w : Nat} : (checkFine n set way w s).2.shims = s.shims := by simp [checkFine]

@[simp] theorem shims_checkLoaf {w : Nat} : (checkLoaf n set way w s).2.shims = s.shims := by simp [checkLoaf]

@[simp] theorem shims_fineTagError {w : Nat} {inj : Bool} : (fineTagError n set way w inj s).shims = s.shims := by
  simp [fineTagError]

@[simp] theorem shims_enterU : (enterU n a way s).shims = s.shims := by simp [enterU]

@[simp] theorem shims_fineDataError {w : Nat} {inj : Bool} : (fineDataError n set way w inj s).shims = s.shims := by
  simp [fineDataError]

@[simp] theorem shims_readFine : (readFine n set way s).shims = s.shims := by simp [readFine]

@[simp] theorem shims_loafDataError {w : Nat} {inj : Bool} : (loafDataError n set way w inj s).shims = s.shims := by
  simp [loafDataError]

@[simp] theorem shims_probeLoaf : (probeLoaf n set way s).shims = s.shims := by simp [probeLoaf]

/-! ### Ways for entries, and lines in P (02 R43, R44, 04 R136) -/

@[simp] theorem shims_demote {req : Option (BitVec 4)} : (demote n t set way req s).1.shims = s.shims := by
  simp only [demote]
  split
  · simp
  · have hnew := shims_newLoaf (n := n) (t := t) (a := (s.fineAt n set way).line set) (c := (s.fineAt n set way).colour)
      (req := req) (s := eachOf ((List.range 8).filter (s.loafLive n)) (probeLoaf n (loafSet ((s.fineAt n set way).line set))) s)
    split
    · next u lw hu => rw [hu] at hnew; simpa using hnew
    · next u hu => rw [hu] at hnew; split <;> simpa using hnew

@[simp] theorem shims_allocFine {mask : Nat → Bool} {tree : BitVec 4} {req : Option (BitVec 4)} {fuel : Nat} :
    (allocFine n t a mask tree req fuel s).1.shims = s.shims := by
  induction fuel generalizing mask s with
  | zero => rfl
  | succ fuel ih =>
    simp only [allocFine]
    split
    · rfl
    · next w hw =>
      split
      · simp
      · split
        · simp [ih]
        · have hdemote := shims_demote (n := n) (t := t) (set := fineSet a) (way := w) (req := req)
            (s := readFine n (fineSet a) w s)
          split
          · next u hu => rw [hu] at hdemote; simpa using hdemote
          · next u hu => rw [hu] at hdemote; simpa [ih] using hdemote

theorem shims_allocPool {pool : Option Pool} {kind : TKind} {stage : Stage} {u : State}
    (h : allocPool n t pool kind a stage s = some u) : u.shims = s.shims := by
  simp only [allocPool] at h
  split at h
  · split at h
    · cases h; rfl
    · cases h
  · cases h

theorem shims_allocWork {kind : TKind} {stage : Stage} {u : State} (h : allocWork n t kind a stage s = some u) :
    u.shims = s.shims := shims_allocPool h

@[simp] theorem shims_slotFor : (slotFor n t a s).1.shims = s.shims := by
  rw [slotFor]
  split
  · rfl
  · split
    · next u hu => exact shims_allocWork hu
    · rfl

@[simp] theorem shims_pump : (pump n t s).shims = s.shims := by
  simp only [pump]
  repeat' split
  all_goals simp

@[simp] theorem shims_urge : (urge n a s).shims = s.shims := by simp [urge]

@[simp] theorem shims_placeIn {c : BitVec 4} {g : FineEntry → FineEntry} : (placeIn n t a c g s).shims = s.shims := by
  simp only [placeIn]
  repeat' split
  all_goals simp

@[simp] theorem shims_placeP {c : BitVec 4} {l : List Nat} {v : BitVec 16} : (placeP n t a c l v s).shims = s.shims := by
  simp [placeP]

@[simp] theorem shims_poisonLine : (poisonLine n a s).shims = s.shims := by
  simp only [poisonLine]
  repeat' split
  all_goals simp

@[simp] theorem shims_evictedP {c : BitVec 4} {l : List EvLine} : (evictedP n t c l s).shims = s.shims := by simp [evictedP]

/-! ### Write data, and the merging buffer -/

@[simp] theorem shims_checkBuf : (checkBuf n t s).shims = s.shims := by
  simp only [checkBuf]
  repeat' split
  all_goals simp

@[simp] theorem shims_checkData {w : WriteData} : (checkData n t a w s).1.shims = s.shims := by
  simp only [checkData]
  repeat' split
  all_goals simp

@[simp] theorem shims_checkMb {e : Nat} : (checkMb n e s).shims = s.shims := by simp [checkMb]

@[simp] theorem shims_fillHlc {d : Line} {pfu : Bool} {req : Option (BitVec 4)} :
    (fillHlc n a way d pfu req s).shims = s.shims := by
  simp [fillHlc]

@[simp] theorem shims_updateHlc {w : WriteData} {c : BitVec 4} {req : Option (BitVec 4)} :
    (updateHlc n t a w c req s).shims = s.shims := by
  simp only [updateHlc]
  repeat' split
  all_goals simp

@[simp] theorem shims_mbWrite {w : WriteData} {c : BitVec 4} {req : Option (BitVec 4)} {who : BitVec 9} :
    (mbWrite n t a w c req who s).1.shims = s.shims := by
  simp only [mbWrite]
  repeat' split
  all_goals simp

@[simp] theorem shims_writeLine {w : WriteData} : (writeLine n t a w s).shims = s.shims := by
  simp only [writeLine]
  split
  · rfl
  · next k hk =>
    have hwrite : (if (s.slice n).mayWrite (k.pendWr.map (·.1)) a then
        mbWrite n t a (checkData n t a w s).2 k.colour k.req k.src (checkData n t a w s).1
        else ((checkData n t a w s).1, false)).1.shims = s.shims := by split <;> simp
    split
    · next u hu => rw [hu] at hwrite; split <;> simpa using hwrite
    · next u hu => rw [hu] at hwrite; simpa using hwrite

@[simp] theorem shims_retryEach {waiting : List PA} {l : List (PA × WriteData)} :
    (retryEach n t waiting l s).shims = s.shims := by
  induction l generalizing waiting s with
  | nil => rfl
  | cons p r ih =>
    simp only [retryEach]
    split
    · rfl
    · next k hk =>
      have hwrite : (if (s.slice n).mayWrite waiting p.1 then
          mbWrite n t p.1 (checkData n t p.1 p.2 s).2 k.colour k.req k.src (checkData n t p.1 p.2 s).1 else (s, false)).1.shims =
          s.shims := by split <;> simp
      split
      · next u hu => rw [hu] at hwrite; simpa [ih] using hwrite
      · simp [ih]

@[simp] theorem shims_retryTracker : (retryTracker n t s).shims = s.shims := by
  simp only [retryTracker]
  split <;> simp

@[simp] theorem shims_retryWrites : (retryWrites n s).shims = s.shims := by simp [retryWrites]

@[simp] theorem shims_checkWrite : (checkWrite n t s).shims = s.shims := by simp [checkWrite]

@[simp] theorem shims_writeBuf : (writeBuf n t s).shims = s.shims := by
  simp only [writeBuf]
  repeat' split
  all_goals simp

/-! ### Line data (04 R109, 07 R201) -/

@[simp] theorem shims_writeTray {p : TrayPlace} {x : TrayLine} : (writeTray n p x s).shims = s.shims := by simp [writeTray]

@[simp] theorem shims_readCw {p : TrayPlace} {i : Nat} : (readCw n p a i s).1.shims = s.shims := by
  simp only [readCw]
  repeat' split
  all_goals simp

@[simp] theorem shims_readCws {p : TrayPlace} {l : List Nat} : (readCws n p a l s).1.shims = s.shims := by
  induction l generalizing s with
  | nil => rfl
  | cons i r ih => simp [readCws, ih]

@[simp] theorem shims_trayRead {p : TrayPlace} : (trayRead n p a s).1.shims = s.shims := by simp [trayRead]

@[simp] theorem shims_fillBuf {d : Line} {poison : Bool} : (fillBuf n t d poison s).shims = s.shims := by simp [fillBuf]

@[simp] theorem shims_sendRead {node : BitVec 9} : (sendRead n t a node s).shims = s.shims := by simp [sendRead]

@[simp] theorem shims_readMemory : (readMemory n t a s).shims = s.shims := by
  unfold readMemory
  split
  · exact shims_updTrk.trans shims_raiseSlice
  · exact shims_updTrk.trans shims_raiseSlice
  · split
    · split
      · exact shims_updTrk
      · split
        · exact shims_fillBuf.trans (shims_trayRead.trans shims_useTray)
        · rfl
    · split
      · exact shims_sendRead
      · exact shims_updTrk
  · split
    · exact shims_sendRead
    · exact shims_updTrk

@[simp] theorem shims_retryRead : (retryRead n t s).shims = s.shims := by
  simp only [retryRead]
  split <;> simp

@[simp] theorem shims_retryReads : (retryReads n s).shims = s.shims := by simp [retryReads]

@[simp] theorem shims_overlay {base : Line} : (overlay n a base s).1.shims = s.shims := by
  simp only [overlay]
  repeat' split
  all_goals simp

@[simp] theorem shims_fetchLine {useHlc : Bool} : (fetchLine n t useHlc s).shims = s.shims := by
  simp only [fetchLine]
  repeat' split
  all_goals simp

@[simp] theorem shims_takeData : (takeData n t s).shims = s.shims := by
  simp only [takeData]
  repeat' split
  all_goals simp

/-! ### Rounds and answers (04 Table 04-8) -/

@[simp] theorem shims_giveAnswer {m : Msg} {wantSeal wantDat : Bool} :
    (giveAnswer n t m wantSeal wantDat s).shims = s.shims := by
  simp only [giveAnswer]
  split <;> simp

@[simp] theorem shims_giveLine {op : Op} {st : BitVec 3} : (giveLine n t k op st s).shims = s.shims := by simp [giveLine]

@[simp] theorem shims_performAtom : (performAtom n t s).1.shims = s.shims := by
  simp only [performAtom]
  repeat' split
  all_goals simp

@[simp] theorem shims_answer : (answer n t s).shims = s.shims := by
  simp only [answer]
  repeat' split
  all_goals simp

@[simp] theorem shims_answerP : (answerP n t s).1.shims = s.shims := by
  simp only [answerP]
  repeat' split
  all_goals simp

@[simp] theorem shims_afterRound : (afterRound n t s).shims = s.shims := by
  simp only [afterRound]
  repeat' split
  all_goals simp

@[simp] theorem shims_endRound : (endRound n t s).shims = s.shims := by
  simp only [endRound]
  split <;> simp

@[simp] theorem shims_closeEvict : (closeEvict n t s).shims = s.shims := by
  simp only [closeEvict]
  split
  · rfl
  · split
    · rfl
    · next k hk e he =>
      split
      · rfl
      · split
        · simp only [shims_ite, shims_evictedP, shims_updTrk, ite_self]
          exact (shims_eachOf fun l u => by split <;> simp).trans shims_updTrk
        · exact (shims_eachOf fun l u => by split <;> simp).trans shims_updTrk

/-! ### What a transaction leaves in the arrays -/

@[simp] theorem shims_writePoison {f : Fin} : (writePoison n t k f s).shims = s.shims := by
  simp only [writePoison]
  split <;> simp

@[simp] theorem shims_writeHold {f : Fin} {toP : Bool} : (writeHold n t k f toP s).shims = s.shims := by
  simp only [writeHold]
  repeat' split
  all_goals simp

@[simp] theorem shims_writeFin {f : Fin} {toP : Bool} : (writeFin n t k f toP s).shims = s.shims := by simp [writeFin]

theorem shims_enterAnvil {u : State} (h : enterAnvil n t k s = some u) : u.shims = s.shims := by
  simp only [enterAnvil] at h
  split at h
  · cases h
  · split at h
    · cases h
    · split at h
      · next v w e hr =>
        have hv : v.shims = s.shims := by
          split at hr
          · cases hr; rfl
          · obtain rfl := congrArg Prod.fst hr; simp
        cases h
        simp only [State.updSlice_shims]
        split <;> simp [hv]
      · cases h

@[simp] theorem shims_leaveEntry {f : Fin} {toP : Bool} : (leaveEntry n t k f toP s).shims = s.shims := by
  unfold leaveEntry
  split
  · next u hu => exact shims_enterAnvil hu
  · simp

@[simp] theorem shims_endSettle : (endSettle n t k s).shims = s.shims := by
  simp only [endSettle]
  repeat' split
  all_goals simp

@[simp] theorem shims_endScrub {agent : Nat} : (endScrub n t agent k s).shims = s.shims := by simp [endScrub]

@[simp] theorem shims_scrubLeft : (scrubLeft n a s).shims = s.shims := by
  simp only [scrubLeft]
  split <;> simp

@[simp] theorem shims_leavePoison : (leavePoison n t s).shims = s.shims := by
  simp only [leavePoison]
  split <;> simp

/-! ### Trackers that end -/

@[simp] theorem shims_freeIfDone : (freeIfDone n t s).shims = s.shims := by
  simp only [freeIfDone]
  split <;> simp

@[simp] theorem shims_completeFine : (completeFine n a s).shims = s.shims := by
  simp only [completeFine]
  split <;> simp

@[simp] theorem shims_completeLoaf {c : Census} {kept : List PA} {p : Nat × Nat} :
    (completeLoaf n c kept p s).shims = s.shims := by
  simp [completeLoaf]

@[simp] theorem shims_completeLine {c : Census} : (completeLine n a c s).shims = s.shims := by
  simp only [completeLine]
  split <;> simp

@[simp] theorem shims_censusLeft : (censusLeft n a s).shims = s.shims := by
  simp only [censusLeft]
  split <;> simp

@[simp] theorem shims_closeTrk : (closeTrk n t s).shims = s.shims := by
  simp only [closeTrk]
  repeat' split
  all_goals simp

@[simp] theorem shims_drainCheck : (drainCheck n s).shims = s.shims := by simp [drainCheck]

@[simp] theorem shims_endTrk : (endTrk n t s).shims = s.shims := by simp [endTrk]

@[simp] theorem shims_endDenied : (endDenied n t k s).shims = s.shims := by simp [endDenied]

@[simp] theorem shims_endInP {f : Fin} {owed : List (Nat × Owed)} : (endInP n t k f owed s).shims = s.shims := by simp [endInP]

@[simp] theorem shims_sealEnd {f : Fin × Bool} : (sealEnd n t k f s).shims = s.shims := by simp [sealEnd]

@[simp] theorem shims_roundTimedOut {who : List Nat} {f : Fin} : (roundTimedOut n t who f s).shims = s.shims := by
  simp only [roundTimedOut]
  split <;> simp

@[simp] theorem shims_settleRound : (settleRound n t s).shims = s.shims := by
  simp only [settleRound]
  split <;> simp

@[simp] theorem shims_linesTimedOut {who : List Nat} {l : List EvLine} {names : Round → List Nat} :
    (linesTimedOut n t k who l names s).shims = s.shims := by
  simp [linesTimedOut]

@[simp] theorem shims_settleGone : (settleGone n t s).shims = s.shims := by
  simp only [settleGone]
  repeat' split
  all_goals simp

@[simp] theorem shims_endTx : (endTx n t s).shims = s.shims := by
  simp only [endTx]
  split
  · rfl
  · simp only [shims_closeTrk, shims_addLat, shims_bill, shims_endOrder, shims_recordHold]
    split <;> simp

@[simp] theorem shims_advance : (advance n t s).shims = s.shims := by
  simp only [advance]
  split <;> simp

@[simp] theorem shims_sweep : (sweep n s).shims = s.shims := by simp [sweep]

@[simp] theorem shims_holdsEnded {l : List PA} : (holdsEnded n l s).shims = s.shims := by simp [holdsEnded]

/-! ### Censuses (02 R59 to R61) -/

@[simp] theorem shims_completionSteps {c : Census} : (completionSteps n c s).shims = s.shims := by simp [completionSteps]

@[simp] theorem shims_settleCensus {done : List Nat} : (settleCensus n done s).shims = s.shims := by
  simp only [settleCensus]
  repeat' split
  all_goals simp

@[simp] theorem shims_censusEnd {c : Census} : (censusEnd n c s).shims = s.shims := by
  simp only [censusEnd]
  repeat' split
  all_goals simp

@[simp] theorem shims_censusEnds : (censusEnds n s).shims = s.shims := by simp [censusEnds]

@[simp] theorem shims_goneCensus {agent : Nat} : (goneCensus n agent s).shims = s.shims := by simp [goneCensus]

@[simp] theorem shims_walkDone {agent : Nat} : (walkDone n t b agent s).shims = s.shims := by
  simp only [walkDone]
  split <;> simp

/-! ### An agent that is gone (09 R246 step 3) -/

@[simp] theorem shims_stashRefused {owed : List (Nat × Owed)} : (stashRefused n t owed s).shims = s.shims := by
  simp [stashRefused]

@[simp] theorem shims_goneSeal : (goneOwner.goneSeal n t s).shims = s.shims := by
  simp only [goneOwner.goneSeal]
  split
  · simp
  · rfl

@[simp] theorem shims_goneOwner : (goneOwner n t k s).shims = s.shims := by
  unfold goneOwner
  split
  · simp
  · simp
  · simp
  · split
    · rfl
    · split
      · split <;> simp
      · split
        · simp
        · split <;> simp
  · rfl

@[simp] theorem shims_goneOwn {agent : Nat} : (goneOwn n t agent k s).shims = s.shims := by simp [goneOwn]

@[simp] theorem shims_goneEvict {agent : Nat} {e : Evict} : (goneEvict n t agent k e s).shims = s.shims := by simp [goneEvict]

@[simp] theorem shims_goneTracker {agent : Nat} : (goneTracker n agent t s).shims = s.shims := by
  simp only [goneTracker]
  repeat' split
  all_goals simp

@[simp] theorem shims_goneSlice {agent : Nat} : (goneSlice agent n s).shims = s.shims := by simp [goneSlice]

/-! ### The relay, and the scrub (09 R246 step 4, 10 R261, R262) -/

@[simp] theorem shims_relaySettle : (relaySettle s).shims = s.shims := by simp [relaySettle]

@[simp] theorem shims_relayAck {e agent : Nat} : (relayAck e agent s).shims = s.shims := by
  simp only [relayAck]
  split <;> simp

@[simp] theorem shims_relayGone {agent : Nat} : (relayGone agent s).shims = s.shims := by simp [relayGone]

@[simp] theorem shims_startScrub {agent : Nat} : (startScrub n agent s).shims = s.shims := by simp [startScrub]

end

end Sys2Proof.Machine
end

section
/-! SUPPORT. Retires (09 R246, R252): the steps of a retire. -/

namespace Sys2Proof.Machine

section
variable {s : State} {f idx sh : Nat} {k : Taken} {j : Job}

/-! ### Step 1: the shim fenced, its agent taken from every map -/

/-- A shim whose retire begins. -/
def Shim.retiring (x : Shim) : Shim := { x.fence with retireDue := false }

/-- A caching agent's revision taken from every slice. -/
def takeRev (sh : Nat) (s : State) : State :=
  if isCaching sh then s.updSlices fun _ sl => { sl with adm := mdel sl.adm sh } else s

theorem takeRev_eq (sh : Nat) (s : State) : takeRev sh s = { s with slices := (takeRev sh s).slices } := by
  rw [takeRev]
  split
  · exact updSlices_eq ..
  · rfl

theorem rising_adm (h : s.tablesRise = true) (n : Nat) : mrising 0 (s.slice n).adm = true := by
  refine mget_all (p := fun x : Slice => mrising 0 x.adm = true) rfl (fun kv hkv => ?_) n
  simp only [State.tablesRise, Bool.and_eq_true, List.all_eq_true] at h
  obtain ⟨⟨⟨⟨hslices, -⟩, -⟩, -⟩, -⟩ := h
  have hslice := hslices kv hkv
  simp only [Slice.rising, Bool.and_eq_true] at hslice
  tauto

theorem rev_takeRev (c : s.canon = true) {n : Nat} (hn : n < s.par.nSlice) (hr : mrising 0 (s.slice n).adm = true)
    (hcaching : isCaching sh = true) : ((takeRev sh s).slice n).rev sh = none := by
  rw [takeRev, if_pos hcaching, slice_updSlices _ c]
  exact (congrArg (Slice.rev · sh) (if_pos hn)).trans (mfind_mdel_same sh hr)

theorem arr_takeRev (c : s.canon = true) (n : Nat) : ((takeRev sh s).slice n).arr = (s.slice n).arr := by
  rw [takeRev]
  split
  · rw [slice_updSlices _ c]
    split <;> rfl
  · rfl

/-- The state with a retire's job begun. -/
def retireBegun (sh : Nat) (cmd : Option (Nat × Nat)) (s : State) : State :=
  ((takeRev sh (ackUpds sh (s.updShim sh Shim.retiring))).addJob cmd (.agentRetire sh 0 cmd.isNone)).1

/-- With no admission to cancel, a retire's first step begins its job, and is recorded where no command asked for it. -/
theorem startRetire_eq (hj : s.admitJob sh = none) (cmd : Option (Nat × Nat)) :
    startRetire sh cmd s = if cmd.isNone then retireRec sh 0 0 (retireBegun sh cmd s) else retireBegun sh cmd s := by
  simp only [startRetire, hj]
  rfl

/-- What step 1 of a retire does: t is s with the shim fenced, its agent in no slice's map, and a job for the rest. -/
structure RetireStarted (sh : Nat) (cmd : Option (Nat × Nat)) (s t : State) : Prop where
  shim : ∃ upds, t.shim sh = { (s.shim sh).retiring with upds }
  others : ∀ a, a ≠ sh → t.shim a = s.shim a
  rev : ∀ n, n < s.par.nSlice → isCaching sh = true → (t.slice n).rev sh = none
  arr : ∀ n, (t.slice n).arr = (s.slice n).arr
  job : ∃ j ∈ t.spine.jobs, j.cmd = cmd ∧ j.kind = .agentRetire sh 0 cmd.isNone

theorem retireBegun_started (c : s.canon = true) (hr : ∀ n, mrising 0 (s.slice n).adm = true) (cmd : Option (Nat × Nat)) :
    RetireStarted sh cmd s (retireBegun sh cmd s) := by
  have cu := State.canon_updShim sh Shim.retiring c
  have hframe := (shimFrame_updShim sh s Shim.retiring).trans (shimFrame_ackUpds sh _)
  have hshim := shim_ackUpds sh cu
  rw [State.shim_updShim_same sh _ c] at hshim
  rw [retireBegun]
  generalize ackUpds sh (s.updShim sh Shim.retiring) = u at hframe hshim
  have cu := hframe.keeps.canon c
  have hslice (n : Nat) : u.slice n = s.slice n := slice_of_slices hframe.keeps.par hframe.slices n
  have hshims (a : Nat) : ((takeRev sh u).addJob cmd (.agentRetire sh 0 cmd.isNone)).1.shim a = u.shim a := by
    rw [takeRev_eq]; rfl
  refine ⟨⟨_, (hshims sh).trans hshim⟩, fun a ha => (hshims a).trans (hframe.others c a ha), fun n hn hcaching => ?_,
    fun n => ?_, _, List.mem_append_right _ List.mem_cons_self, rfl, rfl⟩
  · exact rev_takeRev cu (hframe.keeps.par ▸ hn) ((hslice n).symm ▸ hr n) hcaching
  · exact (arr_takeRev cu n).trans (congrArg Slice.arr (hslice n))

/-- A record changes nothing of what a retire has begun. -/
theorem RetireStarted.feed {cmd : Option (Nat × Nat)} {t : State} (h : RetireStarted sh cmd s t) (node : Nat) (r : HRec) :
    RetireStarted sh cmd s (t.feed node r) where
  shim := by rw [shim_feed]; exact h.shim
  others a ha := (shim_feed ..).trans (h.others a ha)
  rev n hn hcaching := by rw [slice_feed]; exact h.rev n hn hcaching
  arr n := by rw [slice_feed]; exact h.arr n
  job := by rw [spine_feed]; exact h.job

theorem startRetire_started (c : s.canon = true) (hr : ∀ n, mrising 0 (s.slice n).adm = true) (hj : s.admitJob sh = none)
    (cmd : Option (Nat × Nat)) : RetireStarted sh cmd s (startRetire sh cmd s) := by
  rw [startRetire_eq hj]
  split
  · exact (retireBegun_started c hr cmd).feed ..
  · exact retireBegun_started c hr cmd

/-- A fenced shim holds nothing to inject. -/
theorem RetireStarted.fenced {cmd : Option (Nat × Nat)} {t : State} (h : RetireStarted sh cmd s t) :
    (t.shim sh).st = .fenced ∧ (t.shim sh).retireDue = false ∧ (t.shim sh).reqQ = [] ∧ (t.shim sh).wbkQ = [] ∧
      ∀ d ∈ (t.shim sh).drains, d.sent = true ∧ d.held = none ∧ d.todo = [] := by
  obtain ⟨upds, hshim⟩ := h.shim
  rw [hshim]
  exact ⟨rfl, rfl, rfl, rfl, drains_fence _⟩

/-- AGENT_RETIRE of an agent that is not idle. -/
theorem agentRetire_starts (harg : k.num 8 2 = sh) (hbuilt : s.agentBuilt sh = true) (hst : (s.shim sh).st ≠ .idle)
    (hnone : s.retireJob sh = none) : agentRetire f idx k s = some (startRetire sh (some (f, idx)) s) := by
  subst harg
  simp [agentRetire, hbuilt, hst, hnone]

/-- A retire without a command, once one is due (R252). -/
theorem autoRetireStart_starts (hdue : (s.shim sh).retireDue = true) (hst : (s.shim sh).st = .fenced)
    (hnone : s.retireJob sh = none) : autoRetireStart sh s = startRetire sh none s :=
  if_pos (by simp [hdue, hst, hnone])

/-! ### Step 2: nothing more delivered -/

/-- A shim that delivers nothing more to its agent. -/
def Shim.silence (x : Shim) : Shim := { x with silenced := true, rspQ := [], datQ := [], snpIn := [], rspIn := [], datIn := [] }

/-- Step 2 silences the shim; the work of step 3 and the start of step 4 at the slices write no shim. -/
theorem retireSilence_shims (hjob : s.retireJob sh = some j) (hsil : (s.shim sh).silenced = false)
    (hpause : ∀ n, n < s.par.nSlice → s.paused n = false) : (retireSilence sh s).shims = (s.updShim sh Shim.silence).shims := by
  have hno : s.sliceNums.any s.paused = false := List.any_eq_false.2 fun n hn => by simp [hpause n (List.mem_range.1 hn)]
  simp only [retireSilence, hjob, hsil, hno, Option.isNone_some, Bool.or_self, Bool.false_eq_true, if_false]
  refine shims_ite.trans ?_
  rw [shims_eachOf fun _ _ => shims_startScrub, ite_self]
  exact (shims_eachOf fun _ _ => shims_goneSlice).trans shims_relayGone

/-! ### Step 5: the shim closed -/

/-- The scrub's scans gone from every slice. -/
def scrubsEnded (sh : Nat) (s : State) : State :=
  if isCaching sh then
    s.updSlices fun _ sl => { sl with scans := sl.scans.filter fun sc => !(sc.kind = .scrub && sc.agent = sh) }
  else s

theorem scrubsEnded_eq (sh : Nat) (s : State) : scrubsEnded sh s = { s with slices := (scrubsEnded sh s).slices } := by
  rw [scrubsEnded]
  split
  · exact updSlices_eq ..
  · rfl

/-- hk_admitted at 0, where it was 1. -/
def pinLow (sh : Nat) (s : State) : State := if (s.shim sh).admittedPin then s.emit (.admitted sh false 0) else s

theorem pinLow_eq (sh : Nat) (s : State) : pinLow sh s = { s with out := (pinLow sh s).out } := by
  rw [pinLow]
  split <;> rfl

/-- Levels that fall are noted at the spine alone. -/
theorem fallLevels_eq (s : State) : ∃ levels, fallLevels s = { s with spine := { s.spine with levels } } := by
  refine eachOf_inv (fun t => ∃ levels, t = { s with spine := { s.spine with levels } }) _ _ (fun node t h => ?_) s ⟨_, rfl⟩
  obtain ⟨levels, rfl⟩ := h
  exact ⟨_, rfl⟩

/-- The state in which a retire ends. -/
def agentClosed (sh : Nat) (s : State) : State := fallLevels ((pinLow sh (scrubsEnded sh s)).updShim sh Shim.close)

theorem agentClosed_frame (sh : Nat) (c : s.canon = true) :
    (agentClosed sh s).canon = true ∧ (agentClosed sh s).shim sh = (s.shim sh).close ∧
      ((s.shim sh).admittedPin = true → Out.admitted sh false 0 ∈ (agentClosed sh s).out) ∧ (agentClosed sh s).fns = s.fns ∧
      (agentClosed sh s).spine.jobs = s.spine.jobs ∧ (agentClosed sh s).spine.master = s.spine.master := by
  have hscrubs : Keeps s (scrubsEnded sh s) := .ite (keeps_eachOf _ _ (fun _ _ => keeps_updSlice ..) s) (.refl s)
  have hpin : Keeps (scrubsEnded sh s) (pinLow sh (scrubsEnded sh s)) := .ite (keeps_emit ..) (.refl _)
  have cp := (hscrubs.trans hpin).canon c
  have hshim : (pinLow sh (scrubsEnded sh s)).shim sh = s.shim sh := by rw [pinLow_eq, scrubsEnded_eq]; rfl
  have hspine : (pinLow sh (scrubsEnded sh s)).spine = s.spine := by rw [pinLow_eq, scrubsEnded_eq]
  have hfns : (pinLow sh (scrubsEnded sh s)).fns = s.fns := by rw [pinLow_eq, scrubsEnded_eq]
  have hlow (h : (s.shim sh).admittedPin = true) : Out.admitted sh false 0 ∈ (pinLow sh (scrubsEnded sh s)).out := by
    have hpinned : ((scrubsEnded sh s).shim sh).admittedPin = true := by rw [scrubsEnded_eq]; exact h
    rw [pinLow, if_pos hpinned]
    exact List.mem_append_right _ List.mem_cons_self
  obtain ⟨levels, hfall⟩ := fallLevels_eq ((pinLow sh (scrubsEnded sh s)).updShim sh Shim.close)
  rw [agentClosed, hfall]
  refine ⟨State.canon_updShim sh Shim.close cp, ?_, hlow, hfns, (congrArg Spine.jobs hspine :), (congrArg Spine.master hspine :)⟩
  exact (State.shim_updShim_same sh Shim.close cp).trans (congrArg Shim.close hshim)

/-- The end of a retire that a command asked for. -/
theorem retireScrubEnd_ends {placed : Nat} (hjob : s.retireJob sh = some j) (hkind : j.kind = .agentRetire sh placed false)
    (hsil : (s.shim sh).silenced = true) (hscrub : ∀ n, n < s.par.nSlice → s.scrubbed sh n = true) :
    retireScrubEnd sh s = finishJob j.id ccOK placed (shimAcksAll sh (agentClosed sh s)) := by
  obtain ⟨id, cmd, kind⟩ := j
  obtain rfl : kind = .agentRetire sh placed false := hkind
  have hall : s.sliceNums.all (s.scrubbed sh) = true := List.all_eq_true.2 fun n hn => hscrub n (List.mem_range.1 hn)
  simp only [retireScrubEnd, hjob, hsil, hall, Bool.not_true, Bool.and_false, Bool.or_self, Bool.false_eq_true, if_false]
  rfl

end

/-- Settles O31: step 1 leaves what R246 asks for, the work of steps 2 to 4 writes no shim but its own, and step 5 closes it. -/
theorem retirement : Obligations.Retirement := by
  refine ⟨fun s sh c hsh hnone hadmit hrises => ⟨?_, ?_⟩, fun s sh j c hnamed hsh hjob => ⟨?_, ?_⟩⟩
  · intro f idx k hmay harg hagent hst
    have hbuilt : (s.begin f idx).agentBuilt sh = true := Bool.and_eq_true_iff.2 ⟨hagent, hsh⟩
    have hstarted : RetireStarted sh (some (f, idx)) (s.begin f idx) _ :=
      startRetire_started (State.canon_updFn f _ c) (fun n => rising_adm hrises n) hadmit _
    obtain ⟨hfenced, -, hreq, hwbk, hdrains⟩ := hstarted.fenced
    exact ⟨_, startCmd_runs hmay (agentRetire_starts harg hbuilt hst hnone), hfenced, hreq, hwbk, hdrains, hstarted.rev,
      hstarted.arr, hstarted.others, hstarted.job⟩
  · intro hdue hst
    have hstarted := startRetire_started (cmd := none) c (rising_adm hrises) hadmit
    obtain ⟨hfenced, hdue', hreq, hwbk, -⟩ := hstarted.fenced
    exact ⟨_, (atShim_built (autoRetireStart sh) hsh).trans (congrArg _ (autoRetireStart_starts hdue hst hnone)), hfenced, hdue',
      hreq, hwbk, hstarted.rev, hstarted.others, hstarted.job⟩
  · intro hsil hpause
    have hshims := retireSilence_shims hjob hsil hpause
    have hshim (a : Nat) : (retireSilence sh s).shim a = (s.updShim sh Shim.silence).shim a := by rw [State.shim, hshims]; rfl
    refine ⟨_, atShim_built (retireSilence sh) hsh, ?_⟩
    rw [hshim sh, State.shim_updShim_same sh _ c]
    exact ⟨rfl, rfl, rfl, rfl, rfl, rfl, fun a ha => (hshim a).trans (State.shim_updShim_ne _ c ha)⟩
  · intro f idx placed k hcmd hkind hk ho hsil hscrub hacked
    obtain ⟨cu, hshim, hlow, hfns, hjobs, hmaster⟩ := agentClosed_frame sh c
    have hexec := retireScrubEnd_ends hjob hkind hsil hscrub
    rw [shimAcksAll_none (by rw [hmaster]; exact hacked)] at hexec
    obtain ⟨-, hshims', hout'⟩ := finishJob_frame j.id ccOK placed (agentClosed sh s)
    have hujob : (agentClosed sh s).job j.id = some j := by
      rw [State.job, hjobs]; exact job_of_mem hnamed (List.mem_of_find?_eq_some hjob)
    have hutaken : (agentClosed sh s).taken f idx = some k := by rw [State.taken, fn_of_fns hfns]; exact hk
    obtain ⟨hgone, hdone, hdropped⟩ := finishJob_cmd (code := ccOK) (result := placed) cu hujob hcmd hutaken ho
    have hclosed : (finishJob j.id ccOK placed (agentClosed sh s)).shim sh = (s.shim sh).close := by
      rw [State.shim, hshims']; exact hshim
    refine ⟨_, (atShim_built (retireScrubEnd sh) hsh).trans (congrArg _ hexec), hclosed, ?_⟩
    rw [hclosed, hout', hdone, fn_of_fns hfns]
    refine ⟨rfl, fun hpending => ?_, fun hpending => if_pos hpending, rfl, rfl, rfl, rfl, rfl, hgone, rfl, hlow, hdropped⟩
    have hassay : (s.shim sh).close.assay = { inj := (s.shim sh).assay.inj } := if_neg (by simp [hpending])
    rw [hassay]
    exact ⟨rfl, rfl, rfl⟩

end Sys2Proof.Machine
end

section
/-! SUPPORT. A fault of the spine (15 R382): the status bit it sets, and what it leaves. -/

namespace Sys2Proof.Machine

/-- A fault of the spine writes nothing of the spine but its fault state. -/
theorem spine_raiseSpine (part : BitVec 9) (src : Nat) (d : Detail) (s : State) :
    (raiseSpine part src d s).spine =
      { s.spine with assay := s.spine.assay.capture s.spine.clk 0x60 src (s.sevOf src) d } := by
  have hsev : (s.trigger src).sevOf src = s.sevOf src := by simp only [State.sevOf, State.src, spine_trigger]
  rw [raiseSpine, spine_feed, State.updSpine_spine, spine_trigger, hsev]

/-- The status bit of a source of the spine is set by its fault. -/
theorem noted_raiseSpine (part : BitVec 9) {src : Nat} (h : src - 0x60 < 64) (d : Detail) (s : State) :
    bit (raiseSpine part src d s).spine.assay.status (src - 0x60) = true := by
  rw [spine_raiseSpine]
  exact status_capture _ _ _ _ _ _ h

end Sys2Proof.Machine
end

section
/-! SUPPORT. O51: the translation invalidation relay (10 R256 to R265): messages that the spine takes, the acknowledgments that an
entry counts, and the TlbSyncs that wait. -/

namespace Sys2Proof.Machine

/-! ### A message taken by the spine -/

theorem rxSpine_good {want : Op} {f : Flits} {m : Msg} {s : State} (go : Msg → State → State) (hf : arrives f spineNode m)
    (hop : m.op = want) : rxSpine want f go s = go m s := by
  obtain ⟨hdst, hspells⟩ := hf
  have hshown : flitOp f = some want := hop ▸ flitOp_of_decode hspells
  simp [rxSpine, hdst, hshown, hspells]

/-! ### The table of entries -/

theorem mfind_filter {α : Type} (p : Nat × α → Bool) {lo : Nat} {m : Map α} (k : Nat) (hm : mrising lo m = true) :
    mfind (m.filter p) k = (mfind m k).filter fun v => p (k, v) := by
  cases h : mfind m k with
  | none =>
    refine Option.eq_none_iff_forall_ne_some.2 fun v hv => ?_
    have hmem := List.mem_of_mem_filter (mem_of_mfind hv)
    rw [mfind_of_mem hm hmem] at h
    cases h
  | some v =>
    cases hp : p (k, v) with
    | true =>
      rw [mfind_of_mem (mrising_filter p hm) (List.mem_filter.2 ⟨mem_of_mfind h, hp⟩), Option.filter_some, hp]
      rfl
    | false =>
      rw [Option.filter_some, hp]
      refine Option.eq_none_iff_forall_ne_some.2 fun w hw => ?_
      obtain ⟨hmem, hpw⟩ := List.mem_filter.1 (mem_of_mfind hw)
      obtain rfl : v = w := Option.some.inj (h.symm.trans (mfind_of_mem hm hmem))
      rw [hp] at hpw
      cases hpw

theorem rising_relay {s : State} (h : s.tablesRise = true) : mrising 0 s.spine.relay = true := by
  simp only [State.tablesRise, Spine.rising, Bool.and_eq_true] at h
  simp only [h]

/-- A listed entry is done with exactly when it is complete. -/
theorem relayDone_of_mem {sp : Spine} {e : Nat} {r : Relay} (hm : mrising 0 sp.relay = true) (h : (e, r) ∈ sp.relay) :
    sp.relayDone e = r.complete := by rw [Spine.relayDone, mfind_of_mem hm h]

/-! ### Grants and freed entries (R261, R264) -/

/-- The TlbSyncs that an entry not complete holds back. -/
def Spine.syncsLeft (sp : Spine) : List SyncWait := sp.syncs.filter fun w => !w.covers.all sp.relayDone

/-- A settled relay: an entry that is done with and that no TlbSync left waits for is listed no more. -/
theorem mfind_relaySettle {s : State} {e : Nat} (hm : mrising 0 s.spine.relay = true) (hdone : s.spine.relayDone e = true)
    (hleft : ∀ w ∈ s.spine.syncsLeft, ¬ e ∈ w.covers) : mfind (relaySettle s).spine.relay e = none := by
  have hfree : (s.spine.syncsLeft.any fun w => w.covers.contains e) = false := by simpa using hleft
  have hrelay : (relaySettle s).spine.relay =
      s.spine.relay.filter fun kv => !kv.2.complete || s.spine.syncsLeft.any fun w => w.covers.contains kv.1 := rfl
  rw [hrelay, mfind_filter _ e hm]
  rw [Spine.relayDone] at hdone
  cases h : mfind s.spine.relay e with
  | none => rfl
  | some r =>
    rw [h] at hdone
    simp only [Option.filter_some, hfree, (hdone : r.complete = true), Bool.not_true, Bool.or_self, Bool.false_eq_true, if_false]

theorem mem_mesh_relaySettle {s : State} {m : Msg} (h : m ∈ s.mesh) : m ∈ (relaySettle s).mesh := List.mem_append_left _ h

/-! ### One acknowledgment (R261) -/

section
variable {s : State} {e a : Nat} {r : Relay}

/-- The state in which an entry is as given. -/
def State.setRelay (s : State) (e : Nat) (r : Relay) : State := s.updSpine fun sp => { sp with relay := mins sp.relay e r }

theorem mfind_setRelay (s : State) (e : Nat) (r : Relay) : mfind (s.setRelay e r).spine.relay e = some r := mfind_mins_self ..

/-- An entry without an acknowledgment of agent a. -/
def Relay.acked (r : Relay) (a : Nat) : Relay :=
  { r with targets := r.targets.filter (· != a), complete := (r.targets.filter (· != a)).isEmpty }

theorem relayAck_unlisted (h : mfind s.spine.relay e = none) : relayAck e a s = s := by simp [relayAck, h]

theorem relayAck_listed (h : mfind s.spine.relay e = some r) :
    relayAck e a s = if (r.acked a).complete then relaySettle (s.setRelay e (r.acked a)) else s.setRelay e (r.acked a) := by
  simp only [relayAck, h]
  rfl

theorem mem_mesh_relayAck {m : Msg} (h : m ∈ s.mesh) : m ∈ (relayAck e a s).mesh := by
  cases hr : mfind s.spine.relay e with
  | none => rwa [relayAck_unlisted hr]
  | some r =>
    rw [relayAck_listed hr]
    split
    · exact mem_mesh_relaySettle h
    · exact h

/-! ### The acknowledgments of several agents -/

/-- While an agent that has not acknowledged is left, the entry goes on without those that have. -/
theorem eachOf_relayAck_waits {gone : List Nat} {t : Nat} (h : mfind s.spine.relay e = some r) (hc : r.complete = false)
    (ht : t ∈ r.targets) (hgone : ¬ t ∈ gone) :
    ∃ relay, eachOf gone (relayAck e) s = s.updSpine (fun sp => { sp with relay }) ∧
      mfind relay e = some { r with targets := r.targets.filter fun t => !gone.contains t } := by
  induction gone generalizing s r with
  | nil => exact ⟨s.spine.relay, rfl, by simpa using h⟩
  | cons a gone ih =>
    obtain ⟨hta, hgone⟩ := not_or.1 (mt List.mem_cons.2 hgone)
    have ht' : t ∈ (r.acked a).targets := List.mem_filter.2 ⟨ht, by simpa using hta⟩
    have hc' : (r.acked a).complete = false := List.isEmpty_eq_false_iff.2 (List.ne_nil_of_mem ht')
    obtain ⟨relay, hrest, hfind⟩ := ih (mfind_setRelay s e (r.acked a)) hc' ht' hgone
    refine ⟨relay, ?_, ?_⟩
    · rw [eachOf_cons, relayAck_listed h, if_neg (by simp [hc']), hrest]
      rfl
    · have hboth : ((r.targets.filter (· != a)).filter fun t => !gone.contains t) =
          r.targets.filter fun t => !(a :: gone).contains t := by
        rw [List.filter_filter]
        refine List.filter_congr fun x _ => ?_
        by_cases hx : x = a <;> simp [hx]
      rw [hfind, ← hboth]
      exact congrArg (fun c => some { r with
        targets := (r.targets.filter (· != a)).filter fun t => !gone.contains t, complete := c }) (hc'.trans hc.symm)

theorem eachOf_relayAck_unlisted (gone : List Nat) (h : mfind s.spine.relay e = none) : eachOf gone (relayAck e) s = s :=
  eachOf_fixed fun _ _ => relayAck_unlisted h

/-- Every agent that an entry waits on has acknowledged, and no TlbSync waits for the entry: it is freed. -/
theorem eachOf_relayAck_frees {gone : List Nat} (h : mfind s.spine.relay e = some r) (hm : mrising 0 s.spine.relay = true)
    (hsync : ∀ w ∈ s.spine.syncs, ¬ e ∈ w.covers) (hne : gone ≠ []) (hall : ∀ t ∈ r.targets, t ∈ gone) :
    mfind (eachOf gone (relayAck e) s).spine.relay e = none := by
  induction gone generalizing s r with
  | nil => exact absurd rfl hne
  | cons a gone ih =>
    have hm' : mrising 0 (s.setRelay e (r.acked a)).spine.relay = true := mrising_mins _ (Nat.zero_le _) hm
    rw [eachOf_cons, relayAck_listed h]
    have hrest : ∀ t ∈ (r.acked a).targets, t ∈ gone := by
      intro t ht
      obtain ⟨ht, hta⟩ := List.mem_filter.1 ht
      exact (List.mem_cons.1 (hall t ht)).resolve_left (by simpa using hta)
    split
    · next hc =>
      have hfreed : mfind (relaySettle (s.setRelay e (r.acked a))).spine.relay e = none := by
        refine mfind_relaySettle hm' ?_ fun w hw => hsync w (List.mem_of_mem_filter hw)
        rw [Spine.relayDone, mfind_setRelay]
        exact hc
      rw [eachOf_relayAck_unlisted gone hfreed, hfreed]
    · next hc =>
      refine ih (mfind_setRelay s e (r.acked a)) hm' hsync ?_ hrest
      rintro rfl
      refine hc (List.isEmpty_iff.2 (List.eq_nil_iff_forall_not_mem.2 fun t ht => ?_))
      cases hrest t ht

end

/-! ### TLB_INV (R259) -/

section
variable {s : State} {f : Flits} {m : Msg} {e : Nat}

/-- The agents that a TlbInvReq goes to: the other members of its issuer's domain. -/
def State.invTargets (s : State) (m : Msg) : List Nat :=
  (s.domain (s.shim m.src.toNat).func).filter (· != m.src.toNat)

/-- The entry that a TlbInvReq takes. -/
def State.invRelay (s : State) (m : Msg) : Relay :=
  { issuer := m.src.toNat, rqtx := m.rqtx, payload := bits m.data 0 256, poison := m.poison, targets := s.invTargets m }

/-- The acknowledgment of a TlbInvReq with the entry it took. -/
def invAck (m : Msg) (e : Nat) : Msg :=
  { op := .tlbAck, src := spineNode, dst := m.src, htrk := BitVec.ofNat 8 e, rqtx := m.rqtx }

/-- The snoop of a TlbInvReq to an agent. -/
def invSnoop (m : Msg) (e t : Nat) : Msg :=
  { op := .tlbInvSnp, src := spineNode, dst := agentNode t, htrk := BitVec.ofNat 8 e, tid := m.tid
    data := (bits m.data 0 256).setWidth 512, be := 0xFFFF, poison := m.poison }

/-- The state in which a TlbInvReq has its entry, its acknowledgment and its snoops. -/
def State.invSent (s : State) (m : Msg) (e : Nat) : State :=
  (((s.takeMesh m).setRelay e (s.invRelay m)).send (invAck m e)).sendAll ((s.invTargets m).map (invSnoop m e))

theorem exec_tlbInv_waits (hf : arrives f spineNode m) (hop : m.op = .tlbInvReq)
    (h : ∀ e, e < 64 → (mfind s.spine.relay e).isSome = true) : exec (.tlbInv f) s = .next s := by
  have hnone : ((List.range 64).find? fun e => (mfind s.spine.relay e).isNone) = none := by
    refine List.find?_eq_none.2 fun e he => ?_
    simpa [Option.ne_none_iff_isSome] using h e (List.mem_range.1 he)
  refine congrArg Host.Outcome.next ((rxSpine_good _ hf hop).trans ?_)
  simp only [hnone]

/-- A TlbInvReq that finds an entry: it is sent, and the targets whose messages are discarded count as having acknowledged; so does
the issuer where there is no target. -/
theorem exec_tlbInv_takes (hf : arrives f spineNode m) (hop : m.op = .tlbInvReq)
    (he : ((List.range 64).find? fun e => (mfind s.spine.relay e).isNone) = some e) (hneg : (s.shim m.src.toNat).neg ≠ 0) :
    exec (.tlbInv f) s = .next
      (let u := eachOf ((s.invTargets m).filter fun t => (s.shim t).silenced) (relayAck e) (s.invSent m e)
       if (s.invTargets m).isEmpty then relayAck e m.src.toNat u else u) := by
  refine congrArg Host.Outcome.next ((rxSpine_good _ hf hop).trans ?_)
  simp only [he]
  exact if_neg hneg

/-- With a target that is not silenced the entry waits for all such targets. -/
theorem tlbInv_waits_for_targets (hf : arrives f spineNode m) (hop : m.op = .tlbInvReq)
    (he : ((List.range 64).find? fun e => (mfind s.spine.relay e).isNone) = some e) (hneg : (s.shim m.src.toNat).neg ≠ 0)
    {t : Nat} (ht : t ∈ s.invTargets m) (hlive : (s.shim t).silenced = false) :
    ∃ relay, exec (.tlbInv f) s = .next ((s.invSent m e).updSpine fun sp => { sp with relay }) ∧
      mfind relay e = some { s.invRelay m with targets := (s.invTargets m).filter fun t => !(s.shim t).silenced } := by
  have hentry : mfind (s.invSent m e).spine.relay e = some (s.invRelay m) := mfind_setRelay ..
  obtain ⟨relay, hacks, hfind⟩ := eachOf_relayAck_waits (gone := (s.invTargets m).filter fun t => (s.shim t).silenced)
    hentry rfl ht (by simp [hlive])
  have hsome : (s.invTargets m).isEmpty = false := by simpa using List.ne_nil_of_mem ht
  refine ⟨relay, ?_, hfind.trans ?_⟩
  · rw [exec_tlbInv_takes hf hop he hneg, hacks]
    simp only [hsome, Bool.false_eq_true, if_false]
  · have hleft : ((s.invRelay m).targets.filter fun t => !((s.invTargets m).filter fun t => (s.shim t).silenced).contains t) =
        (s.invTargets m).filter fun t => !(s.shim t).silenced := by
      refine List.filter_congr fun x hx => ?_
      have hx : x ∈ s.invTargets m := hx
      simp [hx]
    rw [hleft]

/-- With every target silenced the entry is free again at once. -/
theorem tlbInv_frees (hrise : s.tablesRise = true) (hf : arrives f spineNode m) (hop : m.op = .tlbInvReq)
    (he : ((List.range 64).find? fun e => (mfind s.spine.relay e).isNone) = some e) (hneg : (s.shim m.src.toNat).neg ≠ 0)
    (hsil : ∀ t ∈ s.invTargets m, (s.shim t).silenced = true) (hsync : ∀ w ∈ s.spine.syncs, ¬ e ∈ w.covers) :
    ∃ u, exec (.tlbInv f) s = .next u ∧ mfind u.spine.relay e = none ∧ invAck m e ∈ u.mesh := by
  have hentry : mfind (s.invSent m e).spine.relay e = some (s.invRelay m) := mfind_setRelay ..
  have hrising : mrising 0 (s.invSent m e).spine.relay = true := mrising_mins _ (Nat.zero_le _) (rising_relay hrise)
  have hack : invAck m e ∈ (s.invSent m e).mesh := by simp [State.invSent, State.sendAll, State.send]
  have hgone : ((s.invTargets m).filter fun t => (s.shim t).silenced) = s.invTargets m := List.filter_eq_self.2 hsil
  rw [exec_tlbInv_takes hf hop he hneg, hgone]
  by_cases hnone : s.invTargets m = []
  · refine ⟨_, rfl, ?_⟩
    simp only [hnone, eachOf_nil, List.isEmpty_nil, if_true]
    refine ⟨eachOf_relayAck_frees (gone := [m.src.toNat]) hentry hrising hsync (List.cons_ne_nil _ _) fun t ht => ?_,
      mem_mesh_relayAck hack⟩
    rw [State.invRelay, hnone] at ht
    cases ht
  · refine ⟨_, rfl, ?_⟩
    simp only [List.isEmpty_iff, hnone, if_false]
    exact ⟨eachOf_relayAck_frees hentry hrising hsync hnone fun _ ht => ht,
      eachOf_inv (fun u => invAck m e ∈ u.mesh) _ _ (fun _ _ => mem_mesh_relayAck) _ hack⟩

end

/-! ### TLB_ACK (R261) -/

section
variable {s : State} {f : Flits} {m : Msg} {r : Relay}

theorem exec_tlbAck_counts (hf : arrives f spineNode m) (hop : m.op = .tlbAck) (h : mfind s.spine.relay m.htrk.toNat = some r)
    (hsrc : m.src.toNat ∈ r.targets) :
    exec (.tlbAck f) s = .next (relayAck m.htrk.toNat m.src.toNat (s.takeMesh m)) := by
  refine congrArg Host.Outcome.next ((rxSpine_good _ hf hop).trans ?_)
  have h' : mfind (s.takeMesh m).spine.relay m.htrk.toNat = some r := h
  simp only [h']
  exact if_pos (by simpa using hsrc)

theorem exec_tlbAck_stray (hf : arrives f spineNode m) (hop : m.op = .tlbAck) (h : mfind s.spine.relay m.htrk.toNat = none) :
    exec (.tlbAck f) s = .next (raiseSpine spineNode 0x60 {} (s.takeMesh m)) := by
  refine congrArg Host.Outcome.next ((rxSpine_good _ hf hop).trans ?_)
  have h' : mfind (s.takeMesh m).spine.relay m.htrk.toNat = none := h
  simp only [h']

/-- The last acknowledgment frees the entry and grants the one TlbSync, which waited for it alone. -/
theorem tlbAck_last (hrise : s.tablesRise = true) (hf : arrives f spineNode m) (hop : m.op = .tlbAck)
    (h : mfind s.spine.relay m.htrk.toNat = some r) (ht : r.targets = [m.src.toNat]) {w : SyncWait} (hw : s.spine.syncs = [w])
    (hcov : w.covers = [m.htrk.toNat]) :
    ∃ u, exec (.tlbAck f) s = .next u ∧ mfind u.spine.relay m.htrk.toNat = none ∧ u.spine.syncs = [] ∧
      u.mesh = s.mesh.erase m ++ [{ op := .grant, src := spineNode, dst := agentNode w.agent, rqtx := w.rqtx }] := by
  have hcomplete : (r.acked m.src.toNat).complete = true := by simp [Relay.acked, ht]
  let v := (s.takeMesh m).setRelay m.htrk.toNat (r.acked m.src.toNat)
  have hdone : v.spine.relayDone m.htrk.toNat = true := by
    rw [Spine.relayDone, mfind_setRelay]
    exact hcomplete
  have hsyncs : v.spine.syncs = [w] := hw
  have hall : w.covers.all v.spine.relayDone = true := by simp [hcov, hdone]
  have hleft : v.spine.syncsLeft = [] := by simp [Spine.syncsLeft, hsyncs, hall]
  have hgranted : v.spine.syncs.filter (fun w => w.covers.all v.spine.relayDone) = [w] := by simp [hsyncs, hall]
  have hexec : exec (.tlbAck f) s = .next (relaySettle v) := by
    rw [exec_tlbAck_counts hf hop h (by simp [ht]), relayAck_listed (s := s.takeMesh m) h, if_pos hcomplete]
  refine ⟨_, hexec, mfind_relaySettle (mrising_mins _ (Nat.zero_le _) (rising_relay hrise)) hdone (by simp [hleft]), hleft, ?_⟩
  exact congrArg (fun l : List SyncWait => s.mesh.erase m ++ l.map fun w =>
    ({ op := .grant, src := spineNode, dst := agentNode w.agent, rqtx := w.rqtx } : Msg)) hgranted

/-- An acknowledgment that is not the last leaves the entry waiting. -/
theorem tlbAck_next (hf : arrives f spineNode m) (hop : m.op = .tlbAck) (h : mfind s.spine.relay m.htrk.toNat = some r) {a : Nat}
    (ht : r.targets = [m.src.toNat, a]) (ha : a ≠ m.src.toNat) :
    exec (.tlbAck f) s =
      .next ((s.takeMesh m).setRelay m.htrk.toNat { r with targets := [a], complete := false }) := by
  have hacked : r.acked m.src.toNat = { r with targets := [a], complete := false } := by simp [Relay.acked, ht, ha]
  rw [exec_tlbAck_counts hf hop h (by simp [ht]), relayAck_listed (s := s.takeMesh m) h, hacked]
  rfl

end

/-! ### TLB_SYNC (R264) -/

section
variable {s : State} {f : Flits} {m : Msg}

/-- The entries of a TlbSync's agent. -/
def State.syncCovers (s : State) (m : Msg) : List Nat :=
  (s.spine.relay.filter fun kv => kv.2.issuer = m.src.toNat).map (·.1)

theorem mem_syncCovers {e : Nat} : e ∈ s.syncCovers m ↔ ∃ r, (e, r) ∈ s.spine.relay ∧ r.issuer = m.src.toNat := by
  simp [State.syncCovers]

theorem exec_tlbSync (hf : arrives f spineNode m) (hop : m.op = .tlbSync) :
    exec (.tlbSync f) s = .next (if (s.syncCovers m).all s.spine.relayDone then
        (s.takeMesh m).send { op := .grant, src := spineNode, dst := m.src, rqtx := m.rqtx }
      else (s.takeMesh m).updSpine fun sp => { sp with
        syncs := sp.syncs ++ [{ agent := m.src.toNat, rqtx := m.rqtx, covers := s.syncCovers m }] }) :=
  congrArg Host.Outcome.next (rxSpine_good _ hf hop)

/-- A TlbSync need not wait exactly when every entry of its agent is complete. -/
theorem all_syncCovers (hrise : s.tablesRise = true) :
    (s.syncCovers m).all s.spine.relayDone = true ↔
      ∀ kv ∈ s.spine.relay, kv.2.issuer = m.src.toNat → kv.2.complete = true := by
  simp only [List.all_eq_true, mem_syncCovers]
  constructor
  · intro h kv hkv hissuer
    rw [← relayDone_of_mem (rising_relay hrise) hkv]
    exact h kv.1 ⟨kv.2, hkv, hissuer⟩
  · rintro h e ⟨r, hr, hissuer⟩
    rw [relayDone_of_mem (rising_relay hrise) hr]
    exact h _ hr hissuer

end

/-! ### RELAY_TIMEOUT (R265) -/

/-- The timeout of a waiting entry raises 0x61 and stops its timer. -/
theorem relayTimeout_raises {s : State} {e : Nat} {r : Relay} (h : mfind s.spine.relay e = some r) (ht : r.timer = true)
    (hc : r.complete = false) :
    ∃ d, relayTimeout e s = (raiseSpine spineNode 0x61 d s).setRelay e { r with timer := false } := by
  refine ⟨{ syn := BitVec.ofNat 16 e, node := agentNode (r.targets.headD 0) }, ?_⟩
  simp only [relayTimeout, h, ht, hc, Bool.not_false, Bool.and_self, if_true]
  rfl

theorem relayTimeout_idle {s : State} {e : Nat} {r : Relay} (h : mfind s.spine.relay e = some r)
    (hidle : r.timer = false ∨ r.complete = true) : relayTimeout e s = s := by
  simp only [relayTimeout, h]
  exact if_neg (by rcases hidle with hi | hi <;> simp [hi])

/-- Settles O51: an entry counts the acknowledgments it has, those of silenced targets at once; settled, the relay frees it and
grants what waited for it. -/
theorem relaySteps : Obligations.RelaySteps := by
  unfold Obligations.RelaySteps
  refine ⟨fun s f m hrise hf => ⟨fun hop => ⟨exec_tlbInv_waits hf hop, fun e he hneg => ⟨?_, ?_⟩⟩,
    fun hop => ⟨?_, ?_, ?_⟩, fun hop => ⟨?_, ?_⟩⟩, fun s e r hrise hr => ⟨?_, ?_⟩⟩
  · rintro ⟨t, ht, hlive⟩
    obtain ⟨relay, hexec, hfind⟩ := tlbInv_waits_for_targets hf hop he hneg ht hlive
    exact ⟨_, _, hexec, hfind, rfl, rfl, rfl, rfl, rfl, rfl, rfl⟩
  · exact tlbInv_frees hrise hf hop he hneg
  · exact fun r w hr ht hw hcov => tlbAck_last hrise hf hop hr ht hw hcov
  · exact fun r a hr ht ha => ⟨_, tlbAck_next hf hop hr ht ha, mfind_setRelay .., rfl, rfl⟩
  · intro hr
    exact ⟨_, exec_tlbAck_stray hf hop hr, noted_raiseSpine spineNode (src := 0x60) (by decide) _ _, by rw [spine_raiseSpine]; rfl⟩
  · intro hall
    rw [exec_tlbSync hf hop, if_pos ((all_syncCovers hrise).2 hall)]
  · rintro ⟨kv, hkv, hissuer, hwaits⟩
    have hnot : ¬ (s.syncCovers m).all s.spine.relayDone = true := fun hall => by
      simpa [hwaits] using (all_syncCovers hrise).1 hall kv hkv hissuer
    rw [exec_tlbSync hf hop, if_neg hnot]
    exact ⟨_, _, rfl, rfl, rfl, rfl, fun _ => mem_syncCovers, rfl⟩
  · intro ht hc
    obtain ⟨d, hraise⟩ := relayTimeout_raises hr ht hc
    refine ⟨_, congrArg Host.Outcome.next hraise, noted_raiseSpine spineNode (src := 0x61) (by decide) d s, mfind_setRelay .., ?_⟩
    exact (tableRead_raiseSpine spineNode 0x61 d s).mesh
  · exact fun hidle => congrArg Host.Outcome.next (relayTimeout_idle hr hidle)

end Sys2Proof.Machine
end

section
/-! SUPPORT. The ATC (10 R268 to R271): which entries a fill keeps, the addresses the new one covers, and how a translation ends. -/

namespace Sys2Proof.Machine

/-! ### The entry that a translation fills (R269) -/

theorem covers_atcEntry (fn : Nat) (addr page : W64) (size : Nat) (rd wr lock : Bool) :
    (atcEntry fn addr page size rd wr lock).covers fn addr = true := by
  have hlt : addr.toNat / 2 ^ min 30 (max 12 size) * 2 ^ min 30 (max 12 size) < 2 ^ 64 :=
    (Nat.div_mul_le_self ..).trans_lt addr.isLt
  simp only [AtcEntry.covers, atcEntry, decide_true, Bool.true_and, BitVec.toNat_ofNat,
    Nat.mod_eq_of_lt hlt, Nat.mul_div_cancel _ (Nat.two_pow_pos _)]

/-- A translation of at most 1 GiB is translated from its page's first byte. -/
theorem tpage_atcEntry (fn : Nat) (addr page : W64) {size : Nat} (rd wr lock : Bool) (h12 : 12 ≤ size) (h30 : size ≤ 30) :
    (atcEntry fn addr page size rd wr lock).tpage = page := by
  have hsize : min 30 (max 12 size) = size := by omega
  simp [atcEntry, hsize, Nat.div_eq_of_lt (Nat.mod_lt _ (Nat.two_pow_pos size))]

/-- Two entries of a function that cover one address overlap, where their pages are aligned. -/
theorem overlaps_of_covers {x e : AtcEntry} {fn : Nat} {addr : W64} (hx : x.covers fn addr = true) (he : e.covers fn addr = true)
    (hxa : x.page.toNat % 2 ^ x.sizeLog2 = 0) (hea : e.page.toNat % 2 ^ e.sizeLog2 = 0) : x.overlaps e = true := by
  have hwithin (y : AtcEntry) (hy : addr.toNat / 2 ^ y.sizeLog2 = y.page.toNat / 2 ^ y.sizeLog2)
      (ha : y.page.toNat % 2 ^ y.sizeLog2 = 0) : y.page.toNat ≤ addr.toNat ∧ addr.toNat < y.page.toNat + 2 ^ y.sizeLog2 := by
    have hpos := Nat.two_pow_pos y.sizeLog2
    have haddr := Nat.div_add_mod addr.toNat (2 ^ y.sizeLog2)
    have hpage := Nat.div_add_mod y.page.toNat (2 ^ y.sizeLog2)
    have hlt := Nat.mod_lt addr.toNat hpos
    rw [hy] at haddr
    omega
  simp only [AtcEntry.covers, Bool.and_eq_true, decide_eq_true_eq] at hx he
  have hX := hwithin x hx.2 hxa
  have hE := hwithin e he.2 hea
  simp only [AtcEntry.overlaps, Bool.and_eq_true, decide_eq_true_eq]
  exact ⟨⟨hx.1.trans he.1.symm, by omega⟩, by omega⟩

theorem aligned_atcEntry (fn : Nat) (addr page : W64) (size : Nat) (rd wr lock : Bool) :
    (atcEntry fn addr page size rd wr lock).page.toNat % 2 ^ (atcEntry fn addr page size rd wr lock).sizeLog2 = 0 := by
  have hlt : addr.toNat / 2 ^ min 30 (max 12 size) * 2 ^ min 30 (max 12 size) < 2 ^ 64 :=
    (Nat.div_mul_le_self ..).trans_lt addr.isLt
  simp only [atcEntry, BitVec.toNat_ofNat, Nat.mod_eq_of_lt hlt, Nat.mul_mod_left]

/-! ### What a fill keeps (R269) -/

/-- Entry x makes room for entry e. -/
def AtcEntry.yields (x e : AtcEntry) : Bool :=
  x.overlaps e && (!x.lock || e.lock || (x.page = e.page && x.sizeLog2 = e.sizeLog2))

/-- The entries that stay beside a new one. -/
def atcStay (e : AtcEntry) (l : List AtcEntry) : List AtcEntry :=
  if (l.filter fun x => !x.yields e).length < 64 then l.filter fun x => !x.yields e else atcEvict (l.filter fun x => !x.yields e)

/-- The new entry, with the lock of an entry whose place it takes. -/
def AtcEntry.placed (e : AtcEntry) (l : List AtcEntry) : AtcEntry := { e with lock := e.lock || l.any fun x => x.yields e && x.lock }

theorem atcFill_eq (e : AtcEntry) (s : State) :
    atcFill e s = s.updSpine fun sp => { sp with atc := atcStay e sp.atc ++ [e.placed sp.atc] } := rfl

theorem mem_of_mem_atcEvict {l : List AtcEntry} {x : AtcEntry} (h : x ∈ atcEvict l) : x ∈ l := by
  induction l with
  | nil => exact h
  | cons y l ih =>
    rw [atcEvict] at h
    split at h
    · rcases List.mem_cons.1 h with rfl | h
      · exact List.mem_cons_self
      · exact List.mem_cons_of_mem _ (ih h)
    · exact List.mem_cons_of_mem _ h

theorem mem_atcEvict_of_lock {l : List AtcEntry} {x : AtcEntry} (h : x ∈ l) (hl : x.lock = true) : x ∈ atcEvict l := by
  induction l with
  | nil => exact h
  | cons y l ih =>
    rw [atcEvict]
    rcases List.mem_cons.1 h with rfl | h
    · rw [if_pos hl]; exact List.mem_cons_self
    · split
      · exact List.mem_cons_of_mem _ (ih h)
      · exact h

theorem of_mem_atcStay {e x : AtcEntry} {l : List AtcEntry} (h : x ∈ atcStay e l) : x ∈ l ∧ x.yields e = false := by
  have hmem : x ∈ l.filter fun x => !x.yields e := by
    rw [atcStay] at h
    split at h
    · exact h
    · exact mem_of_mem_atcEvict h
  simpa using hmem

theorem mem_atcStay {e x : AtcEntry} {l : List AtcEntry} (h : x ∈ l) (hl : x.lock = true) (hy : x.yields e = false) :
    x ∈ atcStay e l := by
  have hmem : x ∈ l.filter fun x => !x.yields e := List.mem_filter.2 ⟨h, by simp [hy]⟩
  rw [atcStay]
  split
  · exact hmem
  · exact mem_atcEvict_of_lock hmem hl

/-- A fill by anything but an ATC_LOCK takes no page its lock. -/
theorem lock_stays_placed {e x : AtcEntry} {l : List AtcEntry} (he : e.lock = false) (h : x ∈ l) (hl : x.lock = true) :
    ∃ y ∈ atcStay e l ++ [e.placed l], y.fn = x.fn ∧ y.page = x.page ∧ y.sizeLog2 = x.sizeLog2 ∧ y.lock = true := by
  cases hy : x.yields e with
  | false => exact ⟨x, List.mem_append_left _ (mem_atcStay h hl hy), rfl, rfl, rfl, hl⟩
  | true =>
    have hplaced : (e.placed l).lock = true := by
      simp only [AtcEntry.placed, he, Bool.false_or, List.any_eq_true]
      exact ⟨x, h, by rw [hy, hl]; rfl⟩
    simp only [AtcEntry.yields, AtcEntry.overlaps, he, hl, Bool.not_true, Bool.or_self, Bool.false_or, Bool.and_eq_true,
      decide_eq_true_eq] at hy
    obtain ⟨⟨⟨hfn, -⟩, -⟩, hpage, hsize⟩ := hy
    exact ⟨e.placed l, List.mem_append_right _ List.mem_cons_self, hfn.symm, hpage.symm, hsize.symm, hplaced⟩

theorem covers_placed (e : AtcEntry) (l : List AtcEntry) (fn : Nat) (addr : W64) : (e.placed l).covers fn addr = e.covers fn addr := rfl

/-- Beside the entry of an ATC_LOCK no other covers its address, where the pages of the others are aligned. -/
theorem find_atcFill_lock {l : List AtcEntry} {e : AtcEntry} {fn : Nat} {addr : W64} (hlock : e.lock = true)
    (he : e.covers fn addr = true) (hea : e.page.toNat % 2 ^ e.sizeLog2 = 0) (hl : ∀ x ∈ l, x.page.toNat % 2 ^ x.sizeLog2 = 0) :
    (atcStay e l ++ [e.placed l]).find? (fun x => x.covers fn addr) = some (e.placed l) := by
  have hnone : (atcStay e l).find? (fun x => x.covers fn addr) = none := by
    refine List.find?_eq_none.2 fun x hx hcov => ?_
    obtain ⟨hmem, hy⟩ := of_mem_atcStay hx
    rw [AtcEntry.yields, overlaps_of_covers hcov he (hl x hmem) hea, hlock] at hy
    simp at hy
  rw [List.find?_append, hnone, Option.none_or, List.find?_singleton, covers_placed, he]
  rfl

/-! ### How a translation ends (R271) -/

section
variable {fn : Nat} {addr : W64} {s : State} {e : Bool × BitVec 4}

theorem tableRead_raiseFail (fn : Nat) (addr : W64) (e : Bool × BitVec 4) (s : State) : TableRead s (raiseFail fn addr e s) :=
  tableRead_raiseSpine ..

theorem atc_raiseFail (fn : Nat) (addr : W64) (e : Bool × BitVec 4) (s : State) :
    (raiseFail fn addr e s).spine.atc = s.spine.atc := by rw [raiseFail, spine_raiseSpine]

/-- A failure's status bit: 3 for a walk bus error, 2 for a translation without the right. -/
theorem noted_raiseFail (fn : Nat) (addr : W64) (e : Bool × BitVec 4) (s : State) :
    bit (raiseFail fn addr e s).spine.assay.status (if e.1 then 3 else 2) = true := by
  obtain ⟨walk, st⟩ := e
  cases walk
  · exact noted_raiseSpine spineNode (src := 0x62) (by decide) _ s
  · exact noted_raiseSpine spineNode (src := 0x63) (by decide) _ s

theorem syndrome_raiseFail (h : s.spine.assay.first.valid = false) :
    (raiseFail fn addr e s).spine.assay.first.syndrome = BitVec.ofNat 16 (fn + 16 * e.2.toNat) := by
  rw [raiseFail, spine_raiseSpine]
  simp [Assay.capture, h, atcDetail]

/-- A translation that gives the rights asked for fills an entry. -/
theorem translate_success {read write speculative lock rd wr : Bool} {page : W64} {size : Nat} (hr : read = true → rd = true)
    (hw : write = true → wr = true) :
    translate fn addr read write speculative lock (.success page size rd wr) s =
      (none, atcFill (atcEntry fn addr page size rd wr lock) s) := by
  have hnone : transFailure read write (.success page size rd wr) = none := by
    refine if_neg ?_
    cases read <;> cases write <;> simp_all
  simp only [translate, hnone]

/-- The error that a translation reports under Advanced Error Reporting (11 R276). -/
def transAer (fn : Nat) (r : Translation) (s : State) : State :=
  if r = .poisoned then setAer fn aerPoisoned s else if r = .timeout then setAer fn aerTimeout s else s

/-- One that fails fills nothing; one that an access awaits raises its fault. -/
theorem translate_fails {read write speculative lock : Bool} {r : Translation} (h : transFailure read write r = some e) :
    translate fn addr read write speculative lock r s =
      (some e, if speculative then s else raiseFail fn addr e (transAer fn r s)) := by
  cases r <;> simp only [translate, h] <;> rfl

end

end Sys2Proof.Machine
end

section
/-! SUPPORT. A ring command's function and its buffers (12 R307, 10 R268): what is read back once the command is begun or ended, and
a buffer that lies in one page. -/

namespace Sys2Proof.Machine

/-! ### Functions read back where no table need be canonical -/

/-- A function that is not as at reset is read as it was written. -/
theorem fn_updFn_of_ne {s : State} {f : Nat} {g : Fn → Fn} (h : g (s.fn f) ≠ Fn.initial f) : (s.updFn f g).fn f = g (s.fn f) :=
  mget_mput_of_ne s.fns f h

theorem Fn.ne_initial_of_up {x : Fn} (f : Nat) (h : x.up = true) : x ≠ Fn.initial f := by
  rintro rfl
  cases h

/-- A command marked started leaves the rest of its function. -/
theorem fn_begin_of_taken {s : State} {f idx : Nat} {k : Taken} (h : s.taken f idx = some k) :
    (s.begin f idx).fn f = { s.fn f with
      taken := (s.fn f).taken.map fun y => if y.idx = idx then { y with started := true } else y } := by
  refine fn_updFn_of_ne (g := fun x => { x with
    taken := x.taken.map fun y => if y.idx = idx then { y with started := true } else y }) fun hinit => ?_
  have hnil : (s.fn f).taken = [] := List.map_eq_nil_iff.1 (congrArg Fn.taken hinit)
  rw [State.taken, hnil] at h
  cases h

/-- An address is translated by the ATC and the function's ATS Enable alone. -/
theorem hostAddr_congr {s t : State} {f : Nat} (hatc : t.spine.atc = s.spine.atc) (hats : (t.fn f).ats = (s.fn f).ats) (addr : W64)
    (write : Bool) : t.hostAddr f addr write = s.hostAddr f addr write := by
  simp only [State.hostAddr, State.atcFind, hatc, hats]

section
variable {s : State} {f idx : Nat} {k : Taken}

theorem ats_begin (h : s.taken f idx = some k) : ((s.begin f idx).fn f).ats = (s.fn f).ats := by rw [fn_begin_of_taken h]

theorem up_begin (h : s.taken f idx = some k) : ((s.begin f idx).fn f).up = (s.fn f).up := by
  rw [fn_begin_of_taken h]
  rfl

theorem hostAddr_begin (h : s.taken f idx = some k) (addr : W64) (write : Bool) :
    (s.begin f idx).hostAddr f addr write = s.hostAddr f addr write :=
  hostAddr_congr (s := s) (t := s.begin f idx) rfl (ats_begin h) addr write

end

/-! ### A command that ends -/

theorem completeCmd_frame (f idx result : Nat) (code : BitVec 8) (s : State) :
    (completeCmd f idx code result s).spine = s.spine ∧ (completeCmd f idx code result s).slices = s.slices := by
  simp only [completeCmd]
  split
  · exact ⟨rfl, rfl⟩
  · split
    · exact ⟨rfl, rfl⟩
    · obtain ⟨hslices, -, -, -, hspine, -⟩ := feed_frame _ spineFeed _
      exact ⟨hspine, hslices⟩

/-- A command that has ended is taken no more. -/
theorem taken_completeCmd {s : State} {f : Nat} (idx result : Nat) (code : BitVec 8) (h : (s.fn f).up = true) :
    (completeCmd f idx code result s).taken f idx = none := by
  have hgone : (s.updFn f fun x => { x with taken := x.taken.filter fun y => y.idx != idx }).fn f =
      { s.fn f with taken := (s.fn f).taken.filter fun y => y.idx != idx } :=
    fn_updFn_of_ne (g := fun x => { x with taken := x.taken.filter fun y => y.idx != idx }) (Fn.ne_initial_of_up f h)
  have hnone : ((s.fn f).taken.filter fun y => y.idx != idx).find? (fun y => y.idx = idx) = none := by simp
  simp only [completeCmd]
  split
  · assumption
  · rw [State.taken]
    split
    · rw [fn_updFn_of_ne, hgone]
      · exact hnone
      · rw [hgone]
        exact Fn.ne_initial_of_up f h
    · rw [fn_of_fns (feed_frame ..).2.2.2.1, hgone]
      exact hnone

/-- The command is of another row. -/
theorem startCmd_other {s : State} {f idx opc : Nat} {k : Taken} (go : Taken → State → Option State) (h : s.taken f idx = some k)
    (ho : k.opc.toNat ≠ opc) : startCmd f idx opc go s = s := by
  simp [startCmd, h, ho]

theorem startCmd_untaken {s : State} {f idx opc : Nat} (go : Taken → State → Option State) (h : s.taken f idx = none) :
    startCmd f idx opc go s = s := by
  simp only [startCmd, h]

/-- The start of a command that runs is its work. -/
theorem startCmd_works {s t : State} {f idx opc : Nat} {k : Taken} {go : Taken → State → Option State}
    (h : s.mayStart f idx opc k) (hgo : go k (s.begin f idx) = some t) : startCmd f idx opc go s = t :=
  (atFn_next (startCmd_runs h hgo)).2.symm

/-! ### Buffers -/

section
variable {s : State} {f idx n : Nat} {addr hostAt : W64}

/-- A buffer inside one page has one part. -/
theorem bufParts_onePage (hn : 0 < n) (hp : addr.toNat % 4096 + n ≤ 4096) : bufParts addr n = [(0, n)] := by
  have hpages : (addr.toNat % 4096 + n + 4095) / 4096 = 1 := by omega
  simp only [bufParts, hpages, List.range_one, List.map_cons, List.map_nil, Nat.mul_zero, Nat.zero_sub, Nat.sub_zero, Nat.zero_add,
    Nat.mul_one, List.cons.injEq, Prod.mk.injEq, true_and, and_true]
  omega

/-- A buffer whose every page the function may use waits for no translation. -/
theorem bufReady_open {write : Bool} {given : Option (Bool × BitVec 4)}
    (h : ∀ p ∈ bufParts addr n, (s.hostAddr f (BitVec.ofNat 64 (addr.toNat + p.1)) write).isSome = true) :
    bufReady f idx addr n write given s = none := by
  have hnone : (((bufParts addr n).map fun p => BitVec.ofNat 64 (addr.toNat + p.1)).filter fun a =>
      (s.hostAddr f a write).isNone) = [] := by
    refine List.filter_eq_nil_iff.2 fun a ha => ?_
    obtain ⟨p, hp, rfl⟩ := List.mem_map.1 ha
    simpa [Option.ne_none_iff_isSome] using h p hp
  simp only [bufReady, hnone]
  rfl

theorem bufReady_onePage {write : Bool} {given : Option (Bool × BitVec 4)} (hn : 0 < n) (hp : addr.toNat % 4096 + n ≤ 4096)
    (h : s.hostAddr f addr write = some hostAt) : bufReady f idx addr n write given s = none := by
  refine bufReady_open fun p hmem => ?_
  rw [bufParts_onePage hn hp, List.mem_singleton] at hmem
  simp [hmem, h]

/-- What a buffer inside one readable page gives (14 R362). -/
theorem bufBytes_onePage (l : List Byte) (hn : 0 < n) (hp : addr.toNat % 4096 + n ≤ 4096) (h : s.hostAddr f addr false = some hostAt) :
    s.bufBytes f addr l n = if (hostCheck f hostAt false s).1 = true then takeBytes l n else List.replicate n 0 := by
  simp [State.bufBytes, bufParts_onePage hn hp, readPart, h]

/-- A buffer inside one page that the function may write and the Range Guard allows is written in one access. -/
theorem writeBuffer_onePage (b : List Byte) (go : State → Option State) (hup : (s.fn f).up = true) (hb : 0 < b.length)
    (hp : addr.toNat % 4096 + b.length ≤ 4096) (h : s.hostAddr f addr true = some hostAt)
    (hcheck : (hostCheck f hostAt true s).1 = true) (hquiet : (hostCheck f hostAt true s).2 = s) :
    writeBuffer f idx addr b .done go s = go ((atcUse f addr s).emit (.hostWrite f hostAt b)) := by
  have hpart : writePart f addr b (0, b.length) s = (atcUse f addr s).emit (.hostWrite f hostAt b) := by
    simp [writePart, h, hcheck, hquiet]
  simp only [writeBuffer, hup, bufReady_onePage hb hp h, bufParts_onePage hb hp, eachOf_cons, eachOf_nil, hpart, bne_self_eq_false,
    Bool.not_true, Bool.false_eq_true, if_false]

end

end Sys2Proof.Machine
end

section
/-! SUPPORT. O23: ATC_LOCK and ATC_UNLOCK (10 R269, R270), and the records that STATS_SNAPSHOT and CAL_READ write (12 R322, 17 R441). -/

namespace Sys2Proof.Machine

/-! ### ATC_LOCK and ATC_UNLOCK -/

section
variable {s : State} {f idx : Nat} {k : Taken}

/-- The address that an ATC_LOCK or ATC_UNLOCK names. -/
def Taken.atcAddr (k : Taken) : W64 := bits k.desc 64 64

/-- The entry that an ATC_LOCK fills with a translation. -/
def Taken.lockEntry (k : Taken) (f : Nat) (page : W64) (size : Nat) (rd wr : Bool) : AtcEntry :=
  atcEntry f k.atcAddr page size rd wr true

/-- An ATC_LOCK translates its address: its operand is legal, its function has ATS and may use host memory, and of the locked entries
fewer than 8 are others. -/
structure State.MayLock (s : State) (f : Nat) (k : Taken) : Prop where
  need : k.num 16 1 < 4
  ats : (s.fn f).ats = true
  up : (s.fn f).up = true
  room : (s.spine.atc.filter fun e => e.lock && !e.covers f k.atcAddr).length < 8

/-- The translation of an ATC_LOCK fails: the command ends with the failure's code. -/
theorem atcLock_fails {r : Translation} {e : Bool × BitVec 4} {t : State} (h : s.MayLock f k)
    (ht : translate f k.atcAddr (k.num 16 1 % 2 = 1) (2 ≤ k.num 16 1) false true r s = (some e, t)) :
    atcLock r f idx k s = some (completeCmd f idx (failCode e) 0 t) := by
  rw [Taken.atcAddr] at ht
  have hroom := h.room
  rw [Taken.atcAddr] at hroom
  simp [atcLock, Nat.not_le.2 h.need, h.ats, h.up, Nat.not_le.2 hroom, ht, refuse]

/-- It succeeds: the command ends OK with the page of the entry that then covers the address. -/
theorem atcLock_ends {r : Translation} {e : AtcEntry} {t : State} (h : s.MayLock f k)
    (ht : translate f k.atcAddr (k.num 16 1 % 2 = 1) (2 ≤ k.num 16 1) false true r s = (none, t))
    (he : t.atcFind f k.atcAddr = some e) : atcLock r f idx k s = some (completeCmd f idx ccOK e.tpage.toNat t) := by
  rw [Taken.atcAddr] at ht he
  have hroom := h.room
  rw [Taken.atcAddr] at hroom
  simp [atcLock, Nat.not_le.2 h.need, h.ats, h.up, Nat.not_le.2 hroom, ht, he, doneCmd]

/-- An ATC_LOCK that finds eight others locked is refused. -/
theorem atcLock_full (r : Translation) (hneed : k.num 16 1 < 4) (hats : (s.fn f).ats = true)
    (hfull : 8 ≤ (s.spine.atc.filter fun e => e.lock && !e.covers f k.atcAddr).length) :
    atcLock r f idx k s = some (completeCmd f idx ccLOCKFULL 0 s) :=
  (if_neg (by simp [hneed, hats])).trans (if_pos hfull)

/-- Filled, the ATC finds an entry for the address of the ATC_LOCK. -/
theorem atcFind_lockEntry (page : W64) (size : Nat) (rd wr : Bool) :
    ∃ e, (atcFill (k.lockEntry f page size rd wr) s).atcFind f k.atcAddr = some e := by
  refine Option.isSome_iff_exists.1 (List.find?_isSome.2 ⟨_, List.mem_append_right _ List.mem_cons_self, ?_⟩)
  exact covers_atcEntry ..

/-- The translation of an ATC_LOCK gives the rights asked for: its entry is filled. -/
theorem atcLock_fills {page : W64} {size : Nat} {rd wr : Bool} (h : s.MayLock f k) (hrd : k.num 16 1 % 2 = 1 → rd = true)
    (hwr : 2 ≤ k.num 16 1 → wr = true) {e : AtcEntry}
    (he : (atcFill (k.lockEntry f page size rd wr) s).atcFind f k.atcAddr = some e) :
    atcLock (.success page size rd wr) f idx k s =
      some (completeCmd f idx ccOK e.tpage.toNat (atcFill (k.lockEntry f page size rd wr) s)) :=
  atcLock_ends h (translate_success (by simpa using hrd) (by simpa using hwr)) he

/-- With aligned pages that entry is the one filled, and its page that of the translation. -/
theorem tpage_lockEntry {page : W64} {size : Nat} {rd wr : Bool} (h12 : 12 ≤ size) (h30 : size ≤ 30)
    (hal : ∀ x ∈ s.spine.atc, x.page.toNat % 2 ^ x.sizeLog2 = 0) {e : AtcEntry}
    (he : (atcFill (k.lockEntry f page size rd wr) s).atcFind f k.atcAddr = some e) : e.tpage = page := by
  have hfind : (atcFill (k.lockEntry f page size rd wr) s).atcFind f k.atcAddr =
      some ((k.lockEntry f page size rd wr).placed s.spine.atc) :=
    find_atcFill_lock rfl (covers_atcEntry ..) (aligned_atcEntry ..) hal
  obtain rfl : _ = e := Option.some.inj (hfind.symm.trans he)
  exact tpage_atcEntry f k.atcAddr page rd wr true h12 h30

/-- An entry without its lock where it covers an address. -/
def AtcEntry.unlocked (f : Nat) (addr : W64) (e : AtcEntry) : AtcEntry := if e.covers f addr then { e with lock := false } else e

theorem AtcEntry.covers_unlocked (f : Nat) (addr : W64) (e : AtcEntry) : (e.unlocked f addr).covers f addr = e.covers f addr := by
  rw [AtcEntry.unlocked]
  split <;> rfl

theorem AtcEntry.unlocked_of_not_covers {f : Nat} {addr : W64} {e : AtcEntry} (h : e.covers f addr = false) :
    e.unlocked f addr = e := if_neg (by simp [h])

/-- ATC_UNLOCK of a locked page unlocks what covers the address. -/
theorem atcUnlock_unlocks (h : ∃ e ∈ s.spine.atc, e.lock = true ∧ e.covers f k.atcAddr = true) :
    atcUnlock f idx k s =
      some (completeCmd f idx ccOK 0 (s.updSpine fun sp => { sp with atc := sp.atc.map (·.unlocked f k.atcAddr) })) :=
  if_pos (by simpa [Taken.atcAddr] using h)

theorem atcUnlock_refused (h : ∀ e ∈ s.spine.atc, e.covers f k.atcAddr = true → e.lock = false) :
    atcUnlock f idx k s = some (completeCmd f idx ccSTATE 0 s) := by
  refine if_neg fun hany => ?_
  obtain ⟨e, he, hlocked⟩ := List.any_eq_true.1 hany
  obtain ⟨hlock, hcov⟩ := Bool.and_eq_true_iff.1 hlocked
  rw [h e he hcov] at hlock
  cases hlock

/-- What the entries of an ATC are once an address is unlocked. -/
theorem mem_map_unlocked {l : List AtcEntry} {addr : W64} :
    (∀ e ∈ l.map (·.unlocked f addr), e.covers f addr = true → e.lock = false) ∧
      ∀ e, e.covers f addr = false → (e ∈ l.map (·.unlocked f addr) ↔ e ∈ l) := by
  refine ⟨fun e he hcov => ?_, fun e hcov => ⟨fun he => ?_, fun he => ?_⟩⟩
  · obtain ⟨x, -, rfl⟩ := List.mem_map.1 he
    rw [AtcEntry.covers_unlocked] at hcov
    rw [AtcEntry.unlocked, if_pos hcov]
  · obtain ⟨x, hx, rfl⟩ := List.mem_map.1 he
    rw [AtcEntry.covers_unlocked] at hcov
    rwa [AtcEntry.unlocked_of_not_covers hcov]
  · exact List.mem_map.2 ⟨e, he, AtcEntry.unlocked_of_not_covers hcov⟩

end

/-! ### Instants of a snapshot (12 R322) -/

/-- From one record of a snapshot to the next the time goes on by 1 to 2^32. -/
theorem snapTime_step (ts : W64) (i : Nat) :
    ∃ d : Nat, 0 < d ∧ d ≤ 2 ^ 32 ∧ snapTime ts (i + 1) = snapTime ts i + BitVec.ofNat 64 d :=
  ⟨_, Nat.add_pos_left Nat.one_pos _, Nat.add_comm 1 _ ▸ (Config.snapshotGap ts i).isLt, rfl⟩

theorem snapTime_ne (ts : W64) (i : Nat) : snapTime ts (i + 1) ≠ snapTime ts i := by
  obtain ⟨d, hpos, hle, hstep⟩ := snapTime_step ts i
  rw [hstep]
  intro h
  have hzero : BitVec.ofNat 64 d = 0 := by simpa using h
  have hnat := congrArg BitVec.toNat hzero
  simp only [BitVec.toNat_ofNat] at hnat
  rw [Nat.mod_eq_of_lt (hle.trans_lt (by decide))] at hnat
  exact hpos.ne' hnat

/-! ### Records of 128 bytes -/

@[simp] theorem length_bytesOf {n : Nat} (x : BitVec n) (k : Nat) : (bytesOf x k).length = k := by simp [bytesOf]

theorem length_statsRec (s : State) (n : Nat) (ts : W64) : (s.statsRec n ts).length = 128 := by
  unfold State.statsRec
  simp only [List.length_append, List.length_cons, List.length_nil, List.length_replicate, length_bytesOf]

theorem length_calRecord (c : CalSet) (n : Nat) : (calRecord c n).length = 128 := by simp [calRecord, calBody]

/-- The slices that the mask of one slice names. -/
theorem filter_mask_one {n : Nat} (h : n < 72) : ((List.range 72).filter fun m => bit (BitVec.ofNat 72 (2 ^ n)) m) = [n] := by
  have hbit : ∀ m ∈ List.range 72, bit (BitVec.ofNat 72 (2 ^ n)) m = decide (m = n) := by
    intro m hm
    rw [bit, BitVec.getLsbD_ofNat, Nat.testBit_two_pow, decide_eq_true (List.mem_range.1 hm), Bool.true_and]
    exact decide_eq_decide.2 eq_comm
  rw [List.filter_congr hbit, List.filter_eq, List.count_eq_one_of_mem List.nodup_range (List.mem_range.2 h)]
  rfl

section
variable {s : State} {f idx n : Nat} {k : Taken} {hostAt : W64}

/-- A record of 128 bytes at an aligned buffer that may be written is written there. -/
theorem writeBuffer_record {addr : W64} (b : List Byte) (go : State → Option State) (hb : b.length = 128) (hal : addr.toNat % 128 = 0)
    (hup : (s.fn f).up = true) (h : s.hostAddr f addr true = some hostAt) (hcheck : (hostCheck f hostAt true s).1 = true)
    (hquiet : (hostCheck f hostAt true s).2 = s) :
    writeBuffer f idx addr b .done go s = go ((atcUse f addr s).emit (.hostWrite f hostAt b)) :=
  writeBuffer_onePage b go hup (by omega) (by omega) h hcheck hquiet

/-- STATS_SNAPSHOT of one slice writes its record. -/
theorem statsSnapshot_one {ts : W64} (hbuilt : n < s.par.nSlice) (hn : n < 72) (hal : k.num 8 8 % 128 = 0)
    (hmask : (bits k.desc 128 72 : BitVec 72) = BitVec.ofNat 72 (2 ^ n)) (hup : (s.fn f).up = true)
    (h : s.hostAddr f (BitVec.ofNat 64 (k.num 8 8)) true = some hostAt) (hcheck : (hostCheck f hostAt true s).1 = true)
    (hquiet : (hostCheck f hostAt true s).2 = s) :
    statsSnapshot .done ts f idx k s = some (completeCmd f idx ccOK 1
      ((atcUse f (BitVec.ofNat 64 (k.num 8 8)) s).emit (.hostWrite f hostAt (s.statsRec n ts)))) := by
  have haddr : (BitVec.ofNat 64 (k.num 8 8)).toNat % 128 = 0 := by
    rw [BitVec.toNat_ofNat]
    omega
  have hwrite := writeBuffer_record (idx := idx) (s.statsRec n ts) (doneCmd f idx 1) (length_statsRec s n ts) haddr hup h hcheck hquiet
  have hone (g : Nat → List Byte) : (List.range 1).flatMap g = g 0 := by simp
  simp only [statsSnapshot, hmask, filter_mask_one hn, hal, List.any_cons, List.any_nil, State.built, hbuilt, decide_true,
    Bool.not_true, Bool.or_self, bne_self_eq_false, List.isEmpty_cons, Bool.false_eq_true, if_false]
  simp only [List.length_singleton, hone, List.getD_cons_zero, snapTime]
  exact hwrite

/-- CAL_READ writes the calibration record of its slice. -/
theorem calRead_writes (hbuilt : n < s.par.nSlice) (hk : k.num 8 1 = n) (hal : (bits k.desc 128 64).toNat % 128 = 0)
    (hup : (s.fn f).up = true) (h : s.hostAddr f (bits k.desc 128 64) true = some hostAt)
    (hcheck : (hostCheck f hostAt true s).1 = true) (hquiet : (hostCheck f hostAt true s).2 = s) :
    calRead .done f idx k s = some (completeCmd f idx ccOK 0
      ((atcUse f (bits k.desc 128 64) s).emit (.hostWrite f hostAt (calRecord (s.calSet n) n)))) := by
  subst hk
  refine (if_neg (by simp [State.built, hbuilt, hal])).trans ?_
  exact writeBuffer_record _ _ (length_calRecord ..) hal hup h hcheck hquiet

end

/-- Settles O23: the entry of an ATC_LOCK drops what overlaps it; a record of 128 bytes at an aligned address lies in one page. -/
theorem atcAndRecordCommands : Obligations.AtcAndRecordCommands := by
  unfold Obligations.AtcAndRecordCommands
  refine ⟨fun s f idx k => ⟨?_, ?_, ?_, ?_⟩, ⟨fun ts i => ⟨rfl, snapTime_ne ts i, snapTime_step ts i⟩, ?_⟩, ?_⟩
  · intro page size rd wr hstart hneed hats hup hroom hrd hwr
    have htaken := hstart.2.1
    obtain ⟨e, he⟩ := atcFind_lockEntry (s := s.begin f idx) (f := f) (k := k) page size rd wr
    have hmay : (s.begin f idx).MayLock f k := ⟨hneed, (ats_begin htaken).trans hats, (up_begin htaken).trans hup, hroom⟩
    have hgo := atcLock_fills (idx := idx) hmay hrd hwr he
    obtain ⟨hspine, hslices⟩ := completeCmd_frame f idx e.tpage.toNat ccOK (atcFill (k.lockEntry f page size rd wr) (s.begin f idx))
    refine ⟨_, startCmd_runs hstart hgo, hslices, ?_, _, e, ?_, rfl, rfl, fun h12 h30 hal => tpage_lockEntry h12 h30 hal he⟩
    · rw [hspine]
      exact ⟨_, List.mem_append_right _ List.mem_cons_self, covers_atcEntry .., rfl, rfl, rfl⟩
    · rw [State.atcFind, hspine]
      exact he
  · intro r hstart hneed hats hfull
    exact startCmd_runs hstart (atcLock_full (s := s.begin f idx) r hneed ((ats_begin hstart.2.1).trans hats) hfull)
  · intro hstart h
    obtain ⟨hlock, hmem⟩ := mem_map_unlocked (f := f) (l := s.spine.atc) (addr := k.atcAddr)
    exact ⟨_, startCmd_runs hstart (atcUnlock_unlocks h), rfl, rfl, hlock, List.length_map .., hmem⟩
  · exact fun hstart h => startCmd_runs hstart (atcUnlock_refused h)
  · intro s f idx n ts k hbuilt hn a hostAt hcheck hquiet hup
    refine ⟨fun hstart hal hmask h => ?_, fun hstart hk hal h => ?_⟩ <;>
      have hup' : ((s.begin f idx).fn f).up = true := (up_begin hstart.2.1).trans hup
    · rw [← hostAddr_begin hstart.2.1] at h
      exact startCmd_runs hstart (statsSnapshot_one hbuilt hn hal hmask hup' h hcheck hquiet)
    · rw [← hostAddr_begin hstart.2.1] at h
      exact startCmd_runs hstart (calRead_writes hbuilt hk hal hup' h hcheck hquiet)
  · exact fun s f n addr hostAt l hn hp h => bufBytes_onePage l hn hp h

end Sys2Proof.Machine
end

section
/-! SUPPORT. O20: translation completions (10 R269 to R271, 11 R276), and the descriptor fetches that wait for one (10 R268). -/

namespace Sys2Proof.Machine

/-! ### Completions -/

section
variable {s : State} {f : Nat} {addr : W64} {needWrite : Bool} {r : Translation}

theorem transAer_frame (f : Nat) (r : Translation) (s : State) :
    (transAer f r s).spine = s.spine ∧ (transAer f r s).slices = s.slices := by
  rw [transAer]
  split
  · exact ⟨rfl, rfl⟩
  · split <;> exact ⟨rfl, rfl⟩

theorem fns_noteFail_congr {s t : State} (h : t.fns = s.fns) (f : Nat) (addr : W64) (write : Bool) (e : Option (Bool × BitVec 4)) :
    (noteFail f addr write e t).fns = (noteFail f addr write e s).fns := by
  simp only [noteFail, State.updFn_fns, fn_of_fns h, h]

/-- A translation that failed is a walk bus error with the status of its completion. -/
theorem transFailure_failed (read write : Bool)
    (h : r = .unsupportedRequest ∨ r = .completerAbort ∨ r = .poisoned ∨ r = .timeout) :
    transFailure read write r =
      some (true, if r = .unsupportedRequest then stUR else if r = .completerAbort then stCA else 0) := by
  rcases h with rfl | rfl | rfl | rfl <;> rfl

/-- A translation without the right that an access needs. -/
theorem transFailure_denied {rd wr : Bool} (page : W64) (size : Nat) (h : (if needWrite then wr else rd) = false) :
    transFailure (!needWrite) needWrite (.success page size rd wr) = some (false, 0) := by
  cases needWrite <;> simp_all [transFailure]

theorem completion_demand {e : Option (Bool × BitVec 4)} {t : State} (hreq : (s.fn f).requested addr needWrite false = true)
    (ht : translate f addr (!needWrite) needWrite false false r (endRequest f addr needWrite s) = (e, t)) :
    atsTranslationCompletion f addr needWrite false r s = noteFail f addr needWrite e t := by
  simp [atsTranslationCompletion, hreq, ht]

theorem completion_spec {e : Option (Bool × BitVec 4)} {t : State} (hreq : (s.fn f).requested addr needWrite true = true)
    (ht : translate f addr (!needWrite) needWrite true false r (endSpec f addr needWrite s) = (e, t)) :
    atsTranslationCompletion f addr needWrite true r s = t := by
  simp [atsTranslationCompletion, hreq, ht]

theorem completion_unrequested {spec : Bool} (hreq : (s.fn f).requested addr needWrite spec = false) :
    atsTranslationCompletion f addr needWrite spec r s = if r = .timeout then s else setAer f aerUnexpected s := by
  simp [atsTranslationCompletion, hreq]

/-- A demanded translation that fails raises the fault of its failure, which the access that waits learns of. -/
theorem completion_demand_fails {e : Bool × BitVec 4} (hreq : (s.fn f).requested addr needWrite false = true)
    (he : transFailure (!needWrite) needWrite r = some e) :
    atsTranslationCompletion f addr needWrite false r s =
      noteFail f addr needWrite (some e) (raiseFail f addr e (transAer f r (endRequest f addr needWrite s))) :=
  completion_demand hreq (translate_fails he)

/-- A speculative one that fails ends, and no more. -/
theorem completion_spec_fails {e : Bool × BitVec 4} (hreq : (s.fn f).requested addr needWrite true = true)
    (he : transFailure (!needWrite) needWrite r = some e) :
    atsTranslationCompletion f addr needWrite true r s = endSpec f addr needWrite s :=
  completion_spec hreq (translate_fails he)

/-- What a demanded translation that fails leaves. -/
theorem demand_fails_leaves {e : Bool × BitVec 4} (hf : f < s.par.nFunc) (hreq : (s.fn f).requested addr needWrite false = true)
    (he : transFailure (!needWrite) needWrite r = some e) :
    ∃ t, exec (.atsTranslationCompletion f addr needWrite false r) s = .next t ∧
      bit t.spine.assay.status (if e.1 then 3 else 2) = true ∧ t.spine.atc = s.spine.atc ∧
      (s.spine.assay.first.valid = false → t.spine.assay.first.syndrome = BitVec.ofNat 16 (f + 16 * e.2.toNat)) ∧
      t.fns = (noteFail f addr needWrite (some e) (transAer f r (endRequest f addr needWrite s))).fns ∧ t.slices = s.slices := by
  let u := transAer f r (endRequest f addr needWrite s)
  obtain ⟨hspine, hslices⟩ : u.spine = s.spine ∧ u.slices = s.slices := transAer_frame ..
  have hraise := tableRead_raiseFail f addr e u
  refine ⟨_, (atFn_built _ hf).trans (congrArg _ (completion_demand_fails hreq he)), noted_raiseFail f addr e u, ?_, fun hfirst => ?_,
    fns_noteFail_congr hraise.fns .., hraise.slices.trans hslices⟩
  · exact (atc_raiseFail f addr e u).trans (congrArg Spine.atc hspine)
  · exact syndrome_raiseFail (by rw [hspine]; exact hfirst)

/-- A completion that gives the rights asked for fills an entry, and its request has ended. -/
theorem completion_fills {spec rd wr : Bool} {page : W64} {size : Nat} (hreq : (s.fn f).requested addr needWrite spec = true)
    (hright : (if needWrite then wr else rd) = true) :
    let e := atcEntry f addr page size rd wr false
    atsTranslationCompletion f addr needWrite spec (.success page size rd wr) s =
      (if spec then endSpec f addr needWrite s else noteFail f addr needWrite none (endRequest f addr needWrite s)).updSpine
        fun sp => { sp with atc := atcStay e s.spine.atc ++ [e.placed s.spine.atc] } := by
  have hrd : (!needWrite) = true → rd = true := by intro h; simp_all
  have hwr : needWrite = true → wr = true := by intro h; simp_all
  cases spec
  · exact completion_demand hreq (translate_success hrd hwr)
  · exact completion_spec hreq (translate_success hrd hwr)

end

/-! ### Fetches that wait for a translation -/

section
variable {s : State} {f : Nat} {addr : W64} {write : Bool} {given : Option (Bool × BitVec 4)}

/-- The failure noted for an access (10 R271). -/
def Fn.failOf (x : Fn) (addr : W64) (write : Bool) : Option ((W64 × Bool) × (Bool × BitVec 4)) :=
  x.transFails.find? fun kv => kv.1 == transKey addr write

theorem hostFail_open {at' : W64} (h : s.hostAddr f addr write = some at') : hostFail f addr write given s = (none, s) := by
  simp [hostFail, h]

theorem hostFail_noted (h : s.hostAddr f addr write = none) {kv : (W64 × Bool) × (Bool × BitVec 4)}
    (hkv : (s.fn f).failOf addr write = some kv) : hostFail f addr write given s = (some kv.2, noteFail f addr write none s) := by
  rw [Fn.failOf] at hkv
  simp [hostFail, h, hkv]

theorem hostFail_given (h : s.hostAddr f addr write = none) (hno : (s.fn f).failOf addr write = none) (e : Bool × BitVec 4) :
    hostFail f addr write (some e) s = (some e, raiseFail f addr e (endRequest f addr write (needPage f addr write s))) := by
  rw [Fn.failOf] at hno
  simp [hostFail, h, hno]

theorem hostFail_waits (h : s.hostAddr f addr write = none) (hno : (s.fn f).failOf addr write = none) :
    hostFail f addr write none s = (none, s) := by
  rw [Fn.failOf] at hno
  simp [hostFail, h, hno]

/-- The host address of the descriptor at CIDX. -/
def Fn.descAddr (x : Fn) : W64 := x.cmd.entryAddr x.cmd.cidx 64

variable {hr : HostRead}

theorem exec_commandFetch (hf : f < s.par.nFunc) (hcan : (s.fn f).canFetch = true) (hret : (s.fn f).retries = 0) :
    exec (.commandFetch f hr) s = .next (fetched f hr s) := by
  refine (atFn_built _ hf).trans (congrArg _ (if_pos ?_))
  simp [hcan, hret]

/-- A fetch that meets a failure stops the command ring with its cause. -/
theorem fetched_fails {e : Bool × BitVec 4} {t : State}
    (h : hostFail f (s.fn f).descAddr false (readFailure hr) s = (some e, t)) :
    fetched f hr s = stopRing f .cmd (if e.1 then 2 else 1) (s.fn f).descAddr e.2 t := by
  rw [Fn.descAddr] at h
  simp only [fetched, h]
  rfl

/-- One whose page the ATC does not translate waits for its request. -/
theorem fetched_waits (h : s.hostAddr f (s.fn f).descAddr false = none) (hno : (s.fn f).failOf (s.fn f).descAddr false = none)
    (hr' : readFailure hr = none) : fetched f hr s = needPage f (s.fn f).descAddr false s := by
  have hfail := hostFail_waits h hno
  rw [Fn.descAddr] at hfail h ⊢
  simp only [fetched, hr', hfail, h]

/-- Where a translation stands, the fetch meets no failure of one. -/
theorem fetched_open {at' : W64} (h : s.hostAddr f (s.fn f).descAddr false = some at') (hr' : readFailure hr ≠ none) :
    fetched f hr s = s := by
  have hfail := hostFail_open (given := readFailure hr) h
  rw [Fn.descAddr] at hfail h
  cases hr with
  | translationFault _ _ => simp only [fetched, hfail, h]
  | walkBusError _ _ => simp only [fetched, hfail, h]
  | _ => exact absurd rfl hr'

/-- A fetch that times out stops the command ring with cause 5 (11 R276). -/
theorem fetched_timeout {at' : W64} (h : s.hostAddr f (s.fn f).descAddr false = some at') :
    fetched f .timeout s = stopRing f .cmd 5 (s.fn f).descAddr 0 (setAer f aerTimeout s) := by
  have hfail := hostFail_open (given := readFailure .timeout) h
  rw [Fn.descAddr] at hfail h ⊢
  simp only [fetched, hfail, h]

theorem slices_needPage : (needPage f addr write s).slices = s.slices := by
  simp only [needPage]
  split <;> rfl

end

/-! ### A stopped ring (12 R318) -/

/-- An interrupt writes its function's vectors and held messages alone. -/
theorem sendMsix_leaves {s : State} (f v : Nat) (c : s.canon = true) :
    (∃ msix heldMsix, (sendMsix f v s).fn f = { s.fn f with msix, heldMsix }) ∧ (sendMsix f v s).slices = s.slices := by
  simp only [sendMsix]
  split
  · exact ⟨⟨_, _, State.fn_updFn_same f _ c⟩, rfl⟩
  · split
    · exact ⟨⟨_, _, State.fn_updFn_same f _ c⟩, rfl⟩
    · exact ⟨⟨_, _, rfl⟩, rfl⟩

/-- So does one after a record. -/
theorem sendMsix_feed_leaves {s : State} (f v : Nat) (r : HRec) (c : s.canon = true) :
    (∃ msix heldMsix, (sendMsix f v (s.feed spineFeed r)).fn f = { s.fn f with msix, heldMsix }) ∧
      (sendMsix f v (s.feed spineFeed r)).slices = s.slices := by
  obtain ⟨hslices, -, -, hfns, -⟩ := feed_frame s spineFeed r
  have hsend := sendMsix_leaves f v ((keeps_feed s spineFeed r).canon c)
  rwa [fn_of_fns hfns, hslices] at hsend

/-- The command ring stopped with its cause. -/
theorem stopRing_cmd {s : State} (f : Nat) (cause : BitVec 3) (addr : W64) (status : BitVec 4) (c : s.canon = true) :
    (∃ msix heldMsix, (stopRing f .cmd cause addr status s).fn f =
      { s.fn f with cmd := { (s.fn f).cmd with stop := true, cause }, retries := 0, msix, heldMsix }) ∧
    (stopRing f .cmd cause addr status s).slices = s.slices := by
  let u := updRing f .cmd (fun r => { r with stop := true, cause }) s
  let v := u.updFn f fun x => { x with retries := 0 }
  have cu : u.canon = true := State.canon_updFn f _ c
  have hu : u.fn f = { s.fn f with cmd := { (s.fn f).cmd with stop := true, cause } } := State.fn_updFn_same f _ c
  have hv : v.fn f = { s.fn f with cmd := { (s.fn f).cmd with stop := true, cause }, retries := 0 } := by
    rw [State.fn_updFn_same f _ cu, hu]
  have hstop : (∃ msix heldMsix, (stopRing f .cmd cause addr status s).fn f = { v.fn f with msix, heldMsix }) ∧
      (stopRing f .cmd cause addr status s).slices = v.slices := sendMsix_feed_leaves f _ _ (State.canon_updFn f _ cu)
  rwa [hv] at hstop

end Sys2Proof.Machine
end

section
/-! SUPPORT. O20: invalidations (10 R272) and the timeouts of non-posted requests (11 R276). -/

namespace Sys2Proof.Machine

/-! ### Invalidations (10 R272) -/

/-- An invalidation request of a function for a range meets an entry. -/
def AtcEntry.meets (e : AtcEntry) (f : Nat) (addr : W64) (len : Nat) : Bool :=
  e.fn = f && e.page.toNat < addr.toNat + len && addr.toNat < e.page.toNat + 2 ^ e.sizeLog2

theorem AtcEntry.meets_eq_false {e : AtcEntry} {f len : Nat} {addr : W64} :
    e.meets f addr len = false ↔ e.fn ≠ f ∨ addr.toNat + len ≤ e.page.toNat ∨ e.page.toNat + 2 ^ e.sizeLog2 ≤ addr.toNat := by
  simp only [AtcEntry.meets, Bool.and_eq_false_iff, decide_eq_false_iff_not, Nat.not_lt, or_assoc, ne_eq]

/-- A record writes the recorder alone. -/
theorem feed_hall_only (s : State) (node : Nat) (r : HRec) : ∃ hall, s.feed node r = { s with hall } := by
  rcases feed_cases s node r with e | ⟨-, e⟩ | ⟨-, e⟩ <;> exact ⟨_, e⟩

/-- An invalidation drops the unlocked entries that meet its range; those that are locked make their records. -/
theorem atsInvalidationRequest_drops (f : Nat) (addr : W64) (len : Nat) (s : State) :
    ∃ hall, atsInvalidationRequest f addr len s = (State.updSpine { s with hall } fun sp => { sp with
      atc := s.spine.atc.filter fun e => !(e.meets f addr len && !e.lock) }).emit (.invalidationDone f) := by
  let record (e : AtcEntry) (s : State) : State :=
    s.feed spineFeed { hrec 0x213 1 (fnNode f) (p48 f) (p48 (e.page.toNat / 4096)) 0 with fDest := some f }
  obtain ⟨hall, hrecords⟩ : ∃ hall,
      eachOf (s.spine.atc.filter fun e => e.meets f addr len && e.lock) record s = { s with hall } := by
    refine eachOf_inv (fun u => ∃ hall, u = { s with hall }) _ _ (fun e u h => ?_) s ⟨_, rfl⟩
    obtain ⟨_, rfl⟩ := h
    exact feed_hall_only ..
  refine ⟨hall, ?_⟩
  have hrequest : atsInvalidationRequest f addr len s =
      ((eachOf (s.spine.atc.filter fun e => e.meets f addr len && e.lock) record s).updSpine fun sp => { sp with
        atc := sp.atc.filter fun e => !(e.meets f addr len && !e.lock) }).emit (.invalidationDone f) := rfl
  rw [hrequest, hrecords]
  rfl

/-! ### Commands whose buffer read timed out -/

section
variable {s : State} {f idx : Nat} {k : Taken}

/-- TOUCHMARK whose record does not come in time. -/
theorem touchmark_timeout (h16 : 16 ≤ k.num 16 4) (hmax : k.num 16 4 ≤ 16384) (h8 : k.num 16 4 % 8 = 0) (hup : (s.fn f).up = true)
    (hats : (s.fn f).ats = false) :
    touchmark .timeout f idx k s = some (completeCmd f idx ccREADFAIL 0 (setAer f aerTimeout s)) := by
  have harg : ¬ (decide (k.num 16 4 < 16) || decide (16384 < k.num 16 4) || k.num 16 4 % 8 != 0) = true := by
    simp only [Bool.or_eq_true, decide_eq_true_eq, bne_iff_ne]
    omega
  have hready : bufReady f idx (bits k.desc 64 64) (k.num 16 4) false (readFailure .timeout) s = none :=
    bufReady_open fun p _ => by simp [State.hostAddr, hats]
  refine (if_neg harg).trans ?_
  simp only [readBuffer, hup, hready, Bool.not_true, Bool.false_eq_true, if_false]
  rfl

/-- The timeout of a buffer read that is not LINE_RESTORE's tries the commands that read buffers. -/
theorem exec_operandBuffer (hf : f < s.par.nFunc) (h : s.taken f idx = some k) (ho : k.opc.toNat ≠ 0x05) :
    exec (.nonPostedTimeout f (.operandBuffer idx)) s = .next (bufferTimeout f idx s) := by
  have hopc : decide (k.opc = 0x05) = false := decide_eq_false fun e => ho (congrArg BitVec.toNat e)
  refine (atFn_built _ hf).trans (congrArg _ ?_)
  simp only [nonPostedTimeout, h, hopc, Bool.false_and, Bool.false_eq_true, if_false]

/-- Only a TOUCHMARK or an ATC_LOCK may be meant where the command is of neither of the other rows. -/
theorem bufferTimeout_late (h : s.taken f idx = some k) (h05 : k.opc.toNat ≠ 0x05) (h18 : k.opc.toNat ≠ 0x18)
    (h31 : k.opc.toNat ≠ 0x31) :
    bufferTimeout f idx s =
      startCmd f idx 0x3A (atcLock .timeout f idx) (startCmd f idx 0x38 (touchmark .timeout f idx) s) := by
  rw [bufferTimeout, startCmd_other _ h h05, startCmd_other _ h h18, startCmd_other _ h h31]

theorem touchmark_times_out (hstart : s.mayStart f idx 0x38 k) (h16 : 16 ≤ k.num 16 4) (hmax : k.num 16 4 ≤ 16384)
    (h8 : k.num 16 4 % 8 = 0) (hup : (s.fn f).up = true) (hats : (s.fn f).ats = false) :
    exec (.nonPostedTimeout f (.operandBuffer idx)) s =
      .next (completeCmd f idx ccREADFAIL 0 (setAer f aerTimeout (s.begin f idx))) := by
  have ⟨hf, htaken, hopc, _⟩ := hstart
  have hup' := (up_begin htaken).trans hup
  have haer : ((setAer f aerTimeout (s.begin f idx)).fn f).up = true := by
    rw [setAer, fn_updFn_of_ne]
    · exact hup'
    · exact Fn.ne_initial_of_up f hup'
  have hgo := touchmark_timeout (idx := idx) h16 hmax h8 hup' ((ats_begin htaken).trans hats)
  rw [exec_operandBuffer hf htaken (by simp [hopc]), bufferTimeout_late htaken (by simp [hopc]) (by simp [hopc]) (by simp [hopc]),
    startCmd_works hstart hgo, startCmd_untaken _ (taken_completeCmd idx 0 ccREADFAIL haer)]

/-- An ATC_LOCK whose translation times out ends with WALKERR. -/
theorem atcLock_times_out (hstart : s.mayStart f idx 0x3A k) (hmay : (s.begin f idx).MayLock f k) :
    exec (.nonPostedTimeout f (.operandBuffer idx)) s = .next (completeCmd f idx ccWALKERR 0
      (raiseFail f k.atcAddr (true, 0) (setAer f aerTimeout (s.begin f idx)))) := by
  have ⟨hf, htaken, hopc, _⟩ := hstart
  have hgo := atcLock_fails (idx := idx) hmay (translate_fails (r := .timeout) rfl)
  rw [exec_operandBuffer hf htaken (by simp [hopc]), bufferTimeout_late htaken (by simp [hopc]) (by simp [hopc]) (by simp [hopc]),
    startCmd_other _ htaken (by simp [hopc]), startCmd_works hstart hgo]
  rfl

end

/-! ### Translations that time out -/

section
variable {s : State} {f : Nat} {addr : W64}

theorem setBit_setBit_same {n : Nat} (x : BitVec n) (i : Nat) (b : Bool) : setBit (setBit x i b) i b = setBit x i b := by
  refine BitVec.eq_of_getLsbD_eq fun j hj => ?_
  have h (y : BitVec n) : (setBit y i b).getLsbD j = if j = i then b else y.getLsbD j := bit_setBit y i j b hj
  rw [h, h]
  split <;> rfl

theorem timeout_unrequested {write spec : Bool} (h : (s.fn f).requested addr write spec = false) :
    atsTranslationCompletion f addr write spec .timeout s = s := completion_unrequested h

theorem exec_translationTimeout (hf : f < s.par.nFunc) (spec : Bool) :
    exec (.nonPostedTimeout f (.translation addr spec)) s = .next (atsTranslationCompletion f addr true spec .timeout
      (atsTranslationCompletion f addr false spec .timeout s)) := atFn_built _ hf

/-- A speculative translation that times out: its request is outstanding no more, and nothing is reported. -/
theorem spec_timeout_leaves (write : Bool) :
    let t := atsTranslationCompletion f addr write true .timeout s
    t.spine = s.spine ∧ t.slices = s.slices ∧ (s.canon = true → t.canon = true ∧ (t.fn f).aer = (s.fn f).aer ∧
      (t.fn f).requested addr write true = false ∧
      ∀ w, (s.fn f).requested addr w true = false → (t.fn f).requested addr w true = false) := by
  intro t
  cases hreq : (s.fn f).requested addr write true with
  | false =>
    have ht : t = s := timeout_unrequested hreq
    rw [ht]
    exact ⟨rfl, rfl, fun c => ⟨c, rfl, hreq, fun _ => id⟩⟩
  | true =>
    have ht : t = endSpec f addr write s := completion_spec_fails hreq rfl
    rw [ht]
    refine ⟨rfl, rfl, fun c => ?_⟩
    have hfn : (endSpec f addr write s).fn f =
        { s.fn f with specReqs := (s.fn f).specReqs.filter fun q => q != transKey addr write } := State.fn_updFn_same f _ c
    rw [hfn]
    refine ⟨State.canon_updFn f _ c, rfl, by simp [Fn.requested], fun w hw => ?_⟩
    simp only [Fn.requested, if_true, Bool.and_eq_false_iff] at hw ⊢
    refine hw.imp_right fun hw => ?_
    simp only [List.contains_eq_mem, decide_eq_false_iff_not] at hw ⊢
    exact fun hmem => hw (List.mem_of_mem_filter hmem)

/-- What a demanded translation that times out leaves of its function: the rings, and the error reported. -/
structure TimedOut (f : Nat) (s t : State) : Prop where
  canon : t.canon = true
  status : bit t.spine.assay.status 3 = true
  atc : t.spine.atc = s.spine.atc
  aer : (t.fn f).aer = setBit (s.fn f).aer aerTimeout true
  rings : ∀ i, (t.fn f).ring i = (s.fn f).ring i
  others : ∀ g, g ≠ f → t.fn g = s.fn g
  slices : t.slices = s.slices

theorem timedOut_demand {write : Bool} (c : s.canon = true) (hreq : (s.fn f).requested addr write false = true) :
    TimedOut f s (atsTranslationCompletion f addr write false .timeout s) := by
  let u := setAer f aerTimeout (endRequest f addr write s)
  let v := raiseFail f addr (true, 0) u
  have hends : atsTranslationCompletion f addr write false .timeout s = noteFail f addr write (some (true, 0)) v :=
    completion_demand_fails hreq rfl
  have cr : (endRequest f addr write s).canon = true := State.canon_updFn f _ c
  have cu : u.canon = true := State.canon_updFn f _ cr
  have hraise : TableRead u v := tableRead_raiseFail ..
  have cv : v.canon = true := hraise.keeps.canon cu
  have hu : u.fn f = { s.fn f with
      transReqs := (s.fn f).transReqs.filter fun q => q != transKey addr write
      aer := setBit (s.fn f).aer aerTimeout true } := by
    refine (State.fn_updFn_same f _ cr).trans ?_
    rw [endRequest, State.fn_updFn_same f _ c]
  have hfn : (noteFail f addr write (some (true, 0)) v).fn f = { u.fn f with
      transFails := ((u.fn f).transFails.filter fun kv => kv.1 != transKey addr write) ++ [(transKey addr write, (true, 0))] } := by
    rw [noteFail, State.fn_updFn_same f _ cv, fn_of_fns hraise.fns]
    rfl
  rw [hu] at hfn
  rw [hends]
  refine ⟨State.canon_updFn f _ cv, noted_raiseFail f addr (true, 0) u, atc_raiseFail .., ?_, fun i => ?_, fun g hg => ?_, hraise.slices⟩
  · rw [hfn]
  · rw [hfn]
    cases i <;> rfl
  · exact (State.fn_updFn_ne _ cv hg).trans ((fn_of_fns hraise.fns g).trans
      ((State.fn_updFn_ne _ cr hg).trans (State.fn_updFn_ne _ c hg)))

theorem TimedOut.trans {t u : State} (h : TimedOut f s t) (g : TimedOut f t u) : TimedOut f s u where
  canon := g.canon
  status := g.status
  atc := g.atc.trans h.atc
  aer := by rw [g.aer, h.aer, setBit_setBit_same]
  rings i := (g.rings i).trans (h.rings i)
  others k hk := (g.others k hk).trans (h.others k hk)
  slices := g.slices.trans h.slices

/-- A page demanded for reads, for writes or for both. -/
theorem timedOut_translation (c : s.canon = true)
    (h : (s.fn f).requested addr false false = true ∨ (s.fn f).requested addr true false = true) :
    TimedOut f s (atsTranslationCompletion f addr true false .timeout (atsTranslationCompletion f addr false false .timeout s)) := by
  cases hread : (s.fn f).requested addr false false with
  | false =>
    rw [timeout_unrequested hread]
    exact timedOut_demand c (h.resolve_left (by simp [hread]))
  | true =>
    have hfirst := timedOut_demand c hread
    cases hwrite : ((atsTranslationCompletion f addr false false .timeout s).fn f).requested addr true false with
    | false =>
      rw [timeout_unrequested hwrite]
      exact hfirst
    | true => exact hfirst.trans (timedOut_demand hfirst.canon hwrite)

end

/-- Settles O20: a completion fills an entry or raises its failure, which the access that waits meets; the timeouts are those of the
fetch, of the buffer read, and of the translation. -/
theorem translations : Obligations.Translations := by
  unfold Obligations.Translations
  refine ⟨fun s f addr needWrite hf hats => ⟨?_, ?_, ?_, ?_, ?_⟩, ?_, fun s f hf => ⟨?_, ?_, ?_, ?_, ?_, ?_⟩⟩
  · intro spec rd wr page size hreq hright
    have hexec := (atFn_built _ hf).trans (congrArg Host.Outcome.next (completion_fills (page := page) (size := size) hreq hright))
    refine ⟨_, hexec, ⟨_, List.mem_append_right _ List.mem_cons_self, covers_atcEntry .., rfl, rfl⟩, fun x hx hlock => ?_, rfl⟩
    exact lock_stays_placed rfl hx hlock
  · intro hreq rd wr page size hright
    obtain ⟨t, hexec, hstatus, hatc, -, hfns, hslices⟩ := demand_fails_leaves hf hreq (transFailure_denied page size hright)
    exact ⟨t, hexec, hstatus, hatc, hfns, hslices⟩
  · intro r hr
    have hfail := transFailure_failed (!needWrite) needWrite hr
    refine ⟨fun hreq => demand_fails_leaves hf hreq hfail, fun hreq => ?_⟩
    exact (atFn_built _ hf).trans (congrArg _ (completion_spec_fails hreq hfail))
  · exact fun spec r hreq => (atFn_built _ hf).trans (congrArg _ (completion_unrequested hreq))
  · intro hcan hret hr
    have hexec := exec_commandFetch (hr := hr) hf hcan hret
    refine ⟨fun hnone => ⟨fun kv hkv => ?_, fun hno hread => ?_, fun e hno hread => ?_⟩, fun hopen hread => ?_⟩
    · exact hexec.trans (congrArg _ (fetched_fails (hostFail_noted hnone hkv)))
    · exact hexec.trans (congrArg _ (fetched_waits hnone hno hread))
    · have hraise := tableRead_raiseFail f (s.fn f).descAddr e
        (endRequest f (s.fn f).descAddr false (needPage f (s.fn f).descAddr false s))
      refine ⟨_, hexec.trans (congrArg _ (fetched_fails (hread ▸ hostFail_given hnone hno e))), hraise.fns, noted_raiseFail .., ?_⟩
      exact hraise.slices.trans slices_needPage
    · obtain ⟨at', hat⟩ := Option.ne_none_iff_exists'.1 hopen
      exact hexec.trans (congrArg _ (fetched_open hat hread))
  · intro s f addr len hf
    obtain ⟨hall, hdrops⟩ := atsInvalidationRequest_drops f addr len s
    refine ⟨_, (atFn_built _ hf).trans (congrArg _ hdrops), List.mem_append_right _ List.mem_cons_self, fun e => ?_, rfl, rfl,
      rfl, rfl⟩
    rw [State.emit_spine, State.updSpine_spine, List.mem_filter, ← AtcEntry.meets_eq_false, Bool.not_eq_true', Bool.and_eq_false_iff,
      Bool.not_eq_false', or_comm]
  · intro c hcan hopen
    obtain ⟨at', hat⟩ := Option.ne_none_iff_exists'.1 hopen
    have hexec : exec (.nonPostedTimeout f .descriptor) s = .next _ :=
      (atFn_built _ hf).trans (congrArg _ ((if_pos hcan).trans (fetched_timeout hat)))
    obtain ⟨⟨msix, heldMsix, hfn⟩, hslices⟩ := stopRing_cmd f 5 (s.fn f).descAddr 0 (State.canon_updFn f (fun x =>
      { x with aer := setBit x.aer aerTimeout true }) c)
    rw [State.fn_updFn_same f _ c] at hfn
    refine ⟨_, hexec, ?_⟩
    rw [setAer, hfn]
    exact ⟨rfl, rfl, rfl, rfl, hslices⟩
  · exact fun idx k hstart h16 hmax h8 hup hats => touchmark_times_out hstart h16 hmax h8 hup hats
  · intro idx k hstart hneed hats hup hroom
    have htaken := hstart.2.1
    have hmay : (s.begin f idx).MayLock f k := ⟨hneed, (ats_begin htaken).trans hats, (up_begin htaken).trans hup, hroom⟩
    have hraise := tableRead_raiseFail f k.atcAddr (true, 0) (setAer f aerTimeout (s.begin f idx))
    exact ⟨_, atcLock_times_out hstart hmay, noted_raiseFail f k.atcAddr (true, 0) _, hraise.fns, atc_raiseFail .., hraise.slices⟩
  · intro addr spec hread hwrite
    rw [exec_translationTimeout hf, timeout_unrequested hread, timeout_unrequested hwrite]
  · intro addr
    obtain ⟨hspine, hslices, hfirst⟩ := spec_timeout_leaves (s := s) (f := f) (addr := addr) false
    obtain ⟨hspine', hslices', hthen⟩ :=
      spec_timeout_leaves (s := atsTranslationCompletion f addr false true .timeout s) (f := f) (addr := addr) true
    refine ⟨_, exec_translationTimeout hf true, hspine'.trans hspine, hslices'.trans hslices, fun c => ?_⟩
    obtain ⟨c', haer, hread, -⟩ := hfirst c
    obtain ⟨-, haer', hwrite, hkeep⟩ := hthen c'
    exact ⟨haer'.trans haer, hkeep false hread, hwrite⟩
  · intro addr c hreq
    have h := timedOut_translation c hreq
    exact ⟨_, exec_translationTimeout hf false, h.status, h.atc, h.aer, h.rings, h.others, h.slices⟩

end Sys2Proof.Machine
end

section
/-! SUPPORT. O18: MSI-X vectors (11 R292, R293): what interrupts sent, held back and made pending leave of a function, and the rows
by which configuration software unmasks and enables. -/

namespace Sys2Proof.Machine

/-! ### A function's vectors -/

/-- A value other than the default, written at a key, leaves what every other key reads, whatever the table. -/
theorem mget_mput_ne_of_ne {α : Type} [DecidableEq α] {d v : α} {i k : Nat} (m : Map α) (hv : v ≠ d) (hk : i ≠ k) :
    mget d (mput d m k v) i = mget d m i := by
  induction m with
  | nil =>
    simp only [mput, if_neg hv, mget, if_neg hk.symm]
    exact ite_self d
  | cons x r ih =>
    obtain ⟨j, w⟩ := x
    rcases mput_cons d w v j k r with ⟨hkj, e⟩ | ⟨rfl, e⟩ | ⟨-, e⟩ <;> rw [e]
    · rw [if_neg hv]
      by_cases hik : i < k
      · simp only [mget, if_neg hk.symm, if_pos hik, if_neg (show ¬ j = i by omega), if_pos (show i < j by omega)]
      · simp only [mget, if_neg hk.symm, if_neg hik]
    · simp only [if_neg hv, mget, if_neg hk.symm]
    · simp only [mget, ih]

/-- A vector that is unmasked or pending is not as at reset. -/
theorem MsixVec.ne_reset {m : MsixVec} (h : m.mask = false ∨ m.pending = true) : m ≠ {} := by
  rintro rfl
  rcases h with h | h <;> cases h

/-- A vector written unmasked or pending is read as written, and every other one as before. -/
theorem Fn.vec_setVec (x : Fn) (v w : Nat) {m : MsixVec} (h : m.mask = false ∨ m.pending = true) :
    (x.setVec v m).vec w = if w = v then m else x.vec w := by
  split
  · next e => exact e ▸ mget_mput_of_ne x.msix w (MsixVec.ne_reset h)
  · next hne => exact mget_mput_ne_of_ne x.msix (MsixVec.ne_reset h) hne

/-- What interrupts leave: all but the function's pending vectors and held messages, and what is driven outwards, which grows. -/
structure VectorWork (f : Nat) (s t : State) : Prop where
  canon : t.canon = true
  state : t = { s with fns := t.fns, out := t.out }
  fn : ∃ msix heldMsix, t.fn f = { s.fn f with msix, heldMsix }
  others : ∀ g, g ≠ f → t.fn g = s.fn g
  vec : ∀ v, ((t.fn f).vec v).addr = ((s.fn f).vec v).addr ∧ ((t.fn f).vec v).data = ((s.fn f).vec v).data ∧
    ((t.fn f).vec v).mask = ((s.fn f).vec v).mask
  out : s.out ⊆ t.out

section
variable {s t u : State} {f : Nat}

theorem VectorWork.refl (f : Nat) (c : s.canon = true) : VectorWork f s s :=
  ⟨c, rfl, ⟨_, _, rfl⟩, fun _ _ => rfl, fun _ => ⟨rfl, rfl, rfl⟩, fun _ => id⟩

theorem VectorWork.trans (h : VectorWork f s t) (g : VectorWork f t u) : VectorWork f s u where
  canon := g.canon
  state := g.state.trans (by rw [h.state])
  fn := by
    obtain ⟨_, _, hfn⟩ := h.fn
    obtain ⟨msix, heldMsix, gfn⟩ := g.fn
    exact ⟨msix, heldMsix, by rw [gfn, hfn]⟩
  others k hk := (g.others k hk).trans (h.others k hk)
  vec v := by
    obtain ⟨haddr, hdata, hmask⟩ := h.vec v
    obtain ⟨gaddr, gdata, gmask⟩ := g.vec v
    exact ⟨gaddr.trans haddr, gdata.trans hdata, gmask.trans hmask⟩
  out := List.Subset.trans h.out g.out

theorem VectorWork.functionMask (h : VectorWork f s t) : (t.fn f).functionMask = (s.fn f).functionMask := by
  obtain ⟨_, _, hfn⟩ := h.fn
  rw [hfn]

theorem VectorWork.up (h : VectorWork f s t) : (t.fn f).up = (s.fn f).up := by
  obtain ⟨_, _, hfn⟩ := h.fn
  rw [hfn]
  rfl

/-- The function written, its vectors' numbers, addresses, data and masks aside. -/
theorem vectorWork_updFn (g : Fn → Fn) (c : s.canon = true)
    (hfn : ∃ msix heldMsix, g (s.fn f) = { s.fn f with msix, heldMsix })
    (hvec : ∀ v, ((g (s.fn f)).vec v).addr = ((s.fn f).vec v).addr ∧ ((g (s.fn f)).vec v).data = ((s.fn f).vec v).data ∧
      ((g (s.fn f)).vec v).mask = ((s.fn f).vec v).mask) : VectorWork f s (s.updFn f g) where
  canon := State.canon_updFn f g c
  state := rfl
  fn := by rwa [State.fn_updFn_same f g c]
  others k hk := State.fn_updFn_ne g c hk
  vec := by rwa [State.fn_updFn_same f g c]
  out _ := id

/-- A vector's pending bit written. -/
theorem vectorWork_setPending (v : Nat) (p : Bool) (c : s.canon = true) (h : ((s.fn f).vec v).mask = false ∨ p = true) :
    VectorWork f s (s.updFn f fun x => x.setVec v { x.vec v with pending := p }) := by
  refine vectorWork_updFn _ c ⟨_, _, rfl⟩ fun w => ?_
  rw [Fn.vec_setVec _ _ _ (by exact h)]
  split
  · next e => exact e ▸ ⟨rfl, rfl, rfl⟩
  · exact ⟨rfl, rfl, rfl⟩

theorem vectorWork_setHeld (g : List Nat → List Nat) (c : s.canon = true) :
    VectorWork f s (s.updFn f fun x => { x with heldMsix := g x.heldMsix }) :=
  vectorWork_updFn _ c ⟨_, _, rfl⟩ fun _ => ⟨rfl, rfl, rfl⟩

theorem vectorWork_emit (o : Out) (c : s.canon = true) : VectorWork f s (s.emit o) :=
  ⟨c, rfl, ⟨_, _, rfl⟩, fun _ _ => rfl, fun _ => ⟨rfl, rfl, rfl⟩, List.subset_append_left ..⟩

theorem vectorWork_eachOf {op : Nat → State → State} (l : List Nat) (hop : ∀ v u, u.canon = true → VectorWork f u (op v u))
    (c : s.canon = true) : VectorWork f s (eachOf l op s) :=
  eachOf_inv (VectorWork f s) l op (fun v _ h => h.trans (hop v _ h.canon)) s (.refl f c)

/-! ### An interrupt (R292, R293) -/

/-- The message of a vector. -/
def Fn.msixOut (x : Fn) (f v : Nat) : Out := .msix f v (x.vec v).addr (x.vec v).data

theorem VectorWork.msixOut (h : VectorWork f s t) (v : Nat) : (t.fn f).msixOut f v = (s.fn f).msixOut f v := by
  obtain ⟨haddr, hdata, -⟩ := h.vec v
  rw [Fn.msixOut, haddr, hdata]
  rfl

theorem sendMsix_sends {v : Nat} (hfm : (s.fn f).functionMask = false) (hm : ((s.fn f).vec v).mask = false)
    (hup : (s.fn f).up = true) : sendMsix f v s = s.emit ((s.fn f).msixOut f v) := by
  simp [sendMsix, hfm, hm, hup, Fn.msixOut]

/-- All that an interrupt can do: it becomes pending on a masked vector, is held back, or is sent. -/
theorem sendMsix_cases (f v : Nat) (s : State) :
    ((s.fn f).functionMask = true ∨ ((s.fn f).vec v).mask = true) ∧
      sendMsix f v s = s.updFn f (fun x => x.setVec v { x.vec v with pending := true }) ∨
    (s.fn f).up = false ∧ sendMsix f v s = s.updFn f (fun x => { x with heldMsix := x.heldMsix ++ [v] }) ∨
    sendMsix f v s = s.emit ((s.fn f).msixOut f v) := by
  simp only [sendMsix]
  split
  · next h => exact .inl ⟨by simpa using h, rfl⟩
  · split
    · next h => exact .inr (.inl ⟨by simpa using h, rfl⟩)
    · exact .inr (.inr rfl)

theorem vectorWork_sendMsix (v : Nat) (c : s.canon = true) : VectorWork f s (sendMsix f v s) := by
  rcases sendMsix_cases f v s with ⟨-, e⟩ | ⟨-, e⟩ | e <;> rw [e]
  · exact vectorWork_setPending v true c (.inr rfl)
  · exact vectorWork_setHeld (· ++ [v]) c
  · exact vectorWork_emit _ c

/-- A function that may write holds no interrupt back. -/
theorem heldMsix_sendMsix (v : Nat) (c : s.canon = true) (hup : (s.fn f).up = true) :
    ((sendMsix f v s).fn f).heldMsix = (s.fn f).heldMsix := by
  rcases sendMsix_cases f v s with ⟨-, e⟩ | ⟨hdown, -⟩ | e
  · rw [e, State.fn_updFn_same f _ c]
    rfl
  · rw [hup] at hdown
    cases hdown
  · rw [e]
    rfl

/-- A vector that nothing masks is left as it is by every interrupt. -/
theorem vec_sendMsix {v : Nat} (w : Nat) (c : s.canon = true) (hfm : (s.fn f).functionMask = false)
    (hm : ((s.fn f).vec v).mask = false) : ((sendMsix f w s).fn f).vec v = (s.fn f).vec v := by
  rcases sendMsix_cases f w s with ⟨hmasked, e⟩ | ⟨-, e⟩ | e <;> rw [e]
  · have hne : v ≠ w := by
      rintro rfl
      simp [hfm, hm] at hmasked
    rw [State.fn_updFn_same f _ c, Fn.vec_setVec _ _ _ (.inr rfl), if_neg hne]
  · rw [State.fn_updFn_same f _ c]
    rfl
  · rfl

/-! ### A pending interrupt sent -/

/-- An interrupt is pending on a vector that nothing masks. -/
def Fn.due (x : Fn) (v : Nat) : Bool := (x.vec v).pending && !x.functionMask && !(x.vec v).mask

theorem Fn.due_iff {x : Fn} {v : Nat} :
    x.due v = true ↔ (x.vec v).pending = true ∧ x.functionMask = false ∧ (x.vec v).mask = false := by
  simp [Fn.due, and_assoc]

theorem sendPending_not_due {v : Nat} (h : (s.fn f).due v = false) : sendPending f v s = s := by
  rw [Fn.due] at h
  simp [sendPending, h]

/-- A pending interrupt that is due leaves its vector and is sent, or held back while the function may not write. -/
theorem sendPending_due {v : Nat} (c : s.canon = true) (h : (s.fn f).due v = true) :
    VectorWork f s (sendPending f v s) ∧
      (∀ w, ((sendPending f v s).fn f).vec w =
        if w = v then { (s.fn f).vec v with pending := false } else (s.fn f).vec w) ∧
      ((s.fn f).up = true → (sendPending f v s).out = s.out ++ [(s.fn f).msixOut f v] ∧
        ((sendPending f v s).fn f).heldMsix = (s.fn f).heldMsix) := by
  obtain ⟨-, hfm, hm⟩ := Fn.due_iff.1 h
  let t := s.updFn f fun x => x.setVec v { x.vec v with pending := false }
  have hwork : VectorWork f s t := vectorWork_setPending v false c (.inl hm)
  have ht : t.fn f = (s.fn f).setVec v { (s.fn f).vec v with pending := false } := State.fn_updFn_same f _ c
  have hvec (w : Nat) : (t.fn f).vec w = if w = v then { (s.fn f).vec v with pending := false } else (s.fn f).vec w := by
    rw [ht]
    exact Fn.vec_setVec _ _ _ (.inl hm)
  have hsend : sendPending f v s = sendMsix f v t := if_pos h
  have hfmt : (t.fn f).functionMask = false := hwork.functionMask.trans hfm
  have hmt : ((t.fn f).vec v).mask = false := by rw [hvec, if_pos rfl, hm]
  rw [hsend]
  refine ⟨hwork.trans (vectorWork_sendMsix v hwork.canon), fun w => ?_, fun hup => ?_⟩
  · rcases sendMsix_cases f v t with ⟨hmasked, -⟩ | ⟨-, e⟩ | e
    · simp [hfmt, hmt] at hmasked
    · rw [e, State.fn_updFn_same f _ hwork.canon, ← hvec]
      rfl
    · rw [e, ← hvec]
      rfl
  · have hupt := hwork.up.trans hup
    rw [heldMsix_sendMsix v hwork.canon hupt, sendMsix_sends hfmt hmt hupt, hwork.msixOut]
    exact ⟨rfl, by rw [ht]; rfl⟩

theorem vectorWork_sendPending (v : Nat) (c : s.canon = true) : VectorWork f s (sendPending f v s) := by
  cases h : (s.fn f).due v with
  | false => rw [sendPending_not_due h]; exact .refl f c
  | true => exact (sendPending_due c h).1

theorem vec_sendPending (v w : Nat) (c : s.canon = true) :
    ((sendPending f v s).fn f).vec w =
      if w = v ∧ (s.fn f).due v = true then { (s.fn f).vec w with pending := false } else (s.fn f).vec w := by
  cases h : (s.fn f).due v with
  | false => simp [sendPending_not_due h]
  | true =>
    rw [(sendPending_due c h).2.1 w]
    by_cases e : w = v <;> simp [e]

theorem heldMsix_sendPending (v : Nat) (c : s.canon = true) (hup : (s.fn f).up = true) :
    ((sendPending f v s).fn f).heldMsix = (s.fn f).heldMsix := by
  cases h : (s.fn f).due v with
  | false => rw [sendPending_not_due h]
  | true =>
    obtain ⟨-, -, hsent⟩ := sendPending_due c h
    exact (hsent hup).2

/-! ### Interrupts of many vectors -/

/-- A message held back for a vector that nothing masks is sent once the function may write. -/
theorem mem_out_sendMsix {l : List Nat} {v : Nat} (hv : v ∈ l) (c : s.canon = true) (hfm : (s.fn f).functionMask = false)
    (hm : ((s.fn f).vec v).mask = false) (hup : (s.fn f).up = true) :
    (s.fn f).msixOut f v ∈ (eachOf l (sendMsix f) s).out := by
  induction l generalizing s with
  | nil => cases hv
  | cons w l ih =>
    rw [eachOf_cons]
    have hwork : VectorWork f s (sendMsix f w s) := vectorWork_sendMsix w c
    by_cases e : v = w
    · subst e
      refine (vectorWork_eachOf l (fun _ _ => vectorWork_sendMsix _) hwork.canon).out ?_
      rw [sendMsix_sends hfm hm hup]
      exact List.mem_append_right _ List.mem_cons_self
    · rw [← hwork.msixOut]
      exact ih ((List.mem_cons.1 hv).resolve_left e) hwork.canon (hwork.functionMask.trans hfm) ((hwork.vec v).2.2.trans hm)
        (hwork.up.trans hup)

theorem vec_eachOf_sendMsix {v : Nat} (l : List Nat) (c : s.canon = true) (hfm : (s.fn f).functionMask = false)
    (hm : ((s.fn f).vec v).mask = false) : ((eachOf l (sendMsix f) s).fn f).vec v = (s.fn f).vec v := by
  refine (eachOf_inv (fun u => VectorWork f s u ∧ (u.fn f).vec v = (s.fn f).vec v) l _ (fun w u hu => ?_) s ⟨.refl f c, rfl⟩).2
  obtain ⟨hwork, hvec⟩ := hu
  exact ⟨hwork.trans (vectorWork_sendMsix w hwork.canon),
    (vec_sendMsix w hwork.canon (hwork.functionMask.trans hfm) ((hwork.vec v).2.2.trans hm)).trans hvec⟩

theorem heldMsix_eachOf {op : Nat → State → State} (l : List Nat) (hop : ∀ v u, u.canon = true → VectorWork f u (op v u))
    (hheld : ∀ v u, u.canon = true → (u.fn f).up = true → ((op v u).fn f).heldMsix = (u.fn f).heldMsix) (c : s.canon = true)
    (hup : (s.fn f).up = true) : ((eachOf l op s).fn f).heldMsix = (s.fn f).heldMsix := by
  refine (eachOf_inv (fun u => VectorWork f s u ∧ (u.fn f).heldMsix = (s.fn f).heldMsix) l op (fun v u hu => ?_) s
    ⟨.refl f c, rfl⟩).2
  obtain ⟨hwork, hsame⟩ := hu
  exact ⟨hwork.trans (hop v u hwork.canon), (hheld v u hwork.canon (hwork.up.trans hup)).trans hsame⟩

theorem vectorWork_sendAllPending (l : List Nat) (c : s.canon = true) : VectorWork f s (eachOf l (sendPending f) s) :=
  vectorWork_eachOf l (fun v _ => vectorWork_sendPending v) c

/-- No vector becomes pending as others are sent. -/
theorem not_pending_eachOf_sendPending {v : Nat} (l : List Nat) (c : s.canon = true) (h : ((s.fn f).vec v).pending = false) :
    (((eachOf l (sendPending f) s).fn f).vec v).pending = false := by
  refine (eachOf_inv (fun u => u.canon = true ∧ ((u.fn f).vec v).pending = false) l _ (fun w u hu => ?_) s ⟨c, h⟩).2
  obtain ⟨cu, hclear⟩ := hu
  refine ⟨(vectorWork_sendPending w cu).canon, ?_⟩
  rw [vec_sendPending w v cu]
  split
  · rfl
  · exact hclear

/-- Every pending interrupt that is due is sent and is pending no more. -/
theorem sendPending_all {l : List Nat} {v : Nat} (hv : v ∈ l) (c : s.canon = true) (hdue : (s.fn f).due v = true)
    (hup : (s.fn f).up = true) :
    (s.fn f).msixOut f v ∈ (eachOf l (sendPending f) s).out ∧
      (((eachOf l (sendPending f) s).fn f).vec v).pending = false := by
  induction l generalizing s with
  | nil => cases hv
  | cons w l ih =>
    rw [eachOf_cons]
    have hwork : VectorWork f s (sendPending f w s) := vectorWork_sendPending w c
    by_cases e : v = w
    · subst e
      obtain ⟨-, hvec, hsent⟩ := sendPending_due c hdue
      refine ⟨(vectorWork_sendAllPending l hwork.canon).out ?_, not_pending_eachOf_sendPending l hwork.canon ?_⟩
      · rw [(hsent hup).1]
        exact List.mem_append_right _ List.mem_cons_self
      · rw [hvec, if_pos rfl]
    · have hvec : ((sendPending f w s).fn f).vec v = (s.fn f).vec v := by
        rw [vec_sendPending w v c, if_neg fun h => e h.1]
      rw [← hwork.msixOut]
      refine ih ((List.mem_cons.1 hv).resolve_left e) hwork.canon ?_ (hwork.up.trans hup)
      rwa [Fn.due, hvec, hwork.functionMask]

/-- A masked vector is left as it is. -/
theorem vec_sendAllPending_masked {v : Nat} (l : List Nat) (c : s.canon = true) (h : ((s.fn f).vec v).mask = true) :
    ((eachOf l (sendPending f) s).fn f).vec v = (s.fn f).vec v := by
  refine (eachOf_inv (fun u => u.canon = true ∧ (u.fn f).vec v = (s.fn f).vec v) l _ (fun w u hu => ?_) s ⟨c, rfl⟩).2
  obtain ⟨cu, hvec⟩ := hu
  refine ⟨(vectorWork_sendPending w cu).canon, ?_⟩
  rw [vec_sendPending w v cu, if_neg, hvec]
  rintro ⟨rfl, hdue⟩
  rw [Fn.due_iff, hvec, h] at hdue
  cases hdue.2.2

/-- Behind the Function Mask nothing pending is sent. -/
theorem sendAllPending_masked (l : List Nat) (h : (s.fn f).functionMask = true) : eachOf l (sendPending f) s = s :=
  eachOf_fixed fun v _ => sendPending_not_due (by simp [Fn.due, h])

/-! ### Messages held back (R293) -/

theorem releaseMsix_down (h : (s.fn f).up = false) : releaseMsix f s = s := by
  simp [releaseMsix, h]

/-- A function that may write sends what it held back. -/
theorem releaseMsix_up (c : s.canon = true) (hup : (s.fn f).up = true) :
    VectorWork f s (releaseMsix f s) ∧ ((releaseMsix f s).fn f).heldMsix = [] ∧
      ∀ v, (s.fn f).functionMask = false → ((s.fn f).vec v).mask = false →
        ((releaseMsix f s).fn f).vec v = (s.fn f).vec v ∧
          (v ∈ (s.fn f).heldMsix → (s.fn f).msixOut f v ∈ (releaseMsix f s).out) := by
  let t := s.updFn f fun x => { x with heldMsix := [] }
  have hrelease : releaseMsix f s = eachOf (s.fn f).heldMsix (sendMsix f) t := if_pos hup
  have hwork : VectorWork f s t := vectorWork_setHeld (fun _ => []) c
  have ht : t.fn f = { s.fn f with heldMsix := [] } := State.fn_updFn_same f _ c
  have hupt := hwork.up.trans hup
  rw [hrelease]
  refine ⟨hwork.trans (vectorWork_eachOf _ (fun _ _ => vectorWork_sendMsix _) hwork.canon), ?_, fun v hfm hm => ?_⟩
  · rw [heldMsix_eachOf _ (fun _ _ => vectorWork_sendMsix _) (fun _ _ => heldMsix_sendMsix _) hwork.canon hupt, ht]
  · have hfmt := hwork.functionMask.trans hfm
    have hmt := (hwork.vec v).2.2.trans hm
    refine ⟨?_, fun hv => ?_⟩
    · rw [vec_eachOf_sendMsix _ hwork.canon hfmt hmt, ht]
      rfl
    · rw [← hwork.msixOut]
      exact mem_out_sendMsix hv hwork.canon hfmt hmt hupt

theorem vectorWork_releaseMsix (c : s.canon = true) : VectorWork f s (releaseMsix f s) := by
  cases h : (s.fn f).up with
  | false => rw [releaseMsix_down h]; exact .refl f c
  | true => exact (releaseMsix_up c h).1

/-! ### Configuration requests (17 R428) -/

theorem cfgRetry_of_ready (hn : (s.fn f).notReady = false) (hr : s.spine.ready = true) : s.cfgRetry f = false := by
  simp [State.cfgRetry, hn, hr]

theorem cfgRetry_of_not_ready (h : (s.fn f).notReady = true ∨ s.spine.ready = false) : s.cfgRetry f = true := by
  simpa [State.cfgRetry] using h

/-! ### MSIX_UNMASK -/

/-- An access to a register without halves writes its function's halves alone (18 R445). -/
theorem keepHalf_leaves (f : Nat) (off : Option Nat) (c : s.canon = true) :
    (keepHalf f off s).canon = true ∧ keepHalf f off s = { s with fns := (keepHalf f off s).fns } ∧
      ∃ half, (keepHalf f off s).fn f = { s.fn f with half } := by
  simp only [keepHalf]
  split
  · exact ⟨c, rfl, _, rfl⟩
  · exact ⟨State.canon_updFn f _ c, rfl, _, State.fn_updFn_same f _ c⟩

/-- A vector's mask clear. -/
def unmaskVector (f v : Nat) (s : State) : State :=
  (keepHalf f none s).updFn f fun x => x.setVec v { x.vec v with mask := false }

theorem unmaskVector_leaves (f v : Nat) (c : s.canon = true) :
    (unmaskVector f v s).canon = true ∧ unmaskVector f v s = { s with fns := (unmaskVector f v s).fns } ∧
      ((unmaskVector f v s).fn f).functionMask = (s.fn f).functionMask ∧ ((unmaskVector f v s).fn f).up = (s.fn f).up ∧
      ∀ w, ((unmaskVector f v s).fn f).vec w = if w = v then { (s.fn f).vec v with mask := false } else (s.fn f).vec w := by
  obtain ⟨ck, hstate, half, hfn⟩ := keepHalf_leaves f none c
  have hu : (unmaskVector f v s).fn f = ({ s.fn f with half } : Fn).setVec v { (s.fn f).vec v with mask := false } := by
    rw [unmaskVector, State.fn_updFn_same f _ ck, hfn]
    rfl
  refine ⟨State.canon_updFn f _ ck, ?_, ?_, ?_, fun w => ?_⟩
  · rw [unmaskVector, hstate]
    rfl
  · rw [hu]
    rfl
  · rw [hu]
    rfl
  · rw [hu]
    exact Fn.vec_setVec _ v w (.inl rfl)

theorem exec_msixUnmask_vector {v : Nat} (hf : f < s.par.nFunc) (hv : v < 64) :
    exec (.msixUnmask f v false) s = .next (sendPending f v (unmaskVector f v s)) :=
  (atFn_built _ hf).trans (congrArg _ (if_pos hv))

/-- The Function Mask clear. -/
def unmaskFunction (f : Nat) (s : State) : State := s.updFn f fun x => { x with functionMask := false }

theorem exec_msixUnmask_function (v : Nat) (hf : f < s.par.nFunc) (h : s.cfgRetry f = false) :
    exec (.msixUnmask f v true) s = .next (eachOf (List.range 64) (sendPending f) (unmaskFunction f s)) := by
  refine (atFn_built _ hf).trans (congrArg _ ?_)
  simp only [msixUnmask, h, Bool.and_false, Bool.false_eq_true, if_false, if_true]
  rfl

theorem exec_msixUnmask_retry (v : Nat) (hf : f < s.par.nFunc) (h : s.cfgRetry f = true) :
    exec (.msixUnmask f v true) s = .next s :=
  (atFn_built _ hf).trans (congrArg _ (by simp only [msixUnmask, h, Bool.and_self, if_true]))

theorem fn_unmaskFunction (c : s.canon = true) : (unmaskFunction f s).fn f = { s.fn f with functionMask := false } :=
  State.fn_updFn_same f _ c

/-- What follows as the Function Mask clears: the mask is clear, and masked vectors stay as they are. -/
theorem unmaskFunction_leaves (l : List Nat) (c : s.canon = true) :
    let t := eachOf l (sendPending f) (unmaskFunction f s)
    (t.fn f).functionMask = false ∧ (∀ w, ((s.fn f).vec w).mask = true → (t.fn f).vec w = (s.fn f).vec w) ∧
      t = { s with fns := t.fns, out := t.out } := by
  intro t
  have hu := fn_unmaskFunction (f := f) c
  have cu : (unmaskFunction f s).canon = true := State.canon_updFn f _ c
  have hwork : VectorWork f (unmaskFunction f s) t := vectorWork_sendAllPending l cu
  refine ⟨hwork.functionMask.trans (by rw [hu]), fun w hw => ?_, hwork.state⟩
  refine (vec_sendAllPending_masked l cu (by rw [hu]; exact hw)).trans ?_
  rw [hu]
  rfl

/-! ### BUS_MASTER_ENABLE_CHANGE and POWER_STATE_CHANGE -/

/-- The enables set; without ATS Enable no Translation Request stays (log 108). -/
def Fn.enabled (x : Fn) (busMaster memSpace ats functionMask : Bool) : Fn :=
  { x with
    busMaster, memSpace, ats, functionMask, transReqs := if ats then x.transReqs else []
    specReqs := if ats then x.specReqs else [], transFails := if ats then x.transFails else [] }

theorem exec_busMasterEnableChange (bm ms ats fm : Bool) (hf : f < s.par.nFunc) (h : s.cfgRetry f = false) :
    exec (.busMasterEnableChange f bm ms ats fm) s =
      .next (eachOf (List.range 64) (sendPending f) (releaseMsix f (s.updFn f (·.enabled bm ms ats fm)))) :=
  (atFn_built _ hf).trans (congrArg _ (if_neg (by simp [h])))

theorem exec_powerStateChange (d3hot : Bool) (hf : f < s.par.nFunc) (h : s.cfgRetry f = false) :
    exec (.powerStateChange f d3hot) s = .next (releaseMsix f (s.updFn f fun x => { x with d3hot })) :=
  (atFn_built _ hf).trans (congrArg _ (if_neg (by simp [h])))

/-- Held and pending interrupts issued together: a function that may write holds none back, and what nothing masks is sent. -/
theorem releaseMsix_then_pending (c : s.canon = true) :
    let t := eachOf (List.range 64) (sendPending f) (releaseMsix f s)
    VectorWork f s t ∧
      ((s.fn f).up = true → (t.fn f).heldMsix = [] ∧
        ∀ v, v < 64 → v ∈ (s.fn f).heldMsix ∨ ((s.fn f).vec v).pending = true → (s.fn f).functionMask = false →
          ((s.fn f).vec v).mask = false → (s.fn f).msixOut f v ∈ t.out) ∧
      ((s.fn f).up = false → (s.fn f).functionMask = true → (t.fn f).heldMsix = (s.fn f).heldMsix) := by
  intro t
  have hwork : VectorWork f s (releaseMsix f s) := vectorWork_releaseMsix c
  have hpending : VectorWork f (releaseMsix f s) t := vectorWork_sendAllPending _ hwork.canon
  refine ⟨hwork.trans hpending, fun hup => ?_, fun hdown hfm => ?_⟩
  · obtain ⟨-, hheld, hsent⟩ := releaseMsix_up c hup
    have hup' := hwork.up.trans hup
    refine ⟨?_, fun v hv hwaits hfm hm => ?_⟩
    · rw [← hheld]
      exact heldMsix_eachOf _ (fun _ _ => vectorWork_sendPending _) (fun _ _ => heldMsix_sendPending _) hwork.canon hup'
    · obtain ⟨hvec, hout⟩ := hsent v hfm hm
      rcases hwaits with hmem | hpend
      · exact hpending.out (hout hmem)
      · rw [← hwork.msixOut]
        refine (sendPending_all (List.mem_range.2 hv) hwork.canon ?_ hup').1
        exact Fn.due_iff.2 ⟨by rw [hvec, hpend], hwork.functionMask.trans hfm, by rw [hvec, hm]⟩
  · rw [show t = s by simp only [t, releaseMsix_down hdown, sendAllPending_masked _ hfm]]

end

/-- Settles O18: each row unmasks or enables, and then sends, one after the other, what was held back or pending. -/
theorem functionConfiguration : Obligations.FunctionConfiguration := by
  unfold Obligations.FunctionConfiguration
  refine ⟨fun s f v c hf hv hup hpend => ⟨fun hfm => ?_, fun hm hn hr => ?_, fun hfm => ?_, fun hm hn hr => ?_, fun h => ?_⟩,
    fun s f c hf => ⟨fun hn hr => ⟨fun bm ms ats fm => ?_, fun d3 => ?_⟩, fun h bm ms ats fm d3 => ⟨?_, ?_⟩, ?_⟩⟩
  · obtain ⟨cu, hstate, hfmu, hupu, hvec⟩ := unmaskVector_leaves f v c
    have hv' : ((unmaskVector f v s).fn f).vec v = { (s.fn f).vec v with mask := false } := by rw [hvec, if_pos rfl]
    obtain ⟨hwork, hvecs, hsent⟩ := sendPending_due (v := v) cu
      (Fn.due_iff.2 ⟨by rw [hv', hpend], hfmu.trans hfm, by rw [hv']⟩)
    refine ⟨_, exec_msixUnmask_vector hf hv, ?_, ?_, fun w hw => ?_, ?_⟩
    · rw [(hsent (hupu.trans hup)).1, Fn.msixOut, hv']
      exact List.mem_append_right _ List.mem_cons_self
    · rw [hvecs, if_pos rfl, hv']
    · rw [hvecs, if_neg hw, hvec, if_neg hw]
    · exact hwork.state.trans (by rw [hstate])
  · have cu : (unmaskFunction f s).canon = true := State.canon_updFn f _ c
    have hu := fn_unmaskFunction (f := f) c
    obtain ⟨hfm, hmasked, hstate⟩ := unmaskFunction_leaves (f := f) (List.range 64) c
    obtain ⟨hout, hclear⟩ := sendPending_all (f := f) (List.mem_range.2 hv) cu
      (Fn.due_iff.2 (by rw [hu]; exact ⟨hpend, rfl, hm⟩)) (by rw [hu]; exact hup)
    rw [hu] at hout
    exact ⟨_, exec_msixUnmask_function v hf (cfgRetry_of_ready hn hr), hout, hfm, hclear, hmasked, hstate⟩
  · have hmasked : ((unmaskVector f v s).fn f).functionMask = true := (unmaskVector_leaves f v c).2.2.1.trans hfm
    refine (exec_msixUnmask_vector hf hv).trans (congrArg _ ?_)
    exact sendPending_not_due (by simp [Fn.due, hmasked])
  · obtain ⟨hfm, hmasked, -⟩ := unmaskFunction_leaves (f := f) (List.range 64) c
    exact ⟨_, exec_msixUnmask_function v hf (cfgRetry_of_ready hn hr), hfm, hmasked v hm⟩
  · exact exec_msixUnmask_retry v hf (cfgRetry_of_not_ready h)
  · let u := s.updFn f (·.enabled bm ms ats fm)
    have hu : u.fn f = (s.fn f).enabled bm ms ats fm := State.fn_updFn_same f _ c
    obtain ⟨hwork, hissued, hheld⟩ := releaseMsix_then_pending (s := u) (f := f) (State.canon_updFn f _ c)
    obtain ⟨msix, heldMsix, hfn⟩ := hwork.fn
    rw [← hwork.up, hu] at hissued hheld
    refine ⟨_, exec_busMasterEnableChange bm ms ats fm hf (cfgRetry_of_ready hn hr), ?_⟩
    rw [hu] at hfn
    have hvec := hwork.vec
    rw [hu] at hvec
    refine ⟨by rw [hfn]; rfl, fun hats => by rw [hfn, hats]; rfl, by rw [hfn]; rfl, by rw [hfn]; rfl, by rw [hfn]; rfl,
      by rw [hfn]; rfl, fun i => by rw [hfn]; cases i <;> rfl, by rw [hfn]; rfl, by rw [hfn]; rfl, hissued,
      by rw [hfn]; rfl, hvec, fun g hg => ?_, hheld, by rw [hwork.state]; rfl, by rw [hwork.state]; rfl⟩
    exact (hwork.others g hg).trans (State.fn_updFn_ne _ c hg)
  · let u := s.updFn f fun x => { x with d3hot := d3 }
    have cu : u.canon = true := State.canon_updFn f _ c
    have hu : u.fn f = { s.fn f with d3hot := d3 } := State.fn_updFn_same f _ c
    have hwork : VectorWork f u (releaseMsix f u) := vectorWork_releaseMsix cu
    obtain ⟨msix, heldMsix, hfn⟩ := hwork.fn
    rw [hu] at hfn
    have hvec := hwork.vec
    rw [hu] at hvec
    refine ⟨_, exec_powerStateChange d3 hf (cfgRetry_of_ready hn hr), by rw [hfn], by rw [hfn], by rw [hfn],
      fun i => by rw [hfn]; cases i <;> rfl, by rw [hfn], by rw [hfn], fun hup => ?_, by rw [hwork.state]; rfl,
      by rw [hwork.state]; rfl, by rw [hfn], hvec, fun g hg => ?_⟩
    · exact (releaseMsix_up cu (hwork.up.symm.trans hup)).2.1
    · exact (hwork.others g hg).trans (State.fn_updFn_ne _ c hg)
  · exact (atFn_built _ hf).trans (congrArg _ (if_pos (cfgRetry_of_not_ready h)))
  · exact (atFn_built _ hf).trans (congrArg _ (if_pos (cfgRetry_of_not_ready h)))
  · exact atFn_built _ hf

end Sys2Proof.Machine
end

section
/-! SUPPORT. O19: a function-level reset (11 R295, Table 11-8): the records it makes, the WINDOW_SYNC commands that end with the window
operations it discards, and the proposals it drops. -/

namespace Sys2Proof.Machine

section
variable {s t u : State} {f : Nat}

/-! ### Records and proposals -/

theorem eachOf_afterFlr (f : Nat) (l : List Done) (s : State) : ∃ hall, eachOf l (afterFlr f) s = { s with hall } := by
  refine eachOf_inv (fun t => ∃ hall, t = { s with hall }) l _ (fun d t ht => ?_) s ⟨_, rfl⟩
  obtain ⟨_, rfl⟩ := ht
  exact feed_hall_only ..

/-- A proposal's number dropped: no proposal has it, and the others stay. -/
theorem dropProposal_filters (pid why : Nat) (s : State) :
    ∃ hall, dropProposal pid why s =
      State.updProt { s with hall } fun p => { p with proposals := p.proposals.filter fun x => x.pid != pid } := by
  simp only [dropProposal]
  split
  · exact feed_hall_only ..
  · next hnone =>
    have hall : s.spine.prot.proposals.filter (fun x => x.pid != pid) = s.spine.prot.proposals :=
      List.filter_eq_self.2 fun p hp => by simpa using fun e => hnone (List.any_eq_true.2 ⟨p, hp, by simpa using e⟩)
    exact ⟨s.hall, by simp only [State.updProt, State.updSpine, hall]⟩

/-- The protection set without the proposals of some numbers. -/
def Protect.without (x : Protect) (l : List Nat) : Protect :=
  { x with proposals := x.proposals.filter fun p => !l.contains p.pid }

theorem Protect.mem_without {x : Protect} {l : List Nat} {p : Proposal} :
    p ∈ (x.without l).proposals ↔ p ∈ x.proposals ∧ p.pid ∉ l := by
  simp [Protect.without]

theorem eachOf_dropProposal (l : List Nat) (why : Nat) (s : State) :
    ∃ hall, eachOf l (fun pid => dropProposal pid why) s = State.updProt { s with hall } (·.without l) := by
  induction l generalizing s with
  | nil => exact ⟨s.hall, by simp [Protect.without, State.updProt, State.updSpine]⟩
  | cons pid l ih =>
    obtain ⟨_, hdrop⟩ := dropProposal_filters pid why s
    obtain ⟨hall, hrest⟩ := ih (dropProposal pid why s)
    refine ⟨hall, ?_⟩
    rw [eachOf_cons, hrest, hdrop]
    simp [Protect.without, State.updProt, State.updSpine, List.filter_filter, Bool.and_comm, bne, beq_eq_decide]

/-! ### The end of WINDOW_SYNC commands (R287) -/

/-- What the end of commands of a function leaves, none of which has an entry to write: all but the commands taken, the jobs and the
recorder; and of the commands taken only such as may end are gone. -/
structure OrphansEnd (f : Nat) (may : Nat → Prop) (s t : State) : Prop where
  canon : t.canon = true
  slices : t.slices = s.slices
  shims : t.shims = s.shims
  ports : t.ports = s.ports
  mesh : t.mesh = s.mesh
  others : ∀ g, g ≠ f → t.fn g = s.fn g
  spine : ∃ jobs, t.spine = { s.spine with jobs } ∧ jobs ⊆ s.spine.jobs
  fn : ∃ taken, t.fn f = { s.fn f with taken } ∧ taken ⊆ (s.fn f).taken ∧ ∀ k ∈ (s.fn f).taken, k ∈ taken ∨ may k.idx

section
variable {may : Nat → Prop}

theorem OrphansEnd.refl (c : s.canon = true) : OrphansEnd f may s s :=
  ⟨c, rfl, rfl, rfl, rfl, fun _ _ => rfl, ⟨_, rfl, List.Subset.refl _⟩, ⟨_, rfl, List.Subset.refl _, fun _ => .inl⟩⟩

theorem OrphansEnd.jobs (h : OrphansEnd f may s t) : t.spine.jobs ⊆ s.spine.jobs := by
  obtain ⟨_, hspine, hsub⟩ := h.spine
  rwa [hspine]

theorem OrphansEnd.taken (h : OrphansEnd f may s t) : (t.fn f).taken ⊆ (s.fn f).taken := by
  obtain ⟨_, hfn, hsub, -⟩ := h.fn
  rwa [hfn]

theorem OrphansEnd.prot (h : OrphansEnd f may s t) : t.spine.prot = s.spine.prot := by
  obtain ⟨_, hspine, -⟩ := h.spine
  rw [hspine]

theorem OrphansEnd.atc (h : OrphansEnd f may s t) : t.spine.atc = s.spine.atc := by
  obtain ⟨_, hspine, -⟩ := h.spine
  rw [hspine]

theorem OrphansEnd.trans (h : OrphansEnd f may s t) (g : OrphansEnd f may t u) : OrphansEnd f may s u where
  canon := g.canon
  slices := g.slices.trans h.slices
  shims := g.shims.trans h.shims
  ports := g.ports.trans h.ports
  mesh := g.mesh.trans h.mesh
  others k hk := (g.others k hk).trans (h.others k hk)
  spine := by
    obtain ⟨_, hspine, -⟩ := h.spine
    obtain ⟨jobs, gspine, gsub⟩ := g.spine
    exact ⟨jobs, by rw [gspine, hspine], List.Subset.trans gsub h.jobs⟩
  fn := by
    obtain ⟨taken, hfn, hsub, hgone⟩ := h.fn
    obtain ⟨taken', gfn, gsub, ggone⟩ := g.fn
    rw [hfn] at gfn gsub ggone
    exact ⟨taken', gfn, List.Subset.trans gsub hsub, fun k hk => (hgone k hk).elim (ggone k) .inr⟩

/-- A command that a reset orphaned ends without an entry. -/
theorem completeCmd_orphan (idx result : Nat) (code : BitVec 8) (horphan : ∀ k ∈ (s.fn f).taken, k.orphan = true) :
    completeCmd f idx code result s = s ∨ ∃ hall, completeCmd f idx code result s =
      State.updFn { s with hall } f fun x => { x with taken := x.taken.filter fun y => y.idx != idx } := by
  simp only [completeCmd]
  split
  · exact .inl rfl
  · next k hk =>
    have ho : k.orphan = true := horphan k (List.mem_of_find?_eq_some hk)
    rw [ho]
    exact .inr (feed_hall_only ..)

theorem orphansEnd_completeCmd {idx : Nat} (code : BitVec 8) (result : Nat) (c : s.canon = true)
    (horphan : ∀ k ∈ (s.fn f).taken, k.orphan = true) (hmay : may idx) :
    OrphansEnd f may s (completeCmd f idx code result s) := by
  rcases completeCmd_orphan idx result code horphan with e | ⟨hall, e⟩ <;> rw [e]
  · exact .refl c
  · have c' : State.canon { s with hall } = true := c
    refine ⟨State.canon_updFn f _ c', rfl, rfl, rfl, rfl, fun g hg => State.fn_updFn_ne _ c' hg, ⟨_, rfl, List.Subset.refl _⟩,
      ⟨_, State.fn_updFn_same f _ c', List.filter_subset_self .., fun k hk => ?_⟩⟩
    by_cases hidx : k.idx = idx
    · exact .inr (hidx ▸ hmay)
    · exact .inl (List.mem_filter.2 ⟨hk, by simpa using hidx⟩)

theorem orphansEnd_dropJob (id : Nat) (c : s.canon = true) : OrphansEnd f may s (s.dropJob id) :=
  ⟨(keeps_dropJob ..).canon c, rfl, rfl, rfl, rfl, fun _ _ => rfl, ⟨_, rfl, List.filter_subset_self ..⟩,
    ⟨_, rfl, List.Subset.refl _, fun _ => .inl⟩⟩

/-- The end of a job, whose command, if it is still listed, is one of those. -/
theorem orphansEnd_finishJob {id : Nat} (code : BitVec 8) (result : Nat) (c : s.canon = true)
    (horphan : ∀ k ∈ (s.fn f).taken, k.orphan = true)
    (hmay : ∀ j, s.job id = some j → ∃ idx, j.cmd = some (f, idx) ∧ may idx) : OrphansEnd f may s (finishJob id code result s) := by
  simp only [finishJob]
  split
  · exact .refl c
  · next j hj =>
    obtain ⟨idx, hcmd, hends⟩ := hmay j hj
    have hdrop : OrphansEnd f may s (s.dropJob id) := orphansEnd_dropJob id c
    rw [hcmd]
    exact hdrop.trans (orphansEnd_completeCmd code result hdrop.canon horphan hends)

end

/-- Command idx of function f is a WINDOW_SYNC in progress. -/
def State.syncs (s : State) (f idx : Nat) : Prop := ∃ j ∈ s.spine.jobs, j.cmd = some (f, idx) ∧ ∃ m, j.kind = .windowSync m

/-- Of the commands of a function only WINDOW_SYNCs end: a number names one job. -/
theorem orphansEnd_syncDone (c : s.canon = true) (horphan : ∀ k ∈ (s.fn f).taken, k.orphan = true)
    (hnodup : (s.spine.jobs.map (·.id)).Nodup) : OrphansEnd f (s.syncs f) s (syncDone f s) := by
  refine eachOf_inv_mem (P := OrphansEnd f (s.syncs f) s) (fun j hj u hu => ?_) (.refl c)
  split
  · next id g idx mark =>
    split
    · next h =>
      obtain ⟨rfl, -⟩ : g = f ∧ _ := by simpa using h
      refine hu.trans (orphansEnd_finishJob ccOK 0 hu.canon (fun k hk => horphan k (hu.taken hk)) fun i hi => ?_)
      have hid : i.id = id := by simpa using List.find?_some hi
      have hij := List.inj_on_of_nodup_map hnodup (hu.jobs (List.mem_of_find?_eq_some hi)) hj hid
      exact ⟨idx, by rw [hij], _, hj, rfl, mark, rfl⟩
    · exact hu
  · exact hu

/-- With no WINDOW_SYNC of the function nothing ends. -/
theorem syncDone_fixed (h : ∀ j ∈ s.spine.jobs, ∀ i m, j.cmd = some (f, i) → j.kind ≠ .windowSync m) : syncDone f s = s := by
  refine eachOf_fixed fun j hj => ?_
  split
  · next id g idx mark =>
    refine if_neg fun hg => ?_
    simp only [Bool.and_eq_true, decide_eq_true_eq] at hg
    exact h _ hj idx mark (by rw [hg.1]) rfl
  · rfl

/-! ### The reset -/

/-- A function after its reset: what the wardens write stays, the commands taken are orphans, and of the window requests only
the operation in flight is left. -/
def Fn.afterReset (x : Fn) (f : Nat) : Fn :=
  { (Fn.initial f) with
    regview := x.regview, wtid := x.wtid, rights := x.rights, local_ := x.local_, lostRecs := x.lostRecs
    nextCmd := x.nextCmd, taken := x.taken.map fun k => { k with orphan := true }
    win := x.inFlight, winCount := x.winCount, winSt := x.winSt, winDrain := x.winDrain, winRqtx := x.winRqtx
    aer := x.aer, notReady := true }

/-- The function reset, and its translations dropped. -/
def State.fnReset (s : State) (f : Nat) : State :=
  (s.updFn f (·.afterReset f)).updSpine fun sp => { sp with atc := sp.atc.filter fun e => e.fn != f }

theorem canon_fnReset (f : Nat) (c : s.canon = true) : (s.fnReset f).canon = true :=
  ((keeps_updFn s f (·.afterReset f)).trans (keeps_updSpine ..)).canon c

theorem fn_fnReset_same (f : Nat) (c : s.canon = true) : (s.fnReset f).fn f = (s.fn f).afterReset f :=
  State.fn_updFn_same f (·.afterReset f) c

theorem fn_fnReset_ne {g : Nat} (c : s.canon = true) (h : g ≠ f) : (s.fnReset f).fn g = s.fn g :=
  State.fn_updFn_ne (·.afterReset f) c h

/-- The proposals of a function. -/
def State.pidsOf (s : State) (f : Nat) : List Nat := (s.spine.prot.proposals.filter fun p => p.fn = f).map (·.pid)

theorem mem_pidsOf {pid : Nat} : pid ∈ s.pidsOf f ↔ ∃ p ∈ s.spine.prot.proposals, p.fn = f ∧ p.pid = pid := by
  simp [State.pidsOf, and_assoc]

theorem exec_functionLevelReset (hf : f < s.par.nFunc) (h : s.cfgRetry f = false) :
    ∃ hall, exec (.functionLevelReset f) s = .next
      (eachOf (s.pidsOf f) (fun pid => dropProposal pid 3) (syncDone f (State.fnReset { s with hall } f))) := by
  obtain ⟨hall, hrecords⟩ := eachOf_afterFlr f (s.fn f).done s
  refine ⟨hall, (atFn_built _ hf).trans (congrArg _ ?_)⟩
  simp only [functionLevelReset, h, Bool.false_eq_true, if_false, hrecords]
  rfl

theorem Fn.afterReset_orphan (x : Fn) (f : Nat) : ∀ k ∈ (x.afterReset f).taken, k.orphan = true := by
  intro k hk
  obtain ⟨_, -, rfl⟩ := List.mem_map.1 hk
  rfl

end

/-- Settles O19: the records, the function's reset, the end of its WINDOW_SYNC commands, then the drop of its proposals. -/
theorem functionLevelReset_clears_and_keeps : Obligations.FunctionLevelReset := by
  unfold Obligations.FunctionLevelReset
  intro s f c hf hnodup
  refine ⟨fun h => (atFn_built _ hf).trans (congrArg _ (if_pos (cfgRetry_of_not_ready h))), fun hn hr => ?_⟩
  obtain ⟨hall, hexec⟩ := exec_functionLevelReset hf (cfgRetry_of_ready hn hr)
  let r : State := { s with hall }
  have cr : r.canon = true := c
  let u := r.fnReset f
  have hu : u.fn f = (s.fn f).afterReset f := fn_fnReset_same f cr
  have hends : OrphansEnd f (u.syncs f) u (syncDone f u) :=
    orphansEnd_syncDone (canon_fnReset f cr) (hu ▸ Fn.afterReset_orphan (s.fn f) f) hnodup
  obtain ⟨hall', hdrop⟩ := eachOf_dropProposal (s.pidsOf f) 3 (syncDone f u)
  obtain ⟨taken, hfn, hsub, hgone⟩ := hends.fn
  rw [hu] at hfn hsub hgone
  let t := State.updProt { syncDone f u with hall := hall' } (·.without (s.pidsOf f))
  have ht : t.fn f = { (s.fn f).afterReset f with taken } := hfn
  have hprops : t.spine.prot = s.spine.prot.without (s.pidsOf f) :=
    congrArg (·.without (s.pidsOf f)) hends.prot
  have hatc : t.spine.atc = s.spine.atc.filter fun e => e.fn != f := hends.atc
  refine ⟨t, hexec.trans (congrArg _ hdrop), fun i => ?_, by rw [ht]; rfl, by rw [ht]; rfl, by rw [ht]; rfl, by rw [ht]; rfl,
    by rw [ht]; rfl, by rw [ht]; rfl, by rw [ht]; rfl, fun k hk => ?_, fun hno => ?_, fun k hk => ?_, fun e => ?_, fun p hp => ?_,
    fun p hp hother => ?_, fun g hg => ?_, hends.slices, hends.shims, hends.ports, hends.mesh⟩
  · rw [ht]
    cases i <;> rfl
  · rw [ht] at hk
    exact Fn.afterReset_orphan _ f k (hsub hk)
  · have hfixed : syncDone f u = u := syncDone_fixed hno
    have htu : t.fn f = u.fn f := fn_of_fns (congrArg State.fns hfixed) f
    rw [htu, hu]
    rfl
  · rw [ht]
    exact hgone _ (List.mem_map_of_mem hk)
  · rw [hatc, List.mem_filter, bne_iff_ne, and_comm]
  · rw [hprops, Protect.mem_without, mem_pidsOf] at hp
    exact fun hpf => hp.2 ⟨p, hp.1, hpf, rfl⟩
  · rw [hprops, Protect.mem_without, mem_pidsOf]
    exact ⟨hp, fun ⟨q, hq, hqf, hpid⟩ => hother q hq hqf hpid⟩
  · exact (hends.others g hg).trans (fn_fnReset_ne cr hg)

end Sys2Proof.Machine
end

section
/-! SUPPORT. O52: window line operations (11 R283 to R288, 03 R84): the operation sent, the request that ends, and what BAR4 requests and
the answers of slices make of them. -/

namespace Sys2Proof.Machine

section
variable {s t : State} {fn : Nat}

/-! ### Errors reported and recorded -/

/-- What errors reported and recorded leave: all but the function's error status and the recorder. -/
structure ErrorsNoted (fn : Nat) (s t : State) : Prop where
  canon : t.canon = true
  fn : ∃ aer, t.fn fn = { s.fn fn with aer }
  mesh : t.mesh = s.mesh
  out : t.out = s.out
  slices : t.slices = s.slices
  spine : t.spine = s.spine

theorem ErrorsNoted.refl (fn : Nat) (c : s.canon = true) : ErrorsNoted fn s s := ⟨c, ⟨_, rfl⟩, rfl, rfl, rfl, rfl⟩

theorem ErrorsNoted.noSync (h : ErrorsNoted fn s t) : t.noSync = s.noSync := by
  rw [State.noSync, h.spine]
  rfl

theorem errorsNoted_setAer (b : Nat) (c : s.canon = true) : ErrorsNoted fn s (setAer fn b s) :=
  ⟨State.canon_updFn fn _ c, ⟨_, State.fn_updFn_same fn _ c⟩, rfl, rfl, rfl, rfl⟩

theorem ErrorsNoted.windowMiss (h : ErrorsNoted fn s t) (off : Nat) : ErrorsNoted fn s (windowMiss fn off t) := by
  obtain ⟨hall, e⟩ : ∃ hall, Machine.windowMiss fn off t = { t with hall } := feed_hall_only ..
  rw [e]
  exact ⟨h.canon, h.fn, h.mesh, h.out, h.slices, h.spine⟩

/-! ### Operations sent -/

/-- With nothing armed at the spine no check of a table fails (15 R399). -/
theorem tableCheck_idle (table word : Nat) (h : s.spine.assay.inj.count = 0) : tableCheck table word s = s := by
  simp only [tableCheck, injSpine_idle _ h, Bool.or_self, Bool.false_eq_true, if_false]

/-- With no WINDOW_SYNC running none ends. -/
theorem syncDone_noSync (h : s.noSync = true) : syncDone fn s = s := by
  refine syncDone_fixed fun j hj i m _ hkind => ?_
  have := List.all_eq_true.1 h j hj
  rw [hkind] at this
  cases this

/-- The message of an operation to the home slice of its line. -/
def State.opMsg (s : State) (fn : Nat) (o : WinOp) (q : BitVec 10) : Msg :=
  { op := o.op, src := fnNode fn, dst := sliceNode (s.master (bucketOf o.line)).slice, gen := (s.master (bucketOf o.line)).gen,
    rqtx := q, tid := (s.fn fn).wtid, ord := 1, addr := o.line }

theorem sendOp_idle (o : WinOp) (q : BitVec 10) (c : s.canon = true) (h : s.spine.assay.inj.count = 0) :
    sendOp fn o q s = (s.updFn fn fun x => { x with winRqtx := q, winSt := .sent q }).send (s.opMsg fn o q) := by
  simp only [sendOp, tableCheck_idle _ _ h, State.fn_updFn_same fn _ c]
  rfl

/-- What the sending of an operation leaves: all but the function, which awaits the answer, and the message on its way. -/
structure OpSent (fn : Nat) (o : WinOp) (q : BitVec 10) (s t : State) : Prop where
  awaits : (t.fn fn).winSt = .sent q
  win : (t.fn fn).win = (s.fn fn).win
  mesh : t.mesh = s.mesh ++ [s.opMsg fn o q]
  out : t.out = s.out
  slices : t.slices = s.slices
  others : ∀ g, g ≠ fn → t.fn g = s.fn g
  noSync : t.noSync = s.noSync

theorem opSent_sendOp (o : WinOp) (q : BitVec 10) (c : s.canon = true) (h : s.spine.assay.inj.count = 0) :
    OpSent fn o q s (sendOp fn o q s) := by
  have hfn : (sendOp fn o q s).fn fn = { s.fn fn with winRqtx := q, winSt := .sent q } := by
    rw [sendOp_idle o q c h, State.send_fn, State.fn_updFn_same fn _ c]
  refine ⟨by rw [hfn], by rw [hfn], ?_, ?_, ?_, fun g hg => ?_, ?_⟩ <;> rw [sendOp_idle o q c h]
  · rfl
  · rfl
  · rfl
  · rw [State.send_fn, State.fn_updFn_ne _ c hg]
  · rfl

/-- An operation with no drain owed is sent at once, with the next RQTX (log 114). -/
theorem opSent_startOp (o : WinOp) (c : s.canon = true) (h : s.spine.assay.inj.count = 0) (hdrain : (s.fn fn).winDrain = 0) :
    OpSent fn o ((s.fn fn).winRqtx + 1) s (startOp fn o s) := by
  let u := s.updFn fn fun x => { x with winDrain := 0 }
  have hu : u.fn fn = { s.fn fn with winDrain := 0 } := State.fn_updFn_same fn _ c
  have hstart : startOp fn o s = sendOp fn o ((s.fn fn).winRqtx + 1) u := by simp [startOp, hdrain, bit, u]
  have hmsg : u.opMsg fn o ((s.fn fn).winRqtx + 1) = s.opMsg fn o ((s.fn fn).winRqtx + 1) := by
    rw [State.opMsg, hu]
    rfl
  obtain ⟨hawaits, hwin, hmesh, hout, hslices, hothers, hsync⟩ :=
    opSent_sendOp (fn := fn) o ((s.fn fn).winRqtx + 1) (State.canon_updFn fn (fun x => { x with winDrain := 0 }) c) h
  rw [hstart]
  rw [hmsg] at hmesh
  rw [hu] at hwin
  exact ⟨hawaits, hwin, hmesh, hout, hslices, fun g hg => (hothers g hg).trans (State.fn_updFn_ne _ c hg), hsync⟩

/-! ### Requests carried on -/

section
variable {r : WinReq} {o : WinOp}

/-- The request at the front changed. -/
theorem fn_updWin (g : WinReq → WinReq) (c : s.canon = true) (hwin : (s.fn fn).win = [r]) :
    (updWin fn g s).fn fn = { s.fn fn with win := [g r] } := by
  rw [updWin, State.fn_updFn_same fn _ c, hwin]

/-- A function's only request stands as given, and none of its operations is in flight. -/
structure State.Front (s : State) (fn : Nat) (r : WinReq) : Prop where
  canon : s.canon = true
  noSync : s.noSync = true
  win : (s.fn fn).win = [r]
  idle : (s.fn fn).winSt = .idle
  reg : r.reg = none
  live : r.dropped = false

theorem State.Front.updWin (h : s.Front fn r) (g : WinReq → WinReq) (hreg : (g r).reg = none) (hlive : (g r).dropped = false) :
    (updWin fn g s).Front fn (g r) := by
  have hfn := fn_updWin g h.canon h.win
  exact ⟨State.canon_updFn fn _ h.canon, h.noSync, by rw [hfn], by rw [hfn]; exact h.idle, hreg, hlive⟩

/-- A request left without operations is over: a read is answered. -/
structure WindowOver (fn : Nat) (r : WinReq) (s t : State) : Prop where
  win : (t.fn fn).win = []
  idle : (t.fn fn).winSt = .idle
  drain : (t.fn fn).winDrain = (s.fn fn).winDrain
  mesh : t.mesh = s.mesh
  slices : t.slices = s.slices
  out : t.out = s.out ++ if r.write then [] else [.windowRead fn r.got r.poison]

/-- The request at the front of a function gone. -/
def popWin (fn : Nat) (s : State) : State := s.updFn fn fun x => { x with win := x.win.drop 1 }

theorem winAdvance_empty (fuel : Nat) (hwin : (s.fn fn).win = []) : winAdvance fn fuel s = s := by
  cases fuel with
  | zero => rfl
  | succ fuel => simp [winAdvance, hwin]

theorem winAdvance_over (fuel : Nat) (h : s.Front fn r) (hops : r.ops = []) :
    winAdvance fn (fuel + 1) s =
      winAdvance fn fuel (if r.write then popWin fn s else (popWin fn s).emit (.windowRead fn r.got r.poison)) := by
  obtain ⟨-, -, hwin, hidle, hreg, hlive⟩ := h
  cases r
  subst hreg hlive hops
  simp [winAdvance, hidle, hwin, popWin]

/-- A read whose one operation misses: zeros, and nothing left to do (R286). -/
def WinReq.missed (r : WinReq) (o : WinOp) : WinReq :=
  { r with ops := [], got := r.got ++ List.replicate o.len 0, poison := r.poison ++ List.replicate o.len false }

theorem winAdvance_missed (fuel : Nat) (h : s.Front fn r) (hops : r.ops = [o]) (hmiss : o.miss = true) :
    winAdvance fn (fuel + 1) s = winAdvance fn fuel (updWin fn (·.missed o) s) := by
  obtain ⟨-, -, hwin, hidle, hreg, hlive⟩ := h
  cases r
  subst hreg hlive hops
  simp [winAdvance, hidle, hwin, hmiss, updWin, WinReq.missed]

theorem winAdvance_starts (fuel : Nat) (h : s.Front fn r) (hops : r.ops = [o]) (hmiss : o.miss = false) :
    winAdvance fn (fuel + 1) s = startOp fn o s := by
  obtain ⟨-, -, hwin, hidle, hreg, hlive⟩ := h
  cases r
  subst hreg hlive hops
  simp [winAdvance, hidle, hwin, hmiss]

/-- There is work for the request's operations, its end, and a look at what follows. -/
theorem winGo_front (h : s.Front fn r) : winGo fn s = syncDone fn (winAdvance fn (r.ops.length + 1 + 1) s) := by
  rw [winGo, Fn.winLeft, h.win]
  simp [Nat.add_comm]

theorem winGo_over (h : s.Front fn r) (hops : r.ops = []) : WindowOver fn r s (winGo fn s) := by
  have hpop : (popWin fn s).fn fn = { s.fn fn with win := [] } := by
    rw [popWin, State.fn_updFn_same fn _ h.canon, h.win]
    rfl
  have hsync : (popWin fn s).noSync = true := h.noSync
  rw [winGo_front h, winAdvance_over _ h hops]
  split
  · next hw =>
    rw [winAdvance_empty _ (by rw [hpop]), syncDone_noSync hsync]
    exact ⟨by rw [hpop], by rw [hpop]; exact h.idle, by rw [hpop], rfl, rfl, by rw [if_pos hw, List.append_nil]; rfl⟩
  · next hw =>
    let t := (popWin fn s).emit (.windowRead fn r.got r.poison)
    have ht : t.fn fn = { s.fn fn with win := [] } := hpop
    rw [winAdvance_empty _ (by rw [ht]), syncDone_noSync (s := t) hsync]
    exact ⟨by rw [ht], by rw [ht]; exact h.idle, by rw [ht], rfl, rfl, by rw [if_neg hw]; rfl⟩

theorem winGo_missed (h : s.Front fn r) (hops : r.ops = [o]) (hmiss : o.miss = true) :
    WindowOver fn (r.missed o) s (winGo fn s) := by
  have hfront : (updWin fn (·.missed o) s).Front fn (r.missed o) := h.updWin (·.missed o) h.reg h.live
  have hgo : winGo fn s = winGo fn (updWin fn (·.missed o) s) := by
    rw [winGo_front h, winGo_front hfront, hops]
    exact congrArg _ (winAdvance_missed _ h hops hmiss)
  obtain ⟨hwin, hidle, hdrain, hmesh, hslices, hout⟩ := winGo_over hfront rfl
  rw [fn_updWin _ h.canon h.win] at hdrain
  rw [hgo]
  exact ⟨hwin, hidle, hdrain, hmesh, hslices, hout⟩

/-- An operation that hits is sent, and its request stays. -/
theorem winGo_sends (h : s.Front fn r) (hops : r.ops = [o]) (hmiss : o.miss = false) (hinj : s.spine.assay.inj.count = 0)
    (hdrain : (s.fn fn).winDrain = 0) : OpSent fn o ((s.fn fn).winRqtx + 1) s (winGo fn s) := by
  have hsent := opSent_startOp (fn := fn) o h.canon hinj hdrain
  rwa [winGo_front h, winAdvance_starts _ h hops hmiss, syncDone_noSync (hsent.noSync.trans h.noSync)]

/-- One operation is left of a function's only request. -/
structure State.LastOp (s : State) (fn : Nat) (r : WinReq) (o : WinOp) : Prop where
  canon : s.canon = true
  noSync : s.noSync = true
  win : (s.fn fn).win = [r]
  ops : r.ops = [o]
  reg : r.reg = none
  live : r.dropped = false

theorem ErrorsNoted.lastOp (h : ErrorsNoted fn s t) (hlast : s.LastOp fn r o) : t.LastOp fn r o := by
  obtain ⟨_, hfn⟩ := h.fn
  exact ⟨h.canon, h.noSync.trans hlast.noSync, by rw [hfn]; exact hlast.win, hlast.ops, hlast.reg, hlast.live⟩

/-- The last operation of a request ends, and with it the request. -/
theorem endOp_last (h : s.LastOp fn r o) (g : WinReq → WinReq) (hreg : (g r).reg = r.reg) (hlive : (g r).dropped = r.dropped) :
    WindowOver fn (g r) s (endOp fn g s) := by
  let u := updWin fn (fun r => { g r with ops := r.ops.drop 1 }) s
  let v := u.updFn fn fun x => { x with winSt := .idle }
  have cu : u.canon = true := State.canon_updFn fn _ h.canon
  have hv : v.fn fn = { s.fn fn with win := [{ g r with ops := [] }], winSt := .idle } := by
    rw [State.fn_updFn_same fn _ cu, fn_updWin _ h.canon h.win, h.ops]
    rfl
  have hfront : v.Front fn { g r with ops := [] } :=
    ⟨State.canon_updFn fn _ cu, h.noSync, by rw [hv], by rw [hv], hreg.trans h.reg, hlive.trans h.live⟩
  obtain ⟨hwin, hidle, hdrain, hmesh, hslices, hout⟩ := winGo_over hfront rfl
  rw [hv] at hdrain
  exact ⟨hwin, hidle, hdrain, hmesh, hslices, hout⟩

end

/-! ### BAR4_REQUEST (R283, R284, R286) -/

theorem pieces_zero (x fuel : Nat) : pieces x 0 fuel = [] := by
  cases fuel <;> rfl

theorem pieces_oneLine {off len : Nat} (hlen : 0 < len) (hline : off % 64 + len ≤ 64) : pieces off len (len + 1) = [(off, len)] := by
  have hmin : min len (64 - off % 64) = len := by omega
  simp [pieces, hmin, pieces_zero, Nat.ne_of_gt hlen]

/-- The operation of a request within one line: that of its piece, or none for a write that does nothing or misses. -/
def Fn.lineOps (x : Fn) (write : Bool) (off len : Nat) (data : List Byte) (enables : List Bool) (ep : Bool) : List WinOp :=
  if x.hits write off then
    if write && (x.winOp write off data enables ep (off, len)).mask = 0 then [] else [x.winOp write off data enables ep (off, len)]
  else if write then [] else [{ line := 0, write := false, len, miss := true }]

/-- A poisoned write reported under Advanced Error Reporting. -/
def poisonNoted (fn : Nat) (write ep : Bool) (s : State) : State := if write && ep then setAer fn aerPoisoned s else s

/-- What decoding a request within one line reports and records: a poisoned write, and a miss. -/
def State.decoded (s : State) (fn off : Nat) (write ep : Bool) : State :=
  if (s.fn fn).hits write off then poisonNoted fn write ep s else windowMiss fn off (poisonNoted fn write ep s)

/-- A request accepted behind the others. -/
def State.accept (s : State) (fn : Nat) (write : Bool) (ops : List WinOp) (units : Nat) : State :=
  s.updFn fn fun x => { x with win := x.win ++ [{ num := x.winCount, write, ops, units }], winCount := x.winCount + 1 }

/-- A function that nothing waits for has the credits for one line (R291). -/
theorem Fn.room_oneLine {x : Fn} {write : Bool} {len : Nat} (hwin : x.win = []) (hlen : len ≤ 64) : x.room write len = true := by
  cases write
  · simp [Fn.room, hwin]
  · have hunits : (len + 15) / 16 ≤ 256 := by omega
    simp [Fn.room, hwin, hunits]

theorem bar4Request_oneLine {off len : Nat} {write : Bool} (data : List Byte) (enables : List Bool) (ep : Bool)
    (hbars : (s.fn fn).bars = true) (hsize : off + len ≤ Params.bar4Bytes s.par) (hlen : 0 < len) (hline : off % 64 + len ≤ 64)
    (hwin : (s.fn fn).win = []) (hinj : s.spine.assay.inj.count = 0) :
    bar4Request fn write off len data enables ep s =
      winGo fn ((s.decoded fn off write ep).accept fn write ((s.fn fn).lineOps write off len data enables ep)
        (if write then (len + 15) / 16 else 0)) := by
  have hmax : ¬ (if write then 512 else 4096) < len := by split <;> omega
  have hroom : (s.fn fn).room write len = true := Fn.room_oneLine hwin (by omega)
  have hpoison : (if (write && ep) = true then setAer fn aerPoisoned s else s).spine.assay.inj.count = 0 := by split <;> exact hinj
  simp only [bar4Request, hbars, Bool.not_true, Bool.false_eq_true, if_false, Nat.not_lt.2 hsize, hmax, hroom,
    pieces_oneLine hlen hline, List.map_cons, List.map_nil, List.foldl_cons, List.foldl_nil, addNew, List.not_mem_nil,
    List.nil_append, List.length_singleton, eachOf_cons, eachOf_nil, tableCheck_idle _ _ hpoison]
  cases hhit : (s.fn fn).hits write off with
  | true =>
    cases write with
    | false => simp [hhit, State.decoded, poisonNoted, Fn.lineOps, State.accept]
    | true =>
      by_cases hmask : ((s.fn fn).winOp true off data enables ep (off, len)).mask = 0#64 <;>
        simp [hhit, hmask, State.decoded, poisonNoted, Fn.lineOps, State.accept]
  | false =>
    cases write <;> simp [hhit, State.decoded, poisonNoted, Fn.lineOps, State.accept]

theorem errorsNoted_decoded (off : Nat) (write ep : Bool) (c : s.canon = true) : ErrorsNoted fn s (s.decoded fn off write ep) := by
  have hpoison : ErrorsNoted fn s (poisonNoted fn write ep s) := by
    rw [poisonNoted]
    split
    · exact errorsNoted_setAer _ c
    · exact .refl fn c
  rw [State.decoded]
  split
  · exact hpoison
  · exact hpoison.windowMiss off

/-- A request accepted with nothing before it is the only one. -/
theorem fn_accept (write : Bool) (ops : List WinOp) (units : Nat) (c : s.canon = true) (hwin : (s.fn fn).win = []) :
    (s.accept fn write ops units).fn fn = { s.fn fn with
      win := [{ num := (s.fn fn).winCount, write, ops, units }], winCount := (s.fn fn).winCount + 1 } := by
  rw [State.accept, State.fn_updFn_same fn _ c, hwin]
  rfl

theorem front_accept (write : Bool) (ops : List WinOp) (units : Nat) (c : s.canon = true) (hsync : s.noSync = true)
    (hwin : (s.fn fn).win = []) (hidle : (s.fn fn).winSt = .idle) :
    (s.accept fn write ops units).Front fn { num := (s.fn fn).winCount, write, ops, units } := by
  have hfn := fn_accept write ops units c hwin
  exact ⟨State.canon_updFn fn _ c, hsync, by rw [hfn], by rw [hfn]; exact hidle, rfl, rfl⟩

/-- The operation of a read within one line. -/
def Fn.readOp (x : Fn) (off len : Nat) : WinOp :=
  { line := lineOf (x.winAddr off), write := false, off := off % 64, len, bar := off }

/-- A read that hits, with nothing waiting and no drain owed, is sent. -/
theorem winGo_accept_hit {off len : Nat} (data : List Byte) (enables : List Bool) (ep : Bool) (units : Nat) (c : s.canon = true)
    (hsync : s.noSync = true) (hinj : s.spine.assay.inj.count = 0) (hwin : (s.fn fn).win = []) (hidle : (s.fn fn).winSt = .idle)
    (hdrain : (s.fn fn).winDrain = 0) (hhit : (s.fn fn).hits false off = true) :
    let t := winGo fn ((s.decoded fn off false ep).accept fn false ((s.fn fn).lineOps false off len data enables ep) units)
    (t.fn fn).winSt = .sent ((s.fn fn).winRqtx + 1) ∧ (t.fn fn).win.length = 1 ∧ t.out = s.out ∧
      t.mesh = s.mesh ++ [s.opMsg fn ((s.fn fn).readOp off len) ((s.fn fn).winRqtx + 1)] ∧ t.slices = s.slices ∧
      ∀ g, g ≠ fn → t.fn g = s.fn g := by
  have hdecoded : s.decoded fn off false ep = s := by simp [State.decoded, poisonNoted, hhit]
  have hops : (s.fn fn).lineOps false off len data enables ep = [(s.fn fn).readOp off len] := by
    simp [Fn.lineOps, hhit, Fn.winOp, Fn.readOp]
  rw [hdecoded, hops]
  let u := s.accept fn false [(s.fn fn).readOp off len] units
  have hu := fn_accept (fn := fn) false [(s.fn fn).readOp off len] units c hwin
  have hmsg : u.opMsg fn ((s.fn fn).readOp off len) ((s.fn fn).winRqtx + 1) =
      s.opMsg fn ((s.fn fn).readOp off len) ((s.fn fn).winRqtx + 1) := by
    rw [State.opMsg, hu]
    rfl
  have hsent := winGo_sends (front_accept (fn := fn) false [(s.fn fn).readOp off len] units c hsync hwin hidle) rfl rfl hinj
    (by rw [hu]; exact hdrain)
  rw [hu] at hsent
  obtain ⟨hawaits, hwin', hmesh, hout, hslices, hothers, -⟩ := hsent
  rw [hmsg] at hmesh
  rw [hu] at hwin'
  exact ⟨hawaits, by rw [hwin']; rfl, hout, hmesh, hslices, fun g hg => (hothers g hg).trans (State.fn_updFn_ne _ c hg)⟩

/-- A miss leaves nothing to do: a read is answered with zeros, a write is dropped. -/
theorem winGo_accept_miss {off len : Nat} {write : Bool} (data : List Byte) (enables : List Bool) (ep : Bool) (units : Nat)
    (c : s.canon = true) (hsync : s.noSync = true) (hwin : (s.fn fn).win = []) (hidle : (s.fn fn).winSt = .idle)
    (hmiss : (s.fn fn).hits write off = false) :
    let t := winGo fn ((s.decoded fn off write ep).accept fn write ((s.fn fn).lineOps write off len data enables ep) units)
    (t.fn fn).win = [] ∧ (t.fn fn).winSt = .idle ∧ t.mesh = s.mesh ∧ t.slices = s.slices ∧
      t.out = s.out ++ if write then [] else [.windowRead fn (List.replicate len 0) (List.replicate len false)] := by
  intro t
  have hnoted : ErrorsNoted fn s (s.decoded fn off write ep) := errorsNoted_decoded off write ep c
  obtain ⟨aer, hfn⟩ := hnoted.fn
  have hfront := front_accept (fn := fn) write ((s.fn fn).lineOps write off len data enables ep) units hnoted.canon
    (hnoted.noSync.trans hsync) (by rw [hfn]; exact hwin) (by rw [hfn]; exact hidle)
  cases write with
  | true =>
    obtain ⟨hwin', hidle', -, hmesh, hslices, hout⟩ := winGo_over hfront (by simp [Fn.lineOps, hmiss])
    exact ⟨hwin', hidle', hmesh.trans hnoted.mesh, hslices.trans hnoted.slices, hout.trans (congrArg (· ++ _) hnoted.out)⟩
  | false =>
    obtain ⟨hwin', hidle', -, hmesh, hslices, hout⟩ := winGo_missed (o := { line := 0, write := false, len, miss := true }) hfront
      (by simp [Fn.lineOps, hmiss]) rfl
    exact ⟨hwin', hidle', hmesh.trans hnoted.mesh, hslices.trans hnoted.slices, hout.trans (congrArg (· ++ _) hnoted.out)⟩

/-! ### SPINE_REQUESTER_ANSWER (R285, 03 R84) -/

section
variable {f : Flits} {m : Msg} {r : WinReq} {o : WinOp}

theorem exec_spineRequesterAnswer (hfn : fn < s.par.nFunc) (hf : arrives f (fnNode fn) m) (hst : (s.fn fn).winSt = .sent m.rqtx)
    (hwin : (s.fn fn).win = [r]) (hops : r.ops = [o]) :
    exec (.spineRequesterAnswer fn f) s = .next (opAnswer fn o m (s.takeMesh m)) := by
  obtain ⟨hdst, hspells⟩ := hf
  refine (atFn_built _ hfn).trans (congrArg _ ?_)
  cases r
  subst hops
  simp [spineRequesterAnswer, hdst, hspells, requesterAnswer, hst, hwin]

/-- The record of a silent refusal (R286). -/
def refusalNoted (fn : Nat) (o : WinOp) (m : Msg) (s : State) : State :=
  if s.refusedOp m && (m.op = .datS || m.op = .grant) then windowMiss fn o.bar s else s

theorem errorsNoted_refusalNoted (o : WinOp) (m : Msg) (c : s.canon = true) : ErrorsNoted fn s (refusalNoted fn o m s) := by
  rw [refusalNoted]
  split
  · exact (ErrorsNoted.refl fn c).windowMiss _
  · exact .refl fn c

/-- The Seal of a read. -/
def sealTo (fn : Nat) (m : Msg) : Msg := { op := .seal, src := fnNode fn, dst := m.src, htrk := m.htrk, rqtx := m.rqtx }

/-- A read with the bytes of one more operation. -/
def WinReq.read (r : WinReq) (o : WinOp) (m : Msg) : WinReq :=
  { r with got := r.got ++ o.bytes m.data, poison := r.poison ++ List.replicate o.len m.poison }

/-- Data ends a read with a Seal and answers the host. -/
theorem opAnswer_datS (h : s.LastOp fn r o) (hop : m.op = .datS) (hw : o.write = false) (hread : r.write = false) :
    let t := opAnswer fn o m s
    (t.fn fn).win = [] ∧ (t.fn fn).winSt = .idle ∧ t.mesh = s.mesh ++ [sealTo fn m] ∧
      t.out = s.out ++ [.windowRead fn (r.got ++ o.bytes m.data) (r.poison ++ List.replicate o.len m.poison)] ∧
      t.slices = s.slices := by
  let u := (refusalNoted fn o m s).send (sealTo fn m)
  have hanswer : opAnswer fn o m s = endOp fn (·.read o m) u := by
    simp only [opAnswer, hop, hw, Bool.false_eq_true, if_false, u, refusalNoted]
    rfl
  have hnoted : ErrorsNoted fn s (refusalNoted fn o m s) := errorsNoted_refusalNoted o m h.canon
  obtain ⟨hcanon, hsync, hwin, hops, hreg, hlive⟩ := hnoted.lastOp h
  have hlast : u.LastOp fn r o := ⟨hcanon, hsync, hwin, hops, hreg, hlive⟩
  obtain ⟨hwin', hidle, -, hmesh, hslices, hout⟩ := endOp_last hlast (·.read o m) rfl rfl
  have hr : (r.read o m).write = false := hread
  rw [hr] at hout
  rw [hanswer]
  exact ⟨hwin', hidle, hmesh.trans (congrArg (· ++ _) hnoted.mesh), hout.trans (congrArg (· ++ _) hnoted.out),
    hslices.trans hnoted.slices⟩

/-- The data of a write, with the byte enables of a partial one. -/
def datWbTo (fn : Nat) (o : WinOp) (m : Msg) : Msg :=
  { op := .datWb, src := fnNode fn, dst := m.src, htrk := m.htrk, rqtx := m.rqtx, data := o.data, poison := o.poison
    bmask := if o.mask = fullMask then 0 else o.mask
    be := if o.mask = fullMask then BitVec.allOnes 32 else beOf o.mask }

theorem WinOp.op_wrPart_iff (hw : o.write = true) : o.op = .wrPart ↔ ¬ o.mask = fullMask := by
  simp only [WinOp.op, hw]
  by_cases hfull : o.mask = fullMask <;> simp [hfull]

/-- A Grant ends a write with its data, and the function owes a drain to the slice. -/
theorem opAnswer_grant {n : Nat} (h : s.LastOp fn r o) (hop : m.op = .grant) (hw : o.write = true) (hwrite : r.write = true)
    (hn : nodeSlice m.src = some n) :
    let t := opAnswer fn o m s
    (t.fn fn).win = [] ∧ (t.fn fn).winSt = .idle ∧ t.out = s.out ∧ (t.fn fn).winDrain = setBit (s.fn fn).winDrain n true ∧
      t.mesh = s.mesh ++ [datWbTo fn o m] := by
  let g (x : Fn) : Fn := { x with winDrain := setBit x.winDrain n true }
  let v := (refusalNoted fn o m s).send (datWbTo fn o m)
  let u := v.updFn fn g
  have hanswer : opAnswer fn o m s = endOp fn id u := by
    simp only [opAnswer, hop, hw, hn, WinOp.op_wrPart_iff hw, ite_not, if_true, u, v, refusalNoted]
    rfl
  have hnoted : ErrorsNoted fn s (refusalNoted fn o m s) := errorsNoted_refusalNoted o m h.canon
  obtain ⟨hcanon, hsync, hwin, hops, hreg, hlive⟩ := hnoted.lastOp h
  have cv : v.canon = true := hcanon
  have hu : u.fn fn = g (v.fn fn) := State.fn_updFn_same fn g cv
  have hlast : u.LastOp fn r o := ⟨State.canon_updFn fn g cv, hsync, by rw [hu]; exact hwin, hops, hreg, hlive⟩
  obtain ⟨hwin', hidle, hdrain, hmesh, -, hout⟩ := endOp_last hlast id rfl rfl
  obtain ⟨aer, hfn⟩ := hnoted.fn
  have hv : v.fn fn = { s.fn fn with aer } := hfn
  have hr : (id r).write = true := hwrite
  rw [hr] at hout
  rw [hu, hv] at hdrain
  rw [hanswer]
  exact ⟨hwin', hidle, hout.trans ((List.append_nil _).trans hnoted.out), hdrain, hmesh.trans (congrArg (· ++ _) hnoted.mesh)⟩

/-- A Rest has the operation sent again. -/
theorem opAnswer_rest (hop : m.op = .rest) (hwin : (s.fn fn).win = [r]) (hops : r.ops = [o]) :
    opAnswer fn o m s = sendOp fn o (m.rqtx + 1) s := by
  cases r
  subst hops
  simp [opAnswer, hop, resendOp, hwin]

end

end

/-- Settles O52: a request within one line is decoded, and its request ends or its operation is sent; an answer ends the operation,
and with it the request, or has it sent again. -/
theorem windowRequests : Obligations.WindowRequests := by
  unfold Obligations.WindowRequests
  refine ⟨fun s fn off len write data enables ep c hfn hsync hinj => ⟨fun hbars => ?_,
    fun hbars hsize hlen hline hwin hidle hdrain => ?_⟩,
    fun s fn f m r o c hfn hsync hinj hf hst hwin hops hreg hlive hwrite => ?_⟩
  · exact (atFn_built _ hfn).trans (congrArg _ (if_pos (by simp [hbars])))
  · have hexec : exec (.bar4Request fn write off len data enables ep) s = .next _ :=
      (atFn_built _ hfn).trans (congrArg _ (bar4Request_oneLine data enables ep hbars hsize hlen hline hwin hinj))
    refine ⟨fun hw hhit => ?_, fun hmiss => ?_⟩
    · subst hw
      exact ⟨_, hexec, winGo_accept_hit data enables ep _ c hsync hinj hwin hidle hdrain hhit⟩
    · obtain ⟨hwin', hidle', hrest⟩ := winGo_accept_miss data enables ep _ c hsync hwin hidle hmiss
      exact ⟨_, hexec, hwin', hidle', hrest⟩
  · have hexec := exec_spineRequesterAnswer hfn hf hst hwin hops
    have hlast : (s.takeMesh m).LastOp fn r o := ⟨c, hsync, hwin, hops, hreg, hlive⟩
    refine ⟨fun hw hop => ?_, fun n hw hop hn => ?_, fun hop => ?_⟩
    · exact ⟨_, hexec, opAnswer_datS hlast hop hw (hwrite.trans hw)⟩
    · exact ⟨_, hexec, opAnswer_grant hlast hop hw (hwrite.trans hw) hn⟩
    · rw [opAnswer_rest hop hlast.win hops] at hexec
      obtain ⟨hawaits, hwin', hmesh, hout, -⟩ := opSent_sendOp (fn := fn) o (m.rqtx + 1) hlast.canon hinj
      exact ⟨_, hexec, hawaits, hwin'.trans hwin, hout, hmesh⟩

end Sys2Proof.Machine
end
